-- ==== Sys2Proof/Word.lean ====
section
/-! DEFINITION. Words of the machine and their plainest arithmetic (spec 00_scope R2 to R4, R11). -/
namespace Sys2Proof

abbrev Byte := BitVec 8
abbrev W32 := BitVec 32
abbrev W64 := BitVec 64
/-- A 6-bit body piece of an instruction word: a register field or a code (R48). -/
abbrev Fld := BitVec 6
/-- A lane mask: bit i names lane i (R159). -/
abbrev Mask := BitVec 32

/-- The C and S bits of an instruction word (R31). -/
structure CS where
  c : Bool
  s : Bool
  deriving DecidableEq, Repr

end Sys2Proof
end

