-- ==== Sys2Proof/Payload.lean ====
section
/-! DEFINITION. The data that an event row of the opcode table carries: what the outside world or another agent of the
device hands to the step (spec 06, 15, 16). The encoded instructions carry only bit fields. -/
namespace Sys2Proof

/-- A read-modify-write of an atomic service group (R193), also those of `ratm` (R390). -/
inductive RmwOp where
  | add (w : Nat) | andB (w : Nat) | orB (w : Nat) | xorB (w : Nat)
  | minI (w : Nat) | maxI (w : Nat) | minN (w : Nat) | maxN (w : Nat)
  | xchg (w : Nat) | cas (w : Nat)
  | addF32 | minF32 | maxF32 | addF64 | minF64 | maxF64 | addF16x2 | addBf16x2
  deriving DecidableEq, Repr

/-- What a service-die core (R185) or a pod peer (R370, R417) asks of a home. -/
inductive AgentOp where
  | read (n : Nat)
  | write (data : List Byte)
  | rmw (op : RmwOp) (b c : W64)
  deriving DecidableEq, Repr

/-- What a service-die core does: an access, with the acquire and release bits of an AMO, LR or SC, or a fence, named by the kinds that
R185 gives it (R185, R223). -/
inductive DieOp where
  | access (core : Nat) (op : AgentOp) (acq rel : Bool)
  | fence (core : Nat) (acq rel : Bool)
  deriving DecidableEq, Repr

/-- A POD access crossing the fabric: an incoming one, named by the job and the virtual address in this device's
selected context, or the answer that a remote device gives to this device's request `req` (R417). -/
inductive PodAccess where
  | incoming (job : W32) (va : Nat) (op : AgentOp)
  | answered (req : Nat) (data : List Byte)
  deriving DecidableEq, Repr

/-- An ordered packet (R376, R380). -/
structure OrdPkt where
  t : W64
  src : BitVec 12
  seq : BitVec 20
  dst : BitVec 12
  q : BitVec 4
  job : W32
  stage : BitVec 3
  payload : List W32
  deriving DecidableEq, Repr

/-- The traffic classes of a link (R371). -/
inductive LinkClass where
  | ord | mem | blk | mgt
  deriving DecidableEq, Repr

/-- The content of a flit (R371, R372, R380): an ordered packet, a beacon, another class's content for a device, or link control: a
class's backpressure turned on or off, or a replay request. -/
inductive FlitBody where
  | ord (p : OrdPkt)
  | beacon (w : List W64) (held : Bool)
  | other (cls : LinkClass) (dst : BitVec 12) (bytes : List Byte)
  | pause (cls : LinkClass) (on : Bool)
  | replay
  deriving DecidableEq, Repr

/-- What a notice in the MGT class tells of a link of another device: its port has stalled, has gone DOWN or FAILED, or has trained
again (R371, R373, R383, R385). -/
inductive LinkNews where
  | stalled | lost | back
  deriving DecidableEq, Repr
/-- A notice of the MGT class about a port of another device. -/
structure LinkNotice where
  port : Nat
  news : LinkNews
  deriving DecidableEq, Repr

/-- The pod's master as the delay measurement names it: its device and its time (R374). -/
structure Master where
  dev : Nat
  time : W64
  deriving DecidableEq, Repr

/-- A flit with its link control fields (R372). -/
structure Flit where
  seq : BitVec 10
  ack : BitVec 10
  body : FlitBody
  deriving DecidableEq, Repr

/-- Where a host access meets a submission window: its offset there and its size in bytes (R325). -/
structure WindowAt where
  off : Nat
  size : Nat
  deriving DecidableEq, Repr

/-- A firmware image as the boot ROM sees it (R404): its size, its version, whether its signature verifies, whether it chooses mesh mode
(R363), and its bytes; bytes past the listed ones are zero. -/
structure Image where
  size : Nat
  version : Nat
  signed : Bool
  mesh : Bool
  code : List Byte
  deriving DecidableEq, Repr

end Sys2Proof
end

