-- ==== Sys2Proof/Syntax.lean ====
section
/-! DEFINITION. The opcode table as syntax: one constructor per row of spec/opcode_table.json. A row with an encoding
carries its C and S bits and its fields as the table slices them (R31, R48); an event row carries what the agent that
takes the step names (which request, which port, which bytes). -/
namespace Sys2Proof

/-- One step of the device: an instruction word, or an indivisible event of one of its agents. -/
inductive Instr where
  /-- R32. Does nothing and occupies no pipe. -/
  | nop (cs : CS)
  /-- R158. Takes a breakpoint trap, cause 0x03, with aux set to the code. -/
  | brk (cs : CS) (k : BitVec 6)
  /-- R158. Collects the thread's outstanding results, then moves the thread to EXITED. -/
  | exit (cs : CS)
  /-- R158. Ranks the fetch set last until every other ready fetch set of the core has been offered one issue. -/
  | yld (cs : CS)
  /-- R356. Acts as a fence and parks the thread with cause 0x05 so that its system call can be relayed. -/
  | sys (cs : CS)
  /-- R355. Restores the thread from its signal frame and resumes it at the restart point held there. -/
  | sigret (cs : CS)
  /-- R158. Reads a special register into a general register, with variable latency. -/
  | rds (cs : CS) (d k : BitVec 6)
  /-- R158. Writes a general register to a special register. -/
  | wrs (cs : CS) (a k : BitVec 6)
  /-- R347. Ends the shepherd thread's handling of its current entry and returns the thread to idle. -/
  | iret (cs : CS)
  /-- R157. Branches by a packet offset when the predicate, negated if neg is set, is true. -/
  | br (cs : CS) (n : BitVec 1) (p : BitVec 3) (o : BitVec 20)
  /-- R157. Jumps by a 24-bit packet offset. -/
  | jmp (cs : CS) (o : BitVec 24)
  /-- R157. Writes the return packet index to g63 and jumps by a packet offset. -/
  | call (cs : CS) (o : BitVec 24)
  /-- R157. Jumps to the packet index held in a register. -/
  | jmpi (cs : CS) (a : BitVec 6)
  /-- R157. Writes the return packet index to g63 and jumps to the packet index held in a register. -/
  | calli (cs : CS) (a : BitVec 6)
  /-- R157. Jumps to the packet index held in g63. -/
  | ret (cs : CS)
  /-- R160. Waits until every lane of the mask has arrived or exited, then releases the arrived lanes as one fetch set. -/
  | reconv (cs : CS) (a : BitVec 6)
  /-- R165. Writes to each arrived lane the OR of the lanes' predicates. -/
  | pollOr (cs : CS) (p q : BitVec 3) (b : BitVec 6)
  /-- R165. Writes to each arrived lane the AND of the lanes' predicates. -/
  | pollAnd (cs : CS) (p q : BitVec 3) (b : BitVec 6)
  /-- R165. Writes to each arrived lane whether all the lanes' predicates are equal. -/
  | pollSame (cs : CS) (p q : BitVec 3) (b : BitVec 6)
  /-- R165. Writes the mask of the arrived lanes whose predicate is set. -/
  | gmask (cs : CS) (d : BitVec 6) (q : BitVec 3) (b : BitVec 6)
  /-- R165. Gives each lane the value of the lane at a given index within its segment. -/
  | xchAt (cs : CS) (d a b : BitVec 6)
  /-- R165. Gives each lane the value of the lane v places below it. -/
  | xchBack (cs : CS) (d a b : BitVec 6)
  /-- R165. Gives each lane the value of the lane v places above it. -/
  | xchFwd (cs : CS) (d a b : BitVec 6)
  /-- R165. Gives each lane the value of the lane whose index is its own XORed with v. -/
  | xchFlip (cs : CS) (d a b : BitVec 6)
  /-- R165. Adds the 32-bit values of the arrived lanes, wrapping, and gives the sum to every lane. -/
  | redAddI32 (cs : CS) (d a b : BitVec 6)
  /-- R165. Adds the 64-bit values of the arrived lanes, wrapping, and gives the sum to every lane. -/
  | redAddI64 (cs : CS) (d a b : BitVec 6)
  /-- R165. Gives every lane the signed 32-bit minimum over the arrived lanes. -/
  | redMinI32 (cs : CS) (d a b : BitVec 6)
  /-- R165. Gives every lane the unsigned 32-bit minimum over the arrived lanes. -/
  | redMinN32 (cs : CS) (d a b : BitVec 6)
  /-- R165. Gives every lane the signed 32-bit maximum over the arrived lanes. -/
  | redMaxI32 (cs : CS) (d a b : BitVec 6)
  /-- R165. Gives every lane the unsigned 32-bit maximum over the arrived lanes. -/
  | redMaxN32 (cs : CS) (d a b : BitVec 6)
  /-- R165. Gives every lane the signed 64-bit minimum over the arrived lanes. -/
  | redMinI64 (cs : CS) (d a b : BitVec 6)
  /-- R165. Gives every lane the unsigned 64-bit minimum over the arrived lanes. -/
  | redMinN64 (cs : CS) (d a b : BitVec 6)
  /-- R165. Gives every lane the signed 64-bit maximum over the arrived lanes. -/
  | redMaxI64 (cs : CS) (d a b : BitVec 6)
  /-- R165. Gives every lane the unsigned 64-bit maximum over the arrived lanes. -/
  | redMaxN64 (cs : CS) (d a b : BitVec 6)
  /-- R103. Adds the f32 values of the arrived lanes in the fixed tree and gives the sum to every lane. -/
  | redAddF32 (cs : CS) (d a b : BitVec 6)
  /-- R165. Gives every lane the f32 minimum over the arrived lanes, taken in the fixed tree. -/
  | redMinF32 (cs : CS) (d a b : BitVec 6)
  /-- R165. Gives every lane the f32 maximum over the arrived lanes, taken in the fixed tree. -/
  | redMaxF32 (cs : CS) (d a b : BitVec 6)
  /-- R103. Adds the f64 values of the arrived lanes in the fixed tree and gives the sum to every lane. -/
  | redAddF64 (cs : CS) (d a b : BitVec 6)
  /-- R165. Gives every lane the f64 minimum over the arrived lanes, taken in the fixed tree. -/
  | redMinF64 (cs : CS) (d a b : BitVec 6)
  /-- R165. Gives every lane the f64 maximum over the arrived lanes, taken in the fixed tree. -/
  | redMaxF64 (cs : CS) (d a b : BitVec 6)
  /-- R165. Gives each lane the wrapping 32-bit sum over the arrived lanes at or below it. -/
  | scanAddI32 (cs : CS) (d a b : BitVec 6)
  /-- R165. Gives each lane the wrapping 64-bit sum over the arrived lanes at or below it. -/
  | scanAddI64 (cs : CS) (d a b : BitVec 6)
  /-- R104. Gives each lane the f32 prefix sum over the arrived lanes, added left to right. -/
  | scanAddF32 (cs : CS) (d a b : BitVec 6)
  /-- R104. Gives each lane the f64 prefix sum over the arrived lanes, added left to right. -/
  | scanAddF64 (cs : CS) (d a b : BitVec 6)
  /-- R165. Merges two unsigned 64-bit runs held across the lanes and gives each lane its element of the lower half. -/
  | vmrgLoN64 (cs : CS) (d a b : BitVec 6)
  /-- R165. Merges two unsigned 64-bit runs held across the lanes and gives each lane its element of the upper half. -/
  | vmrgHiN64 (cs : CS) (d a b : BitVec 6)
  /-- R165. Merges two signed 64-bit runs held across the lanes and gives each lane its element of the lower half. -/
  | vmrgLoI64 (cs : CS) (d a b : BitVec 6)
  /-- R165. Merges two signed 64-bit runs held across the lanes and gives each lane its element of the upper half. -/
  | vmrgHiI64 (cs : CS) (d a b : BitVec 6)
  /-- R166. Performs one bitonic compare-exchange step on unsigned 64-bit keys across the lanes. -/
  | bsortN64 (cs : CS) (d a b : BitVec 6)
  /-- R166. Performs one bitonic compare-exchange step on signed 64-bit keys across the lanes. -/
  | bsortI64 (cs : CS) (d a b : BitVec 6)
  /-- R165. Gives each lane the stable rank of its unsigned 64-bit key among the arrived lanes. -/
  | rankN64 (cs : CS) (d a b : BitVec 6)
  /-- R165. Gives each lane the stable rank of its signed 64-bit key among the arrived lanes. -/
  | rankI64 (cs : CS) (d a b : BitVec 6)
  /-- R51. Supplies a 24-bit immediate to the word chained after it. -/
  | imx (cs : CS) (i : BitVec 24)
  /-- R111. Writes a sign-extended 18-bit constant, or a constant extended by an IMX prefix. -/
  | movi (cs : CS) (d : BitVec 6) (i : BitVec 18)
  /-- R112. Writes the 32-bit wrapping sum. -/
  | add (cs : CS) (d a b : BitVec 6)
  /-- R112. Writes the 32-bit wrapping difference. -/
  | sub (cs : CS) (d a b : BitVec 6)
  /-- R112. Writes the 32-bit wrapping product. -/
  | mul (cs : CS) (d a b : BitVec 6)
  /-- R112. Writes the high 32 bits of the signed product. -/
  | mulhI32 (cs : CS) (d a b : BitVec 6)
  /-- R112. Writes the high 32 bits of the unsigned product. -/
  | mulhN32 (cs : CS) (d a b : BitVec 6)
  /-- R112. Writes the signed saturating 32-bit sum. -/
  | addSatI32 (cs : CS) (d a b : BitVec 6)
  /-- R112. Writes the unsigned saturating 32-bit sum. -/
  | addSatN32 (cs : CS) (d a b : BitVec 6)
  /-- R112. Writes the signed saturating 32-bit difference. -/
  | subSatI32 (cs : CS) (d a b : BitVec 6)
  /-- R112. Writes the unsigned saturating 32-bit difference. -/
  | subSatN32 (cs : CS) (d a b : BitVec 6)
  /-- R112. Writes the signed 32-bit minimum. -/
  | minI32 (cs : CS) (d a b : BitVec 6)
  /-- R112. Writes the unsigned 32-bit minimum. -/
  | minN32 (cs : CS) (d a b : BitVec 6)
  /-- R112. Writes the signed 32-bit maximum. -/
  | maxI32 (cs : CS) (d a b : BitVec 6)
  /-- R112. Writes the unsigned 32-bit maximum. -/
  | maxN32 (cs : CS) (d a b : BitVec 6)
  /-- R112. Writes the wrapping 32-bit absolute value. -/
  | abs (cs : CS) (d a : BitVec 6)
  /-- R112. Writes the wrapping 32-bit negation. -/
  | neg (cs : CS) (d a : BitVec 6)
  /-- R112. Writes the bitwise AND. -/
  | and (cs : CS) (d a b : BitVec 6)
  /-- R112. Writes the bitwise OR. -/
  | or (cs : CS) (d a b : BitVec 6)
  /-- R112. Writes the bitwise XOR. -/
  | xor (cs : CS) (d a b : BitVec 6)
  /-- R112. Writes a AND NOT b. -/
  | andn (cs : CS) (d a b : BitVec 6)
  /-- R112. Writes the bitwise complement. -/
  | not (cs : CS) (d a : BitVec 6)
  /-- R112. Shifts left, giving zero for counts of 32 or more. -/
  | shl (cs : CS) (d a b : BitVec 6)
  /-- R112. Shifts right logically, giving zero for counts of 32 or more. -/
  | shr (cs : CS) (d a b : BitVec 6)
  /-- R112. Shifts right arithmetically. -/
  | sar (cs : CS) (d a b : BitVec 6)
  /-- R112. Rotates left. -/
  | rotl (cs : CS) (d a b : BitVec 6)
  /-- R112. Rotates right. -/
  | rotr (cs : CS) (d a b : BitVec 6)
  /-- R112. Counts the one bits. -/
  | bcnt (cs : CS) (d a : BitVec 6)
  /-- R112. Counts the leading zero bits. -/
  | lzc (cs : CS) (d a : BitVec 6)
  /-- R112. Counts the trailing zero bits. -/
  | tzc (cs : CS) (d a : BitVec 6)
  /-- R112. Reverses the order of the bits. -/
  | bitrev (cs : CS) (d a : BitVec 6)
  /-- R112. Reverses the order of the bytes. -/
  | byterev (cs : CS) (d a : BitVec 6)
  /-- R112. Writes a + 2b, wrapping. -/
  | saddX2 (cs : CS) (d a b : BitVec 6)
  /-- R112. Writes a + 4b, wrapping. -/
  | saddX4 (cs : CS) (d a b : BitVec 6)
  /-- R112. Writes a + 8b, wrapping. -/
  | saddX8 (cs : CS) (d a b : BitVec 6)
  /-- R112. Writes a + 16b, wrapping. -/
  | saddX16 (cs : CS) (d a b : BitVec 6)
  /-- R112. Copies a register. -/
  | mov (cs : CS) (d a : BitVec 6)
  /-- R113. Adds an immediate, wrapping. -/
  | addi (cs : CS) (d a : BitVec 6) (i : BitVec 9)
  /-- R113. ANDs with an immediate. -/
  | andi (cs : CS) (d a : BitVec 6) (i : BitVec 9)
  /-- R113. ORs with an immediate. -/
  | ori (cs : CS) (d a : BitVec 6) (i : BitVec 9)
  /-- R113. XORs with an immediate. -/
  | xori (cs : CS) (d a : BitVec 6) (i : BitVec 9)
  /-- R113. Shifts left by an immediate count from 0 to 31. -/
  | shli (cs : CS) (d a : BitVec 6) (i : BitVec 9)
  /-- R113. Shifts right logically by an immediate count. -/
  | shri (cs : CS) (d a : BitVec 6) (i : BitVec 9)
  /-- R113. Shifts right arithmetically by an immediate count. -/
  | sari (cs : CS) (d a : BitVec 6) (i : BitVec 9)
  /-- R113. Multiplies by an immediate, wrapping. -/
  | muli (cs : CS) (d a : BitVec 6) (i : BitVec 9)
  /-- R114. Sets the predicate when the 32-bit patterns are equal. -/
  | cmpEqI32 (cs : CS) (p : BitVec 3) (a b : BitVec 6)
  /-- R114. Sets the predicate when the 32-bit patterns differ. -/
  | cmpNeI32 (cs : CS) (p : BitVec 3) (a b : BitVec 6)
  /-- R114. Performs a signed less-than comparison. -/
  | cmpLtI32 (cs : CS) (p : BitVec 3) (a b : BitVec 6)
  /-- R114. Performs a signed less-or-equal comparison. -/
  | cmpLeI32 (cs : CS) (p : BitVec 3) (a b : BitVec 6)
  /-- R114. Performs a signed greater-than comparison. -/
  | cmpGtI32 (cs : CS) (p : BitVec 3) (a b : BitVec 6)
  /-- R114. Performs a signed greater-or-equal comparison. -/
  | cmpGeI32 (cs : CS) (p : BitVec 3) (a b : BitVec 6)
  /-- R114. Performs an unsigned less-than comparison. -/
  | cmpLtN32 (cs : CS) (p : BitVec 3) (a b : BitVec 6)
  /-- R114. Performs an unsigned less-or-equal comparison. -/
  | cmpLeN32 (cs : CS) (p : BitVec 3) (a b : BitVec 6)
  /-- R114. Performs an unsigned greater-than comparison. -/
  | cmpGtN32 (cs : CS) (p : BitVec 3) (a b : BitVec 6)
  /-- R114. Performs an unsigned greater-or-equal comparison. -/
  | cmpGeN32 (cs : CS) (p : BitVec 3) (a b : BitVec 6)
  /-- R115. Writes a × b + c, wrapped to 32 bits. -/
  | muladd (cs : CS) (d a b r : BitVec 6)
  /-- R112. Writes the 64-bit wrapping sum. -/
  | addI64 (cs : CS) (d a b : BitVec 6)
  /-- R112. Writes the 64-bit wrapping difference. -/
  | subI64 (cs : CS) (d a b : BitVec 6)
  /-- R112. Writes the 64-bit wrapping product. -/
  | mulI64 (cs : CS) (d a b : BitVec 6)
  /-- R112. Writes the high 64 bits of the signed product. -/
  | mulhI64 (cs : CS) (d a b : BitVec 6)
  /-- R112. Writes the high 64 bits of the unsigned product. -/
  | mulhN64 (cs : CS) (d a b : BitVec 6)
  /-- R112. Writes the signed saturating 64-bit sum. -/
  | addSatI64 (cs : CS) (d a b : BitVec 6)
  /-- R112. Writes the unsigned saturating 64-bit sum. -/
  | addSatN64 (cs : CS) (d a b : BitVec 6)
  /-- R112. Writes the signed saturating 64-bit difference. -/
  | subSatI64 (cs : CS) (d a b : BitVec 6)
  /-- R112. Writes the unsigned saturating 64-bit difference. -/
  | subSatN64 (cs : CS) (d a b : BitVec 6)
  /-- R112. Writes the signed 64-bit minimum. -/
  | minI64 (cs : CS) (d a b : BitVec 6)
  /-- R112. Writes the unsigned 64-bit minimum. -/
  | minN64 (cs : CS) (d a b : BitVec 6)
  /-- R112. Writes the signed 64-bit maximum. -/
  | maxI64 (cs : CS) (d a b : BitVec 6)
  /-- R112. Writes the unsigned 64-bit maximum. -/
  | maxN64 (cs : CS) (d a b : BitVec 6)
  /-- R112. Writes the wrapping 64-bit absolute value. -/
  | absI64 (cs : CS) (d a : BitVec 6)
  /-- R112. Writes the wrapping 64-bit negation. -/
  | negI64 (cs : CS) (d a : BitVec 6)
  /-- R112. Writes the 64-bit AND. -/
  | andI64 (cs : CS) (d a b : BitVec 6)
  /-- R112. Writes the 64-bit OR. -/
  | orI64 (cs : CS) (d a b : BitVec 6)
  /-- R112. Writes the 64-bit XOR. -/
  | xorI64 (cs : CS) (d a b : BitVec 6)
  /-- R112. Writes the 64-bit a AND NOT b. -/
  | andnI64 (cs : CS) (d a b : BitVec 6)
  /-- R112. Writes the 64-bit complement. -/
  | notI64 (cs : CS) (d a : BitVec 6)
  /-- R112. Shifts a 64-bit value left by a count held in a 32-bit register. -/
  | shlI64 (cs : CS) (d a b : BitVec 6)
  /-- R112. Shifts a 64-bit value right logically. -/
  | shrI64 (cs : CS) (d a b : BitVec 6)
  /-- R112. Shifts a 64-bit value right arithmetically. -/
  | sarI64 (cs : CS) (d a b : BitVec 6)
  /-- R112. Rotates a 64-bit value left. -/
  | rotlI64 (cs : CS) (d a b : BitVec 6)
  /-- R112. Rotates a 64-bit value right. -/
  | rotrI64 (cs : CS) (d a b : BitVec 6)
  /-- R112. Counts the one bits of a 64-bit value into a 32-bit register. -/
  | bcntI64 (cs : CS) (d a : BitVec 6)
  /-- R112. Counts the leading zero bits of a 64-bit value. -/
  | lzcI64 (cs : CS) (d a : BitVec 6)
  /-- R112. Counts the trailing zero bits of a 64-bit value. -/
  | tzcI64 (cs : CS) (d a : BitVec 6)
  /-- R112. Reverses the 64 bits. -/
  | bitrevI64 (cs : CS) (d a : BitVec 6)
  /-- R112. Reverses the 8 bytes. -/
  | byterevI64 (cs : CS) (d a : BitVec 6)
  /-- R112. Writes the 64-bit a + 2b. -/
  | saddX2I64 (cs : CS) (d a b : BitVec 6)
  /-- R112. Writes the 64-bit a + 4b. -/
  | saddX4I64 (cs : CS) (d a b : BitVec 6)
  /-- R112. Writes the 64-bit a + 8b. -/
  | saddX8I64 (cs : CS) (d a b : BitVec 6)
  /-- R112. Writes the 64-bit a + 16b. -/
  | saddX16I64 (cs : CS) (d a b : BitVec 6)
  /-- R112. Copies a register pair. -/
  | movI64 (cs : CS) (d a : BitVec 6)
  /-- R112. Adds a sign-extended 32-bit value to a 64-bit pair. -/
  | addwI32 (cs : CS) (d a b : BitVec 6)
  /-- R112. Adds a zero-extended 32-bit value to a 64-bit pair. -/
  | addwN32 (cs : CS) (d a b : BitVec 6)
  /-- R112. Writes the exact 64-bit product of two signed 32-bit values. -/
  | mulxI32 (cs : CS) (d a b : BitVec 6)
  /-- R112. Writes the exact 64-bit product of two unsigned 32-bit values. -/
  | mulxN32 (cs : CS) (d a b : BitVec 6)
  /-- R114. Sets the predicate when the 64-bit patterns are equal. -/
  | cmpEqI64 (cs : CS) (p : BitVec 3) (a b : BitVec 6)
  /-- R114. Sets the predicate when the 64-bit patterns differ. -/
  | cmpNeI64 (cs : CS) (p : BitVec 3) (a b : BitVec 6)
  /-- R114. Performs a signed 64-bit less-than comparison. -/
  | cmpLtI64 (cs : CS) (p : BitVec 3) (a b : BitVec 6)
  /-- R114. Performs a signed 64-bit less-or-equal comparison. -/
  | cmpLeI64 (cs : CS) (p : BitVec 3) (a b : BitVec 6)
  /-- R114. Performs a signed 64-bit greater-than comparison. -/
  | cmpGtI64 (cs : CS) (p : BitVec 3) (a b : BitVec 6)
  /-- R114. Performs a signed 64-bit greater-or-equal comparison. -/
  | cmpGeI64 (cs : CS) (p : BitVec 3) (a b : BitVec 6)
  /-- R114. Performs an unsigned 64-bit less-than comparison. -/
  | cmpLtN64 (cs : CS) (p : BitVec 3) (a b : BitVec 6)
  /-- R114. Performs an unsigned 64-bit less-or-equal comparison. -/
  | cmpLeN64 (cs : CS) (p : BitVec 3) (a b : BitVec 6)
  /-- R114. Performs an unsigned 64-bit greater-than comparison. -/
  | cmpGtN64 (cs : CS) (p : BitVec 3) (a b : BitVec 6)
  /-- R114. Performs an unsigned 64-bit greater-or-equal comparison. -/
  | cmpGeN64 (cs : CS) (p : BitVec 3) (a b : BitVec 6)
  /-- R116. Extracts a bit field, zero-extended. -/
  | fextN32 (cs : CS) (d a b : BitVec 6)
  /-- R116. Extracts a bit field, sign-extended. -/
  | fextI32 (cs : CS) (d a b : BitVec 6)
  /-- R116. Inserts the low bits of a into a field of d. -/
  | fins (cs : CS) (d a b : BitVec 6)
  /-- R117. Builds each byte of the result from a selected byte of a, its sign, or a constant. -/
  | bpick (cs : CS) (d a b : BitVec 6)
  /-- R118. Applies a three-input Boolean function table bit by bit; the third register and the table come from the IMX prefix. -/
  | bfn3 (cs : CS) (d a b : BitVec 6)
  /-- R119. Selects a or b by a predicate, negated if n is set. -/
  | sel (cs : CS) (d a b : BitVec 6) (n : BitVec 1) (p : BitVec 3)
  /-- R119. Selects one of two 64-bit pairs by a predicate. -/
  | selI64 (cs : CS) (d a b : BitVec 6) (n : BitVec 1) (p : BitVec 3)
  /-- R120. Adds in f32 with one rounding. -/
  | addF32 (cs : CS) (d a b : BitVec 6)
  /-- R120. Subtracts in f32 with one rounding. -/
  | subF32 (cs : CS) (d a b : BitVec 6)
  /-- R120. Multiplies in f32 with one rounding. -/
  | mulF32 (cs : CS) (d a b : BitVec 6)
  /-- R122. Writes the f32 minimumNumber of the operands. -/
  | minF32 (cs : CS) (d a b : BitVec 6)
  /-- R122. Writes the f32 maximumNumber of the operands. -/
  | maxF32 (cs : CS) (d a b : BitVec 6)
  /-- R123. Clears the sign bit. -/
  | absF32 (cs : CS) (d a : BitVec 6)
  /-- R123. Inverts the sign bit. -/
  | negF32 (cs : CS) (d a : BitVec 6)
  /-- R123. Copies the sign of b onto the magnitude of a. -/
  | cpsgnF32 (cs : CS) (d a b : BitVec 6)
  /-- R124. Computes a × b + c in f32 with one rounding. -/
  | fmaF32 (cs : CS) (d a b r : BitVec 6)
  /-- R120. Adds in f64. -/
  | addF64 (cs : CS) (d a b : BitVec 6)
  /-- R120. Subtracts in f64. -/
  | subF64 (cs : CS) (d a b : BitVec 6)
  /-- R120. Multiplies in f64. -/
  | mulF64 (cs : CS) (d a b : BitVec 6)
  /-- R122. Writes the f64 minimum. -/
  | minF64 (cs : CS) (d a b : BitVec 6)
  /-- R122. Writes the f64 maximum. -/
  | maxF64 (cs : CS) (d a b : BitVec 6)
  /-- R123. Clears the f64 sign bit. -/
  | absF64 (cs : CS) (d a : BitVec 6)
  /-- R123. Inverts the f64 sign bit. -/
  | negF64 (cs : CS) (d a : BitVec 6)
  /-- R123. Copies the f64 sign of b onto the magnitude of a. -/
  | cpsgnF64 (cs : CS) (d a b : BitVec 6)
  /-- R124. Computes a fused multiply-add in f64. -/
  | fmaF64 (cs : CS) (d a b r : BitVec 6)
  /-- R120. Adds two packed f16 elements independently. -/
  | addF16x2 (cs : CS) (d a b : BitVec 6)
  /-- R120. Subtracts two packed f16 elements independently. -/
  | subF16x2 (cs : CS) (d a b : BitVec 6)
  /-- R120. Multiplies two packed f16 elements independently. -/
  | mulF16x2 (cs : CS) (d a b : BitVec 6)
  /-- R122. Takes the minimum of each pair of packed f16 elements. -/
  | minF16x2 (cs : CS) (d a b : BitVec 6)
  /-- R122. Takes the maximum of each pair of packed f16 elements. -/
  | maxF16x2 (cs : CS) (d a b : BitVec 6)
  /-- R123. Clears both element sign bits. -/
  | absF16x2 (cs : CS) (d a : BitVec 6)
  /-- R123. Inverts both element sign bits. -/
  | negF16x2 (cs : CS) (d a : BitVec 6)
  /-- R120. Adds two packed bf16 elements independently. -/
  | addBf16x2 (cs : CS) (d a b : BitVec 6)
  /-- R120. Subtracts two packed bf16 elements independently. -/
  | subBf16x2 (cs : CS) (d a b : BitVec 6)
  /-- R120. Multiplies two packed bf16 elements independently. -/
  | mulBf16x2 (cs : CS) (d a b : BitVec 6)
  /-- R122. Takes the minimum of each pair of packed bf16 elements. -/
  | minBf16x2 (cs : CS) (d a b : BitVec 6)
  /-- R122. Takes the maximum of each pair of packed bf16 elements. -/
  | maxBf16x2 (cs : CS) (d a b : BitVec 6)
  /-- R123. Clears both bf16 element sign bits. -/
  | absBf16x2 (cs : CS) (d a : BitVec 6)
  /-- R123. Inverts both bf16 element sign bits. -/
  | negBf16x2 (cs : CS) (d a : BitVec 6)
  /-- R124. Computes a fused multiply-add on each packed f16 element. -/
  | fmaF16x2 (cs : CS) (d a b r : BitVec 6)
  /-- R124. Computes a fused multiply-add on each packed bf16 element. -/
  | fmaBf16x2 (cs : CS) (d a b r : BitVec 6)
  /-- R126. Compares two f32 values under the condition field and writes a predicate. -/
  | fcmpF32 (cs : CS) (p : BitVec 3) (a b : BitVec 6) (x : BitVec 4)
  /-- R126. Compares two f64 values under the condition field and writes a predicate. -/
  | fcmpF64 (cs : CS) (p : BitVec 3) (a b : BitVec 6) (x : BitVec 4)
  /-- R127. Writes the f32 reciprocal seed. -/
  | frcpF32 (cs : CS) (d a : BitVec 6)
  /-- R127. Writes the f32 reciprocal square-root seed. -/
  | frsqF32 (cs : CS) (d a : BitVec 6)
  /-- R129. Writes 2^x rounded to f32. -/
  | exp2F32 (cs : CS) (d a : BitVec 6)
  /-- R129. Writes log2 x rounded to f32. -/
  | log2F32 (cs : CS) (d a : BitVec 6)
  /-- R129. Writes the sine of x radians. -/
  | sinF32 (cs : CS) (d a : BitVec 6)
  /-- R129. Writes the cosine of x radians. -/
  | cosF32 (cs : CS) (d a : BitVec 6)
  /-- R129. Writes tanh x. -/
  | tanhF32 (cs : CS) (d a : BitVec 6)
  /-- R127. Writes the f64 reciprocal seed. -/
  | frcpF64 (cs : CS) (d a : BitVec 6)
  /-- R127. Writes the f64 reciprocal square-root seed. -/
  | frsqF64 (cs : CS) (d a : BitVec 6)
  /-- R132. Turns an f32 quotient estimate into the correctly rounded quotient, or performs IEEE division. -/
  | fdivfixF32 (cs : CS) (d a b : BitVec 6)
  /-- R133. Turns an f32 root estimate into the correctly rounded square root. -/
  | fsqrtfixF32 (cs : CS) (d a : BitVec 6)
  /-- R131. Writes the class mask of an f32 value. -/
  | fclassF32 (cs : CS) (d a : BitVec 6)
  /-- R134. Rounds an f32 value to an integral value in the direction the b field selects. -/
  | frndF32 (cs : CS) (d a k : BitVec 6)
  /-- R135. Multiplies an f32 value by 2^n. -/
  | fscaleF32 (cs : CS) (d a b : BitVec 6)
  /-- R136. Writes floor(log2 |a|) of an f32 value as an integer. -/
  | fexpoF32 (cs : CS) (d a : BitVec 6)
  /-- R132. Performs the f64 division fix-up. -/
  | fdivfixF64 (cs : CS) (d a b : BitVec 6)
  /-- R133. Performs the f64 square-root fix-up. -/
  | fsqrtfixF64 (cs : CS) (d a : BitVec 6)
  /-- R131. Writes the class mask of an f64 value. -/
  | fclassF64 (cs : CS) (d a : BitVec 6)
  /-- R134. Rounds an f64 value to an integral value. -/
  | frndF64 (cs : CS) (d a k : BitVec 6)
  /-- R135. Multiplies an f64 value by 2^n. -/
  | fscaleF64 (cs : CS) (d a b : BitVec 6)
  /-- R136. Writes floor(log2 |a|) of an f64 value as an integer. -/
  | fexpoF64 (cs : CS) (d a : BitVec 6)
  /-- R138. Converts f64 to f32 with rounding. -/
  | cvtF32F64 (cs : CS) (d a : BitVec 6) (m : BitVec 3)
  /-- R138. Converts f32 to f64 exactly. -/
  | cvtF64F32 (cs : CS) (d a : BitVec 6) (m : BitVec 3)
  /-- R138. Converts f32 to f16. -/
  | cvtF16F32 (cs : CS) (d a : BitVec 6) (m : BitVec 3)
  /-- R138. Converts f16 to f32 exactly. -/
  | cvtF32F16 (cs : CS) (d a : BitVec 6) (m : BitVec 3)
  /-- R138. Converts f32 to bf16. -/
  | cvtBf16F32 (cs : CS) (d a : BitVec 6) (m : BitVec 3)
  /-- R138. Converts bf16 to f32 exactly. -/
  | cvtF32Bf16 (cs : CS) (d a : BitVec 6) (m : BitVec 3)
  /-- R138. Packs two f32 values as f16x2. -/
  | cvtF16x2F32 (cs : CS) (d a : BitVec 6) (m : BitVec 3)
  /-- R138. Packs two f32 values as bf16x2. -/
  | cvtBf16x2F32 (cs : CS) (d a : BitVec 6) (m : BitVec 3)
  /-- R138. Converts a signed 32-bit integer to f32. -/
  | cvtF32I32 (cs : CS) (d a : BitVec 6) (m : BitVec 3)
  /-- R138. Converts an unsigned 32-bit integer to f32. -/
  | cvtF32N32 (cs : CS) (d a : BitVec 6) (m : BitVec 3)
  /-- R138. Converts f32 to a signed 32-bit integer. -/
  | cvtI32F32 (cs : CS) (d a : BitVec 6) (m : BitVec 3)
  /-- R138. Converts f32 to an unsigned 32-bit integer. -/
  | cvtN32F32 (cs : CS) (d a : BitVec 6) (m : BitVec 3)
  /-- R138. Converts a signed 64-bit integer to f64. -/
  | cvtF64I64 (cs : CS) (d a : BitVec 6) (m : BitVec 3)
  /-- R138. Converts an unsigned 64-bit integer to f64. -/
  | cvtF64N64 (cs : CS) (d a : BitVec 6) (m : BitVec 3)
  /-- R138. Converts f64 to a signed 64-bit integer. -/
  | cvtI64F64 (cs : CS) (d a : BitVec 6) (m : BitVec 3)
  /-- R138. Converts f64 to an unsigned 64-bit integer. -/
  | cvtN64F64 (cs : CS) (d a : BitVec 6) (m : BitVec 3)
  /-- R138. Converts a signed 32-bit integer to f64 exactly. -/
  | cvtF64I32 (cs : CS) (d a : BitVec 6) (m : BitVec 3)
  /-- R138. Converts an unsigned 32-bit integer to f64 exactly. -/
  | cvtF64N32 (cs : CS) (d a : BitVec 6) (m : BitVec 3)
  /-- R138. Converts f64 to a signed 32-bit integer. -/
  | cvtI32F64 (cs : CS) (d a : BitVec 6) (m : BitVec 3)
  /-- R138. Converts f64 to an unsigned 32-bit integer. -/
  | cvtN32F64 (cs : CS) (d a : BitVec 6) (m : BitVec 3)
  /-- R138. Converts a signed 64-bit integer to f32. -/
  | cvtF32I64 (cs : CS) (d a : BitVec 6) (m : BitVec 3)
  /-- R138. Converts an unsigned 64-bit integer to f32. -/
  | cvtF32N64 (cs : CS) (d a : BitVec 6) (m : BitVec 3)
  /-- R138. Converts f32 to a signed 64-bit integer. -/
  | cvtI64F32 (cs : CS) (d a : BitVec 6) (m : BitVec 3)
  /-- R138. Converts f32 to an unsigned 64-bit integer. -/
  | cvtN64F32 (cs : CS) (d a : BitVec 6) (m : BitVec 3)
  /-- R138. Sign-extends a 32-bit value to 64 bits. -/
  | cvtI64I32 (cs : CS) (d a : BitVec 6) (m : BitVec 3)
  /-- R138. Zero-extends a 32-bit value to 64 bits. -/
  | cvtN64N32 (cs : CS) (d a : BitVec 6) (m : BitVec 3)
  /-- R138. Saturates a signed 64-bit value into 32 bits. -/
  | cvtSatI32I64 (cs : CS) (d a : BitVec 6) (m : BitVec 3)
  /-- R138. Saturates an unsigned 64-bit value into 32 bits. -/
  | cvtSatN32N64 (cs : CS) (d a : BitVec 6) (m : BitVec 3)
  /-- R138. Converts TD8 to f64. -/
  | cvtF64Td8 (cs : CS) (d a : BitVec 6) (m : BitVec 3)
  /-- R138. Converts f64 to TD8, saturating if t is set. -/
  | cvtTd8F64 (cs : CS) (d a : BitVec 6) (t : BitVec 1) (m : BitVec 3)
  /-- R138. Converts TD8 to f32. -/
  | cvtF32Td8 (cs : CS) (d a : BitVec 6) (m : BitVec 3)
  /-- R138. Converts f32 to TD8, saturating if t is set. -/
  | cvtTd8F32 (cs : CS) (d a : BitVec 6) (t : BitVec 1) (m : BitVec 3)
  /-- R141. Scales f32 elements and packs them into the narrow format named by f. -/
  | npk (cs : CS) (d a b : BitVec 6) (f : BitVec 3)
  /-- R141. Scales and packs f32 elements into a narrow format, saturating on overflow. -/
  | npkSat (cs : CS) (d a b : BitVec 6) (f : BitVec 3)
  /-- R141. Unpacks narrow elements to f32, applying the scale. -/
  | nupk (cs : CS) (d a b : BitVec 6) (f : BitVec 3)
  /-- R141. Chooses an E8M0 block scale from a block maximum. -/
  | nscl (cs : CS) (d a : BitVec 6) (f : BitVec 3)
  /-- R196. Loads one element per active lane through a handle under the given policy and order. -/
  | ld (cs : CS) (d a : BitVec 6) (h : BitVec 5) (z : BitVec 3) (p o : BitVec 2)
  /-- R196. Stores one element per active lane through a handle under the given policy and order. -/
  | st (cs : CS) (d a : BitVec 6) (h : BitVec 5) (z : BitVec 3) (p o : BitVec 2)
  /-- R198. Loads a contiguous block for the whole fetch set from the lowest lane's offset. -/
  | ldg (cs : CS) (d a : BitVec 6) (h : BitVec 5) (z : BitVec 3) (p o : BitVec 2)
  /-- R198. Stores a contiguous block for the whole fetch set. -/
  | stg (cs : CS) (d a : BitVec 6) (h : BitVec 5) (z : BitVec 3) (p o : BitVec 2)
  /-- R193. Performs an atomic 32-bit add at the owning service group and returns the prior value. -/
  | atomAddN32 (cs : CS) (d a b : BitVec 6) (o : BitVec 2)
  /-- R193. Performs an atomic 32-bit AND. -/
  | atomAndB32 (cs : CS) (d a b : BitVec 6) (o : BitVec 2)
  /-- R193. Performs an atomic 32-bit OR. -/
  | atomOrB32 (cs : CS) (d a b : BitVec 6) (o : BitVec 2)
  /-- R193. Performs an atomic 32-bit XOR. -/
  | atomXorB32 (cs : CS) (d a b : BitVec 6) (o : BitVec 2)
  /-- R193. Performs an atomic signed 32-bit minimum. -/
  | atomMinI32 (cs : CS) (d a b : BitVec 6) (o : BitVec 2)
  /-- R193. Performs an atomic signed 32-bit maximum. -/
  | atomMaxI32 (cs : CS) (d a b : BitVec 6) (o : BitVec 2)
  /-- R193. Performs an atomic unsigned 32-bit minimum. -/
  | atomMinN32 (cs : CS) (d a b : BitVec 6) (o : BitVec 2)
  /-- R193. Performs an atomic unsigned 32-bit maximum. -/
  | atomMaxN32 (cs : CS) (d a b : BitVec 6) (o : BitVec 2)
  /-- R193. Performs an atomic 64-bit add. -/
  | atomAddN64 (cs : CS) (d a b : BitVec 6) (o : BitVec 2)
  /-- R193. Performs an atomic 64-bit AND. -/
  | atomAndB64 (cs : CS) (d a b : BitVec 6) (o : BitVec 2)
  /-- R193. Performs an atomic 64-bit OR. -/
  | atomOrB64 (cs : CS) (d a b : BitVec 6) (o : BitVec 2)
  /-- R193. Performs an atomic 64-bit XOR. -/
  | atomXorB64 (cs : CS) (d a b : BitVec 6) (o : BitVec 2)
  /-- R193. Performs an atomic signed 64-bit minimum. -/
  | atomMinI64 (cs : CS) (d a b : BitVec 6) (o : BitVec 2)
  /-- R193. Performs an atomic signed 64-bit maximum. -/
  | atomMaxI64 (cs : CS) (d a b : BitVec 6) (o : BitVec 2)
  /-- R193. Performs an atomic unsigned 64-bit minimum. -/
  | atomMinN64 (cs : CS) (d a b : BitVec 6) (o : BitVec 2)
  /-- R193. Performs an atomic unsigned 64-bit maximum. -/
  | atomMaxN64 (cs : CS) (d a b : BitVec 6) (o : BitVec 2)
  /-- R193. Performs an atomic 32-bit exchange. -/
  | atomXchgB32 (cs : CS) (d a b : BitVec 6) (o : BitVec 2)
  /-- R193. Performs an atomic 32-bit compare-and-swap. -/
  | atomCasB32 (cs : CS) (d a b : BitVec 6) (o : BitVec 2)
  /-- R193. Performs an atomic 64-bit exchange. -/
  | atomXchgB64 (cs : CS) (d a b : BitVec 6) (o : BitVec 2)
  /-- R193. Performs an atomic 64-bit compare-and-swap. -/
  | atomCasB64 (cs : CS) (d a b : BitVec 6) (o : BitVec 2)
  /-- R193. Performs an atomic f32 add, rounded to nearest. -/
  | atomAddF32 (cs : CS) (d a b : BitVec 6) (o : BitVec 2)
  /-- R193. Performs an atomic f32 minimum. -/
  | atomMinF32 (cs : CS) (d a b : BitVec 6) (o : BitVec 2)
  /-- R193. Performs an atomic f32 maximum. -/
  | atomMaxF32 (cs : CS) (d a b : BitVec 6) (o : BitVec 2)
  /-- R193. Performs an atomic f64 add. -/
  | atomAddF64 (cs : CS) (d a b : BitVec 6) (o : BitVec 2)
  /-- R193. Performs an atomic f64 minimum. -/
  | atomMinF64 (cs : CS) (d a b : BitVec 6) (o : BitVec 2)
  /-- R193. Performs an atomic f64 maximum. -/
  | atomMaxF64 (cs : CS) (d a b : BitVec 6) (o : BitVec 2)
  /-- R193. Performs an atomic packed f16 add. -/
  | atomAddF16x2 (cs : CS) (d a b : BitVec 6) (o : BitVec 2)
  /-- R193. Performs an atomic packed bf16 add. -/
  | atomAddBf16x2 (cs : CS) (d a b : BitVec 6) (o : BitVec 2)
  /-- R200. Waits until every earlier access is applied, then removes the core's SI and WI words; it is both release and acquire. -/
  | fence (cs : CS)
  /-- R195. Compares a word with a value, arms a monitor on equality, and blocks until the monitor fires or is lost. -/
  | mwaitB32 (cs : CS) (d a b : BitVec 6)
  /-- R195. Compares a pair with a value, arms a monitor on equality, and blocks until the monitor fires or is lost. -/
  | mwaitB64 (cs : CS) (d a b : BitVec 6)
  /-- R191. Subscribes a mirror window binding a scratchpad range to a memory range and returns its identifier. -/
  | mwsub (cs : CS) (d a b : BitVec 6)
  /-- R191. Frees a mirror window. -/
  | mwend (cs : CS) (a : BitVec 6)
  /-- R191. Reads a window's detached bit and applied sequence number. -/
  | mwseq (cs : CS) (d a : BitVec 6)
  /-- R191. Waits until a window has applied a given sequence number, as an acquire. -/
  | mwsync (cs : CS) (a b : BitVec 6)
  /-- R201. Asks the homes of a range to fill their L2 slices; it never faults. -/
  | pfch (cs : CS) (a b : BitVec 6)
  /-- R202. Returns the tag-table slot that holds a tag, or a miss code. -/
  | tlook (cs : CS) (d a : BitVec 6)
  /-- R202. Stores a tag in a slot of the tag table, removing it from any other slot. -/
  | tset (cs : CS) (a b : BitVec 6)
  /-- R202. Empties a slot of the tag table. -/
  | tclr (cs : CS) (b : BitVec 6)
  /-- R203. Loads a handle register with a table index and a copy of its entry. -/
  | hsel (cs : CS) (h : BitVec 5) (a : BitVec 6)
  /-- R203. Reads a field of the entry copy held in a handle register. -/
  | hget (cs : CS) (d : BitVec 6) (h : BitVec 5) (k : BitVec 6)
  /-- R203. Writes a handle-table entry from a register octet, revoking any valid old entry first. -/
  | hnew (cs : CS) (a b : BitVec 6)
  /-- R169. Revokes a handle-table entry and completes once no access through it remains. -/
  | hrev (cs : CS) (a : BitVec 6)
  /-- R258. Initialises a credit barrier with N arrivals per phase. -/
  | barInit (cs : CS) (b r : BitVec 6)
  /-- R258. Arrives at a barrier as a release and returns the phase token. -/
  | barChk (cs : CS) (a b : BitVec 6)
  /-- R259. Arrives at a barrier and adds sectors still owed by engines. -/
  | barOwe (cs : CS) (a b r : BitVec 6)
  /-- R258. Blocks until the phase of a token has ended, then acts as an acquire. -/
  | barWait (cs : CS) (b r : BitVec 6)
  /-- R258. Tests whether the phase of a token has ended, without waiting. -/
  | barTry (cs : CS) (a b r : BitVec 6)
  /-- R264. Initialises a spool's capacity, producers, ring and allowances. -/
  | sinit (cs : CS) (b r : BitVec 6)
  /-- R264. Pushes an entry under the producer's allowance, blocking while none is available. -/
  | spush (cs : CS) (a b r : BitVec 6)
  /-- R264. Pops an entry, blocking while the spool is empty. -/
  | spop (cs : CS) (a b : BitVec 6)
  /-- R264. Raises a producer's allowance and re-examines its waiting pushes. -/
  | sallow (cs : CS) (b r : BitVec 6)
  /-- R264. Pushes an entry if it can, and otherwise returns a status. -/
  | spushTry (cs : CS) (a b r : BitVec 6)
  /-- R264. Pops an entry if one is present, and otherwise returns the reserved entry. -/
  | spopTry (cs : CS) (a b : BitVec 6)
  /-- R261. Arms a seam with the number of signatures per round. -/
  | smInit (cs : CS) (k r : BitVec 6)
  /-- R262. Reads a seam's state word. -/
  | smRd (cs : CS) (a k : BitVec 6)
  /-- R268. Arms, fires or clears a timed gate with a pod time. -/
  | tgate (cs : CS) (k r : BitVec 6)
  /-- R268. Waits on a timed gate and returns its status. -/
  | twait (cs : CS) (a k : BitVec 6)
  /-- R278. Issues an asynchronous copy from a descriptor, as a release. -/
  | cpy (cs : CS) (a b r : BitVec 6)
  /-- R280. Issues a copy that starts at a given pod time. -/
  | cpyAt (cs : CS) (a b r : BitVec 6)
  /-- R281. Multicasts a tile into a holding slot of the fold for the masked herd positions. -/
  | cpm (cs : CS) (a b r : BitVec 6)
  /-- R281. Drains the oldest matching holding slot into the drainer's scratchpad. -/
  | drn (cs : CS) (a b r : BitVec 6)
  /-- R279. Copies into B-store and marks the slots it covers as filling under a new fill generation. -/
  | bld (cs : CS) (a r : BitVec 6)
  /-- R282. Gathers elements by an index list into a destination. -/
  | gath (cs : CS) (a r : BitVec 6)
  /-- R286. Starts a copy channel walking a record list, or rings its doorbell. -/
  | chain (cs : CS) (a b : BitVec 6)
  /-- R275. Blocks until the group's counter for a class is at most n, then acts as an acquire. -/
  | waitc (cs : CS) (n : BitVec 6) (l : BitVec 2)
  /-- R287. Joins a broadcast collective of member 0's send buffer. -/
  | collBcast (cs : CS) (a b r : BitVec 6) (m : BitVec 2)
  /-- R287. Joins an f32 sum collective. -/
  | collRedAddF32 (cs : CS) (a b r : BitVec 6) (m : BitVec 2)
  /-- R287. Joins an f64 sum collective. -/
  | collRedAddF64 (cs : CS) (a b r : BitVec 6) (m : BitVec 2)
  /-- R287. Joins a 32-bit integer sum collective. -/
  | collRedAddI32 (cs : CS) (a b r : BitVec 6) (m : BitVec 2)
  /-- R287. Joins a 64-bit integer sum collective. -/
  | collRedAddI64 (cs : CS) (a b r : BitVec 6) (m : BitVec 2)
  /-- R287. Joins an f32 minimum collective. -/
  | collRedMinF32 (cs : CS) (a b r : BitVec 6) (m : BitVec 2)
  /-- R287. Joins an f32 maximum collective. -/
  | collRedMaxF32 (cs : CS) (a b r : BitVec 6) (m : BitVec 2)
  /-- R287. Joins an f64 minimum collective. -/
  | collRedMinF64 (cs : CS) (a b r : BitVec 6) (m : BitVec 2)
  /-- R287. Joins an f64 maximum collective. -/
  | collRedMaxF64 (cs : CS) (a b r : BitVec 6) (m : BitVec 2)
  /-- R287. Joins a signed 64-bit minimum collective. -/
  | collRedMinI64 (cs : CS) (a b r : BitVec 6) (m : BitVec 2)
  /-- R287. Joins a signed 64-bit maximum collective. -/
  | collRedMaxI64 (cs : CS) (a b r : BitVec 6) (m : BitVec 2)
  /-- R287. Joins an unsigned 64-bit minimum collective. -/
  | collRedMinN64 (cs : CS) (a b r : BitVec 6) (m : BitVec 2)
  /-- R287. Joins an unsigned 64-bit maximum collective. -/
  | collRedMaxN64 (cs : CS) (a b r : BitVec 6) (m : BitVec 2)
  /-- R300. Signs a seam for a plus-times matrix operation. -/
  | mmaPt (cs : CS) (q : BitVec 4) (m : BitVec 2) (n : BitVec 6) (t : BitVec 1) (y : BitVec 2) (f : BitVec 4)
  /-- R300. Signs a seam for a min-plus matrix operation. -/
  | mmaMinp (cs : CS) (q : BitVec 4) (m : BitVec 2) (n : BitVec 6) (t : BitVec 1) (y : BitVec 2) (f : BitVec 4)
  /-- R300. Signs a seam for a max-plus matrix operation. -/
  | mmaMaxp (cs : CS) (q : BitVec 4) (m : BitVec 2) (n : BitVec 6) (t : BitVec 1) (y : BitVec 2) (f : BitVec 4)
  /-- R300. Signs a seam for a max-times matrix operation. -/
  | mmaMaxt (cs : CS) (q : BitVec 4) (m : BitVec 2) (n : BitVec 6) (t : BitVec 1) (y : BitVec 2) (f : BitVec 4)
  /-- R300. Signs a seam for an or-and matrix operation. -/
  | mmaOrand (cs : CS) (q : BitVec 4) (m : BitVec 2) (n : BitVec 6) (t : BitVec 1) (y : BitVec 2) (f : BitVec 4)
  /-- R304. Zeroes a C tile in scratchpad, as one TILE-class operation for the fetch set. -/
  | mmz (cs : CS) (a b r : BitVec 6)
  /-- R304. Converts a scratchpad tile element by element under a conversion word. -/
  | mmcvt (cs : CS) (a b r : BitVec 6)
  /-- R304. Stores a scratchpad tile to memory as a TILE-class engine operation. -/
  | mst (cs : CS) (a b : BitVec 6)
  /-- R306. Opens a tile id for stamp accounting and makes it current. -/
  | tstamp (cs : CS) (k : BitVec 6)
  /-- R308. Closes a tile and writes its stamp record once the operations tagged with it are done. -/
  | tret (cs : CS) (a k : BitVec 6)
  /-- R389. Stamps and injects an ordered packet, or returns a refusal status. -/
  | osend (cs : CS) (a b r : BitVec 6)
  /-- R389. Pops the next ordered record of a queue, blocking while the queue is empty. -/
  | orecv (cs : CS) (a b k : BitVec 6)
  /-- R390. Copies local bytes to a remote device as a COPY-class operation. -/
  | rput (cs : CS) (a b : BitVec 6)
  /-- R390. Copies remote bytes to local memory as a COPY-class operation. -/
  | rget (cs : CS) (a b : BitVec 6)
  /-- R390. Performs a remote strong read-modify-write and writes back the prior value. -/
  | ratm (cs : CS) (a b k : BitVec 6)
  /-- R391. Reads an ordered-class watermark, D or C. -/
  | wmrd (cs : CS) (a k : BitVec 6)
  /-- R389. Pops an ordered record if one is present, and otherwise returns zeros and an empty flag. -/
  | orecvTry (cs : CS) (a b k : BitVec 6)
  /-- R322. Appends a continuation record to the kernel's ring, blocking while the ring is full. -/
  | cont (cs : CS) (a b : BitVec 6)
  /-- R322. Reads and checks a launch record and creates a kernel. -/
  | lnch (cs : CS) (a b : BitVec 6)
  /-- R322. Appends a launch-record address to a work queue. -/
  | qput (cs : CS) (a b r : BitVec 6)
  /-- R362. Releases a parked sub-group of the replay queue. -/
  | repl (cs : CS) (a b : BitVec 6)
  /-- R354. Delivers a signal to the target thread by writing a frame and redirecting the thread to the handler. -/
  | sigdl (cs : CS) (a b r : BitVec 6)
  /-- R362. Forces a switch to the shadow pen. -/
  | penx (cs : CS) (a b : BitVec 6)
  /-- R362. Swaps out a herd or a context, stops a context, or continues it. -/
  | swp (cs : CS) (a b r : BitVec 6)
  /-- R362. Begins the kill sequence of a context. -/
  | kill (cs : CS) (a b r : BitVec 6)
  /-- R362. Terminates one kernel of a context. -/
  | kterm (cs : CS) (a b r : BitVec 6)
  /-- R248. Drops matching entries from this core's translation unit only. -/
  | tlbinv (cs : CS) (a b r : BitVec 6)
  /-- R247. Issues a device-wide shoot-down and blocks until it completes. -/
  | sdn (cs : CS) (a b r : BitVec 6)
  /-- R248. Increments a frame's pin count of the given kind. -/
  | pin (cs : CS) (a b k : BitVec 6)
  /-- R248. Decrements a frame's pin count and retries any held eviction. -/
  | unpin (cs : CS) (a b k : BitVec 6)
  /-- R248. Queues a migration request or a hotness hint for a frame. -/
  | migr (cs : CS) (a b k : BitVec 6)
  /-- R249. Pops the head fault entry of the pasture's queue, blocking while the queue is empty. -/
  | fqpop (cs : CS) (a : BitVec 6)
  /-- R249. Pops a fault entry, or returns an EMPTY entry at once. -/
  | fqpopTry (cs : CS) (a : BitVec 6)
  /-- R249. Drains a page's bounce records and releases every sub-group parked on the page, device-wide. -/
  | fqdone (cs : CS) (a b k : BitVec 6)
  /-- R403. Sets the group's step bit and releases a parked breakpoint or step sub-group. -/
  | step (cs : CS) (a b : BitVec 6)
  /-- R403. Fires or arms the snapshot trigger. -/
  | snap (cs : CS) (a b : BitVec 6)
  /-- R403. Takes a checkpoint, or re-executes a stopped context from a checkpoint to a point. -/
  | ckpt (cs : CS) (a b r : BitVec 6)
  /-- R40. A variable-latency result is written to its register, and a thread in SWITCH becomes READY when its last result returns. -/
  | variableResultReturn (gid lane id : Nat)
  /-- R160. A convergence or cross-lane instance whose lanes have all arrived or exited delivers its results and releases its lanes. -/
  | instanceComplete (iid : Nat)
  /-- R150. A sub-group that was waiting for a free replay-queue entry enters the queue and is handed on. -/
  | replayEntryFreed (core : Nat)
  /-- R181. The home takes an SI or WT load request and replies with the word, from the owner if needed. -/
  | homeRead (req : Nat)
  /-- R181. The home takes a WI load, replies, and registers the requester as a sharer. -/
  | homeWiLoad (req : Nat)
  /-- R181. The home takes an OWN load or store, invalidating or recalling as needed, and grants ownership. -/
  | homeOwnRequest (req : Nat)
  /-- R181. The home applies a write-through, read-modify-write or engine write and invalidates the other sharers. -/
  | homeWriteThrough (req : Nat)
  /-- R182. A requester retries a refused request; at the 16th refusal the request becomes persistent. -/
  | requestRetry (req : Nat)
  /-- R174. The L1 evicts a line, writing owned words back and dropping SI and WI words silently. -/
  | l1Evict (core line : Nat)
  /-- R181. The home takes an owner's writeback, writing the value and making the word CLEAN, or treats it as the response to a pending recall. -/
  | ownerWriteback (core word : Nat)
  /-- R181. An owner core takes a recall of a word and returns it, or discards the recall when it no longer owns the word. -/
  | recallTaken (core word : Nat)
  /-- R181. The home takes a recall response, writes the value and serves the request it was holding. -/
  | recallResponse (core word : Nat)
  /-- R181. A sharer takes an invalidation, drops its copy and acknowledges. -/
  | invalidate (agent word : Nat)
  /-- R181. The home counts an acknowledgement and completes the held request on the last one. -/
  | invalidationAck (agent word : Nat)
  /-- R185. A host CXL.mem read of a line is held and never refused, recalls owned words, adds the host as a sharer and replies. -/
  | hostCxlMemRead (pa : Nat)
  /-- R185. A host CXL.mem write is applied as a write-through. -/
  | hostCxlMemWrite (pa : Nat) (data : List Byte)
  /-- R185. A service-die core's access reaches a home as a WI request that is never refused. -/
  | serviceDieAccess (pa : Nat) (op : DieOp)
  /-- R186. The proxy home recalls and invalidates the device copies of a host line, then answers the host's snoop. -/
  | hostSnoop (line : Nat)
  /-- R186. The proxy home takes the host's CXL.cache response and completes the device request. -/
  | proxyHostResponse (line : Nat) (data : List Byte)
  /-- R193. The owning service group performs one read-modify-write at the home and returns the prior value. -/
  | atomicService (req : Nat)
  /-- R189. A subscriber applies a multicast write of a mirrored range to its scratchpad, in sequence order. -/
  | mirrorUpdate (fid win : Nat)
  /-- R190. A window's snapshot has been copied into the scratchpad, and the window becomes ACTIVE with its applied sequence set. -/
  | mirrorSnapshotApplied (fid win : Nat)
  /-- R417. A remote device takes a POD access, selects the context by job, translates the address and performs the access. -/
  | podRemoteAccess (acc : PodAccess)
  /-- R223. The remote home acknowledges a POD store, and waiting releases of the thread may proceed. -/
  | podStoreAck (req : Nat)
  /-- R199. A failed POD access comes back; a load or atomic lane parks with cause 0x31, and a failed store is noted for the thread's next acquire, release, fence or exit. -/
  | remoteErrorResponse (req : Nat)
  /-- R238. The first-touch unit takes a zeroed frame, writes the leaf or group, and lets the held access proceed. -/
  | firstTouchServed (req : Nat)
  /-- R237. System software writes a first-touch ring register, for example advancing ftu.tail or clearing ftu.lowev. -/
  | ftuRingWrite (pasture ring : Nat) (hi : Bool) (v : W64)
  /-- R245. The migrator takes a promote request for a frame, allocates a near-tier frame and begins the copy. -/
  | promote (frame : Nat)
  /-- R245. The migrator takes an evict request for a near frame with no pin and begins the copy back to HBM. -/
  | evict (frame : Nat)
  /-- R245. A tier copy ends; the home switches word by word, or the move waits for L2 pins to be released. -/
  | migrationCopyDone (frame : Nat)
  /-- R246. After a 50 µs wait, the remaining L2 pins become fault-on-next-access and the move completes. -/
  | l2PinTimeout (frame : Nat)
  /-- R247. Every translation unit has dropped the range and every in-flight use has drained, so the shoot-down completes. -/
  | sdnComplete (id : Nat)
  /-- R244. An engine that stalled on a full bounce buffer resumes when a drain frees a record. -/
  | bounceStallEnd (op : Nat)
  /-- R257. An engine credits a barrier with the sectors it has written once they are visible. -/
  | barrierSectorCredit (op n : Nat)
  /-- R268. %ptime reaches an armed gate's time, and its waiters are released. -/
  | gateFire (fid gate : Nat)
  /-- R276. The engine takes a queued operation after its release, registers its grains and starts it running. -/
  | engineTake (op : Nat)
  /-- R271. A running engine operation reads and writes one burst of its transfer. -/
  | engineWriteBurst (op n : Nat)
  /-- R276. A running operation meets a fault and becomes STOPPED or FAILED at its restart offset. -/
  | engineFault (op : Nat) (cause : Byte)
  /-- R276. The operation's last write becomes visible, it becomes DONE, and counters recognise it in order. -/
  | engineDone (op : Nat)
  /-- R280. %ptime reaches a timed copy's time, and the copy leaves QUEUED. -/
  | cpyAtStart (op : Nat)
  /-- R281. A holding slot finishes filling and becomes HELD, and the sender's cpm completes. -/
  | cpmFillDone (op : Nat)
  /-- R286. A channel reads the record at its position and runs it, or goes WAITING when tr.own is 0. -/
  | chainRecordRead (fid ch : Nat)
  /-- R285. A channel consumes a completed record, writing tr.status and tr.done and clearing tr.own. -/
  | chainRecordComplete (fid ch : Nat)
  /-- R287. A member's receive buffer is written, and its COLL operation completes. -/
  | collDeliveryDone (op : Nat)
  /-- R299. A queued mma reaches the array; it computes, waits for filling slots, or fails on a BAD slot. -/
  | mmaReachArray (op : Nat)
  /-- R299. The last C element is written, and the mma becomes DONE. -/
  | mmaComputeDone (op : Nat)
  /-- R308. After its tagged operations are done, tret writes the stamp record and completes. -/
  | tretRecordWrite (op : Nat)
  /-- R325. A host 8-byte write to a submission window appends a work-queue entry, or is discarded. -/
  | submissionWindowWrite (ctx q : Nat) (at_ : WindowAt) (v : W64)
  /-- R326. The dispatcher takes a queue's head entry, checks the record, and creates a kernel or writes outcome 4. -/
  | dispatcherIntake (ctx q : Nat)
  /-- R318. An admitted kernel moves to PLACING once %ptime reaches lr.start. -/
  | kernelDispatch (ctx kid : Nat)
  /-- R330. A pasture's placer places the highest-ranked waiting herd that fits and creates or resumes its threads. -/
  | herdPlace (pasture : Nat)
  /-- R330. When its reserved cores are empty, all herds of a D0 kernel are placed in one step. -/
  | d0Placement (ctx kid : Nat)
  /-- R331. The placer pre-empts resident herds to make room for a waiting herd. -/
  | preempt (pasture : Nat)
  /-- R331. A resident herd's quantum expires while an equal-rank herd waits, so the resident herd becomes pre-emptable. -/
  | quantumExpiry (ctx kid herd : Nat)
  /-- R315. A herd whose threads have all exited and whose engine operations are done retires, and its flocks are freed. -/
  | herdRetire (ctx kid herd : Nat)
  /-- R320. The gatherer launches a batch of continuation records as a new group. -/
  | gathererBatchLaunch (ctx kid entry : Nat)
  /-- R320. The oldest record has waited lr.cwait µs, so its partial batch is flushed. -/
  | gathererFlushTimeout (ctx kid entry : Nat)
  /-- R335. A fetch set eligible for 448 cycles without issuing is promoted above every rank. -/
  | issuePromotion (gid : Nat) (lanes : Mask)
  /-- R336. A D0 or D1 kernel not DONE at lr.dl posts an overrun event and runs on. -/
  | d0Overrun (ctx kid : Nat)
  /-- R336. A D0 herd exceeds lr.budget issue cycles and posts a budget event once. -/
  | budgetExceeded (ctx kid herd : Nat)
  /-- R329. A write to the scheduler control register takes effect for later decisions. -/
  | scWrite (hi : Bool) (v : W64)
  /-- R367. A ctx.cmd write of 1 creates a context from the descriptor at ctx.arg. -/
  | ctxCreate
  /-- R367. A ctx.cmd write of 2 releases the identifier of a DEAD context. -/
  | ctxRelease
  /-- R342. The core switches to its shadow pen for a higher class or for a pager thread. -/
  | penSwitch (core : Nat)
  /-- R342. The active pen has had no eligible fetch set for 32 cycles, so the core switches to the shadow pen. -/
  | penIdleSwitch (core : Nat)
  /-- R341. A SAVING pen's image is written, and the pen becomes EMPTY. -/
  | swapSaveDone (ctx kid herd : Nat)
  /-- R341. A LOADING pen's image has arrived, the pen becomes SHADOW or ACTIVE, and recorded events are taken. -/
  | swapLoadDone (ctx kid herd : Nat)
  /-- R347. An idle shepherd thread takes the oldest entry of the core and starts at the shepherd entry. -/
  | shepherdEntryTake (core : Nat)
  /-- R357. A service core takes a system-call queue entry, journals it and forwards it to the host. -/
  | syscallForward (ctx : Nat)
  /-- R357. The host's reply is written to the call block and a CALL done entry is posted to the caller's core. -/
  | syscallReply (seq : Nat) (ret : W64) (err : W32)
  /-- R357. A call outlives cx.sctmo, is marked timed out, and its thread takes cause 0x38. -/
  | syscallTimeout (seq : Nat)
  /-- R359. A service core misses its watchdog, is restarted, and recovers its journal. -/
  | serviceCoreWatchdog
  /-- R360. The four kill steps have finished, the context becomes DEAD, and the kill-complete event is posted. -/
  | killComplete (ctx : Nat)
  /-- R362. Once the homes confirm that no write of the kernel is in flight, the terminated kernel becomes FAULTED with outcome 3. -/
  | ktermComplete (ctx kid : Nat)
  /-- R366. The host link trains, and submission windows become reachable. -/
  | hostLinkTrained
  /-- R368. The host link is lost; device accesses to host memory fail with cause 0x31. -/
  | hostLinkDown
  /-- R373. Writing ps.en to 0 takes a fabric port DOWN and recomputes the routes. -/
  | portDisable (port : Nat)
  /-- R373. Writing ps.en to 1 starts training a DOWN port. -/
  | portEnable (port : Nat)
  /-- R373. A training attempt succeeds, and the port goes UP. -/
  | portTrained (port : Nat)
  /-- R373. A training attempt fails; a new attempt starts, or after the third failure the port becomes FAILED. -/
  | portTrainingFailed (port : Nat)
  /-- R372. A flit is accepted in sequence, acknowledged and taken by the router. -/
  | flitReceive (port : Nat) (flit : Flit)
  /-- R372. A CRC error or a sequence gap sends the port into RETRY with a replay request. -/
  | flitError (port : Nat)
  /-- R373. A replay is accepted, and the port returns to UP or STALLED. -/
  | replayAccepted (port : Nat)
  /-- R373. The eighth consecutive failed replay makes the port FAILED. -/
  | replayFailed (port : Nat)
  /-- R380. A port sends a beacon carrying its watermarks and held flag, at least every 64 ns. -/
  | beaconSend (port : Nat)
  /-- R380. An inbound beacon updates the port's watermarks and the delivery watermark. -/
  | beaconReceive (port : Nat) (w : List W64) (held : Bool)
  /-- R381. An ordered packet is taken into the reorder buffer, or forwarded. -/
  | ordPacketReceive (port : Nat) (pkt : OrdPkt)
  /-- R381. A held packet is released in stamp order into its receive queue once D exceeds its stamp time. -/
  | ordRelease
  /-- R382. An inbound watermark has not advanced for eight beacon intervals, so the port is declared stalled and recovery begins. -/
  | ordStallDeclared (port : Nat)
  /-- R383. A device receives a stall notice, recomputes its routes, resends retained packets and sends end markers. -/
  | stallNotice (dev : Nat) (port : LinkNotice)
  /-- R383. An end marker arrives; when markers from every device have arrived, the frozen value is withdrawn. -/
  | endMarker (src : Nat)
  /-- R367. A write of the route trigger in the pod configuration starts a route recomputation. -/
  | routeTrigger
  /-- R385. A recomputed route table is installed at the announced pod time. -/
  | routeInstall
  /-- R387. A receiver sends cumulative release acknowledgements per source, at least every 1 µs. -/
  | ordAckSend (src : Nat)
  /-- R387. A source takes an acknowledgement and frees retained places. -/
  | ordAck (dst : Nat) (seq : BitVec 20)
  /-- R389. Each context's token bucket gains oc.rate tokens per µs, up to its depth. -/
  | ocTokenRefill (us : Nat)
  /-- R374. Every 1 µs a link measures its one-way delay, and the clock is steered toward the master. -/
  | ptimeDelayMeasure (port : Nat) (delay : W32) (master : Master) (err : W64)
  /-- R375. %ptime reaches 2^64 − 2^56, and a ptime-horizon event is posted. -/
  | ptimeHorizon
  /-- R370. A UALink read, write or atomic from a peer is served. -/
  | ualinkRequest (job : W32) (va : Nat) (op : AgentOp)
  /-- R395. The retired-work sum passes a multiple of 2^24, and a recording context takes a checkpoint. -/
  | checkpointAuto (ctx : Nat)
  /-- R400. %ptime reaches tg.time, and every snapshot register latches. -/
  | snapshotTimeTrigger
  /-- R400. A write to the trigger block sets the time, arm and source fields. -/
  | tgWrite (hi : Bool) (v : W64)
  /-- R400. Writing 1 to tg.full releases the latched snapshot. -/
  | tgFullClear
  /-- R367. Writing the snapshot index selects which latched record is exposed. -/
  | snapshotIndexWrite (v : W64)
  /-- R405. At power-on everything is cleared and the boot ROM runs. -/
  | coldReset (img : Image)
  /-- R404. The host writes a new image to the recovery window, and the image is verified. -/
  | recoveryImageWrite (img : Image)
  /-- R405. A warm-reset request makes every context DEAD, takes every port DOWN and frees reservations, scrubbing HBM if requested. -/
  | warmReset (scrub : Bool)
  /-- R406. A GET_MEASUREMENTS request is answered with signed measurements. -/
  | spdmGetMeasurements (nonce : BitVec 256)
  /-- R407. pw.now would exceed pw.lim, so issue is withheld from D1 to D3 and a power-cap event is posted. -/
  | powerCap (now : BitVec 16)
  /-- R407. pw.tj reaches 105 °C, so issue is withheld and a thermal event is posted. -/
  | thermalThrottle (tj : Byte)
  /-- R407. pw.tj reaches 120 °C, so every core, engine and port stops and a thermal-trip event is posted. -/
  | thermalTrip (tj : Byte)
  /-- R407. pw.tj falls below 95 °C, and execution resumes. -/
  | thermalTripEnd (tj : Byte)
  /-- R407. A write to the power block sets pw.lim or clears the event bits. -/
  | pwWrite (v : W64)
  /-- R409. When room returns, held events are posted in order. -/
  | eventRingDrain
  /-- R409. The driver advances ev.head, freeing ring room. -/
  | evHeadWrite (v : W64)
  /-- R409. The driver clears an ev.lost counter by writing zero. -/
  | evLostClear (kind : Nat)
  /-- R17. A gate-request write power-gates or ungates a core that holds no context. -/
  | coreGateWrite (word : Nat) (v : W64)
  /-- R367. A BAR0 write to a management register that has no behaviour of its own. -/
  | registerWrite (off : Nat) (v : W64)
  /-- R53. An issued word with a reserved major or an unassigned code raises a precise illegal-instruction trap, cause 0x01, and has no other effect. -/
  | illegalInstruction (word : W32)
  /-- R359. The host acknowledges receipt of a forwarded system call, and the journal moves the call from SENT to ACKED. -/
  | syscallReceiptAck (seq : Nat)
  /-- R369. An NVMe controller on a storage root port writes read data into the HBM staging region. -/
  | nvmeStagingWrite (pa : Nat) (data : List Byte)
  /-- R375. A Precision Time Measurement exchange with the host disciplines the device's pod time in UALink mode or when no fabric port is UP. -/
  | precisionTimeMeasurement (t : W64)
  /-- R186. The proxy home evicts a host line it holds, writing back a Modified line with DirtyEvict or dropping a Shared one. -/
  | proxyLineEvict (line : Nat)
  /-- R407. Measured power falls back within pw.lim, or pw.tj falls below 105 °C, and the device stops withholding issue. -/
  | issueWithholdEnd (now : BitVec 16) (tj : Byte)
  deriving DecidableEq, Repr

end Sys2Proof
end

