-- ==== Sys2Proof/Decode.lean ====
section
/-! DEFINITION. The decoder, total on any 32-bit word, and the encoder, both written from the encoding tables of
02_encoding (R31, R48, R53 to R69). The decoder answers the opcode-table row whose fixed bits the word has; operand
classes (R49) and the registers that a thread owns (R44) are WellFormed's. -/
namespace Sys2Proof

/-- Why a word is no instruction: an unassigned fn or op code, a reserved major, or a nonzero must-be-zero field (R8). -/
inductive Reject where
  | code | major | field
  deriving DecidableEq, Repr

/-- The C and S bits of a word (R31). -/
def csOf (w : W32) : CS := ⟨w.getLsbD 31, w.getLsbD 30⟩
/-- MAJ, bits 29:24 (R31). -/
def majOf (w : W32) : Fld := w.extractLsb' 24 6
/-- Bits 23:18: the d field of RRR, the a field of ENG (R48). -/
def fldD (w : W32) : Fld := w.extractLsb' 18 6
/-- Bits 17:12. -/
def fldA (w : W32) : Fld := w.extractLsb' 12 6
/-- Bits 11:6. -/
def fldB (w : W32) : Fld := w.extractLsb' 6 6
/-- Bits 5:0: fn, or the c field of RRRR. -/
def fldF (w : W32) : Fld := w.extractLsb' 0 6

/-- Major 0x00 (R53). -/
noncomputable def decodeCtl (cs : CS) (d a b f : Fld) : Except Reject Instr :=
  match (f).toNat with
  | 0 => if d = 0 ∧ a = 0 ∧ b = 0 then .ok (.nop cs) else .error .field
  | 1 => if d = 0 ∧ a = 0 then .ok (.brk cs b) else .error .field
  | 2 => if d = 0 ∧ a = 0 ∧ b = 0 then .ok (.exit cs) else .error .field
  | 3 => if d = 0 ∧ a = 0 ∧ b = 0 then .ok (.yld cs) else .error .field
  | 4 => if d = 0 ∧ a = 0 ∧ b = 0 then .ok (.sys cs) else .error .field
  | 5 => if d = 0 ∧ a = 0 ∧ b = 0 then .ok (.sigret cs) else .error .field
  | 6 => if a = 0 then .ok (.rds cs d b) else .error .field
  | 7 => if d = 0 then .ok (.wrs cs a b) else .error .field
  | 8 => if d = 0 ∧ a = 0 ∧ b = 0 then .ok (.iret cs) else .error .field
  | _ => .error .code

/-- Major 0x01 (R53). -/
noncomputable def decodeBr (cs : CS) (d a b f : Fld) : Except Reject Instr :=
  .ok (.br cs (d.extractLsb' 5 1) (d.extractLsb' 2 3) (d.extractLsb' 0 2 ++ a ++ b ++ f))

/-- Major 0x02 (R53). -/
noncomputable def decodeJmp (cs : CS) (d a b f : Fld) : Except Reject Instr :=
  .ok (.jmp cs (d ++ a ++ b ++ f))

/-- Major 0x03 (R53). -/
noncomputable def decodeCall (cs : CS) (d a b f : Fld) : Except Reject Instr :=
  .ok (.call cs (d ++ a ++ b ++ f))

/-- Major 0x04 (R53). -/
noncomputable def decodeJx (cs : CS) (d a b f : Fld) : Except Reject Instr :=
  match (f).toNat with
  | 0 => if d = 0 ∧ b = 0 then .ok (.jmpi cs a) else .error .field
  | 1 => if d = 0 ∧ b = 0 then .ok (.calli cs a) else .error .field
  | 2 => if d = 0 ∧ a = 0 ∧ b = 0 then .ok (.ret cs) else .error .field
  | _ => .error .code

/-- Major 0x05 (R53). -/
noncomputable def decodeGrp (cs : CS) (d a b f : Fld) : Except Reject Instr :=
  match (f).toNat with
  | 0 => if d = 0 ∧ b = 0 then .ok (.reconv cs a) else .error .field
  | 1 => if d.extractLsb' 3 3 = 0 ∧ a.extractLsb' 3 3 = 0 then .ok (.pollOr cs (d.extractLsb' 0 3) (a.extractLsb' 0 3) b) else .error .field
  | 2 => if d.extractLsb' 3 3 = 0 ∧ a.extractLsb' 3 3 = 0 then .ok (.pollAnd cs (d.extractLsb' 0 3) (a.extractLsb' 0 3) b) else .error .field
  | 3 => if d.extractLsb' 3 3 = 0 ∧ a.extractLsb' 3 3 = 0 then .ok (.pollSame cs (d.extractLsb' 0 3) (a.extractLsb' 0 3) b) else .error .field
  | 4 => if a.extractLsb' 3 3 = 0 then .ok (.gmask cs d (a.extractLsb' 0 3) b) else .error .field
  | 8 => .ok (.xchAt cs d a b)
  | 9 => .ok (.xchBack cs d a b)
  | 10 => .ok (.xchFwd cs d a b)
  | 11 => .ok (.xchFlip cs d a b)
  | 16 => .ok (.redAddI32 cs d a b)
  | 17 => .ok (.redAddI64 cs d a b)
  | 18 => .ok (.redMinI32 cs d a b)
  | 19 => .ok (.redMinN32 cs d a b)
  | 20 => .ok (.redMaxI32 cs d a b)
  | 21 => .ok (.redMaxN32 cs d a b)
  | 22 => .ok (.redMinI64 cs d a b)
  | 23 => .ok (.redMinN64 cs d a b)
  | 24 => .ok (.redMaxI64 cs d a b)
  | 25 => .ok (.redMaxN64 cs d a b)
  | 26 => .ok (.redAddF32 cs d a b)
  | 27 => .ok (.redMinF32 cs d a b)
  | 28 => .ok (.redMaxF32 cs d a b)
  | 29 => .ok (.redAddF64 cs d a b)
  | 30 => .ok (.redMinF64 cs d a b)
  | 31 => .ok (.redMaxF64 cs d a b)
  | 32 => .ok (.scanAddI32 cs d a b)
  | 33 => .ok (.scanAddI64 cs d a b)
  | 34 => .ok (.scanAddF32 cs d a b)
  | 35 => .ok (.scanAddF64 cs d a b)
  | 40 => .ok (.vmrgLoN64 cs d a b)
  | 41 => .ok (.vmrgHiN64 cs d a b)
  | 42 => .ok (.vmrgLoI64 cs d a b)
  | 43 => .ok (.vmrgHiI64 cs d a b)
  | 44 => .ok (.bsortN64 cs d a b)
  | 45 => .ok (.bsortI64 cs d a b)
  | 46 => .ok (.rankN64 cs d a b)
  | 47 => .ok (.rankI64 cs d a b)
  | _ => .error .code

/-- Major 0x06 (R53). -/
noncomputable def decodeImx (cs : CS) (d a b f : Fld) : Except Reject Instr :=
  if cs.c then .ok (.imx cs (d ++ a ++ b ++ f)) else .error .field

/-- Major 0x07 (R53). -/
noncomputable def decodeMovi (cs : CS) (d a b f : Fld) : Except Reject Instr :=
  .ok (.movi cs d (a ++ b ++ f))

/-- Major 0x08 (R53). -/
noncomputable def decodeI32 (cs : CS) (d a b f : Fld) : Except Reject Instr :=
  match (f).toNat with
  | 0 => .ok (.add cs d a b)
  | 1 => .ok (.sub cs d a b)
  | 2 => .ok (.mul cs d a b)
  | 3 => .ok (.mulhI32 cs d a b)
  | 4 => .ok (.mulhN32 cs d a b)
  | 5 => .ok (.addSatI32 cs d a b)
  | 6 => .ok (.addSatN32 cs d a b)
  | 7 => .ok (.subSatI32 cs d a b)
  | 8 => .ok (.subSatN32 cs d a b)
  | 9 => .ok (.minI32 cs d a b)
  | 10 => .ok (.minN32 cs d a b)
  | 11 => .ok (.maxI32 cs d a b)
  | 12 => .ok (.maxN32 cs d a b)
  | 13 => if b = 0 then .ok (.abs cs d a) else .error .field
  | 14 => if b = 0 then .ok (.neg cs d a) else .error .field
  | 16 => .ok (.and cs d a b)
  | 17 => .ok (.or cs d a b)
  | 18 => .ok (.xor cs d a b)
  | 19 => .ok (.andn cs d a b)
  | 20 => if b = 0 then .ok (.not cs d a) else .error .field
  | 24 => .ok (.shl cs d a b)
  | 25 => .ok (.shr cs d a b)
  | 26 => .ok (.sar cs d a b)
  | 27 => .ok (.rotl cs d a b)
  | 28 => .ok (.rotr cs d a b)
  | 32 => if b = 0 then .ok (.bcnt cs d a) else .error .field
  | 33 => if b = 0 then .ok (.lzc cs d a) else .error .field
  | 34 => if b = 0 then .ok (.tzc cs d a) else .error .field
  | 35 => if b = 0 then .ok (.bitrev cs d a) else .error .field
  | 36 => if b = 0 then .ok (.byterev cs d a) else .error .field
  | 40 => .ok (.saddX2 cs d a b)
  | 41 => .ok (.saddX4 cs d a b)
  | 42 => .ok (.saddX8 cs d a b)
  | 43 => .ok (.saddX16 cs d a b)
  | 44 => if b = 0 then .ok (.mov cs d a) else .error .field
  | _ => .error .code

/-- Major 0x09 (R53). -/
noncomputable def decodeI32i (cs : CS) (d a b f : Fld) : Except Reject Instr :=
  match (b.extractLsb' 3 3).toNat with
  | 0 => .ok (.addi cs d a (b.extractLsb' 0 3 ++ f))
  | 1 => .ok (.andi cs d a (b.extractLsb' 0 3 ++ f))
  | 2 => .ok (.ori cs d a (b.extractLsb' 0 3 ++ f))
  | 3 => .ok (.xori cs d a (b.extractLsb' 0 3 ++ f))
  | 4 => .ok (.shli cs d a (b.extractLsb' 0 3 ++ f))
  | 5 => .ok (.shri cs d a (b.extractLsb' 0 3 ++ f))
  | 6 => .ok (.sari cs d a (b.extractLsb' 0 3 ++ f))
  | 7 => .ok (.muli cs d a (b.extractLsb' 0 3 ++ f))
  | _ => .error .code

/-- Major 0x0A (R53). -/
noncomputable def decodeI32c (cs : CS) (d a b f : Fld) : Except Reject Instr :=
  match (f).toNat with
  | 0 => if d.extractLsb' 3 3 = 0 then .ok (.cmpEqI32 cs (d.extractLsb' 0 3) a b) else .error .field
  | 1 => if d.extractLsb' 3 3 = 0 then .ok (.cmpNeI32 cs (d.extractLsb' 0 3) a b) else .error .field
  | 2 => if d.extractLsb' 3 3 = 0 then .ok (.cmpLtI32 cs (d.extractLsb' 0 3) a b) else .error .field
  | 3 => if d.extractLsb' 3 3 = 0 then .ok (.cmpLeI32 cs (d.extractLsb' 0 3) a b) else .error .field
  | 4 => if d.extractLsb' 3 3 = 0 then .ok (.cmpGtI32 cs (d.extractLsb' 0 3) a b) else .error .field
  | 5 => if d.extractLsb' 3 3 = 0 then .ok (.cmpGeI32 cs (d.extractLsb' 0 3) a b) else .error .field
  | 6 => if d.extractLsb' 3 3 = 0 then .ok (.cmpLtN32 cs (d.extractLsb' 0 3) a b) else .error .field
  | 7 => if d.extractLsb' 3 3 = 0 then .ok (.cmpLeN32 cs (d.extractLsb' 0 3) a b) else .error .field
  | 8 => if d.extractLsb' 3 3 = 0 then .ok (.cmpGtN32 cs (d.extractLsb' 0 3) a b) else .error .field
  | 9 => if d.extractLsb' 3 3 = 0 then .ok (.cmpGeN32 cs (d.extractLsb' 0 3) a b) else .error .field
  | _ => .error .code

/-- Major 0x0B (R53). -/
noncomputable def decodeMad32 (cs : CS) (d a b f : Fld) : Except Reject Instr :=
  .ok (.muladd cs d a b f)

/-- Major 0x0C (R53). -/
noncomputable def decodeI64 (cs : CS) (d a b f : Fld) : Except Reject Instr :=
  match (f).toNat with
  | 0 => .ok (.addI64 cs d a b)
  | 1 => .ok (.subI64 cs d a b)
  | 2 => .ok (.mulI64 cs d a b)
  | 3 => .ok (.mulhI64 cs d a b)
  | 4 => .ok (.mulhN64 cs d a b)
  | 5 => .ok (.addSatI64 cs d a b)
  | 6 => .ok (.addSatN64 cs d a b)
  | 7 => .ok (.subSatI64 cs d a b)
  | 8 => .ok (.subSatN64 cs d a b)
  | 9 => .ok (.minI64 cs d a b)
  | 10 => .ok (.minN64 cs d a b)
  | 11 => .ok (.maxI64 cs d a b)
  | 12 => .ok (.maxN64 cs d a b)
  | 13 => if b = 0 then .ok (.absI64 cs d a) else .error .field
  | 14 => if b = 0 then .ok (.negI64 cs d a) else .error .field
  | 16 => .ok (.andI64 cs d a b)
  | 17 => .ok (.orI64 cs d a b)
  | 18 => .ok (.xorI64 cs d a b)
  | 19 => .ok (.andnI64 cs d a b)
  | 20 => if b = 0 then .ok (.notI64 cs d a) else .error .field
  | 24 => .ok (.shlI64 cs d a b)
  | 25 => .ok (.shrI64 cs d a b)
  | 26 => .ok (.sarI64 cs d a b)
  | 27 => .ok (.rotlI64 cs d a b)
  | 28 => .ok (.rotrI64 cs d a b)
  | 32 => if b = 0 then .ok (.bcntI64 cs d a) else .error .field
  | 33 => if b = 0 then .ok (.lzcI64 cs d a) else .error .field
  | 34 => if b = 0 then .ok (.tzcI64 cs d a) else .error .field
  | 35 => if b = 0 then .ok (.bitrevI64 cs d a) else .error .field
  | 36 => if b = 0 then .ok (.byterevI64 cs d a) else .error .field
  | 40 => .ok (.saddX2I64 cs d a b)
  | 41 => .ok (.saddX4I64 cs d a b)
  | 42 => .ok (.saddX8I64 cs d a b)
  | 43 => .ok (.saddX16I64 cs d a b)
  | 44 => if b = 0 then .ok (.movI64 cs d a) else .error .field
  | 48 => .ok (.addwI32 cs d a b)
  | 49 => .ok (.addwN32 cs d a b)
  | 50 => .ok (.mulxI32 cs d a b)
  | 51 => .ok (.mulxN32 cs d a b)
  | _ => .error .code

/-- Major 0x0D (R53). -/
noncomputable def decodeI64c (cs : CS) (d a b f : Fld) : Except Reject Instr :=
  match (f).toNat with
  | 0 => if d.extractLsb' 3 3 = 0 then .ok (.cmpEqI64 cs (d.extractLsb' 0 3) a b) else .error .field
  | 1 => if d.extractLsb' 3 3 = 0 then .ok (.cmpNeI64 cs (d.extractLsb' 0 3) a b) else .error .field
  | 2 => if d.extractLsb' 3 3 = 0 then .ok (.cmpLtI64 cs (d.extractLsb' 0 3) a b) else .error .field
  | 3 => if d.extractLsb' 3 3 = 0 then .ok (.cmpLeI64 cs (d.extractLsb' 0 3) a b) else .error .field
  | 4 => if d.extractLsb' 3 3 = 0 then .ok (.cmpGtI64 cs (d.extractLsb' 0 3) a b) else .error .field
  | 5 => if d.extractLsb' 3 3 = 0 then .ok (.cmpGeI64 cs (d.extractLsb' 0 3) a b) else .error .field
  | 6 => if d.extractLsb' 3 3 = 0 then .ok (.cmpLtN64 cs (d.extractLsb' 0 3) a b) else .error .field
  | 7 => if d.extractLsb' 3 3 = 0 then .ok (.cmpLeN64 cs (d.extractLsb' 0 3) a b) else .error .field
  | 8 => if d.extractLsb' 3 3 = 0 then .ok (.cmpGtN64 cs (d.extractLsb' 0 3) a b) else .error .field
  | 9 => if d.extractLsb' 3 3 = 0 then .ok (.cmpGeN64 cs (d.extractLsb' 0 3) a b) else .error .field
  | _ => .error .code

/-- Major 0x0E (R53). -/
noncomputable def decodeBits (cs : CS) (d a b f : Fld) : Except Reject Instr :=
  match (f).toNat with
  | 0 => .ok (.fextN32 cs d a b)
  | 1 => .ok (.fextI32 cs d a b)
  | 2 => .ok (.fins cs d a b)
  | 3 => .ok (.bpick cs d a b)
  | 4 => .ok (.bfn3 cs d a b)
  | _ => .error .code

/-- Major 0x0F (R53). -/
noncomputable def decodeSel (cs : CS) (d a b f : Fld) : Except Reject Instr :=
  match (f.extractLsb' 4 2).toNat with
  | 0 => .ok (.sel cs d a b (f.extractLsb' 3 1) (f.extractLsb' 0 3))
  | 1 => .ok (.selI64 cs d a b (f.extractLsb' 3 1) (f.extractLsb' 0 3))
  | _ => .error .code

/-- Major 0x10 (R53). -/
noncomputable def decodeF32 (cs : CS) (d a b f : Fld) : Except Reject Instr :=
  match (f).toNat with
  | 0 => .ok (.addF32 cs d a b)
  | 1 => .ok (.subF32 cs d a b)
  | 2 => .ok (.mulF32 cs d a b)
  | 3 => .ok (.minF32 cs d a b)
  | 4 => .ok (.maxF32 cs d a b)
  | 5 => if b = 0 then .ok (.absF32 cs d a) else .error .field
  | 6 => if b = 0 then .ok (.negF32 cs d a) else .error .field
  | 7 => .ok (.cpsgnF32 cs d a b)
  | _ => .error .code

/-- Major 0x11 (R53). -/
noncomputable def decodeFma32 (cs : CS) (d a b f : Fld) : Except Reject Instr :=
  .ok (.fmaF32 cs d a b f)

/-- Major 0x12 (R53). -/
noncomputable def decodeF64 (cs : CS) (d a b f : Fld) : Except Reject Instr :=
  match (f).toNat with
  | 0 => .ok (.addF64 cs d a b)
  | 1 => .ok (.subF64 cs d a b)
  | 2 => .ok (.mulF64 cs d a b)
  | 3 => .ok (.minF64 cs d a b)
  | 4 => .ok (.maxF64 cs d a b)
  | 5 => if b = 0 then .ok (.absF64 cs d a) else .error .field
  | 6 => if b = 0 then .ok (.negF64 cs d a) else .error .field
  | 7 => .ok (.cpsgnF64 cs d a b)
  | _ => .error .code

/-- Major 0x13 (R53). -/
noncomputable def decodeFma64 (cs : CS) (d a b f : Fld) : Except Reject Instr :=
  .ok (.fmaF64 cs d a b f)

/-- Major 0x14 (R53). -/
noncomputable def decodeF16x2 (cs : CS) (d a b f : Fld) : Except Reject Instr :=
  match (f).toNat with
  | 0 => .ok (.addF16x2 cs d a b)
  | 1 => .ok (.subF16x2 cs d a b)
  | 2 => .ok (.mulF16x2 cs d a b)
  | 3 => .ok (.minF16x2 cs d a b)
  | 4 => .ok (.maxF16x2 cs d a b)
  | 5 => if b = 0 then .ok (.absF16x2 cs d a) else .error .field
  | 6 => if b = 0 then .ok (.negF16x2 cs d a) else .error .field
  | 8 => .ok (.addBf16x2 cs d a b)
  | 9 => .ok (.subBf16x2 cs d a b)
  | 10 => .ok (.mulBf16x2 cs d a b)
  | 11 => .ok (.minBf16x2 cs d a b)
  | 12 => .ok (.maxBf16x2 cs d a b)
  | 13 => if b = 0 then .ok (.absBf16x2 cs d a) else .error .field
  | 14 => if b = 0 then .ok (.negBf16x2 cs d a) else .error .field
  | _ => .error .code

/-- Major 0x15 (R53). -/
noncomputable def decodeFma16x2 (cs : CS) (d a b f : Fld) : Except Reject Instr :=
  .ok (.fmaF16x2 cs d a b f)

/-- Major 0x16 (R53). -/
noncomputable def decodeFmaBf2 (cs : CS) (d a b f : Fld) : Except Reject Instr :=
  .ok (.fmaBf16x2 cs d a b f)

/-- Major 0x17 (R53). -/
noncomputable def decodeFcmp (cs : CS) (d a b f : Fld) : Except Reject Instr :=
  match (f.extractLsb' 4 2).toNat with
  | 0 => if d.extractLsb' 3 3 = 0 then .ok (.fcmpF32 cs (d.extractLsb' 0 3) a b (f.extractLsb' 0 4)) else .error .field
  | 1 => if d.extractLsb' 3 3 = 0 then .ok (.fcmpF64 cs (d.extractLsb' 0 3) a b (f.extractLsb' 0 4)) else .error .field
  | _ => .error .code

/-- Major 0x18 (R53). -/
noncomputable def decodeSfu (cs : CS) (d a b f : Fld) : Except Reject Instr :=
  match (f).toNat with
  | 0 => if b = 0 then .ok (.frcpF32 cs d a) else .error .field
  | 1 => if b = 0 then .ok (.frsqF32 cs d a) else .error .field
  | 2 => if b = 0 then .ok (.exp2F32 cs d a) else .error .field
  | 3 => if b = 0 then .ok (.log2F32 cs d a) else .error .field
  | 4 => if b = 0 then .ok (.sinF32 cs d a) else .error .field
  | 5 => if b = 0 then .ok (.cosF32 cs d a) else .error .field
  | 6 => if b = 0 then .ok (.tanhF32 cs d a) else .error .field
  | 8 => if b = 0 then .ok (.frcpF64 cs d a) else .error .field
  | 9 => if b = 0 then .ok (.frsqF64 cs d a) else .error .field
  | _ => .error .code

/-- Major 0x19 (R53). -/
noncomputable def decodeFfix (cs : CS) (d a b f : Fld) : Except Reject Instr :=
  match (f).toNat with
  | 0 => .ok (.fdivfixF32 cs d a b)
  | 1 => if b = 0 then .ok (.fsqrtfixF32 cs d a) else .error .field
  | 2 => if b = 0 then .ok (.fclassF32 cs d a) else .error .field
  | 3 => .ok (.frndF32 cs d a b)
  | 4 => .ok (.fscaleF32 cs d a b)
  | 5 => if b = 0 then .ok (.fexpoF32 cs d a) else .error .field
  | 16 => .ok (.fdivfixF64 cs d a b)
  | 17 => if b = 0 then .ok (.fsqrtfixF64 cs d a) else .error .field
  | 18 => if b = 0 then .ok (.fclassF64 cs d a) else .error .field
  | 19 => .ok (.frndF64 cs d a b)
  | 20 => .ok (.fscaleF64 cs d a b)
  | 21 => if b = 0 then .ok (.fexpoF64 cs d a) else .error .field
  | _ => .error .code

/-- Major 0x1A (R53). -/
noncomputable def decodeCvt (cs : CS) (d a b f : Fld) : Except Reject Instr :=
  match (f).toNat with
  | 0 => if b.extractLsb' 3 3 = 0 then .ok (.cvtF32F64 cs d a (b.extractLsb' 0 3)) else .error .field
  | 1 => if b.extractLsb' 3 3 = 0 then .ok (.cvtF64F32 cs d a (b.extractLsb' 0 3)) else .error .field
  | 2 => if b.extractLsb' 3 3 = 0 then .ok (.cvtF16F32 cs d a (b.extractLsb' 0 3)) else .error .field
  | 3 => if b.extractLsb' 3 3 = 0 then .ok (.cvtF32F16 cs d a (b.extractLsb' 0 3)) else .error .field
  | 4 => if b.extractLsb' 3 3 = 0 then .ok (.cvtBf16F32 cs d a (b.extractLsb' 0 3)) else .error .field
  | 5 => if b.extractLsb' 3 3 = 0 then .ok (.cvtF32Bf16 cs d a (b.extractLsb' 0 3)) else .error .field
  | 6 => if b.extractLsb' 3 3 = 0 then .ok (.cvtF16x2F32 cs d a (b.extractLsb' 0 3)) else .error .field
  | 7 => if b.extractLsb' 3 3 = 0 then .ok (.cvtBf16x2F32 cs d a (b.extractLsb' 0 3)) else .error .field
  | 8 => if b.extractLsb' 3 3 = 0 then .ok (.cvtF32I32 cs d a (b.extractLsb' 0 3)) else .error .field
  | 9 => if b.extractLsb' 3 3 = 0 then .ok (.cvtF32N32 cs d a (b.extractLsb' 0 3)) else .error .field
  | 10 => if b.extractLsb' 3 3 = 0 then .ok (.cvtI32F32 cs d a (b.extractLsb' 0 3)) else .error .field
  | 11 => if b.extractLsb' 3 3 = 0 then .ok (.cvtN32F32 cs d a (b.extractLsb' 0 3)) else .error .field
  | 12 => if b.extractLsb' 3 3 = 0 then .ok (.cvtF64I64 cs d a (b.extractLsb' 0 3)) else .error .field
  | 13 => if b.extractLsb' 3 3 = 0 then .ok (.cvtF64N64 cs d a (b.extractLsb' 0 3)) else .error .field
  | 14 => if b.extractLsb' 3 3 = 0 then .ok (.cvtI64F64 cs d a (b.extractLsb' 0 3)) else .error .field
  | 15 => if b.extractLsb' 3 3 = 0 then .ok (.cvtN64F64 cs d a (b.extractLsb' 0 3)) else .error .field
  | 16 => if b.extractLsb' 3 3 = 0 then .ok (.cvtF64I32 cs d a (b.extractLsb' 0 3)) else .error .field
  | 17 => if b.extractLsb' 3 3 = 0 then .ok (.cvtF64N32 cs d a (b.extractLsb' 0 3)) else .error .field
  | 18 => if b.extractLsb' 3 3 = 0 then .ok (.cvtI32F64 cs d a (b.extractLsb' 0 3)) else .error .field
  | 19 => if b.extractLsb' 3 3 = 0 then .ok (.cvtN32F64 cs d a (b.extractLsb' 0 3)) else .error .field
  | 20 => if b.extractLsb' 3 3 = 0 then .ok (.cvtF32I64 cs d a (b.extractLsb' 0 3)) else .error .field
  | 21 => if b.extractLsb' 3 3 = 0 then .ok (.cvtF32N64 cs d a (b.extractLsb' 0 3)) else .error .field
  | 22 => if b.extractLsb' 3 3 = 0 then .ok (.cvtI64F32 cs d a (b.extractLsb' 0 3)) else .error .field
  | 23 => if b.extractLsb' 3 3 = 0 then .ok (.cvtN64F32 cs d a (b.extractLsb' 0 3)) else .error .field
  | 24 => if b.extractLsb' 3 3 = 0 then .ok (.cvtI64I32 cs d a (b.extractLsb' 0 3)) else .error .field
  | 25 => if b.extractLsb' 3 3 = 0 then .ok (.cvtN64N32 cs d a (b.extractLsb' 0 3)) else .error .field
  | 26 => if b.extractLsb' 3 3 = 0 then .ok (.cvtSatI32I64 cs d a (b.extractLsb' 0 3)) else .error .field
  | 27 => if b.extractLsb' 3 3 = 0 then .ok (.cvtSatN32N64 cs d a (b.extractLsb' 0 3)) else .error .field
  | 32 => if b.extractLsb' 3 3 = 0 then .ok (.cvtF64Td8 cs d a (b.extractLsb' 0 3)) else .error .field
  | 33 => if b.extractLsb' 4 2 = 0 then .ok (.cvtTd8F64 cs d a (b.extractLsb' 3 1) (b.extractLsb' 0 3)) else .error .field
  | 34 => if b.extractLsb' 3 3 = 0 then .ok (.cvtF32Td8 cs d a (b.extractLsb' 0 3)) else .error .field
  | 35 => if b.extractLsb' 4 2 = 0 then .ok (.cvtTd8F32 cs d a (b.extractLsb' 3 1) (b.extractLsb' 0 3)) else .error .field
  | _ => .error .code

/-- Major 0x1B (R53). -/
noncomputable def decodeNcvt (cs : CS) (d a b f : Fld) : Except Reject Instr :=
  match (f.extractLsb' 3 3).toNat with
  | 0 => .ok (.npk cs d a b (f.extractLsb' 0 3))
  | 1 => .ok (.npkSat cs d a b (f.extractLsb' 0 3))
  | 2 => .ok (.nupk cs d a b (f.extractLsb' 0 3))
  | 3 => if b = 0 then .ok (.nscl cs d a (f.extractLsb' 0 3)) else .error .field
  | _ => .error .code

/-- Major 0x20 (R53). -/
noncomputable def decodeLd (cs : CS) (d a b f : Fld) : Except Reject Instr :=
  .ok (.ld cs d a (b.extractLsb' 1 5) (b.extractLsb' 0 1 ++ f.extractLsb' 4 2) (f.extractLsb' 2 2) (f.extractLsb' 0 2))

/-- Major 0x21 (R53). -/
noncomputable def decodeSt (cs : CS) (d a b f : Fld) : Except Reject Instr :=
  .ok (.st cs d a (b.extractLsb' 1 5) (b.extractLsb' 0 1 ++ f.extractLsb' 4 2) (f.extractLsb' 2 2) (f.extractLsb' 0 2))

/-- Major 0x22 (R53). -/
noncomputable def decodeLdg (cs : CS) (d a b f : Fld) : Except Reject Instr :=
  .ok (.ldg cs d a (b.extractLsb' 1 5) (b.extractLsb' 0 1 ++ f.extractLsb' 4 2) (f.extractLsb' 2 2) (f.extractLsb' 0 2))

/-- Major 0x23 (R53). -/
noncomputable def decodeStg (cs : CS) (d a b f : Fld) : Except Reject Instr :=
  .ok (.stg cs d a (b.extractLsb' 1 5) (b.extractLsb' 0 1 ++ f.extractLsb' 4 2) (f.extractLsb' 2 2) (f.extractLsb' 0 2))

/-- Major 0x24 (R53). -/
noncomputable def decodeAtmi (cs : CS) (d a b f : Fld) : Except Reject Instr :=
  match (f.extractLsb' 2 4).toNat with
  | 0 => .ok (.atomAddN32 cs d a b (f.extractLsb' 0 2))
  | 1 => .ok (.atomAndB32 cs d a b (f.extractLsb' 0 2))
  | 2 => .ok (.atomOrB32 cs d a b (f.extractLsb' 0 2))
  | 3 => .ok (.atomXorB32 cs d a b (f.extractLsb' 0 2))
  | 4 => .ok (.atomMinI32 cs d a b (f.extractLsb' 0 2))
  | 5 => .ok (.atomMaxI32 cs d a b (f.extractLsb' 0 2))
  | 6 => .ok (.atomMinN32 cs d a b (f.extractLsb' 0 2))
  | 7 => .ok (.atomMaxN32 cs d a b (f.extractLsb' 0 2))
  | 8 => .ok (.atomAddN64 cs d a b (f.extractLsb' 0 2))
  | 9 => .ok (.atomAndB64 cs d a b (f.extractLsb' 0 2))
  | 10 => .ok (.atomOrB64 cs d a b (f.extractLsb' 0 2))
  | 11 => .ok (.atomXorB64 cs d a b (f.extractLsb' 0 2))
  | 12 => .ok (.atomMinI64 cs d a b (f.extractLsb' 0 2))
  | 13 => .ok (.atomMaxI64 cs d a b (f.extractLsb' 0 2))
  | 14 => .ok (.atomMinN64 cs d a b (f.extractLsb' 0 2))
  | 15 => .ok (.atomMaxN64 cs d a b (f.extractLsb' 0 2))
  | _ => .error .code

/-- Major 0x25 (R53). -/
noncomputable def decodeAtmx (cs : CS) (d a b f : Fld) : Except Reject Instr :=
  match (f.extractLsb' 2 4).toNat with
  | 0 => .ok (.atomXchgB32 cs d a b (f.extractLsb' 0 2))
  | 1 => .ok (.atomCasB32 cs d a b (f.extractLsb' 0 2))
  | 2 => .ok (.atomXchgB64 cs d a b (f.extractLsb' 0 2))
  | 3 => .ok (.atomCasB64 cs d a b (f.extractLsb' 0 2))
  | 4 => .ok (.atomAddF32 cs d a b (f.extractLsb' 0 2))
  | 5 => .ok (.atomMinF32 cs d a b (f.extractLsb' 0 2))
  | 6 => .ok (.atomMaxF32 cs d a b (f.extractLsb' 0 2))
  | 7 => .ok (.atomAddF64 cs d a b (f.extractLsb' 0 2))
  | 8 => .ok (.atomMinF64 cs d a b (f.extractLsb' 0 2))
  | 9 => .ok (.atomMaxF64 cs d a b (f.extractLsb' 0 2))
  | 10 => .ok (.atomAddF16x2 cs d a b (f.extractLsb' 0 2))
  | 11 => .ok (.atomAddBf16x2 cs d a b (f.extractLsb' 0 2))
  | _ => .error .code

/-- Major 0x26 (R53). -/
noncomputable def decodeMsync (cs : CS) (d a b f : Fld) : Except Reject Instr :=
  match (f).toNat with
  | 0 => if d = 0 ∧ a = 0 ∧ b = 0 then .ok (.fence cs) else .error .field
  | 1 => .ok (.mwaitB32 cs d a b)
  | 2 => .ok (.mwaitB64 cs d a b)
  | 8 => .ok (.mwsub cs d a b)
  | 9 => if d = 0 ∧ b = 0 then .ok (.mwend cs a) else .error .field
  | 10 => if b = 0 then .ok (.mwseq cs d a) else .error .field
  | 11 => if d = 0 then .ok (.mwsync cs a b) else .error .field
  | 16 => if d = 0 then .ok (.pfch cs a b) else .error .field
  | _ => .error .code

/-- Major 0x27 (R53). -/
noncomputable def decodeTag (cs : CS) (d a b f : Fld) : Except Reject Instr :=
  match (f).toNat with
  | 0 => if b = 0 then .ok (.tlook cs d a) else .error .field
  | 1 => if d = 0 then .ok (.tset cs a b) else .error .field
  | 2 => if d = 0 ∧ a = 0 then .ok (.tclr cs b) else .error .field
  | _ => .error .code

/-- Major 0x28 (R53). -/
noncomputable def decodeHdl (cs : CS) (d a b f : Fld) : Except Reject Instr :=
  match (f).toNat with
  | 0 => if d.extractLsb' 5 1 = 0 ∧ b = 0 then .ok (.hsel cs (d.extractLsb' 0 5) a) else .error .field
  | 1 => if a.extractLsb' 5 1 = 0 then .ok (.hget cs d (a.extractLsb' 0 5) b) else .error .field
  | 2 => if d = 0 then .ok (.hnew cs a b) else .error .field
  | 3 => if d = 0 ∧ b = 0 then .ok (.hrev cs a) else .error .field
  | _ => .error .code

/-- Major 0x29 (R53). -/
noncomputable def decodeBar (cs : CS) (d a b f : Fld) : Except Reject Instr :=
  match (f).toNat with
  | 0 => if d = 0 then .ok (.barInit cs a b) else .error .field
  | 1 => if b = 0 then .ok (.barChk cs d a) else .error .field
  | 2 => .ok (.barOwe cs d a b)
  | 3 => if d = 0 then .ok (.barWait cs a b) else .error .field
  | 4 => .ok (.barTry cs d a b)
  | _ => .error .code

/-- Major 0x2A (R53). -/
noncomputable def decodeSpl (cs : CS) (d a b f : Fld) : Except Reject Instr :=
  match (f).toNat with
  | 0 => if d = 0 then .ok (.sinit cs a b) else .error .field
  | 1 => .ok (.spush cs d a b)
  | 2 => if b = 0 then .ok (.spop cs d a) else .error .field
  | 3 => if d = 0 then .ok (.sallow cs a b) else .error .field
  | 4 => .ok (.spushTry cs d a b)
  | 5 => if b = 0 then .ok (.spopTry cs d a) else .error .field
  | _ => .error .code

/-- Major 0x2B (R53). -/
noncomputable def decodeSeam (cs : CS) (d a b f : Fld) : Except Reject Instr :=
  match (f).toNat with
  | 0 => if a = 0 then .ok (.smInit cs d b) else .error .field
  | 1 => if b = 0 then .ok (.smRd cs d a) else .error .field
  | _ => .error .code

/-- Major 0x2C (R53). -/
noncomputable def decodeTime (cs : CS) (d a b f : Fld) : Except Reject Instr :=
  match (f).toNat with
  | 0 => if a = 0 then .ok (.tgate cs d b) else .error .field
  | 1 => if b = 0 then .ok (.twait cs d a) else .error .field
  | _ => .error .code

/-- Major 0x2D (R53). -/
noncomputable def decodeCpy (cs : CS) (d a b f : Fld) : Except Reject Instr :=
  match (f).toNat with
  | 0 => .ok (.cpy cs d a b)
  | 1 => .ok (.cpyAt cs d a b)
  | 2 => .ok (.cpm cs d a b)
  | 3 => .ok (.drn cs d a b)
  | 4 => if a = 0 then .ok (.bld cs d b) else .error .field
  | 5 => if a = 0 then .ok (.gath cs d b) else .error .field
  | 6 => if b = 0 then .ok (.chain cs d a) else .error .field
  | _ => .error .code

/-- Major 0x2E (R53). -/
noncomputable def decodeWaitc (cs : CS) (d a b f : Fld) : Except Reject Instr :=
  if d = 0 ∧ a = 0 ∧ f.extractLsb' 2 4 = 0 then .ok (.waitc cs b (f.extractLsb' 0 2)) else .error .field

/-- Major 0x2F (R53). -/
noncomputable def decodeColl (cs : CS) (d a b f : Fld) : Except Reject Instr :=
  match (f.extractLsb' 0 4).toNat with
  | 0 => .ok (.collBcast cs d a b (f.extractLsb' 4 2))
  | 1 => .ok (.collRedAddF32 cs d a b (f.extractLsb' 4 2))
  | 2 => .ok (.collRedAddF64 cs d a b (f.extractLsb' 4 2))
  | 3 => .ok (.collRedAddI32 cs d a b (f.extractLsb' 4 2))
  | 4 => .ok (.collRedAddI64 cs d a b (f.extractLsb' 4 2))
  | 5 => .ok (.collRedMinF32 cs d a b (f.extractLsb' 4 2))
  | 6 => .ok (.collRedMaxF32 cs d a b (f.extractLsb' 4 2))
  | 7 => .ok (.collRedMinF64 cs d a b (f.extractLsb' 4 2))
  | 8 => .ok (.collRedMaxF64 cs d a b (f.extractLsb' 4 2))
  | 9 => .ok (.collRedMinI64 cs d a b (f.extractLsb' 4 2))
  | 10 => .ok (.collRedMaxI64 cs d a b (f.extractLsb' 4 2))
  | 11 => .ok (.collRedMinN64 cs d a b (f.extractLsb' 4 2))
  | 12 => .ok (.collRedMaxN64 cs d a b (f.extractLsb' 4 2))
  | _ => .error .code

/-- Major 0x30 (R53). -/
noncomputable def decodeMma (cs : CS) (d a b f : Fld) : Except Reject Instr :=
  match (b.extractLsb' 3 3).toNat with
  | 0 => if f.extractLsb' 0 2 = 0 then .ok (.mmaPt cs (d.extractLsb' 2 4) (d.extractLsb' 0 2) a (b.extractLsb' 2 1) (b.extractLsb' 0 2) (f.extractLsb' 2 4)) else .error .field
  | 1 => if f.extractLsb' 0 2 = 0 then .ok (.mmaMinp cs (d.extractLsb' 2 4) (d.extractLsb' 0 2) a (b.extractLsb' 2 1) (b.extractLsb' 0 2) (f.extractLsb' 2 4)) else .error .field
  | 2 => if f.extractLsb' 0 2 = 0 then .ok (.mmaMaxp cs (d.extractLsb' 2 4) (d.extractLsb' 0 2) a (b.extractLsb' 2 1) (b.extractLsb' 0 2) (f.extractLsb' 2 4)) else .error .field
  | 3 => if f.extractLsb' 0 2 = 0 then .ok (.mmaMaxt cs (d.extractLsb' 2 4) (d.extractLsb' 0 2) a (b.extractLsb' 2 1) (b.extractLsb' 0 2) (f.extractLsb' 2 4)) else .error .field
  | 4 => if f.extractLsb' 0 2 = 0 then .ok (.mmaOrand cs (d.extractLsb' 2 4) (d.extractLsb' 0 2) a (b.extractLsb' 2 1) (b.extractLsb' 0 2) (f.extractLsb' 2 4)) else .error .field
  | _ => .error .code

/-- Major 0x31 (R53). -/
noncomputable def decodeTile (cs : CS) (d a b f : Fld) : Except Reject Instr :=
  match (f).toNat with
  | 0 => .ok (.mmz cs d a b)
  | 1 => .ok (.mmcvt cs d a b)
  | 2 => if b = 0 then .ok (.mst cs d a) else .error .field
  | 3 => if d = 0 ∧ b = 0 then .ok (.tstamp cs a) else .error .field
  | 4 => if b = 0 then .ok (.tret cs d a) else .error .field
  | _ => .error .code

/-- Major 0x32 (R53). -/
noncomputable def decodeFab (cs : CS) (d a b f : Fld) : Except Reject Instr :=
  match (f).toNat with
  | 0 => .ok (.osend cs d a b)
  | 1 => .ok (.orecv cs d a b)
  | 2 => if b = 0 then .ok (.rput cs d a) else .error .field
  | 3 => if b = 0 then .ok (.rget cs d a) else .error .field
  | 4 => .ok (.ratm cs d a b)
  | 5 => if b = 0 then .ok (.wmrd cs d a) else .error .field
  | 6 => .ok (.orecvTry cs d a b)
  | _ => .error .code

/-- Major 0x33 (R53). -/
noncomputable def decodeWork (cs : CS) (d a b f : Fld) : Except Reject Instr :=
  match (f).toNat with
  | 0 => if b = 0 then .ok (.cont cs d a) else .error .field
  | 1 => if b = 0 then .ok (.lnch cs d a) else .error .field
  | 2 => .ok (.qput cs d a b)
  | _ => .error .code

/-- Major 0x38 (R53). -/
noncomputable def decodeSup (cs : CS) (d a b f : Fld) : Except Reject Instr :=
  match (f).toNat with
  | 0 => if b = 0 then .ok (.repl cs d a) else .error .field
  | 1 => .ok (.sigdl cs d a b)
  | 2 => if b = 0 then .ok (.penx cs d a) else .error .field
  | 3 => .ok (.swp cs d a b)
  | 4 => .ok (.kill cs d a b)
  | 5 => .ok (.kterm cs d a b)
  | _ => .error .code

/-- Major 0x39 (R53). -/
noncomputable def decodePage (cs : CS) (d a b f : Fld) : Except Reject Instr :=
  match (f).toNat with
  | 0 => .ok (.tlbinv cs d a b)
  | 1 => .ok (.sdn cs d a b)
  | 2 => .ok (.pin cs d a b)
  | 3 => .ok (.unpin cs d a b)
  | 4 => .ok (.migr cs d a b)
  | 5 => if a = 0 ∧ b = 0 then .ok (.fqpop cs d) else if a = 1 ∧ b = 0 then .ok (.fqpopTry cs d) else .error .field
  | 6 => .ok (.fqdone cs d a b)
  | _ => .error .code

/-- Major 0x3A (R53). -/
noncomputable def decodeDbg (cs : CS) (d a b f : Fld) : Except Reject Instr :=
  match (f).toNat with
  | 0 => if b = 0 then .ok (.step cs d a) else .error .field
  | 1 => if b = 0 then .ok (.snap cs d a) else .error .field
  | 2 => .ok (.ckpt cs d a b)
  | _ => .error .code

/-- The instruction that a word stands for; rejection is by name. [DEDUCED: log entry 12] -/
noncomputable def decode (w : W32) : Except Reject Instr :=
  match (majOf w).toNat with
  | 0x00 => decodeCtl (csOf w) (fldD w) (fldA w) (fldB w) (fldF w)
  | 0x01 => decodeBr (csOf w) (fldD w) (fldA w) (fldB w) (fldF w)
  | 0x02 => decodeJmp (csOf w) (fldD w) (fldA w) (fldB w) (fldF w)
  | 0x03 => decodeCall (csOf w) (fldD w) (fldA w) (fldB w) (fldF w)
  | 0x04 => decodeJx (csOf w) (fldD w) (fldA w) (fldB w) (fldF w)
  | 0x05 => decodeGrp (csOf w) (fldD w) (fldA w) (fldB w) (fldF w)
  | 0x06 => decodeImx (csOf w) (fldD w) (fldA w) (fldB w) (fldF w)
  | 0x07 => decodeMovi (csOf w) (fldD w) (fldA w) (fldB w) (fldF w)
  | 0x08 => decodeI32 (csOf w) (fldD w) (fldA w) (fldB w) (fldF w)
  | 0x09 => decodeI32i (csOf w) (fldD w) (fldA w) (fldB w) (fldF w)
  | 0x0A => decodeI32c (csOf w) (fldD w) (fldA w) (fldB w) (fldF w)
  | 0x0B => decodeMad32 (csOf w) (fldD w) (fldA w) (fldB w) (fldF w)
  | 0x0C => decodeI64 (csOf w) (fldD w) (fldA w) (fldB w) (fldF w)
  | 0x0D => decodeI64c (csOf w) (fldD w) (fldA w) (fldB w) (fldF w)
  | 0x0E => decodeBits (csOf w) (fldD w) (fldA w) (fldB w) (fldF w)
  | 0x0F => decodeSel (csOf w) (fldD w) (fldA w) (fldB w) (fldF w)
  | 0x10 => decodeF32 (csOf w) (fldD w) (fldA w) (fldB w) (fldF w)
  | 0x11 => decodeFma32 (csOf w) (fldD w) (fldA w) (fldB w) (fldF w)
  | 0x12 => decodeF64 (csOf w) (fldD w) (fldA w) (fldB w) (fldF w)
  | 0x13 => decodeFma64 (csOf w) (fldD w) (fldA w) (fldB w) (fldF w)
  | 0x14 => decodeF16x2 (csOf w) (fldD w) (fldA w) (fldB w) (fldF w)
  | 0x15 => decodeFma16x2 (csOf w) (fldD w) (fldA w) (fldB w) (fldF w)
  | 0x16 => decodeFmaBf2 (csOf w) (fldD w) (fldA w) (fldB w) (fldF w)
  | 0x17 => decodeFcmp (csOf w) (fldD w) (fldA w) (fldB w) (fldF w)
  | 0x18 => decodeSfu (csOf w) (fldD w) (fldA w) (fldB w) (fldF w)
  | 0x19 => decodeFfix (csOf w) (fldD w) (fldA w) (fldB w) (fldF w)
  | 0x1A => decodeCvt (csOf w) (fldD w) (fldA w) (fldB w) (fldF w)
  | 0x1B => decodeNcvt (csOf w) (fldD w) (fldA w) (fldB w) (fldF w)
  | 0x20 => decodeLd (csOf w) (fldD w) (fldA w) (fldB w) (fldF w)
  | 0x21 => decodeSt (csOf w) (fldD w) (fldA w) (fldB w) (fldF w)
  | 0x22 => decodeLdg (csOf w) (fldD w) (fldA w) (fldB w) (fldF w)
  | 0x23 => decodeStg (csOf w) (fldD w) (fldA w) (fldB w) (fldF w)
  | 0x24 => decodeAtmi (csOf w) (fldD w) (fldA w) (fldB w) (fldF w)
  | 0x25 => decodeAtmx (csOf w) (fldD w) (fldA w) (fldB w) (fldF w)
  | 0x26 => decodeMsync (csOf w) (fldD w) (fldA w) (fldB w) (fldF w)
  | 0x27 => decodeTag (csOf w) (fldD w) (fldA w) (fldB w) (fldF w)
  | 0x28 => decodeHdl (csOf w) (fldD w) (fldA w) (fldB w) (fldF w)
  | 0x29 => decodeBar (csOf w) (fldD w) (fldA w) (fldB w) (fldF w)
  | 0x2A => decodeSpl (csOf w) (fldD w) (fldA w) (fldB w) (fldF w)
  | 0x2B => decodeSeam (csOf w) (fldD w) (fldA w) (fldB w) (fldF w)
  | 0x2C => decodeTime (csOf w) (fldD w) (fldA w) (fldB w) (fldF w)
  | 0x2D => decodeCpy (csOf w) (fldD w) (fldA w) (fldB w) (fldF w)
  | 0x2E => decodeWaitc (csOf w) (fldD w) (fldA w) (fldB w) (fldF w)
  | 0x2F => decodeColl (csOf w) (fldD w) (fldA w) (fldB w) (fldF w)
  | 0x30 => decodeMma (csOf w) (fldD w) (fldA w) (fldB w) (fldF w)
  | 0x31 => decodeTile (csOf w) (fldD w) (fldA w) (fldB w) (fldF w)
  | 0x32 => decodeFab (csOf w) (fldD w) (fldA w) (fldB w) (fldF w)
  | 0x33 => decodeWork (csOf w) (fldD w) (fldA w) (fldB w) (fldF w)
  | 0x38 => decodeSup (csOf w) (fldD w) (fldA w) (fldB w) (fldF w)
  | 0x39 => decodePage (csOf w) (fldD w) (fldA w) (fldB w) (fldF w)
  | 0x3A => decodeDbg (csOf w) (fldD w) (fldA w) (fldB w) (fldF w)
  | _ => .error .major

/-- A word from its top fields and its four 6-bit body pieces (R31, R48). -/
def pack (cs : CS) (maj d a b f : Fld) : W32 :=
  BitVec.ofBool cs.c ++ BitVec.ofBool cs.s ++ maj ++ d ++ a ++ b ++ f

/-- The word of an instruction (R48, R53 to R69); an event row has none. -/
def encode : Instr → Option W32
  | .nop cs => some (pack cs 0x00 0#6 0#6 0#6 0#6)
  | .brk cs k => some (pack cs 0x00 0#6 0#6 k 1#6)
  | .exit cs => some (pack cs 0x00 0#6 0#6 0#6 2#6)
  | .yld cs => some (pack cs 0x00 0#6 0#6 0#6 3#6)
  | .sys cs => some (pack cs 0x00 0#6 0#6 0#6 4#6)
  | .sigret cs => some (pack cs 0x00 0#6 0#6 0#6 5#6)
  | .rds cs d k => some (pack cs 0x00 d 0#6 k 6#6)
  | .wrs cs a k => some (pack cs 0x00 0#6 a k 7#6)
  | .iret cs => some (pack cs 0x00 0#6 0#6 0#6 8#6)
  | .br cs n p o => some (pack cs 0x01 (n ++ p ++ o.extractLsb' 18 2) (o.extractLsb' 12 6) (o.extractLsb' 6 6) (o.extractLsb' 0 6))
  | .jmp cs o => some (pack cs 0x02 (o.extractLsb' 18 6) (o.extractLsb' 12 6) (o.extractLsb' 6 6) (o.extractLsb' 0 6))
  | .call cs o => some (pack cs 0x03 (o.extractLsb' 18 6) (o.extractLsb' 12 6) (o.extractLsb' 6 6) (o.extractLsb' 0 6))
  | .jmpi cs a => some (pack cs 0x04 0#6 a 0#6 0#6)
  | .calli cs a => some (pack cs 0x04 0#6 a 0#6 1#6)
  | .ret cs => some (pack cs 0x04 0#6 0#6 0#6 2#6)
  | .reconv cs a => some (pack cs 0x05 0#6 a 0#6 0#6)
  | .pollOr cs p q b => some (pack cs 0x05 (0#3 ++ p) (0#3 ++ q) b 1#6)
  | .pollAnd cs p q b => some (pack cs 0x05 (0#3 ++ p) (0#3 ++ q) b 2#6)
  | .pollSame cs p q b => some (pack cs 0x05 (0#3 ++ p) (0#3 ++ q) b 3#6)
  | .gmask cs d q b => some (pack cs 0x05 d (0#3 ++ q) b 4#6)
  | .xchAt cs d a b => some (pack cs 0x05 d a b 8#6)
  | .xchBack cs d a b => some (pack cs 0x05 d a b 9#6)
  | .xchFwd cs d a b => some (pack cs 0x05 d a b 10#6)
  | .xchFlip cs d a b => some (pack cs 0x05 d a b 11#6)
  | .redAddI32 cs d a b => some (pack cs 0x05 d a b 16#6)
  | .redAddI64 cs d a b => some (pack cs 0x05 d a b 17#6)
  | .redMinI32 cs d a b => some (pack cs 0x05 d a b 18#6)
  | .redMinN32 cs d a b => some (pack cs 0x05 d a b 19#6)
  | .redMaxI32 cs d a b => some (pack cs 0x05 d a b 20#6)
  | .redMaxN32 cs d a b => some (pack cs 0x05 d a b 21#6)
  | .redMinI64 cs d a b => some (pack cs 0x05 d a b 22#6)
  | .redMinN64 cs d a b => some (pack cs 0x05 d a b 23#6)
  | .redMaxI64 cs d a b => some (pack cs 0x05 d a b 24#6)
  | .redMaxN64 cs d a b => some (pack cs 0x05 d a b 25#6)
  | .redAddF32 cs d a b => some (pack cs 0x05 d a b 26#6)
  | .redMinF32 cs d a b => some (pack cs 0x05 d a b 27#6)
  | .redMaxF32 cs d a b => some (pack cs 0x05 d a b 28#6)
  | .redAddF64 cs d a b => some (pack cs 0x05 d a b 29#6)
  | .redMinF64 cs d a b => some (pack cs 0x05 d a b 30#6)
  | .redMaxF64 cs d a b => some (pack cs 0x05 d a b 31#6)
  | .scanAddI32 cs d a b => some (pack cs 0x05 d a b 32#6)
  | .scanAddI64 cs d a b => some (pack cs 0x05 d a b 33#6)
  | .scanAddF32 cs d a b => some (pack cs 0x05 d a b 34#6)
  | .scanAddF64 cs d a b => some (pack cs 0x05 d a b 35#6)
  | .vmrgLoN64 cs d a b => some (pack cs 0x05 d a b 40#6)
  | .vmrgHiN64 cs d a b => some (pack cs 0x05 d a b 41#6)
  | .vmrgLoI64 cs d a b => some (pack cs 0x05 d a b 42#6)
  | .vmrgHiI64 cs d a b => some (pack cs 0x05 d a b 43#6)
  | .bsortN64 cs d a b => some (pack cs 0x05 d a b 44#6)
  | .bsortI64 cs d a b => some (pack cs 0x05 d a b 45#6)
  | .rankN64 cs d a b => some (pack cs 0x05 d a b 46#6)
  | .rankI64 cs d a b => some (pack cs 0x05 d a b 47#6)
  | .imx cs i => some (pack cs 0x06 (i.extractLsb' 18 6) (i.extractLsb' 12 6) (i.extractLsb' 6 6) (i.extractLsb' 0 6))
  | .movi cs d i => some (pack cs 0x07 d (i.extractLsb' 12 6) (i.extractLsb' 6 6) (i.extractLsb' 0 6))
  | .add cs d a b => some (pack cs 0x08 d a b 0#6)
  | .sub cs d a b => some (pack cs 0x08 d a b 1#6)
  | .mul cs d a b => some (pack cs 0x08 d a b 2#6)
  | .mulhI32 cs d a b => some (pack cs 0x08 d a b 3#6)
  | .mulhN32 cs d a b => some (pack cs 0x08 d a b 4#6)
  | .addSatI32 cs d a b => some (pack cs 0x08 d a b 5#6)
  | .addSatN32 cs d a b => some (pack cs 0x08 d a b 6#6)
  | .subSatI32 cs d a b => some (pack cs 0x08 d a b 7#6)
  | .subSatN32 cs d a b => some (pack cs 0x08 d a b 8#6)
  | .minI32 cs d a b => some (pack cs 0x08 d a b 9#6)
  | .minN32 cs d a b => some (pack cs 0x08 d a b 10#6)
  | .maxI32 cs d a b => some (pack cs 0x08 d a b 11#6)
  | .maxN32 cs d a b => some (pack cs 0x08 d a b 12#6)
  | .abs cs d a => some (pack cs 0x08 d a 0#6 13#6)
  | .neg cs d a => some (pack cs 0x08 d a 0#6 14#6)
  | .and cs d a b => some (pack cs 0x08 d a b 16#6)
  | .or cs d a b => some (pack cs 0x08 d a b 17#6)
  | .xor cs d a b => some (pack cs 0x08 d a b 18#6)
  | .andn cs d a b => some (pack cs 0x08 d a b 19#6)
  | .not cs d a => some (pack cs 0x08 d a 0#6 20#6)
  | .shl cs d a b => some (pack cs 0x08 d a b 24#6)
  | .shr cs d a b => some (pack cs 0x08 d a b 25#6)
  | .sar cs d a b => some (pack cs 0x08 d a b 26#6)
  | .rotl cs d a b => some (pack cs 0x08 d a b 27#6)
  | .rotr cs d a b => some (pack cs 0x08 d a b 28#6)
  | .bcnt cs d a => some (pack cs 0x08 d a 0#6 32#6)
  | .lzc cs d a => some (pack cs 0x08 d a 0#6 33#6)
  | .tzc cs d a => some (pack cs 0x08 d a 0#6 34#6)
  | .bitrev cs d a => some (pack cs 0x08 d a 0#6 35#6)
  | .byterev cs d a => some (pack cs 0x08 d a 0#6 36#6)
  | .saddX2 cs d a b => some (pack cs 0x08 d a b 40#6)
  | .saddX4 cs d a b => some (pack cs 0x08 d a b 41#6)
  | .saddX8 cs d a b => some (pack cs 0x08 d a b 42#6)
  | .saddX16 cs d a b => some (pack cs 0x08 d a b 43#6)
  | .mov cs d a => some (pack cs 0x08 d a 0#6 44#6)
  | .addi cs d a i => some (pack cs 0x09 d a (0#3 ++ i.extractLsb' 6 3) (i.extractLsb' 0 6))
  | .andi cs d a i => some (pack cs 0x09 d a (1#3 ++ i.extractLsb' 6 3) (i.extractLsb' 0 6))
  | .ori cs d a i => some (pack cs 0x09 d a (2#3 ++ i.extractLsb' 6 3) (i.extractLsb' 0 6))
  | .xori cs d a i => some (pack cs 0x09 d a (3#3 ++ i.extractLsb' 6 3) (i.extractLsb' 0 6))
  | .shli cs d a i => some (pack cs 0x09 d a (4#3 ++ i.extractLsb' 6 3) (i.extractLsb' 0 6))
  | .shri cs d a i => some (pack cs 0x09 d a (5#3 ++ i.extractLsb' 6 3) (i.extractLsb' 0 6))
  | .sari cs d a i => some (pack cs 0x09 d a (6#3 ++ i.extractLsb' 6 3) (i.extractLsb' 0 6))
  | .muli cs d a i => some (pack cs 0x09 d a (7#3 ++ i.extractLsb' 6 3) (i.extractLsb' 0 6))
  | .cmpEqI32 cs p a b => some (pack cs 0x0A (0#3 ++ p) a b 0#6)
  | .cmpNeI32 cs p a b => some (pack cs 0x0A (0#3 ++ p) a b 1#6)
  | .cmpLtI32 cs p a b => some (pack cs 0x0A (0#3 ++ p) a b 2#6)
  | .cmpLeI32 cs p a b => some (pack cs 0x0A (0#3 ++ p) a b 3#6)
  | .cmpGtI32 cs p a b => some (pack cs 0x0A (0#3 ++ p) a b 4#6)
  | .cmpGeI32 cs p a b => some (pack cs 0x0A (0#3 ++ p) a b 5#6)
  | .cmpLtN32 cs p a b => some (pack cs 0x0A (0#3 ++ p) a b 6#6)
  | .cmpLeN32 cs p a b => some (pack cs 0x0A (0#3 ++ p) a b 7#6)
  | .cmpGtN32 cs p a b => some (pack cs 0x0A (0#3 ++ p) a b 8#6)
  | .cmpGeN32 cs p a b => some (pack cs 0x0A (0#3 ++ p) a b 9#6)
  | .muladd cs d a b r => some (pack cs 0x0B d a b r)
  | .addI64 cs d a b => some (pack cs 0x0C d a b 0#6)
  | .subI64 cs d a b => some (pack cs 0x0C d a b 1#6)
  | .mulI64 cs d a b => some (pack cs 0x0C d a b 2#6)
  | .mulhI64 cs d a b => some (pack cs 0x0C d a b 3#6)
  | .mulhN64 cs d a b => some (pack cs 0x0C d a b 4#6)
  | .addSatI64 cs d a b => some (pack cs 0x0C d a b 5#6)
  | .addSatN64 cs d a b => some (pack cs 0x0C d a b 6#6)
  | .subSatI64 cs d a b => some (pack cs 0x0C d a b 7#6)
  | .subSatN64 cs d a b => some (pack cs 0x0C d a b 8#6)
  | .minI64 cs d a b => some (pack cs 0x0C d a b 9#6)
  | .minN64 cs d a b => some (pack cs 0x0C d a b 10#6)
  | .maxI64 cs d a b => some (pack cs 0x0C d a b 11#6)
  | .maxN64 cs d a b => some (pack cs 0x0C d a b 12#6)
  | .absI64 cs d a => some (pack cs 0x0C d a 0#6 13#6)
  | .negI64 cs d a => some (pack cs 0x0C d a 0#6 14#6)
  | .andI64 cs d a b => some (pack cs 0x0C d a b 16#6)
  | .orI64 cs d a b => some (pack cs 0x0C d a b 17#6)
  | .xorI64 cs d a b => some (pack cs 0x0C d a b 18#6)
  | .andnI64 cs d a b => some (pack cs 0x0C d a b 19#6)
  | .notI64 cs d a => some (pack cs 0x0C d a 0#6 20#6)
  | .shlI64 cs d a b => some (pack cs 0x0C d a b 24#6)
  | .shrI64 cs d a b => some (pack cs 0x0C d a b 25#6)
  | .sarI64 cs d a b => some (pack cs 0x0C d a b 26#6)
  | .rotlI64 cs d a b => some (pack cs 0x0C d a b 27#6)
  | .rotrI64 cs d a b => some (pack cs 0x0C d a b 28#6)
  | .bcntI64 cs d a => some (pack cs 0x0C d a 0#6 32#6)
  | .lzcI64 cs d a => some (pack cs 0x0C d a 0#6 33#6)
  | .tzcI64 cs d a => some (pack cs 0x0C d a 0#6 34#6)
  | .bitrevI64 cs d a => some (pack cs 0x0C d a 0#6 35#6)
  | .byterevI64 cs d a => some (pack cs 0x0C d a 0#6 36#6)
  | .saddX2I64 cs d a b => some (pack cs 0x0C d a b 40#6)
  | .saddX4I64 cs d a b => some (pack cs 0x0C d a b 41#6)
  | .saddX8I64 cs d a b => some (pack cs 0x0C d a b 42#6)
  | .saddX16I64 cs d a b => some (pack cs 0x0C d a b 43#6)
  | .movI64 cs d a => some (pack cs 0x0C d a 0#6 44#6)
  | .addwI32 cs d a b => some (pack cs 0x0C d a b 48#6)
  | .addwN32 cs d a b => some (pack cs 0x0C d a b 49#6)
  | .mulxI32 cs d a b => some (pack cs 0x0C d a b 50#6)
  | .mulxN32 cs d a b => some (pack cs 0x0C d a b 51#6)
  | .cmpEqI64 cs p a b => some (pack cs 0x0D (0#3 ++ p) a b 0#6)
  | .cmpNeI64 cs p a b => some (pack cs 0x0D (0#3 ++ p) a b 1#6)
  | .cmpLtI64 cs p a b => some (pack cs 0x0D (0#3 ++ p) a b 2#6)
  | .cmpLeI64 cs p a b => some (pack cs 0x0D (0#3 ++ p) a b 3#6)
  | .cmpGtI64 cs p a b => some (pack cs 0x0D (0#3 ++ p) a b 4#6)
  | .cmpGeI64 cs p a b => some (pack cs 0x0D (0#3 ++ p) a b 5#6)
  | .cmpLtN64 cs p a b => some (pack cs 0x0D (0#3 ++ p) a b 6#6)
  | .cmpLeN64 cs p a b => some (pack cs 0x0D (0#3 ++ p) a b 7#6)
  | .cmpGtN64 cs p a b => some (pack cs 0x0D (0#3 ++ p) a b 8#6)
  | .cmpGeN64 cs p a b => some (pack cs 0x0D (0#3 ++ p) a b 9#6)
  | .fextN32 cs d a b => some (pack cs 0x0E d a b 0#6)
  | .fextI32 cs d a b => some (pack cs 0x0E d a b 1#6)
  | .fins cs d a b => some (pack cs 0x0E d a b 2#6)
  | .bpick cs d a b => some (pack cs 0x0E d a b 3#6)
  | .bfn3 cs d a b => some (pack cs 0x0E d a b 4#6)
  | .sel cs d a b n p => some (pack cs 0x0F d a b (0#2 ++ n ++ p))
  | .selI64 cs d a b n p => some (pack cs 0x0F d a b (1#2 ++ n ++ p))
  | .addF32 cs d a b => some (pack cs 0x10 d a b 0#6)
  | .subF32 cs d a b => some (pack cs 0x10 d a b 1#6)
  | .mulF32 cs d a b => some (pack cs 0x10 d a b 2#6)
  | .minF32 cs d a b => some (pack cs 0x10 d a b 3#6)
  | .maxF32 cs d a b => some (pack cs 0x10 d a b 4#6)
  | .absF32 cs d a => some (pack cs 0x10 d a 0#6 5#6)
  | .negF32 cs d a => some (pack cs 0x10 d a 0#6 6#6)
  | .cpsgnF32 cs d a b => some (pack cs 0x10 d a b 7#6)
  | .fmaF32 cs d a b r => some (pack cs 0x11 d a b r)
  | .addF64 cs d a b => some (pack cs 0x12 d a b 0#6)
  | .subF64 cs d a b => some (pack cs 0x12 d a b 1#6)
  | .mulF64 cs d a b => some (pack cs 0x12 d a b 2#6)
  | .minF64 cs d a b => some (pack cs 0x12 d a b 3#6)
  | .maxF64 cs d a b => some (pack cs 0x12 d a b 4#6)
  | .absF64 cs d a => some (pack cs 0x12 d a 0#6 5#6)
  | .negF64 cs d a => some (pack cs 0x12 d a 0#6 6#6)
  | .cpsgnF64 cs d a b => some (pack cs 0x12 d a b 7#6)
  | .fmaF64 cs d a b r => some (pack cs 0x13 d a b r)
  | .addF16x2 cs d a b => some (pack cs 0x14 d a b 0#6)
  | .subF16x2 cs d a b => some (pack cs 0x14 d a b 1#6)
  | .mulF16x2 cs d a b => some (pack cs 0x14 d a b 2#6)
  | .minF16x2 cs d a b => some (pack cs 0x14 d a b 3#6)
  | .maxF16x2 cs d a b => some (pack cs 0x14 d a b 4#6)
  | .absF16x2 cs d a => some (pack cs 0x14 d a 0#6 5#6)
  | .negF16x2 cs d a => some (pack cs 0x14 d a 0#6 6#6)
  | .addBf16x2 cs d a b => some (pack cs 0x14 d a b 8#6)
  | .subBf16x2 cs d a b => some (pack cs 0x14 d a b 9#6)
  | .mulBf16x2 cs d a b => some (pack cs 0x14 d a b 10#6)
  | .minBf16x2 cs d a b => some (pack cs 0x14 d a b 11#6)
  | .maxBf16x2 cs d a b => some (pack cs 0x14 d a b 12#6)
  | .absBf16x2 cs d a => some (pack cs 0x14 d a 0#6 13#6)
  | .negBf16x2 cs d a => some (pack cs 0x14 d a 0#6 14#6)
  | .fmaF16x2 cs d a b r => some (pack cs 0x15 d a b r)
  | .fmaBf16x2 cs d a b r => some (pack cs 0x16 d a b r)
  | .fcmpF32 cs p a b x => some (pack cs 0x17 (0#3 ++ p) a b (0#2 ++ x))
  | .fcmpF64 cs p a b x => some (pack cs 0x17 (0#3 ++ p) a b (1#2 ++ x))
  | .frcpF32 cs d a => some (pack cs 0x18 d a 0#6 0#6)
  | .frsqF32 cs d a => some (pack cs 0x18 d a 0#6 1#6)
  | .exp2F32 cs d a => some (pack cs 0x18 d a 0#6 2#6)
  | .log2F32 cs d a => some (pack cs 0x18 d a 0#6 3#6)
  | .sinF32 cs d a => some (pack cs 0x18 d a 0#6 4#6)
  | .cosF32 cs d a => some (pack cs 0x18 d a 0#6 5#6)
  | .tanhF32 cs d a => some (pack cs 0x18 d a 0#6 6#6)
  | .frcpF64 cs d a => some (pack cs 0x18 d a 0#6 8#6)
  | .frsqF64 cs d a => some (pack cs 0x18 d a 0#6 9#6)
  | .fdivfixF32 cs d a b => some (pack cs 0x19 d a b 0#6)
  | .fsqrtfixF32 cs d a => some (pack cs 0x19 d a 0#6 1#6)
  | .fclassF32 cs d a => some (pack cs 0x19 d a 0#6 2#6)
  | .frndF32 cs d a k => some (pack cs 0x19 d a k 3#6)
  | .fscaleF32 cs d a b => some (pack cs 0x19 d a b 4#6)
  | .fexpoF32 cs d a => some (pack cs 0x19 d a 0#6 5#6)
  | .fdivfixF64 cs d a b => some (pack cs 0x19 d a b 16#6)
  | .fsqrtfixF64 cs d a => some (pack cs 0x19 d a 0#6 17#6)
  | .fclassF64 cs d a => some (pack cs 0x19 d a 0#6 18#6)
  | .frndF64 cs d a k => some (pack cs 0x19 d a k 19#6)
  | .fscaleF64 cs d a b => some (pack cs 0x19 d a b 20#6)
  | .fexpoF64 cs d a => some (pack cs 0x19 d a 0#6 21#6)
  | .cvtF32F64 cs d a m => some (pack cs 0x1A d a (0#3 ++ m) 0#6)
  | .cvtF64F32 cs d a m => some (pack cs 0x1A d a (0#3 ++ m) 1#6)
  | .cvtF16F32 cs d a m => some (pack cs 0x1A d a (0#3 ++ m) 2#6)
  | .cvtF32F16 cs d a m => some (pack cs 0x1A d a (0#3 ++ m) 3#6)
  | .cvtBf16F32 cs d a m => some (pack cs 0x1A d a (0#3 ++ m) 4#6)
  | .cvtF32Bf16 cs d a m => some (pack cs 0x1A d a (0#3 ++ m) 5#6)
  | .cvtF16x2F32 cs d a m => some (pack cs 0x1A d a (0#3 ++ m) 6#6)
  | .cvtBf16x2F32 cs d a m => some (pack cs 0x1A d a (0#3 ++ m) 7#6)
  | .cvtF32I32 cs d a m => some (pack cs 0x1A d a (0#3 ++ m) 8#6)
  | .cvtF32N32 cs d a m => some (pack cs 0x1A d a (0#3 ++ m) 9#6)
  | .cvtI32F32 cs d a m => some (pack cs 0x1A d a (0#3 ++ m) 10#6)
  | .cvtN32F32 cs d a m => some (pack cs 0x1A d a (0#3 ++ m) 11#6)
  | .cvtF64I64 cs d a m => some (pack cs 0x1A d a (0#3 ++ m) 12#6)
  | .cvtF64N64 cs d a m => some (pack cs 0x1A d a (0#3 ++ m) 13#6)
  | .cvtI64F64 cs d a m => some (pack cs 0x1A d a (0#3 ++ m) 14#6)
  | .cvtN64F64 cs d a m => some (pack cs 0x1A d a (0#3 ++ m) 15#6)
  | .cvtF64I32 cs d a m => some (pack cs 0x1A d a (0#3 ++ m) 16#6)
  | .cvtF64N32 cs d a m => some (pack cs 0x1A d a (0#3 ++ m) 17#6)
  | .cvtI32F64 cs d a m => some (pack cs 0x1A d a (0#3 ++ m) 18#6)
  | .cvtN32F64 cs d a m => some (pack cs 0x1A d a (0#3 ++ m) 19#6)
  | .cvtF32I64 cs d a m => some (pack cs 0x1A d a (0#3 ++ m) 20#6)
  | .cvtF32N64 cs d a m => some (pack cs 0x1A d a (0#3 ++ m) 21#6)
  | .cvtI64F32 cs d a m => some (pack cs 0x1A d a (0#3 ++ m) 22#6)
  | .cvtN64F32 cs d a m => some (pack cs 0x1A d a (0#3 ++ m) 23#6)
  | .cvtI64I32 cs d a m => some (pack cs 0x1A d a (0#3 ++ m) 24#6)
  | .cvtN64N32 cs d a m => some (pack cs 0x1A d a (0#3 ++ m) 25#6)
  | .cvtSatI32I64 cs d a m => some (pack cs 0x1A d a (0#3 ++ m) 26#6)
  | .cvtSatN32N64 cs d a m => some (pack cs 0x1A d a (0#3 ++ m) 27#6)
  | .cvtF64Td8 cs d a m => some (pack cs 0x1A d a (0#3 ++ m) 32#6)
  | .cvtTd8F64 cs d a t m => some (pack cs 0x1A d a (0#2 ++ t ++ m) 33#6)
  | .cvtF32Td8 cs d a m => some (pack cs 0x1A d a (0#3 ++ m) 34#6)
  | .cvtTd8F32 cs d a t m => some (pack cs 0x1A d a (0#2 ++ t ++ m) 35#6)
  | .npk cs d a b f => some (pack cs 0x1B d a b (0#3 ++ f))
  | .npkSat cs d a b f => some (pack cs 0x1B d a b (1#3 ++ f))
  | .nupk cs d a b f => some (pack cs 0x1B d a b (2#3 ++ f))
  | .nscl cs d a f => some (pack cs 0x1B d a 0#6 (3#3 ++ f))
  | .ld cs d a h z p o => some (pack cs 0x20 d a (h ++ z.extractLsb' 2 1) (z.extractLsb' 0 2 ++ p ++ o))
  | .st cs d a h z p o => some (pack cs 0x21 d a (h ++ z.extractLsb' 2 1) (z.extractLsb' 0 2 ++ p ++ o))
  | .ldg cs d a h z p o => some (pack cs 0x22 d a (h ++ z.extractLsb' 2 1) (z.extractLsb' 0 2 ++ p ++ o))
  | .stg cs d a h z p o => some (pack cs 0x23 d a (h ++ z.extractLsb' 2 1) (z.extractLsb' 0 2 ++ p ++ o))
  | .atomAddN32 cs d a b o => some (pack cs 0x24 d a b (0#4 ++ o))
  | .atomAndB32 cs d a b o => some (pack cs 0x24 d a b (1#4 ++ o))
  | .atomOrB32 cs d a b o => some (pack cs 0x24 d a b (2#4 ++ o))
  | .atomXorB32 cs d a b o => some (pack cs 0x24 d a b (3#4 ++ o))
  | .atomMinI32 cs d a b o => some (pack cs 0x24 d a b (4#4 ++ o))
  | .atomMaxI32 cs d a b o => some (pack cs 0x24 d a b (5#4 ++ o))
  | .atomMinN32 cs d a b o => some (pack cs 0x24 d a b (6#4 ++ o))
  | .atomMaxN32 cs d a b o => some (pack cs 0x24 d a b (7#4 ++ o))
  | .atomAddN64 cs d a b o => some (pack cs 0x24 d a b (8#4 ++ o))
  | .atomAndB64 cs d a b o => some (pack cs 0x24 d a b (9#4 ++ o))
  | .atomOrB64 cs d a b o => some (pack cs 0x24 d a b (10#4 ++ o))
  | .atomXorB64 cs d a b o => some (pack cs 0x24 d a b (11#4 ++ o))
  | .atomMinI64 cs d a b o => some (pack cs 0x24 d a b (12#4 ++ o))
  | .atomMaxI64 cs d a b o => some (pack cs 0x24 d a b (13#4 ++ o))
  | .atomMinN64 cs d a b o => some (pack cs 0x24 d a b (14#4 ++ o))
  | .atomMaxN64 cs d a b o => some (pack cs 0x24 d a b (15#4 ++ o))
  | .atomXchgB32 cs d a b o => some (pack cs 0x25 d a b (0#4 ++ o))
  | .atomCasB32 cs d a b o => some (pack cs 0x25 d a b (1#4 ++ o))
  | .atomXchgB64 cs d a b o => some (pack cs 0x25 d a b (2#4 ++ o))
  | .atomCasB64 cs d a b o => some (pack cs 0x25 d a b (3#4 ++ o))
  | .atomAddF32 cs d a b o => some (pack cs 0x25 d a b (4#4 ++ o))
  | .atomMinF32 cs d a b o => some (pack cs 0x25 d a b (5#4 ++ o))
  | .atomMaxF32 cs d a b o => some (pack cs 0x25 d a b (6#4 ++ o))
  | .atomAddF64 cs d a b o => some (pack cs 0x25 d a b (7#4 ++ o))
  | .atomMinF64 cs d a b o => some (pack cs 0x25 d a b (8#4 ++ o))
  | .atomMaxF64 cs d a b o => some (pack cs 0x25 d a b (9#4 ++ o))
  | .atomAddF16x2 cs d a b o => some (pack cs 0x25 d a b (10#4 ++ o))
  | .atomAddBf16x2 cs d a b o => some (pack cs 0x25 d a b (11#4 ++ o))
  | .fence cs => some (pack cs 0x26 0#6 0#6 0#6 0#6)
  | .mwaitB32 cs d a b => some (pack cs 0x26 d a b 1#6)
  | .mwaitB64 cs d a b => some (pack cs 0x26 d a b 2#6)
  | .mwsub cs d a b => some (pack cs 0x26 d a b 8#6)
  | .mwend cs a => some (pack cs 0x26 0#6 a 0#6 9#6)
  | .mwseq cs d a => some (pack cs 0x26 d a 0#6 10#6)
  | .mwsync cs a b => some (pack cs 0x26 0#6 a b 11#6)
  | .pfch cs a b => some (pack cs 0x26 0#6 a b 16#6)
  | .tlook cs d a => some (pack cs 0x27 d a 0#6 0#6)
  | .tset cs a b => some (pack cs 0x27 0#6 a b 1#6)
  | .tclr cs b => some (pack cs 0x27 0#6 0#6 b 2#6)
  | .hsel cs h a => some (pack cs 0x28 (0#1 ++ h) a 0#6 0#6)
  | .hget cs d h k => some (pack cs 0x28 d (0#1 ++ h) k 1#6)
  | .hnew cs a b => some (pack cs 0x28 0#6 a b 2#6)
  | .hrev cs a => some (pack cs 0x28 0#6 a 0#6 3#6)
  | .barInit cs b r => some (pack cs 0x29 0#6 b r 0#6)
  | .barChk cs a b => some (pack cs 0x29 a b 0#6 1#6)
  | .barOwe cs a b r => some (pack cs 0x29 a b r 2#6)
  | .barWait cs b r => some (pack cs 0x29 0#6 b r 3#6)
  | .barTry cs a b r => some (pack cs 0x29 a b r 4#6)
  | .sinit cs b r => some (pack cs 0x2A 0#6 b r 0#6)
  | .spush cs a b r => some (pack cs 0x2A a b r 1#6)
  | .spop cs a b => some (pack cs 0x2A a b 0#6 2#6)
  | .sallow cs b r => some (pack cs 0x2A 0#6 b r 3#6)
  | .spushTry cs a b r => some (pack cs 0x2A a b r 4#6)
  | .spopTry cs a b => some (pack cs 0x2A a b 0#6 5#6)
  | .smInit cs k r => some (pack cs 0x2B k 0#6 r 0#6)
  | .smRd cs a k => some (pack cs 0x2B a k 0#6 1#6)
  | .tgate cs k r => some (pack cs 0x2C k 0#6 r 0#6)
  | .twait cs a k => some (pack cs 0x2C a k 0#6 1#6)
  | .cpy cs a b r => some (pack cs 0x2D a b r 0#6)
  | .cpyAt cs a b r => some (pack cs 0x2D a b r 1#6)
  | .cpm cs a b r => some (pack cs 0x2D a b r 2#6)
  | .drn cs a b r => some (pack cs 0x2D a b r 3#6)
  | .bld cs a r => some (pack cs 0x2D a 0#6 r 4#6)
  | .gath cs a r => some (pack cs 0x2D a 0#6 r 5#6)
  | .chain cs a b => some (pack cs 0x2D a b 0#6 6#6)
  | .waitc cs n l => some (pack cs 0x2E 0#6 0#6 n (0#4 ++ l))
  | .collBcast cs a b r m => some (pack cs 0x2F a b r (m ++ 0#4))
  | .collRedAddF32 cs a b r m => some (pack cs 0x2F a b r (m ++ 1#4))
  | .collRedAddF64 cs a b r m => some (pack cs 0x2F a b r (m ++ 2#4))
  | .collRedAddI32 cs a b r m => some (pack cs 0x2F a b r (m ++ 3#4))
  | .collRedAddI64 cs a b r m => some (pack cs 0x2F a b r (m ++ 4#4))
  | .collRedMinF32 cs a b r m => some (pack cs 0x2F a b r (m ++ 5#4))
  | .collRedMaxF32 cs a b r m => some (pack cs 0x2F a b r (m ++ 6#4))
  | .collRedMinF64 cs a b r m => some (pack cs 0x2F a b r (m ++ 7#4))
  | .collRedMaxF64 cs a b r m => some (pack cs 0x2F a b r (m ++ 8#4))
  | .collRedMinI64 cs a b r m => some (pack cs 0x2F a b r (m ++ 9#4))
  | .collRedMaxI64 cs a b r m => some (pack cs 0x2F a b r (m ++ 10#4))
  | .collRedMinN64 cs a b r m => some (pack cs 0x2F a b r (m ++ 11#4))
  | .collRedMaxN64 cs a b r m => some (pack cs 0x2F a b r (m ++ 12#4))
  | .mmaPt cs q m n t y f => some (pack cs 0x30 (q ++ m) n (0#3 ++ t ++ y) (f ++ 0#2))
  | .mmaMinp cs q m n t y f => some (pack cs 0x30 (q ++ m) n (1#3 ++ t ++ y) (f ++ 0#2))
  | .mmaMaxp cs q m n t y f => some (pack cs 0x30 (q ++ m) n (2#3 ++ t ++ y) (f ++ 0#2))
  | .mmaMaxt cs q m n t y f => some (pack cs 0x30 (q ++ m) n (3#3 ++ t ++ y) (f ++ 0#2))
  | .mmaOrand cs q m n t y f => some (pack cs 0x30 (q ++ m) n (4#3 ++ t ++ y) (f ++ 0#2))
  | .mmz cs a b r => some (pack cs 0x31 a b r 0#6)
  | .mmcvt cs a b r => some (pack cs 0x31 a b r 1#6)
  | .mst cs a b => some (pack cs 0x31 a b 0#6 2#6)
  | .tstamp cs k => some (pack cs 0x31 0#6 k 0#6 3#6)
  | .tret cs a k => some (pack cs 0x31 a k 0#6 4#6)
  | .osend cs a b r => some (pack cs 0x32 a b r 0#6)
  | .orecv cs a b k => some (pack cs 0x32 a b k 1#6)
  | .rput cs a b => some (pack cs 0x32 a b 0#6 2#6)
  | .rget cs a b => some (pack cs 0x32 a b 0#6 3#6)
  | .ratm cs a b k => some (pack cs 0x32 a b k 4#6)
  | .wmrd cs a k => some (pack cs 0x32 a k 0#6 5#6)
  | .orecvTry cs a b k => some (pack cs 0x32 a b k 6#6)
  | .cont cs a b => some (pack cs 0x33 a b 0#6 0#6)
  | .lnch cs a b => some (pack cs 0x33 a b 0#6 1#6)
  | .qput cs a b r => some (pack cs 0x33 a b r 2#6)
  | .repl cs a b => some (pack cs 0x38 a b 0#6 0#6)
  | .sigdl cs a b r => some (pack cs 0x38 a b r 1#6)
  | .penx cs a b => some (pack cs 0x38 a b 0#6 2#6)
  | .swp cs a b r => some (pack cs 0x38 a b r 3#6)
  | .kill cs a b r => some (pack cs 0x38 a b r 4#6)
  | .kterm cs a b r => some (pack cs 0x38 a b r 5#6)
  | .tlbinv cs a b r => some (pack cs 0x39 a b r 0#6)
  | .sdn cs a b r => some (pack cs 0x39 a b r 1#6)
  | .pin cs a b k => some (pack cs 0x39 a b k 2#6)
  | .unpin cs a b k => some (pack cs 0x39 a b k 3#6)
  | .migr cs a b k => some (pack cs 0x39 a b k 4#6)
  | .fqpop cs a => some (pack cs 0x39 a 0#6 0#6 5#6)
  | .fqpopTry cs a => some (pack cs 0x39 a 1#6 0#6 5#6)
  | .fqdone cs a b k => some (pack cs 0x39 a b k 6#6)
  | .step cs a b => some (pack cs 0x3A a b 0#6 0#6)
  | .snap cs a b => some (pack cs 0x3A a b 0#6 1#6)
  | .ckpt cs a b r => some (pack cs 0x3A a b r 2#6)
  | .variableResultReturn _ _ _ => none
  | .instanceComplete _ => none
  | .replayEntryFreed _ => none
  | .homeRead _ => none
  | .homeWiLoad _ => none
  | .homeOwnRequest _ => none
  | .homeWriteThrough _ => none
  | .requestRetry _ => none
  | .l1Evict _ _ => none
  | .ownerWriteback _ _ => none
  | .recallTaken _ _ => none
  | .recallResponse _ _ => none
  | .invalidate _ _ => none
  | .invalidationAck _ _ => none
  | .hostCxlMemRead _ => none
  | .hostCxlMemWrite _ _ => none
  | .serviceDieAccess _ _ => none
  | .hostSnoop _ => none
  | .proxyHostResponse _ _ => none
  | .atomicService _ => none
  | .mirrorUpdate _ _ => none
  | .mirrorSnapshotApplied _ _ => none
  | .podRemoteAccess _ => none
  | .podStoreAck _ => none
  | .remoteErrorResponse _ => none
  | .firstTouchServed _ => none
  | .ftuRingWrite _ _ _ _ => none
  | .promote _ => none
  | .evict _ => none
  | .migrationCopyDone _ => none
  | .l2PinTimeout _ => none
  | .sdnComplete _ => none
  | .bounceStallEnd _ => none
  | .barrierSectorCredit _ _ => none
  | .gateFire _ _ => none
  | .engineTake _ => none
  | .engineWriteBurst _ _ => none
  | .engineFault _ _ => none
  | .engineDone _ => none
  | .cpyAtStart _ => none
  | .cpmFillDone _ => none
  | .chainRecordRead _ _ => none
  | .chainRecordComplete _ _ => none
  | .collDeliveryDone _ => none
  | .mmaReachArray _ => none
  | .mmaComputeDone _ => none
  | .tretRecordWrite _ => none
  | .submissionWindowWrite _ _ _ _ => none
  | .dispatcherIntake _ _ => none
  | .kernelDispatch _ _ => none
  | .herdPlace _ => none
  | .d0Placement _ _ => none
  | .preempt _ => none
  | .quantumExpiry _ _ _ => none
  | .herdRetire _ _ _ => none
  | .gathererBatchLaunch _ _ _ => none
  | .gathererFlushTimeout _ _ _ => none
  | .issuePromotion _ _ => none
  | .d0Overrun _ _ => none
  | .budgetExceeded _ _ _ => none
  | .scWrite _ _ => none
  | .ctxCreate => none
  | .ctxRelease => none
  | .penSwitch _ => none
  | .penIdleSwitch _ => none
  | .swapSaveDone _ _ _ => none
  | .swapLoadDone _ _ _ => none
  | .shepherdEntryTake _ => none
  | .syscallForward _ => none
  | .syscallReply _ _ _ => none
  | .syscallTimeout _ => none
  | .serviceCoreWatchdog => none
  | .killComplete _ => none
  | .ktermComplete _ _ => none
  | .hostLinkTrained => none
  | .hostLinkDown => none
  | .portDisable _ => none
  | .portEnable _ => none
  | .portTrained _ => none
  | .portTrainingFailed _ => none
  | .flitReceive _ _ => none
  | .flitError _ => none
  | .replayAccepted _ => none
  | .replayFailed _ => none
  | .beaconSend _ => none
  | .beaconReceive _ _ _ => none
  | .ordPacketReceive _ _ => none
  | .ordRelease => none
  | .ordStallDeclared _ => none
  | .stallNotice _ _ => none
  | .endMarker _ => none
  | .routeTrigger => none
  | .routeInstall => none
  | .ordAckSend _ => none
  | .ordAck _ _ => none
  | .ocTokenRefill _ => none
  | .ptimeDelayMeasure _ _ _ _ => none
  | .ptimeHorizon => none
  | .ualinkRequest _ _ _ => none
  | .checkpointAuto _ => none
  | .snapshotTimeTrigger => none
  | .tgWrite _ _ => none
  | .tgFullClear => none
  | .snapshotIndexWrite _ => none
  | .coldReset _ => none
  | .recoveryImageWrite _ => none
  | .warmReset _ => none
  | .spdmGetMeasurements _ => none
  | .powerCap _ => none
  | .thermalThrottle _ => none
  | .thermalTrip _ => none
  | .thermalTripEnd _ => none
  | .pwWrite _ => none
  | .eventRingDrain => none
  | .evHeadWrite _ => none
  | .evLostClear _ => none
  | .coreGateWrite _ _ => none
  | .registerWrite _ _ => none
  | .illegalInstruction _ => none
  | .syscallReceiptAck _ => none
  | .nvmeStagingWrite _ _ => none
  | .precisionTimeMeasurement _ => none
  | .proxyLineEvict _ => none
  | .issueWithholdEnd _ _ => none

/-- The instruction that the decoder reads from a table row's bits: a word is 32 bits, bit 0 the least significant (R4, R31). -/
noncomputable def decodeTableWord (nbits w : Nat) : Option Instr :=
  if nbits ≤ 32 then (decode (BitVec.ofNat 32 w)).toOption else none

end Sys2Proof
end

