-- ==== Sys2Proof/Config.lean ====
section
/-! DEFINITION. What an implementation fixes and the values that the spec leaves open. Every open value is an opaque
constant: nothing can be proved of it but what holds for every value. -/
namespace Sys2Proof.Config

/-- Pod time, in units of 1/256 ns, that the n-th step of the device takes (R5: only bounds are promised).
[DESIGN CHOICE: log entry 4] -/
opaque elapsed : Nat → Nat
/-- Whether a translation unit uses a cached leaf where the tables have changed since (R233): either is allowed.
[DESIGN CHOICE: log entry 29] -/
opaque useCached : Nat → Bool
/-- The n-th value that the spec leaves open. [DESIGN CHOICE: log entry 5] -/
opaque freeWord : Nat → W64
/-- The magnitude that the seed `frcp` delivers, by the format's exponent width and the operand's magnitude, for a subnormal x whose 1/x is
normal: no row of R127 gives it. [DESIGN CHOICE: log entry 14] -/
opaque seedOpen : Nat → Nat → Nat
/-- The identifier from which the n-th kernel of a context searches for its own (R322). [DESIGN CHOICE: log entry 47] -/
opaque kernelId : Nat → Nat → Nat
/-- How many members of a pod collective, of a job, a tag and a member count, are on other devices (R287).
[DESIGN CHOICE: log entry 38] -/
opaque podMembers : W32 → W32 → Nat → Nat
/-- The packet at which an idle shepherd thread starts (R347): part of the firmware image. [DEDUCED: log entry 51] -/
opaque shepherdEntry : W32
/-- The signature of the device identity key over a nonce and the measurements (R406): the key is the part's own.
[PRESUMED: log entry 64] -/
opaque spdmSignature : BitVec 256 → List Nat → List Byte
/-- The boot ROM's version (R406, index 1). [PRESUMED: log entry 64] -/
opaque bootRomVersion : Nat
/-- The doublewords of BAR0's identity block, for an image version and a pod configuration (R367): the spec names their content and gives no layout.
[DESIGN CHOICE: log entry 60] -/
opaque identityWord : Nat → Nat → Nat → W64
/-- The doublewords of BAR0's recovery window (R367). [DESIGN CHOICE: log entry 60] -/
opaque recoveryWord : Nat → W64

/-- What a wait-list head (`bo.link`, `sp.popw`, `sp.pushw`) holds while the thread named by its group and lane is the list's
first: the spec says only that it is not zero (R255). [DESIGN CHOICE: log entry 39] -/
opaque waitLink : Nat → Nat → BitVec 48

end Sys2Proof.Config
end

