-- ==== Sys2Proof/Machine/Float.lean ====
section
/-! DEFINITION. Number formats and exact arithmetic (spec 03; the value half of 04): values are exact rationals, and one
helper, `roundTo`, does every rounding (R86). -/
namespace Sys2Proof.Machine

/-- IEEE exceptions in the bit order of `%fpstat.flags` (R78). -/
abbrev Exc := BitVec 5
def excNV : Exc := 1
def excDZ : Exc := 2
def excOF : Exc := 4
def excUF : Exc := 8
def excNX : Exc := 16

/-- Rounding directions (R79, R86). -/
inductive Dir5 where
  | rn | rz | ru | rd | rna
  deriving DecidableEq, Repr

/-- A floating value: a NaN, signalling or quiet; an infinity; a finite value by its sign and magnitude. -/
inductive FVal where
  | nan (sig : Bool)
  | inf (neg : Bool)
  | fin (neg : Bool) (m : Rat)
  deriving DecidableEq, Repr

/-- Formats (R74, R75, R89, R92): `bin e m` has IEEE layout with `e` exponent and `m` significand bits. -/
inductive Fmt where
  | bin (e m : Nat)
  | e4m3 | e2m1 | td8
  | int (signed : Bool) (w : Nat)
  deriving DecidableEq, Repr

def f64 : Fmt := .bin 11 52
def f32 : Fmt := .bin 8 23
def f16 : Fmt := .bin 5 10
def bf16 : Fmt := .bin 8 7
def e5m2 : Fmt := .bin 5 2

/-- A result with the exceptions it raises. -/
structure FR where
  bits : Nat
  exc : Exc
  deriving DecidableEq, Repr

/-- 2^e for any integer e. -/
def pow2 (e : Int) : Rat := if e < 0 then mkRat 1 (2 ^ e.natAbs) else ((2 ^ e.natAbs : Nat) : Rat)
/-- 10^e for any integer e. -/
def pow10 (e : Int) : Rat := if e < 0 then mkRat 1 (10 ^ e.natAbs) else ((10 ^ e.natAbs : Nat) : Rat)
/-- floor(log2 x) for a positive x. -/
def floorLog2 (x : Rat) : Int :=
  let e : Int := (x.num.natAbs.log2 : Int) - (x.den.log2 : Int)
  if x < pow2 e then e - 1 else if pow2 (e + 1) ≤ x then e + 1 else e
/-- The integer that a direction selects for a magnitude `r` of the given sign (R86). -/
def roundMag (dir : Dir5) (neg : Bool) (r : Rat) : Nat :=
  let fl := r.floor.toNat
  let fr := r - (fl : Rat)
  let half : Rat := mkRat 1 2
  let up : Bool :=
    match dir with
    | .rz => false
    | .ru => !neg && decide (fr ≠ 0)
    | .rd => neg && decide (fr ≠ 0)
    | .rn => decide (half < fr) || (decide (fr = half) && fl % 2 = 1)
    | .rna => decide (half ≤ fr)
  if up then fl + 1 else fl

/-! ## Values of encodings -/

/-- The classes of R93: for a run of ones or zeros and its length, (w, f, e0). -/
def td8Class (ones : Bool) (k : Nat) : Nat × Nat × Int :=
  match ones, k with
  | true, 1 => (0, 5, 0) | true, 2 => (1, 3, 1) | true, 3 => (2, 1, 3)
  | true, 4 => (2, 0, 7) | true, 5 => (1, 0, 11) | true, _ => (0, 0, 13)
  | false, 1 => (0, 5, -1) | false, 2 => (1, 3, -3) | false, 3 => (2, 1, -7)
  | false, 4 => (2, 0, -11) | false, 5 => (1, 0, -13) | false, _ => (0, 0, -14)
/-- The length of the run equal to p[6], counted from p[6] downward (R92). -/
def td8Run (p : Nat) : Nat :=
  let t := p.testBit 6
  if p.testBit 5 ≠ t then 1 else if p.testBit 4 ≠ t then 2 else if p.testBit 3 ≠ t then 3
  else if p.testBit 2 ≠ t then 4 else if p.testBit 1 ≠ t then 5 else 6
/-- The magnitude of a payload that is not special (R92). -/
def td8Mag (p : Nat) : Rat :=
  let k := td8Run p
  let (w, f, e0) := td8Class (p.testBit 6) k
  let j := (p >>> (6 - k - w)) % 2 ^ w
  let fr := p % 2 ^ f
  (1 + mkRat (9 * fr) (2 ^ f)) * pow10 (e0 + j)
/-- The value of a TD8 byte (R92): a NaR is a quiet NaN (R82). -/
def td8Value (byte : Nat) : FVal :=
  let s := byte.testBit 7
  let p := byte % 128
  if p = 127 then .inf s
  else if p = 0 then (if s then .nan false else .fin false 0)
  else .fin s (td8Mag p)

/-- The value of an encoding (R75, R82, R89, R92). -/
def valueOf (f : Fmt) (b : Nat) : FVal :=
  match f with
  | .bin e m =>
    let s := b.testBit (e + m)
    let x := (b >>> m) % 2 ^ e
    let fr := b % 2 ^ m
    if x = 2 ^ e - 1 then (if fr = 0 then .inf s else .nan (!fr.testBit (m - 1)))
    else
      let bias : Int := 2 ^ (e - 1) - 1
      if x = 0 then .fin s ((fr : Rat) * pow2 (1 - bias - m))
      else .fin s (((2 ^ m + fr : Nat) : Rat) * pow2 ((x : Int) - bias - m))
  | .e4m3 =>
    let s := b.testBit 7
    let x := (b >>> 3) % 16
    let fr := b % 8
    if b % 128 = 127 then .nan false
    else if x = 0 then .fin s ((fr : Rat) * pow2 (-9))
    else .fin s (((8 + fr : Nat) : Rat) * pow2 ((x : Int) - 10))
  | .e2m1 =>
    let s := b.testBit 3
    let x := (b >>> 1) % 4
    let fr := b % 2
    if x = 0 then .fin s (mkRat fr 2) else .fin s (((2 + fr : Nat) : Rat) * pow2 ((x : Int) - 2))
  | .td8 => td8Value (b % 256)
  | .int signed w =>
    let b := b % 2 ^ w
    if signed && b.testBit (w - 1) then .fin true ((2 ^ w - b : Nat) : Rat) else .fin false (b : Rat)

/-! ## Rounding (R86 to R88, R95) -/

/-- The overflow rule of R87: whether the largest finite magnitude is delivered in place of an infinity. -/
def overMax (dir : Dir5) (neg sat : Bool) : Bool :=
  sat || (match dir with | .rn => false | .rna => false | .rz => true | .ru => neg | .rd => !neg)

/-- Rounds a finite magnitude to an IEEE layout. -/
def roundBin (e m : Nat) (dir : Dir5) (sat neg : Bool) (x : Rat) : FR :=
  let sgn := if neg then 2 ^ (e + m) else 0
  if x = 0 then ⟨sgn, 0⟩ else
  let bias : Int := 2 ^ (e - 1) - 1
  let emin : Int := 1 - bias
  let ex := max (floorLog2 x) emin
  let k := roundMag dir neg (x * pow2 (m - ex))
  let y := (k : Rat) * pow2 (ex - m)
  let top : Rat := ((2 ^ (m + 1) - 1 : Nat) : Rat) * pow2 (bias - m)
  if top < y then
    ⟨sgn + (if overMax dir neg sat then (2 ^ e - 1) * 2 ^ m - 1 else (2 ^ e - 1) * 2 ^ m), excOF ||| excNX⟩
  else
    let nx : Exc := if y = x then 0 else excNX
    let uf : Exc := if y ≠ x ∧ x < pow2 emin then excUF else 0
    -- k carries the leading one: in the binade of ex it adds one to the exponent field below it
    ⟨sgn + ((ex - emin).toNat * 2 ^ m + k), nx ||| uf⟩

/-- Rounds a finite magnitude to e4m3. [DEDUCED: log entry 15] -/
def roundE4m3 (dir : Dir5) (sat neg : Bool) (x : Rat) : FR :=
  let sgn := if neg then 128 else 0
  if x = 0 then ⟨sgn, 0⟩ else
  let ex := max (floorLog2 x) (-6)
  let k := roundMag dir neg (x * pow2 (3 - ex))
  let y := (k : Rat) * pow2 (ex - 3)
  if 448 < y then ⟨if overMax dir neg sat then sgn + 0x7E else 0x7F, excOF ||| excNX⟩
  else ⟨sgn + ((ex + 6).toNat * 8 + k),
    (if y = x then 0 else excNX) ||| (if y ≠ x ∧ x < pow2 (-6) then excUF else 0)⟩

/-- Rounds a finite magnitude to e2m1, which saturates (R87, R88). -/
def roundE2m1 (dir : Dir5) (neg : Bool) (x : Rat) : FR :=
  let sgn := if neg then 8 else 0
  if x = 0 then ⟨sgn, 0⟩ else
  let ex := max (floorLog2 x) 0
  let k := roundMag dir neg (x * pow2 (1 - ex))
  let y := (k : Rat) * pow2 (ex - 1)
  if 6 < y then ⟨sgn + 7, excOF ||| excNX⟩
  else ⟨sgn + (ex.toNat * 2 + k), (if y = x then 0 else excNX) ||| (if y ≠ x ∧ x < 1 then excUF else 0)⟩

/-- The magnitude at position i of the TD8 grid, which continues above 10^13 to 10^14 only (R95). -/
def td8Grid (i : Nat) : Rat := if i = 0 then 0 else if i ≥ 127 then pow10 14 else td8Mag i
/-- The greatest position below `n` whose magnitude does not exceed x. -/
def td8Below (x : Rat) : Nat → Nat
  | 0 => 0
  | n + 1 => if td8Grid (n + 1) ≤ x then n + 1 else td8Below x n
/-- Rounds a finite magnitude to TD8 (R95). -/
def roundTd8 (dir : Dir5) (sat neg : Bool) (x : Rat) : FR :=
  if x = 0 then ⟨0, 0⟩ else
  let lo := td8Below x 127
  let a := td8Grid lo
  let b := td8Grid (lo + 1)
  let i :=
    if lo = 127 ∨ a = x then lo else
    let up : Bool :=
      match dir with
      | .rz => false
      | .ru => !neg
      | .rd => neg
      | .rn => decide (b - x < x - a) || (decide (b - x = x - a) && lo % 2 = 1)
      | .rna => decide (b - x ≤ x - a)
    if up then lo + 1 else lo
  let sgn := if neg then 128 else 0
  if 127 ≤ i then ⟨sgn + (if overMax dir neg sat then 126 else 127), excOF ||| excNX⟩
  else
    let nx : Exc := if td8Grid i = x then 0 else excNX
    let uf : Exc := if td8Grid i ≠ x ∧ x < pow10 (-14) then excUF else 0
    ⟨if i = 0 then 0 else sgn + i, nx ||| uf⟩

/-- Smallest and largest value of an integer format. -/
def intMin (signed : Bool) (w : Nat) : Int := if signed then -(2 ^ (w - 1)) else 0
def intMax (signed : Bool) (w : Nat) : Int := if signed then 2 ^ (w - 1) - 1 else 2 ^ w - 1
/-- An integer as a w-bit pattern. -/
def wrapNat (x : Int) (w : Nat) : Nat := (x % (2 ^ w : Int)).toNat
/-- `Sat` of R11. -/
def satInt (x lo hi : Int) : Int := if x < lo then lo else if hi < x then hi else x
/-- Rounds a finite magnitude to an integer format (R88). -/
def roundToInt (signed : Bool) (w : Nat) (dir : Dir5) (neg : Bool) (x : Rat) : FR :=
  let k := roundMag dir neg x
  let v : Int := if neg then -(k : Int) else k
  if v < intMin signed w then ⟨wrapNat (intMin signed w) w, excNV⟩
  else if intMax signed w < v then ⟨wrapNat (intMax signed w) w, excNV⟩
  else ⟨wrapNat v w, if (k : Rat) = x then 0 else excNX⟩

/-- The canonical NaN of a format, and what a NaN becomes where there is none (R82, R88). -/
def nanBits (f : Fmt) : Nat :=
  match f with
  | .bin e m => (2 ^ e - 1) * 2 ^ m + 2 ^ (m - 1)
  | .e4m3 => 0x7F
  | .e2m1 => 0
  | .td8 => 0x80
  | .int _ _ => 0
/-- The exceptions of a NaN rounded to a format (R80, R88). -/
def nanExc (f : Fmt) (sig : Bool) : Exc :=
  match f with
  | .int _ _ => excNV
  | .e2m1 => excNV
  | _ => if sig then excNV else 0
/-- An infinity rounded to a format (R87, R88). -/
def infOut (f : Fmt) (dir : Dir5) (sat neg : Bool) : FR :=
  match f with
  | .bin e m =>
    let sgn := if neg then 2 ^ (e + m) else 0
    ⟨sgn + (if sat then (2 ^ e - 1) * 2 ^ m - 1 else (2 ^ e - 1) * 2 ^ m), 0⟩
  | .e4m3 => if overMax dir neg sat then ⟨(if neg then 128 else 0) + 0x7E, 0⟩ else ⟨0x7F, excNV⟩
  | .e2m1 => ⟨(if neg then 8 else 0) + 7, 0⟩
  | .td8 => ⟨(if neg then 128 else 0) + (if sat then 126 else 127), 0⟩
  | .int signed w => ⟨wrapNat (if neg then intMin signed w else intMax signed w) w, excNV⟩

/-- `Round(fmt, x, mode)` of R86, without flushing, which its callers apply (R81). -/
def roundTo (f : Fmt) (dir : Dir5) (sat : Bool) (v : FVal) : FR :=
  match v with
  | .nan sig => ⟨nanBits f, nanExc f sig⟩
  | .inf neg => infOut f dir sat neg
  | .fin neg x =>
    match f with
    | .bin e m => roundBin e m dir sat neg x
    | .e4m3 => roundE4m3 dir sat neg x
    | .e2m1 => roundE2m1 dir neg x
    | .td8 => roundTd8 dir sat neg x
    | .int signed w => roundToInt signed w dir neg x

/-- Whether an encoding of an IEEE layout is subnormal. -/
def isSub (f : Fmt) (b : Nat) : Bool :=
  match f with
  | .bin e m => (b >>> m) % 2 ^ e = 0 && b % 2 ^ m ≠ 0
  | _ => false
/-- An operand as R81 reads it. -/
def flushIn (ftz : Bool) (f : Fmt) (b : Nat) : FVal :=
  match valueOf f b with
  | .fin s m => if ftz && isSub f b then .fin s 0 else .fin s m
  | v => v
/-- The sign bit of an IEEE layout alone. -/
def signOnly (f : Fmt) (b : Nat) : Nat :=
  match f with
  | .bin e m => if b.testBit (e + m) then 2 ^ (e + m) else 0
  | _ => 0
/-- A result as R81 delivers it. -/
def flushOut (ftz : Bool) (f : Fmt) (r : FR) : FR :=
  if ftz && isSub f r.bits then ⟨signOnly f r.bits, r.exc ||| excUF ||| excNX⟩ else r

/-! ## Exact operations (R80, R120 to R124) -/

def FVal.isSig : FVal → Bool
  | .nan s => s
  | _ => false
def FVal.isNan : FVal → Bool
  | .nan _ => true
  | _ => false
def FVal.negate : FVal → FVal
  | .nan s => .nan s
  | .inf n => .inf (!n)
  | .fin n m => .fin (!n) m
/-- The signed value of a finite one; 0 for the others, which no caller asks for. -/
def FVal.rat : FVal → Rat
  | .fin n m => if n then -m else m
  | _ => 0
/-- A finite value from a signed rational; `z` is the sign of a zero. -/
def ofRat (z : Bool) (x : Rat) : FVal := if x = 0 then .fin z 0 else if x < 0 then .fin true (-x) else .fin false x
/-- NV for any signalling operand. -/
def sigExc (l : List FVal) : Exc := if l.any FVal.isSig then excNV else 0

/-- Exact sum with the zero signs of R121. -/
def fAdd (dir : Dir5) (a b : FVal) : FVal × Exc :=
  match a, b with
  | .nan _, _ | _, .nan _ => (.nan false, sigExc [a, b])
  | .inf s, .inf t => if s = t then (.inf s, 0) else (.nan false, excNV)
  | .inf s, _ => (.inf s, 0)
  | _, .inf t => (.inf t, 0)
  | .fin s x, .fin t y =>
    let z : Bool := if x = 0 ∧ y = 0 ∧ s = t then s else decide (dir = .rd)
    (ofRat z (a.rat + b.rat), 0)
/-- Exact product with the zero sign of R121. -/
def fMul (a b : FVal) : FVal × Exc :=
  match a, b with
  | .nan _, _ | _, .nan _ => (.nan false, sigExc [a, b])
  | .inf s, .inf t => (.inf (s != t), 0)
  | .inf s, .fin t y => if y = 0 then (.nan false, excNV) else (.inf (s != t), 0)
  | .fin s x, .inf t => if x = 0 then (.nan false, excNV) else (.inf (s != t), 0)
  | .fin s x, .fin t y => (.fin (s != t) (x * y), 0)
/-- Exact fused multiply-add (R124). -/
def fFma (dir : Dir5) (a b c : FVal) : FVal × Exc :=
  let p := fMul a b
  let r := fAdd dir p.1 c
  (r.1, p.2 ||| r.2)
/-- IEEE division (R132). -/
def fDiv (a b : FVal) : FVal × Exc :=
  match a, b with
  | .nan _, _ | _, .nan _ => (.nan false, sigExc [a, b])
  | .inf _, .inf _ => (.nan false, excNV)
  | .inf s, .fin t _ => (.inf (s != t), 0)
  | .fin s _, .inf t => (.fin (s != t) 0, 0)
  | .fin s x, .fin t y =>
    if y = 0 then (if x = 0 then (.nan false, excNV) else (.inf (s != t), excDZ))
    else (.fin (s != t) (x / y), 0)

/-- Integer square root by Newton steps from above, which reach it within the fuel. -/
def isqrtFrom (n : Nat) : Nat → Nat → Nat
  | 0, r => r
  | k + 1, r =>
    let q := (r + n / r) / 2
    if q < r then isqrtFrom n k q else r
/-- floor of the square root of n. -/
def isqrt (n : Nat) : Nat := if n = 0 then 0 else isqrtFrom n (n.log2 + 8) (2 ^ (n.log2 / 2 + 1))
/-- The square root of a positive rational: exact where it is rational with a denominator that 2^b absorbs, else a value
strictly between the two nearest multiples of 2^-b that bracket it, so that every rounding to fewer bits agrees with that of
the exact root. -/
def sqrtRat (x : Rat) : Rat :=
  let b : Int := 80 - (floorLog2 x) / 2
  let y := x * pow2 (2 * b)
  let n := y.floor.toNat
  let r := isqrt n
  if (r * r : Nat) = y then (r : Rat) * pow2 (-b) else ((r : Rat) + mkRat 1 2) * pow2 (-b)
/-- IEEE square root (R133). -/
def fSqrt (a : FVal) : FVal × Exc :=
  match a with
  | .nan s => (.nan false, if s then excNV else 0)
  | .inf s => if s then (.nan false, excNV) else (.inf false, 0)
  | .fin s x => if x = 0 then (.fin s 0, 0) else if s then (.nan false, excNV) else (.fin false (sqrtRat x), 0)

/-- Order of two values that are not NaN, with -0 below +0 (R83). -/
def fKeyLt (a b : FVal) : Bool :=
  match a, b with
  | .inf s, .inf t => s && !t
  | .inf s, _ => s
  | _, .inf t => !t
  | .fin s x, .fin t y =>
    if x = 0 ∧ y = 0 then s && !t else decide ((FVal.fin s x).rat < (FVal.fin t y).rat)
  | _, _ => false
/-- minimumNumber and maximumNumber as R83 refines them: which operand, or the canonical NaN. -/
def fMinMax (mx : Bool) (a b : FVal) : FVal × Exc :=
  if a.isSig || b.isSig then (.nan false, excNV)
  else if a.isNan then (if b.isNan then (.nan false, 0) else (b, 0))
  else if b.isNan then (a, 0)
  else if mx then (if fKeyLt a b then (b, 0) else (a, 0))
  else (if fKeyLt b a then (b, 0) else (a, 0))

/-- The numeric relations of R126 on values that are not NaN: zeros compare equal. -/
def fLt (a b : FVal) : Bool :=
  match a, b with
  | .inf s, .inf t => s && !t
  | .inf s, _ => s
  | _, .inf t => !t
  | .fin s x, .fin t y => decide ((FVal.fin s x).rat < (FVal.fin t y).rat)
  | _, _ => false
def fEq (a b : FVal) : Bool := !fLt a b && !fLt b a
/-- The comparison of R126 by its code cc, with the exceptions it raises. -/
def fCompare (cc : Nat) (a b : FVal) : Bool × Exc :=
  let un := a.isNan || b.isNan
  let r : Bool :=
    match cc with
    | 0 => !un && fEq a b
    | 1 => un || !fEq a b
    | 2 => !un && fLt a b
    | 3 => !un && !fLt b a
    | 4 => !un && fLt b a
    | 5 => !un && !fLt a b
    | 6 => un
    | _ => !un
  (r, if (2 ≤ cc && cc ≤ 5 && un) || a.isSig || b.isSig then excNV else 0)

/-! ## Seeds and special functions (R127 to R130) -/

/-- Rounds a positive rational to 16 significant bits, to nearest even (R127). -/
def seed16 (x : Rat) : Rat :=
  let ex := floorLog2 x
  (roundMag .rn false (x * pow2 (15 - ex)) : Rat) * pow2 (ex - 15)
/-- Whether a positive magnitude lies in the normal range of an IEEE layout. -/
def normalRange (e m : Nat) (x : Rat) : Bool :=
  let bias : Int := 2 ^ (e - 1) - 1
  decide (pow2 (1 - bias) ≤ x) && decide (x ≤ ((2 ^ (m + 1) - 1 : Nat) : Rat) * pow2 (bias - m))
/-- A seed's result loses its exceptions: only NV, and only for a signalling NaN (R127). -/
def seedOut (ftz : Bool) (f : Fmt) (v : FVal) : Nat := (flushOut ftz f (roundTo f .rn false v)).bits
/-- A normal number of an IEEE layout with the sign of an operand, its magnitude open (R127). [DESIGN CHOICE: log entry 14] -/
def openSeed (e m b : Nat) (neg : Bool) : Nat :=
  let k := Config.seedOpen e (b % 2 ^ (e + m))
  (if neg then 2 ^ (e + m) else 0) + (1 + k / 2 ^ m % (2 ^ e - 2)) * 2 ^ m + k % 2 ^ m
/-- `frcp` (R127): Round(1/x) where 1/x is not normal; for a subnormal x whose 1/x is normal no row gives a value: it is a normal number,
open, with the sign of x. [DESIGN CHOICE: log entry 14] -/
def fRcp (ftz : Bool) (e m : Nat) (b : Nat) : FR :=
  let f := Fmt.bin e m
  match flushIn ftz f b with
  | .nan s => ⟨nanBits f, if s then excNV else 0⟩
  | .inf s => ⟨seedOut ftz f (.fin s 0), 0⟩
  | .fin s x =>
    if x = 0 then ⟨seedOut ftz f (.inf s), 0⟩
    else if !normalRange e m (1 / x) then ⟨seedOut ftz f (.fin s (1 / x)), 0⟩
    else if normalRange e m x then ⟨seedOut ftz f (.fin s (seed16 (1 / x))), 0⟩
    else ⟨openSeed e m b s, 0⟩
/-- `frsq` (R127). -/
def fRsq (ftz : Bool) (e m : Nat) (b : Nat) : FR :=
  let f := Fmt.bin e m
  match flushIn ftz f b with
  | .nan s => ⟨nanBits f, if s then excNV else 0⟩
  | .inf s => ⟨if s then nanBits f else 0, 0⟩
  | .fin s x =>
    if x = 0 then ⟨seedOut ftz f (.inf s), 0⟩
    else if s then ⟨nanBits f, 0⟩
    else ⟨seedOut ftz f (.fin false (seed16 (sqrtRat (1 / x)))), 0⟩

/-- The fraction bits that the special functions carry; far more than the distance of any f32 result from a rounding
boundary is presumed to need. -/
def fxBits : Nat := 400
/-- One in fixed point. -/
def fxOne : Int := 2 ^ fxBits
/-- Product in fixed point. -/
def fxMul (a b : Int) : Int := (a * b) / fxOne
/-- Σ over k < fuel of 1/(2k+1) · z^(2k+1), with alternating signs for the arc tangent: term holds z^(2k+1). -/
def fxOddSeries (alt : Bool) (z2 : Int) : Nat → Nat → Int → Int → Int
  | 0, _, _, acc => acc
  | n + 1, k, term, acc =>
    let c := term / (2 * k + 1)
    let acc := if alt && k % 2 = 1 then acc - c else acc + c
    fxOddSeries alt z2 n (k + 1) (fxMul term z2) acc
/-- artanh of a fixed-point value of magnitude at most 1/3. -/
def fxAtanh (z : Int) : Int := fxOddSeries false (fxMul z z) 140 0 z 0
/-- ln 2 = 2 artanh(1/3). -/
def fxLn2 : Int := 2 * fxAtanh (fxOne / 3)
/-- Σ over k in 1.. of z^k / k!, the exponential less one: term holds z^k / k!. -/
def fxExpm1Series (z : Int) : Nat → Nat → Int → Int → Int
  | 0, _, _, acc => acc
  | n + 1, k, term, acc => fxExpm1Series z n (k + 1) (fxMul term z / (k + 1)) (acc + term)
/-- exp z - 1 for a fixed-point z of magnitude at most 2. -/
def fxExpm1 (z : Int) : Int := fxExpm1Series z 130 1 z 0
/-- A rational in fixed point. -/
def fxOf (x : Rat) : Int := (x * ((2 ^ fxBits : Nat) : Rat)).floor
/-- A fixed-point value as a rational. -/
def fxRat (x : Int) : Rat := mkRat x (2 ^ fxBits)

/-- 2^x for a rational x that is no integer, with |x| at most 256. -/
def exp2Rat (x : Rat) : Rat :=
  let n := x.floor
  let fr := fxOf (x - (n : Rat))
  fxRat (fxOne + fxExpm1 (fxMul fr fxLn2)) * pow2 n
/-- log2 x for a positive rational x that is no power of two. -/
def log2Rat (x : Rat) : Rat :=
  let e := floorLog2 x
  let m := x * pow2 (-e)
  let ln := 2 * fxAtanh (fxOf ((m - 1) / (m + 1)))
  (e : Rat) + mkRat ln fxLn2.toNat
/-- Fraction bits of the argument reduction: enough for |x| below 2^128. -/
def piBits : Nat := 640
/-- arctan(1/n) with `piBits` fraction bits: term holds 1/n^(2k+1). -/
def piAtan (n : Int) : Nat → Nat → Int → Int → Int
  | 0, _, _, acc => acc
  | f + 1, k, term, acc =>
    let c := term / (2 * k + 1)
    piAtan n f (k + 1) (term / (n * n)) (if k % 2 = 1 then acc - c else acc + c)
/-- π/2 with `piBits` fraction bits, by Machin's formula. -/
def piHalf : Int :=
  let one : Int := 2 ^ piBits
  2 * (4 * piAtan 5 145 0 (one / 5) 0 - piAtan 239 45 0 (one / 239) 0)
/-- Σ of z^k/k! over k of one parity with alternating signs: term holds z^k/k!. -/
def fxTrigSeries (z2 : Int) : Nat → Nat → Int → Int → Int
  | 0, _, _, acc => acc
  | n + 1, k, term, acc => fxTrigSeries z2 n (k + 2) (-(fxMul term z2) / ((k + 1) * (k + 2))) (acc + term)
def fxSin (z : Int) : Int := fxTrigSeries (fxMul z z) 70 1 z 0
def fxCos (z : Int) : Int := fxTrigSeries (fxMul z z) 70 0 fxOne 0
/-- sin (or cos) of a positive rational, its argument reduced modulo π/2 (R129). -/
def trigRat (cosine : Bool) (x : Rat) : Rat :=
  let big := (x * ((2 ^ piBits : Nat) : Rat)).floor
  let q := big / piHalf
  let r := (big - q * piHalf) / (2 ^ (piBits - fxBits))
  let quad := (if cosine then q + 1 else q) % 4
  if quad = 0 then fxRat (fxSin r) else if quad = 1 then fxRat (fxCos r)
  else if quad = 2 then -fxRat (fxSin r) else -fxRat (fxCos r)
/-- tanh of a positive rational below 9.011: with z = exp(x/4) - 1, exp(2x) - 1 by three squarings. -/
def tanhRat (x : Rat) : Rat :=
  let sq := fun (z : Int) => 2 * z + fxMul z z
  -- |2x| ≤ 18.1; eight halvings bring it below 0.08
  let z := fxExpm1 (fxOf (x * mkRat 2 256))
  let e := sq (sq (sq (sq (sq (sq (sq (sq z)))))))
  mkRat e (e + 2 * fxOne).toNat

/-- Rounds a special function's value; every finite result that its table does not call exact raises NX (R130). -/
def sfuOut (v : FVal) : FR :=
  let r := roundTo f32 .rn false v
  let sub := isSub f32 r.bits || r.bits % 2 ^ 31 = 0
  ⟨r.bits, r.exc ||| excNX ||| (if sub then excUF else 0)⟩
def f32Nan (sig : Bool) : FR := ⟨nanBits f32, if sig then excNV else 0⟩
/-- `exp2.f32` (R129, R130). -/
def fExp2 (v : FVal) : FR :=
  match v with
  | .nan s => f32Nan s
  | .inf s => ⟨if s then 0 else 0x7F800000, 0⟩
  | .fin _ _ =>
    let x := v.rat
    if 128 ≤ x then ⟨0x7F800000, excOF ||| excNX⟩
    else if x < -160 then ⟨0, excUF ||| excNX⟩
    else if x.den = 1 then roundTo f32 .rn false (.fin false (pow2 x.num))
    else sfuOut (.fin false (exp2Rat x))
/-- `log2.f32`. -/
def fLog2 (v : FVal) : FR :=
  match v with
  | .nan s => f32Nan s
  | .inf s => if s then ⟨nanBits f32, excNV⟩ else ⟨0x7F800000, 0⟩
  | .fin s x =>
    if x = 0 then ⟨0xFF800000, excDZ⟩
    else if s then ⟨nanBits f32, excNV⟩
    else if x = pow2 (floorLog2 x) then roundTo f32 .rn false (ofRat false (floorLog2 x : Rat))
    else sfuOut (ofRat false (log2Rat x))
/-- `sin.f32` and `cos.f32`. -/
def fTrig (cosine : Bool) (v : FVal) : FR :=
  match v with
  | .nan s => f32Nan s
  | .inf _ => ⟨nanBits f32, excNV⟩
  | .fin s x =>
    if x = 0 then ⟨if cosine then 0x3F800000 else if s then 0x80000000 else 0, 0⟩
    else
      let y := trigRat cosine x
      sfuOut (ofRat false (if s && !cosine then -y else y))
/-- `tanh.f32`. -/
def fTanh (v : FVal) : FR :=
  match v with
  | .nan s => f32Nan s
  | .inf s => ⟨if s then 0xBF800000 else 0x3F800000, 0⟩
  | .fin s x =>
    let sg := if s then 0x80000000 else 0
    if x = 0 then ⟨sg, 0⟩
    else if mkRat 9011 1000 ≤ x then ⟨sg + 0x3F800000, excNX⟩
    else sfuOut (.fin s (tanhRat x))

/-! ## Fix-ups (R131 to R136) -/

/-- The mid-range of R131: normal, with an unbiased exponent in the middle half. -/
def midRange (e : Nat) (v : FVal) : Bool :=
  match v with
  | .fin _ x =>
    let lim : Int := if e = 11 then 510 else 62
    decide (x ≠ 0) && decide (-lim ≤ floorLog2 x) && decide (floorLog2 x ≤ lim)
  | _ => false
/-- The class mask of R131. -/
def fClass (e m : Nat) (b : Nat) : Nat :=
  let f := Fmt.bin e m
  let neg := b.testBit (e + m)
  match valueOf f b with
  | .nan s => if s then 1 else 2
  | .inf s => if s then 4 else 512
  | .fin _ x =>
    if x = 0 then (if neg then 32 else 64)
    else if isSub f b then (if neg then 16 else 128)
    else (if neg then 8 else 256) + (if midRange e (valueOf f b) then 1024 else 0)
/-- The spacing of the grid at the binade of a positive x (R132). -/
def ulpAt (e m : Nat) (x : Rat) : Rat :=
  let emin : Int := 2 - 2 ^ (e - 1)
  pow2 (max (floorLog2 x) emin - m)
/-- The grid neighbour of the encoding q in the direction of larger (`up`) or smaller values. [DEDUCED: log entry 18] -/
def stepBits (e m : Nat) (q : Nat) (up : Bool) : Nat :=
  let sb := 2 ^ (e + m)
  let mag := q % sb
  if mag = 0 then (if up then 1 else sb + 1)
  else if (q / sb = 0) = up then q + 1 else q - 1
/-- The correction step of R132 and R133: `x` is the exact quotient or root, `q` the estimate. [DEDUCED: log entry 18] -/
def fixUp (e m : Nat) (dir : Dir5) (q : Nat) (neg : Bool) (x : Rat) : FR :=
  let f := Fmt.bin e m
  let tgt : Rat := if neg then -x else x
  match valueOf f q with
  | .nan _ => ⟨nanBits f, excNV⟩
  | .inf s => ⟨stepBits e m q s, excNX⟩
  | .fin s y =>
    let qv := (FVal.fin s y).rat
    let d := if qv < tgt then tgt - qv else qv - tgt
    if d ≤ ulpAt e m x then roundTo f dir false (.fin neg x)
    else ⟨stepBits e m q (decide (qv < tgt)), excNX⟩
/-- `fdivfix` (R132). [DEDUCED: log entry 18] -/
def fDivFix (e m : Nat) (dir : Dir5) (ftz : Bool) (q a b : Nat) : FR :=
  let f := Fmt.bin e m
  let va := flushIn ftz f a
  let vb := flushIn ftz f b
  if midRange e va && midRange e vb then
    match va, vb with
    | .fin s x, .fin t y => flushOut ftz f (fixUp e m dir q (s != t) (x / y))
    | _, _ => ⟨nanBits f, 0⟩
  else
    let r := fDiv va vb
    let o := flushOut ftz f (roundTo f dir false r.1)
    ⟨o.bits, o.exc ||| r.2⟩
/-- `fsqrtfix` (R133). -/
def fSqrtFix (e m : Nat) (dir : Dir5) (ftz : Bool) (q a : Nat) : FR :=
  let f := Fmt.bin e m
  match flushIn ftz f a with
  | .fin false x =>
    if normalRange e m x then flushOut ftz f (fixUp e m dir q false (sqrtRat x))
    else
      let r := fSqrt (.fin false x)
      let o := flushOut ftz f (roundTo f dir false r.1)
      ⟨o.bits, o.exc ||| r.2⟩
  | v =>
    let r := fSqrt v
    let o := flushOut ftz f (roundTo f dir false r.1)
    ⟨o.bits, o.exc ||| r.2⟩
/-- `frnd` (R134): NX, UF and OF are not raised; ±0 and ±∞ are returned unchanged. -/
def fRnd (ftz : Bool) (f : Fmt) (dir : Dir5) (b : Nat) : FR :=
  match flushIn ftz f b with
  | .nan s => ⟨nanBits f, if s then excNV else 0⟩
  | .inf s => ⟨(infOut f dir false s).bits, 0⟩
  | .fin s x => ⟨(roundTo f .rn false (.fin s (roundMag dir s x : Rat))).bits, 0⟩
/-- `fscale` (R135): beyond 2^±5000 the result no longer depends on n. -/
def fScale (ftz : Bool) (f : Fmt) (dir : Dir5) (b : Nat) (n : Int) : FR :=
  match flushIn ftz f b with
  | .fin s x => flushOut ftz f (roundTo f dir false (.fin s (x * pow2 (satInt n (-5000) 5000))))
  | v => flushOut ftz f (roundTo f dir false v)
/-- `fexpo` (R136). -/
def fExpo (ftz : Bool) (f : Fmt) (b : Nat) : FR :=
  match flushIn ftz f b with
  | .nan _ => ⟨0x80000000, excNV⟩
  | .inf _ => ⟨0x7FFFFFFF, excNV⟩
  | .fin _ x => if x = 0 then ⟨0x80000000, excNV⟩ else ⟨wrapNat (floorLog2 x) 32, 0⟩

/-! ## Fixed orders of summation (R103 to R105) -/

/-- A reduction operation on encodings (R103, R105). -/
inductive RedOp where
  | add | min | max
  deriving DecidableEq, Repr
/-- One node of the tree, rounded with RN and no flushing. -/
def redNode (op : RedOp) (f : Fmt) (a b : Nat) : FR :=
  let va := valueOf f a
  let vb := valueOf f b
  match op with
  | .add =>
    let r := fAdd .rn va vb
    let o := roundTo f .rn false r.1
    ⟨o.bits, o.exc ||| r.2⟩
  | .min => let r := fMinMax false va vb; ⟨(roundTo f .rn false r.1).bits, r.2⟩
  | .max => let r := fMinMax true va vb; ⟨(roundTo f .rn false r.1).bits, r.2⟩
/-- A node of the fixed tree over optional inputs (R103). -/
def treeNode {α : Type} (g : α → α → α) : Option α → Option α → Option α
  | some a, some b => some (g a b)
  | some a, none => some a
  | none, b => b
/-- One level of the tree: adjacent pairs. -/
def treeLevel {α : Type} (g : α → α → α) : List (Option α) → List (Option α)
  | a :: b :: l => treeNode g a b :: treeLevel g l
  | l => l
/-- The root of the tree over 2^k leaves. -/
def treeRoot {α : Type} (g : α → α → α) : Nat → List (Option α) → Option α
  | 0, l => l.headD none
  | k + 1, l => treeRoot g k (treeLevel g l)
/-- A floating node over results, which unites their exceptions. -/
def redFR (op : RedOp) (f : Fmt) (a b : FR) : FR :=
  let r := redNode op f a.bits b.bits
  ⟨r.bits, r.exc ||| a.exc ||| b.exc⟩
/-- The reduction of R103 over 32 lanes, of which the absent ones are `none`. -/
def laneTree (op : RedOp) (f : Fmt) (xs : List (Option Nat)) : FR :=
  (treeRoot (redFR op f) 5 (xs.map (·.map (⟨·, 0⟩)))).getD ⟨0, 0⟩

end Sys2Proof.Machine
end

