-- ==== Sys2Proof/Machine/State.lean ====
section
/-! DEFINITION. The state of a DLX-2048 device as plain data: threads and groups (05), memory, homes and caches (06, 07),
pages (08), synchronisation objects (09), engines (10), tiles (11), kernels (12), queues (13), contexts (14), links (15),
debug and platform (16). Collections that are empty after reset are lists of records, each keyed by its own fields. -/
namespace Sys2Proof.Machine

/-- Why the machine stops: it never does. A device that has tripped, or whose image has not verified, stands still and goes on from
there (R404, R407). [DESIGN CHOICE: log entry 9] -/
inductive Fault where
  deriving DecidableEq, Repr

/-- Why a step has no meaning in the model. -/
inductive Refusal where
  /-- An opcode-table row without a meaning yet: raised by its arm of `exec`. Safe. -/
  | notModelled (mnemonic : String)
  deriving DecidableEq, Repr

/-- A byte-addressed store in canonical form: addresses strictly rise and no listed byte is zero, the value that an
unlisted byte reads as (R405: cold reset clears everything; R314: scratchpads start zeroed). -/
abbrev Memory := List Host.Cell

/-- A home agent's requester (R177): 0 to 2047 a core, 2048 the service die, 2049 the host, 2050 an engine or a remote
device, which keeps no copy. -/
abbrev Agent := Nat

/-! ## Threads (R43, R143, R152, R349, R352) -/

/-- A handle register: table index and the copy of the entry taken by `hsel`, its generation included (R168); `stale`
marks a copy whose generation no table entry holds any more (R344). -/
structure HReg where
  loaded : Bool
  idx : BitVec 12
  ent : BitVec 256
  stale : Bool
  deriving DecidableEq, Repr

/-- A destination register of one of the three files (R43). -/
inductive Dest where
  | g (r : BitVec 6) | p (r : BitVec 3) | h (r : BitVec 5)
  deriving DecidableEq, Repr

/-- One register write. -/
inductive Wr where
  | g (r : BitVec 6) (v : W32) | p (r : BitVec 3) (v : Bool) | h (r : BitVec 5) (v : HReg)
  deriving DecidableEq, Repr

/-- The register files of a thread (R43). -/
structure Regs where
  g : Vector W32 64
  p : Vector Bool 8
  h : Vector HReg 32
  deriving DecidableEq, Repr

/-- A variable-latency result that its thread has outstanding (R40): `need` counts the memory replies still to come,
`parts` the bytes already back, `writes` the register writes once known, `flags` the exceptions that go with it (R110,
R193), `acq` an acquire that completes with it (R212), `rem` an answer from outside the device for which its thread is held
(R147). -/
structure Result where
  id : Nat
  dests : List Dest
  writes : List Wr
  need : Nat
  parts : List (Nat × List Byte)
  flags : BitVec 5
  acq : Bool
  rem : Bool
  sx : Bool
  /-- An atomic's, which is logged when it is performed (R396, kind 1). -/
  atom : Bool
  deriving DecidableEq, Repr

/-- A trap record (R349). -/
structure TrapRec where
  pkt : W32
  slot : BitVec 2
  cause : Byte
  aux : W64
  word : W32
  opkt : W32
  oslot : BitVec 2
  deriving DecidableEq, Repr

/-- One lane's fault: its cause, its aux, and for a page fault the access and kind of its fault entry (R240). -/
structure LTrap where
  lane : Nat
  cause : Byte
  aux : W64
  acc : BitVec 3
  kind : Nat
  deriving DecidableEq, Repr

/-- An event addressed to threads of a group whose pen is switched out, as it is recorded (R153): the lanes whose wait it ended, with
the writes they get, or the faults it delivers, with an engine's address. -/
structure Recorded where
  gid : Nat
  woke : List (Nat × List Wr)
  traps : List (LTrap × TrapRec)
  eng : Option Nat
  deriving DecidableEq, Repr

/-- What the end of the open chain does to its lanes (R158): a `brk` with its code, a `sys`, an `exit`, an `iret`. -/
inductive Fin where
  | brk (code : BitVec 6) (word : W32) (slot : BitVec 2)
  | sys (word : W32) (slot : BitVec 2)
  | exit
  | iret
  deriving DecidableEq, Repr

/-- The rest of a chain whose word has stopped a lane (R148): at which signal depth and at which word it issues. `kept` is the
same chain going on after a wait of one of its words (R152): it still reads what the chain found (R37), and it keeps the chain's
S in `sw`, `gstate.step` at its issue in `step` (R155) and its first word in `cword`, `cslot`. `xfer` is the transfer of a
lower-slot word, which commits at the chain's end (R37); `fin` is what an earlier word makes the chain's end do (R158); when `ended`
no word is left and that end is all that remains. [DEDUCED: log entry 72] -/
structure Cont where
  depth : Nat
  pkt : W32
  slot : BitVec 2
  kept : Bool
  sw : Bool
  step : Bool
  cword : W32
  cslot : BitVec 2
  xfer : Option (W32 × BitVec 2)
  fin : Option Fin
  ended : Bool
  deriving DecidableEq, Repr

/-- Thread states (R152). -/
inductive TSt where
  | ready | switch | conv | blocked | parked | exited
  deriving DecidableEq, Repr

/-- The class of an engine operation (R273, R274). -/
inductive Cls where
  | copy | tile | gather | coll
  deriving DecidableEq, Repr

/-- What a BLOCKED thread waits for (R152). -/
inductive Wait where
  | bar (fid off : Nat) (tok : W32)
  | spush (fid off : Nat) (entry : W64) (prod : Nat)
  | spop (fid off : Nat) (d : BitVec 6)
  | mwait (mon : Nat) (d : BitVec 6)
  | mwsync (win : Nat) (seq : BitVec 31)
  | gate (k : Nat) (d : BitVec 6)
  | waitc (cls : Cls) (n : Nat)
  | orecv (q : Nat) (a b : BitVec 6)
  | cont (entry : W32) (payload : List W32)
  | lnch (d : BitVec 6) (va : Nat)
  | fqpop (a : BitVec 6)
  /-- A `fence`, whose thread stands in SWITCH (R200). -/
  | fence
  | sdn (id : Nat)
  | swp (d : BitVec 6) (herds : List (Nat × Nat × Nat))
  | ckpt (d : BitVec 6) (ctx : Nat)
  deriving DecidableEq, Repr

/-- A POD store that its remote home reported failed (R199), or a tile fault pending in a signer (R294): a fault to be
delivered at a later word, with the word that raised it. -/
structure Deferred where
  cause : Byte
  aux : W64
  word : W32
  pkt : W32
  slot : BitVec 2
  deriving DecidableEq, Repr

/-- One thread (R143, R152). `regs` are its registers; `old` are they as the open chain found them, which is what every
word of the chain reads (R37), and `octl` is `%fpctl` as it found it (R47). `pend` is the pending set of R40, `outst` the outstanding results, `hold` an acquire in
flight (R212) or an access that an answer from outside or the first-touch unit holds (R147, R199, R238), `popCore` the core of the fault
entry it popped last (R416), `then_` whether the chain that put the thread into CONV or BLOCKED carried S (R152) and `stepped` whether it was issued
with `gstate.step` set (R155), `npkt` and `nslot`
where such a thread goes on (its `pkt` and `slot` stay at the waiting word, its restart point), `wword` the word at which it
waits and `cword`, `cslot` the first word of that word's chain (R155), `exiting` an `exit` that still collects results
(R158), `conts` the rests of chains that it goes on with where it stands at one (R148). -/
structure Thread where
  gid : Nat
  lane : Nat
  pkt : W32
  slot : BitVec 2
  st : TSt
  regs : Regs
  old : Regs
  fpctl : W32
  octl : W32
  fpstat : W32
  rwc : W64
  depth : Nat
  trr : TrapRec
  pend : List Dest
  outst : List Result
  /-- Its pen has been switched out: it issues nothing before its results are in, which empties its pending set (R42, R343). -/
  coll : Bool
  hold : Bool
  then_ : Bool
  stepped : Bool
  wait : Option Wait
  podErr : List Deferred
  tileErr : List Deferred
  tgt : W32
  popCore : Option Nat
  npkt : W32
  nslot : BitVec 2
  wword : W32
  cword : W32
  cslot : BitVec 2
  exiting : Bool
  conts : List Cont
  deriving DecidableEq, Repr

/-- A fetch set (R145): its lanes, when it last issued, whether it is promoted for its next issue (R335), whether it has just
executed `yld` (R334). -/
structure FSet where
  lanes : Mask
  last : Nat
  promoted : Bool
  yld : Bool
  deriving DecidableEq, Repr

/-- A group and its counters (R154, R274, R306). `code` is the CODE handle bound to its kernel (R33), `hslot` its group
slot in the pen, `regsN` its registers per thread (R44), `tiles` its open tiles in opening order. -/
structure Group where
  gid : Nat
  ctx : Nat
  kid : Nat
  herd : Nat
  flk : Nat
  grp : Nat
  fid : Nat
  pcore : Nat
  pen : Nat
  hslot : Nat
  regsN : Nat
  code : HReg
  sys : Bool
  shep : Bool
  step : Bool
  lvl : List W32
  fsets : List FSet
  copyN : Nat
  tileN : Nat
  gatherN : Nat
  collN : Nat
  tiles : List Nat
  cur : Option Nat
  deriving DecidableEq, Repr

/-- The cross-lane operations (R56, R165). -/
inductive XOp where
  | reconv
  | pollOr | pollAnd | pollSame | gmask
  | xchAt | xchBack | xchFwd | xchFlip
  | addI (w : Nat) | minI (w : Nat) | minN (w : Nat) | maxI (w : Nat) | maxN (w : Nat)
  | addF (dbl : Bool) | minF (dbl : Bool) | maxF (dbl : Bool)
  | scanI (w : Nat) | scanF (dbl : Bool)
  | vmrgLo (signed : Bool) | vmrgHi (signed : Bool) | bsort (signed : Bool) | rank (signed : Bool)
  deriving DecidableEq, Repr

/-- A lane's operands, read when it arrives at a cross-lane word (R159), and the fetch set with which it arrived, by the step of
its arrival (R145). -/
structure Arrival where
  lane : Nat
  set : Nat
  x : W64
  y : W64
  b : W32
  q : Bool
  deriving DecidableEq, Repr

/-- An open instance of a convergence or cross-lane word (R159). -/
structure Inst where
  iid : Nat
  gid : Nat
  pkt : W32
  slot : BitVec 2
  word : W32
  mask : Mask
  op : XOp
  d : BitVec 6
  arr : List Arrival
  deriving DecidableEq, Repr

/-- A parked sub-group (R149, R150): `idx` is its replay-queue entry, `none` while it waits for one; `collecting` holds
while its threads still collect results; `acc` and `kind` go into a fault entry, and `eng` is the address of an engine's
fault (R240). -/
structure SubGroup where
  id : Nat
  gid : Nat
  lanes : Mask
  cause : Byte
  idx : Option Nat
  /-- Its entry had been taken by a handler when its herd went out: it enters a queue again without being posted again. -/
  taken : Bool
  collecting : Bool
  acc : BitVec 3
  kind : Nat
  eng : Option Nat
  /-- The pod time of its fault (R240). -/
  time : W64
  deriving DecidableEq, Repr

/-! ## Cores, pens, shepherds (R20, R341, R347) -/

inductive PenSt where
  | empty | loading | shadow | active | saving
  deriving DecidableEq, Repr

structure Pen where
  st : PenSt
  ctx : Nat
  sys : Bool
  deriving DecidableEq, Repr

/-- L1 word states (R174). -/
inductive L1St where
  | si | wi | own
  deriving DecidableEq, Repr

structure L1Word where
  core : Nat
  addr : Nat
  st : L1St
  ctx : Nat
  val : W32
  deriving DecidableEq, Repr

/-- A cached leaf of a core's translation unit (R233, R234): `pages` 4 KiB pages from `vpn`. -/
structure TlbEnt where
  core : Nat
  ctx : Nat
  vpn : Nat
  pages : Nat
  pte : W64
  deriving DecidableEq, Repr

/-- An entry of a core's shepherd queue (R347). -/
structure ShepEntry where
  kind : Nat
  idx : Nat
  ctx : Nat
  g2 : W32
  g3 : W32
  tgt : W32
  deriving DecidableEq, Repr

/-- A core that is not as reset leaves it. `stopped`: its shepherd has taken a trap (R347). `handling`: shepherd lanes
with an entry in hand. -/
structure Core where
  id : Nat
  pen0 : Pen
  pen1 : Pen
  gated : Bool
  entries : List ShepEntry
  handling : List Nat
  stopped : Bool
  issues : Nat
  /-- Bytes that its copy engine has read and written since reset (R401). -/
  rdBytes : Nat
  wrBytes : Nat
  deriving DecidableEq, Repr

/-! ## Memory requests, homes, caches (R176 to R188) -/

inductive ReqKind where
  | read (si : Bool) | wi | ownLoad | ownStore | write (si : Bool)
  | rmw (op : RmwOp) (b c : W64)
  | mwait (b : W64)
  | hostRead | hostWrite | sdRead | sdWrite
  deriving DecidableEq, Repr

/-- A request on its way to a home, refused there or held there (R181, R182); `refused` until the
requester retries. `rid` is the result it feeds, at byte `off`, or for an engine its operation's source and destination offsets
at the sending; `dev` a remote device (R417); `ft` held for the first-touch unit (R238); `rel` a release, which its home takes only when every
earlier access of its thread is complete (R211). -/
structure Req where
  id : Nat
  src : Agent
  gid : Nat
  lane : Nat
  ctx : Nat
  kind : ReqKind
  pa : Nat
  va : Nat
  n : Nat
  data : List Byte
  rid : Option Nat
  off : Nat
  refusals : Nat
  persistent : Bool
  refused : Bool
  dev : Option Nat
  ft : Bool
  rel : Bool
  word : W32
  pkt : W32
  slot : BitVec 2
  /-- The restart point's slot: the word's or its prefix's (R148). -/
  rslot : BitVec 2
  /-- The engine operation whose access to a remote device this is. -/
  eng : Option Nat
  /-- Of a service-die core, named by `lane`: later accesses of that core wait for this one; `wrs`, its later writes do (R223). -/
  acq : Bool
  wrs : Bool
  deriving DecidableEq, Repr

/-- A home's state of one word (R177). -/
inductive Dir where
  | clean (s : List Agent)
  | owned (c : Agent)
  | recall (c : Agent) (held : Nat)
  | inval (left keep : List Agent) (held : Nat)
  /-- Owned, and kept stable for a held request that covers it and a word in transition (R179). -/
  | kept (c : Agent) (held : Nat)
  deriving DecidableEq, Repr

/-- A message between a home and an agent, delivered in the order sent (R178): the word it concerns. -/
inductive Msg where
  | recall (c : Agent) (word : Nat)
  | response (c : Agent) (word : Nat) (v : Option W32)
  | invalidate (a : Agent) (word : Nat)
  | ack (a : Agent) (word : Nat)
  | writeback (c : Agent) (word : Nat) (v : W32)
  deriving DecidableEq, Repr

/-- A grain registered to an engine operation (R187). -/
structure Grain where
  addr : Nat
  op : Nat
  core : Nat
  deriving DecidableEq, Repr

/-- A monitor armed by `mwait` (R195, R267); `fid` is `some` for a scratchpad word. -/
structure Monitor where
  id : Nat
  fid : Option Nat
  addr : Nat
  n : Nat
  gid : Nat
  lane : Nat
  deriving DecidableEq, Repr

/-- A line the proxy home holds from the host (R186): `m` Modified, `x` Exclusive, else Shared. -/
structure ProxyLine where
  line : Nat
  x : Bool
  m : Bool
  deriving DecidableEq, Repr

/-- One multicast update of a mirrored range (R189): its sequence number, its offset in the range and its bytes. -/
structure Update where
  seq : BitVec 31
  off : Nat
  data : List Byte
  deriving DecidableEq, Repr

/-- The homes' record of a mirrored range: the physical addresses of its grains and its sequence number (R189).
[DEDUCED: log entry 55] -/
structure MirrorSeq where
  ctx : Nat
  va : Nat
  grains : List Nat
  seq : BitVec 31
  deriving DecidableEq, Repr

inductive WinSt where
  | free | loading | active | suspended | detached
  deriving DecidableEq, Repr

/-- A mirror window (R189, R190). -/
structure Window where
  st : WinSt
  scr : Nat
  va : Nat
  len : Nat
  applied : BitVec 31
  updates : List Update
  detachOnResume : Bool
  /-- The thread and the result that an `mwsub` being served completes. -/
  ret : Option (Nat × Nat × Nat)
  deriving DecidableEq, Repr

/-! ## Flocks: scratchpads and the objects saved with the pen (R260, R263, R268, R202, R286, R297) -/

/-- One signature of the open round of a seam (R260, R294); `key` is the place of the round in its group's issue order and
`tile` the tile that tags it for the group (R295, R306). -/
structure Signer where
  gid : Nat
  lane : Nat
  word : W32
  pkt : W32
  slot : BitVec 2
  quad : List W32
  key : Nat
  tile : Option Nat
  /-- The accesses of its thread that were under way at its signature (R221). -/
  after : List Nat
  deriving DecidableEq, Repr

structure Seam where
  need : Nat
  gen : Byte
  cancel : Bool
  signers : List Signer
  deriving DecidableEq, Repr

/-- A timed gate (R268). -/
inductive Gate where
  | idle | armed (t : W64) | fired (t : W64)
  deriving DecidableEq, Repr

inductive ChanSt where
  | idle | walking | waiting | stopped
  deriving DecidableEq, Repr

/-- A copy channel (R286): the record it stands at and the operation of that record; the `chain` word that started it, and the
accesses of its threads that were under way at its `chain`s (R221). -/
structure Chan where
  st : ChanSt
  h : HReg
  off : Nat
  op : Option Nat
  gid : Nat
  lane : Nat
  delivered : Bool
  word : W32
  pkt : W32
  slot : BitVec 2
  after : List Nat
  deriving DecidableEq, Repr

inductive SlotSt where
  | ready | filling | bad
  deriving DecidableEq, Repr

/-- A B-store slot (R297). -/
structure BSlot where
  slot : Nat
  st : SlotSt
  gen : BitVec 16
  deriving DecidableEq, Repr

/-- A waiter on a barrier or spool, in arrival order (R255, R264): `link` is where the object keeps the head of this wait
list, `bo.link`, `sp.popw` or `sp.pushw`. -/
structure Waiter where
  off : Nat
  link : Nat
  gid : Nat
  lane : Nat
  deriving DecidableEq, Repr

structure Flock where
  fid : Nat
  ctx : Nat
  kid : Nat
  herd : Nat
  flk : Nat
  pcore : Nat
  pen : Nat
  both : Bool
  scr : Memory
  scrLen : Nat
  bst : Memory
  bstLen : Nat
  slots : List BSlot
  seams : Vector Seam 16
  gates : Vector Gate 8
  tags : List (Nat × W64)
  chans : Vector Chan 4
  wins : Vector Window 8
  waiters : List Waiter
  deriving DecidableEq, Repr

/-! ## Engine operations (R270 to R287, R299, R302, R390) -/

/-- A copy descriptor (R270). -/
structure CD where
  soff : Nat
  doff : Nat
  sh : Nat
  dh : Nat
  dims : Nat
  bar : Bool
  codec : Nat
  row : Nat
  rows : Nat
  planes : Nat
  slen : Nat
  sstr : Int
  dstr : Int
  start : Nat
  sps : Int
  dps : Int
  deriving DecidableEq, Repr

/-- The operations of COLL (R68, R287). -/
inductive CollOp where
  | bcast | addF32 | addF64 | addI32 | addI64 | minF32 | maxF32 | minF64 | maxF64 | minI64 | maxI64 | minN64 | maxN64
  deriving DecidableEq, Repr

/-- A collective member's operands (R287). -/
structure CollArg where
  op : CollOp
  dom : BitVec 2
  soff : Nat
  roff : Nat
  count : Nat
  member : Nat
  n : Nat
  tag : W32
  deriving DecidableEq, Repr

/-- Semirings of MMA (R69). -/
inductive Semiring where
  | plusTimes | minPlus | maxPlus | maxTimes | orAnd
  deriving DecidableEq, Repr

/-- A matrix operation (R300). -/
structure MmaArg where
  sr : Semiring
  m : Nat
  n : Nat
  sat : Bool
  init : Bool
  fw : W32
  ao : Nat
  s : Nat
  co : Nat
  signers : List Signer
  /-- The fill generation of each B-store slot it reads, current at its fire (R297). -/
  gens : List (Nat × BitVec 16)
  /-- A slot whose fill has been aborted under it. -/
  bad : Option Nat
  deriving DecidableEq, Repr

inductive OpKind where
  | copy (d : CD)
  | bld (d : CD)
  | gath (d : CD) (ih : HReg)
  | cpm (d : CD) (mask : Byte) (tag : BitVec 16)
  | drn (doff : Nat) (tag : BitVec 16)
  | coll (a : CollArg)
  | mma (a : MmaArg)
  | mmz (off m n : Nat) (fmt : Nat)
  | mmcvt (so dO m n : Nat) (cw : W32)
  | mst (so dO : Nat) (stride : Int) (rowBytes rows : Nat)
  | tret (off : Nat) (tile : Nat)
  | rput (lo ro n : Nat) | rget (lo ro n : Nat)
  | ratm (ro : Nat) (op : RmwOp) (b : W64) (res : Option Nat)
  | record (d : CD) (ch : Nat)
  /-- A channel's own accesses to its records (R285, R286). -/
  | walk (ch : Nat)
  deriving DecidableEq, Repr

/-- Operation states (R276, R299); WAITING and COMPUTING are those of a matrix operation. -/
inductive OpSt where
  | queued | running | waiting | computing | stopped | failed | suspended | done
  deriving DecidableEq, Repr

/-- A group whose counter counts an operation (R274, R295): the operation's place in its issue order, the tile that tags it
(R306), and whether it has recognised it. -/
structure OpGrp where
  gid : Nat
  tile : Option Nat
  key : Nat
  recog : Bool
  deriving DecidableEq, Repr

/-- An asynchronous operation. `sh` and `dh` are the handles it uses with the generations it captured (R169); `off` is
its destination restart offset and `soffDone` its source one (R277); `bar` the barrier it credits: flock, offset, phase
(R257); `secs` the sectors it has still to credit; `left` the state that SUSPENDED left; `out` bytes read or computed and not
yet written; `at_` the time of a timed copy (R280); `groups` the groups whose counters count it; `fva` and `fkind` go into the
fault entry of a missing page (R240); `t0` to `t3` its stamps (R307); `stalled` a full bounce buffer (R244). -/
structure Op where
  id : Nat
  cls : Option Cls
  kind : OpKind
  st : OpSt
  gid : Nat
  lane : Nat
  ctx : Nat
  kid : Nat
  herd : Nat
  fid : Nat
  core : Nat
  sh : HReg
  dh : HReg
  off : Nat
  soffDone : Nat
  out : List Byte
  /-- What other devices have answered to the reads of the present burst: each with the place it came from. -/
  got : List (Nat × List Byte)
  bar : Option (Nat × Nat × Byte)
  secs : Nat
  cause : Byte
  delivered : Bool
  left : OpSt
  at_ : Option W64
  groups : List OpGrp
  fva : Nat
  fkind : Nat
  word : W32
  pkt : W32
  slot : BitVec 2
  t0 : W64
  t1 : W64
  t2 : W64
  t3 : W64
  stalled : Bool
  /-- The accesses of its thread that were under way at its issue: it waits for them (R221). -/
  after : List Nat
  deriving DecidableEq, Repr

inductive HoldSt where
  | filling | held
  deriving DecidableEq, Repr

/-- A holding slot in use (R281). -/
structure HoldSlot where
  fold : Nat
  ctx : Nat
  kid : Nat
  herd : Nat
  st : HoldSt
  mask : Byte
  tag : BitVec 16
  op : Nat
  data : List Byte
  drains : List Nat
  deriving DecidableEq, Repr

/-! ## Pages (R235 to R247) -/

/-- A first-touch ring's register block (R237). -/
structure FtuRing where
  base : BitVec 39
  lg : BitVec 5
  head : BitVec 21
  tail : BitVec 21
  low : BitVec 21
  lowev : Bool
  deriving DecidableEq, Repr

/-- A fault entry (R240); `sub` is the sub-group it was posted for, `none` for an event slot. -/
structure FaultEnt where
  sub : Option Nat
  va : Nat
  ctx : Nat
  kind : BitVec 4
  acc : BitVec 3
  eng : Bool
  pcore : Nat
  pen : Nat
  grp : Nat
  lanes : Mask
  seq : W32
  time : W64
  deriving DecidableEq, Repr

/-- A pasture's fault queue (R239). -/
structure FaultQueue where
  entries : List FaultEnt
  seq : W32
  /-- Threads BLOCKED in `fqpop`, in arrival order. -/
  waiters : List (Nat × Nat)
  deriving DecidableEq, Repr

/-- A grain record of a bounce buffer, with the bytes written so far (R244). -/
structure Bounce where
  ctx : Nat
  va : Nat
  bytes : Memory
  written : List Nat
  deriving DecidableEq, Repr

inductive TierSt where
  | hbm | promoting | near | demoting
  deriving DecidableEq, Repr

/-- A 64 KiB frame that is not unpinned in HBM (R245, R246): `fna` the contexts whose next access faults, `held` a
promote or evict kept for later. -/
structure Frame where
  frame : Nat
  st : TierSt
  tierPins : Nat
  nearPins : Nat
  l2Pins : Nat
  l2Ctx : List Nat
  fna : List Nat
  /-- The contexts whose mark the access of the present step has met. -/
  told : List Nat
  /-- The near-tier bank that holds the frame. -/
  bank : Nat
  heldPromote : Bool
  heldEvict : Bool
  waiting : Bool
  hot : Int
  /-- Of its words, in order: those whose home has switched in the move under way, and those that are mid-switch (R245). -/
  moved : Nat
  mid : Nat
  deriving DecidableEq, Repr

/-- A shoot-down in flight (R247); `whole` for a whole context; `gid`, `lane` its waiter, absent in a kill. -/
structure Sdn where
  id : Nat
  ctx : Nat
  va : Nat
  pages : Nat
  whole : Bool
  gid : Nat
  lane : Nat
  deriving DecidableEq, Repr

/-! ## Kernels, herds, contexts (R309, R318, R338, R339) -/

/-- A launch record as read (R309). -/
structure LRec where
  entry : W32
  codeh : Nat
  nlvl : Nat
  regs : Nat
  groups : Nat
  herd : Nat
  prio : Nat
  dclass : Nat
  podix : Nat
  htab : Nat
  hpre : Nat
  scr : Nat
  bst : Nat
  start : W64
  dl : W64
  budget : Nat
  bw : Nat
  ctab : Nat
  ncont : Nat
  cwait : Nat
  clg : Nat
  cring : Nat
  cpl : Nat
  lvl : List (Nat × Nat × Nat)
  arg : List W32
  deriving DecidableEq, Repr

inductive KSt where
  | submitted | admitted | placing | running | draining | done | faulted
  deriving DecidableEq, Repr

/-- A kernel (R318). `pre` is its preload table as read, `ctab` its continuation entries, `ring` its continuation ring
(R319) with the time each record entered and its place there, `flush` the entry indices whose partial batch is due, `contN` the continuation
herds made so far, `cores` the cores reserved for a D0 kernel (R328). -/
structure Kernel where
  ctx : Nat
  kid : Nat
  st : KSt
  r : LRec
  code : HReg
  pre : List (BitVec 16)
  ctab : List W32
  h : Nat
  age : W64
  ring : List (Nat × List W32 × W64 × Nat)
  flush : List Nat
  contN : Nat
  cores : List Nat
  opWait : W64
  overrun : Bool
  killed : Bool
  /-- Threads BLOCKED in `cont`, in arrival order. -/
  waiters : List (Nat × Nat)
  /-- Continuation records appended so far. -/
  ringN : Nat
  deriving DecidableEq, Repr

/-- A herd: waiting for placement, resident, loading or saving, saved, or retired. -/
inductive HerdSt where
  | waiting | loading | resident | saving | saved | retired
  deriving DecidableEq, Repr

/-- A herd of a kernel. `runnable` holds when an event that releases one of its threads has been recorded (R332);
`gens` is the snapshot of the context's handle generations taken at the save (R344); `since` when it became resident, or,
saved, when it began to wait; `expired` whether the quantum of R331 against it has run out, or, once it leaves, whether it
leaves for that. -/
structure Herd where
  ctx : Nat
  kid : Nat
  herd : Nat
  st : HerdSt
  cores : List Nat
  cont : Bool
  runnable : Bool
  gens : List (Nat × W32)
  since : W64
  expired : Bool
  issues : Nat
  budgetEv : Bool
  /-- The waiting herd for which it was pre-empted (R331). -/
  after : Option (Nat × Nat × Nat)
  /-- It is chosen to leave, and waits for the other pens of its cores to be EMPTY (R345). -/
  due : Bool
  /-- Fault entries withdrawn at its save, and shepherd entries that wait for its resumption (R239, R346). -/
  faults : List FaultEnt
  owed : List (Nat × Nat × ShepEntry)
  deriving DecidableEq, Repr

inductive CxSt where
  | live | stopping | stopped | dying | dead
  deriving DecidableEq, Repr

/-- A context: its descriptor as the device read it (R338) and its life (R340). -/
structure Context where
  id : Nat
  st : CxSt
  sys : Bool
  libos : Bool
  dbg : Bool
  rec_ : Bool
  sigh : BitVec 5
  sigsp : BitVec 6
  root : Nat
  htab : Nat
  qtab : Nat
  sigtab : Nat
  scq : Nat
  save : Nat
  bbuf : Nat
  bbsz : Nat
  scqlg : Nat
  job : W32
  libent : W32
  libend : W32
  sctmo : W32
  savn : Nat
  reason : Byte
  descPa : Nat
  /-- A checkpoint is under way (R395). -/
  ck : Bool
  /-- Kernels created so far. -/
  launches : Nat
  /-- Entries taken from the system-call queue so far (R357). -/
  scqN : Nat
  deriving DecidableEq, Repr

inductive CallSt where
  | logged | sent | acked | done
  deriving DecidableEq, Repr

/-- A journal entry of a forwarded system call (R359). -/
structure Call where
  seq : Nat
  ctx : Nat
  gid : Nat
  lane : Nat
  h : HReg
  off : Nat
  idem : Bool
  st : CallSt
  deriving DecidableEq, Repr

/-- Scheduler control (R329). -/
structure Sched where
  quantum : W32
  d0cores : BitVec 12
  d0bw : BitVec 5
  d0pw : BitVec 15
  deriving DecidableEq, Repr

/-! ## Links (R365, R376 to R387) -/

inductive PortSt where
  | down | training | up | retry | stalled | failed
  deriving DecidableEq, Repr

/-- A fabric port (R365, R372, R378, R382): `w` the inbound watermarks last announced to it, `wOut` those it announced,
`fails` failed trainings or replays in a row, `fromStall` a RETRY entered from STALLED, `beacon` whether a beacon has
come since it joined the routes, `routed` whether it is in the routes, `frozen` its frozen value F (R383), `since` the pod
time from which its watermark has stood still (R382), `unacked` the flits kept for replay (R372), `greeted` whether it has sent a
beacon since it joined the routes (R380). -/
structure Port where
  st : PortSt
  en : Bool
  retry : BitVec 16
  delay : W32
  w : List W64
  wOut : List W64
  fails : Nat
  fromStall : Bool
  beacon : Bool
  routed : Bool
  greeted : Bool
  held : Bool
  frozen : Option W64
  since : W64
  unacked : List Flit
  /-- The classes that the far end holds back on this port (R371). -/
  paused : List LinkClass
  /-- A replay request of this port is out (R372). -/
  asked : Bool
  inSeq : BitVec 10
  outSeq : BitVec 10
  sent : Nat
  recv : Nat
  deriving DecidableEq, Repr

/-- An ordered-class context entry with its token count (R386, R389). [DESIGN CHOICE: log entry 57] -/
structure OcEnt where
  ctx : Nat
  en : Bool
  rate : BitVec 16
  burst : BitVec 12
  drop : W32
  tokens : Nat
  deriving DecidableEq, Repr

/-- An ordered receive queue descriptor (R386). -/
structure OqEnt where
  ctx : Nat
  q : Nat
  base : Nat
  lg : BitVec 4
  en : Bool
  head : BitVec 17
  tail : BitVec 17
  /-- Threads BLOCKED in `orecv`, in arrival order. -/
  waiters : List (Nat × Nat)
  deriving DecidableEq, Repr

/-- A retained packet and the devices still to acknowledge it (R387). -/
structure Retained where
  pkt : OrdPkt
  waiting : List Nat
  port : Nat
  deriving DecidableEq, Repr

/-- A packet waiting at an outbound port (R378). -/
structure OutPkt where
  port : Nat
  pkt : OrdPkt
  deriving DecidableEq, Repr

/-- A flit of another class on its way through the router: the port that it waits at (R371). -/
structure Transit where
  port : Nat
  cls : LinkClass
  dst : BitVec 12
  bytes : List Byte
  deriving DecidableEq, Repr

/-- The pod configuration: mesh sizes and this device's identifier (R367, R371). -/
structure PodCfg where
  sx : Nat
  sy : Nat
  sz : Nat
  dev : Nat
  deriving DecidableEq, Repr

/-- The pod and the ordered class on this device; `cfg` is the pod configuration as written, which acts from the next route
installation on (R385); `fwd` holds what the router forwards in the other classes. -/
structure Fabric where
  mesh : Bool
  cfg : PodCfg
  dev : Nat
  sx : Nat
  sy : Nat
  sz : Nat
  ports : Vector Port 24
  /-- The ports of devices of the pod that have stalled: those that the routes leave out, and those named since their last
  computation (R383). -/
  lost : List (Nat × Nat)
  told : List (Nat × Nat)
  oc : List OcEnt
  oq : List OqEnt
  reorder : List OrdPkt
  out : List OutPkt
  fwd : List Transit
  retained : List Retained
  seq : BitVec 20
  released : List (Nat × BitVec 20)
  recovering : Option Nat
  markers : List Nat
  markersSent : Bool
  routePending : Bool
  locked : Bool
  err : W64
  horizon : Bool
  deriving DecidableEq, Repr

/-! ## Debug, replay and platform (R394 to R409) -/

/-- Record control of a context (R394). -/
structure RecCtl where
  ctx : Nat
  base : W64
  lg : BitVec 6
  wr : W64
  ckseq : W32
  full : Bool
  /-- The sum of `%rwc` at which the next automatic checkpoint is due (R395). -/
  next : Nat
  /-- A re-execution was abandoned when its `ckpt` was withdrawn: the word restarts it (R403). -/
  redo : Bool
  deriving DecidableEq, Repr

/-- A log record (R396). -/
structure LogRec where
  ctx : Nat
  kind : Byte
  kid : Nat
  lane : Nat
  herd : Nat
  flk : Nat
  grp : Nat
  rwc : W64
  addr : W64
  val : W64
  extra : List Byte
  deriving DecidableEq, Repr

/-- A checkpoint of a context: its herds' images (R395), of `size` bytes in the ring, with the kernels they belong to, and what
followed it: the undo records (physical grain and its prior bytes, newest first) and the log. [DESIGN CHOICE: log entry 41] -/
structure Ckpt where
  ctx : Nat
  seq : W32
  threads : List Thread
  groups : List Group
  flocks : List Flock
  herds : List Herd
  insts : List Inst
  subs : List SubGroup
  ops : List Op
  order : List Nat
  mons : List Monitor
  holds : List HoldSlot
  kernels : List Kernel
  launches : Nat
  /-- The threads that wait in `orecv`, `fqpop` and `lnch`, in arrival order: the queue or pasture, the group, the lane. -/
  oqWait : List (Nat × Nat × Nat)
  fqWait : List (Nat × Nat × Nat)
  lnchWait : List (Nat × Nat)
  size : Nat
  undo : List (Nat × List Byte)
  log : List LogRec
  deriving DecidableEq, Repr

/-- A re-execution (R397): the point, the log still to be consumed, the waiting thread; it has `begun` once the context stood
rolled back. -/
structure Replay where
  ctx : Nat
  seq : W32
  kid : Nat
  herd : Nat
  flk : Nat
  grp : Nat
  count : W64
  log : List LogRec
  gid : Nat
  lane : Nat
  d : BitVec 6
  diverged : Bool
  begun : Bool
  deriving DecidableEq, Repr

/-- An event record (R408). -/
structure EvRec where
  kind : Nat
  inst : BitVec 16
  ctx : Nat
  time : W64
  d : List W64
  deriving DecidableEq, Repr

/-- The event ring's registers and the events held in service-die memory (R409). [DESIGN CHOICE: log entry 60] -/
structure EvRing where
  base : W64
  lg : Nat
  head : BitVec 17
  tail : BitVec 17
  held : List EvRec
  lost : List (Nat × W32)
  msix : Nat
  deriving DecidableEq, Repr

/-- The snapshot trigger block (R400) and the latched records (R401). -/
structure Trig where
  time : W64
  arm : Bool
  src : Byte
  full : Bool
  miss : W32
  idx : W64
  recs : List (Nat × Nat × W64 × List W64)
  /-- Whether `tg.time` has fired since it was written. -/
  fired : Bool
  deriving DecidableEq, Repr

/-- The power block and what it withholds (R407). -/
structure Power where
  lim : BitVec 16
  now : BitVec 16
  tj : Byte
  capev : Bool
  thev : Bool
  withhold : Bool
  tripped : Bool
  deriving DecidableEq, Repr

/-- Boot and attestation (R404, R406), and the management registers that only hold a value (R367). [DESIGN CHOICE: log entry 60] -/
structure Plat where
  image : Option Image
  recovery : Bool
  minVersion : Nat
  everDbg : Bool
  everRec : Bool
  ctxSel : W64
  ctxArg : W64
  ctxStat : W64
  hostUp : Bool
  /-- The attestations given: the nonce, the measurements, the signature (R406). -/
  spdm : List (BitVec 256 × List Nat × List Byte)
  /-- The cores whose gate-request bit is 1 (R17, R367). -/
  gateReq : List Nat
  deriving DecidableEq, Repr

/-- The issue under way (R35): the fetch set's lanes still in the chain, where the chain starts, the word now issuing,
its prefix (R50), the chain's words still to issue, the transfers that take effect at the chain's end (R37), whether a word of
the chain carried S, the sub-groups that its faults have formed (R149), the lanes that the chain started with and have not left it to wait, and the
rests of chains with which its lanes go on (R148). -/
structure Issue where
  gid : Nat
  lanes : Mask
  pkt : W32
  first : BitVec 2
  slot : BitVec 2
  word : W32
  firstWord : W32
  imm : Option (BitVec 24)
  xfer : List (Nat × W32 × BitVec 2)
  sw : Bool
  fin : Option Fin
  subs : List Nat
  rest : List W32
  all : Mask
  conts : List (Nat × Cont)
  /-- `gstate.step` as the chain's issue found it (R155). -/
  step : Bool
  deriving DecidableEq, Repr

/-- What comes next when no chain is open: an event of the opcode table, or a chain of one core. The list of turns is how the
outside world and the interleaving of the device's agents enter the model. [DESIGN CHOICE: log entry 2] -/
inductive Turn where
  | event (i : Instr)
  | core (c : Nat)
  deriving DecidableEq, Repr

/-- The device. `agenda` holds the turns that come next, in order; when it is empty the device's own events and its cores take turns; `rot` the fold at
which each pasture's placer starts its next search (R330); `lnchq` the threads BLOCKED in `lnch`, in arrival order; `qerr` the
queues with the time of their last queue-error of reason 3 (R323); `cpls` completion words (context, address, value) that wait for
room in a bounce buffer (R244, R316); `refusals` counts each home's refusals since reset (R401). -/
structure State where
  agenda : List Turn
  issue : Option Issue
  ptime : W64
  clock : Nat
  free : Nat
  nextId : Nat
  mem : Memory
  fw : Memory
  threads : List Thread
  groups : List Group
  insts : List Inst
  subs : List SubGroup
  /-- The events recorded for threads of SHADOW pens, oldest first (R153). -/
  recorded : List Recorded
  flocks : List Flock
  herds : List Herd
  kernels : List Kernel
  ctxs : List Context
  cores : List Core
  l1 : List L1Word
  tlb : List TlbEnt
  reqs : List Req
  dir : List (Nat × Dir)
  persist : List Nat
  refusals : List (Nat × Nat)
  msgs : List Msg
  grains : List Grain
  mons : List Monitor
  proxy : List ProxyLine
  mirrors : List MirrorSeq
  ops : List Op
  tileOrder : List Nat
  holds : List HoldSlot
  ftu : Vector FtuRing 8
  fq : Vector FaultQueue 4
  bounce : List Bounce
  frames : List Frame
  sdns : List Sdn
  calls : List Call
  callSeq : Nat
  sched : Sched
  rot : Vector Nat 4
  /-- The queue that the dispatcher served last: its context and its number (R326). -/
  qlast : Nat × Nat
  lnchq : List (Nat × Nat)
  qerr : List (Nat × Nat × W64)
  /-- The enabled queues, each with the base and size that act on its appends: context, queue, base, size (R323). -/
  qeff : List (Nat × Nat × Nat × Nat)
  cpls : List (Nat × Nat × W64)
  fab : Fabric
  recs : List RecCtl
  ckpts : List Ckpt
  replays : List Replay
  ev : EvRing
  trig : Trig
  pw : Power
  plat : Plat
  deriving DecidableEq, Repr

/-! ## Reset (R405: cold reset clears everything; the registers' own tables give the other values) -/

def Pen.reset : Pen := ⟨.empty, 0, false⟩
def HReg.reset : HReg := ⟨false, 0, 0, false⟩
def Regs.reset : Regs := ⟨Vector.replicate 64 0, (Vector.replicate 8 false).set 7 true, Vector.replicate 32 HReg.reset⟩
def TrapRec.reset : TrapRec := ⟨0, 0, 0, 0, 0, 0, 0⟩
def Seam.reset : Seam := ⟨0, 0, false, []⟩
def Chan.reset : Chan := ⟨.idle, HReg.reset, 0, none, 0, 0, false, 0, 0, 0, []⟩
def Window.reset : Window := ⟨.free, 0, 0, 0, 0, [], false, none⟩
def FtuRing.reset : FtuRing := ⟨0, 0, 0, 0, 0, false⟩
/-- A port after reset: DOWN and enabled (R365); its first training attempt starts at reset (R373). -/
def Port.reset : Port :=
  { st := .down, en := true, retry := 0, delay := 0, w := List.replicate 7 0, wOut := List.replicate 7 0, fails := 0,
    fromStall := false, beacon := false, routed := false, greeted := false, held := false, frozen := none, since := 0, unacked := [], paused := [], asked := false, inSeq := 0,
    outSeq := 0, sent := 0, recv := 0 }
/-- A core holding nothing. -/
def Core.reset (id : Nat) : Core := ⟨id, Pen.reset, Pen.reset, false, [], [], false, 0, 0, 0⟩
/-- A thread at creation (R143): registers zero, flags and controls at their reset values, nothing pending. -/
def Thread.fresh (gid lane : Nat) (pkt : W32) : Thread :=
  { gid, lane, pkt, slot := 0, st := .ready, regs := Regs.reset, old := Regs.reset, fpctl := 0, octl := 0, fpstat := 0, rwc := 0,
    depth := 0, trr := TrapRec.reset, pend := [], outst := [], coll := false, hold := false, then_ := false, stepped := false, wait := none,
    podErr := [], tileErr := [], tgt := 0, popCore := none, npkt := 0, nslot := 0, wword := 0, cword := 0, cslot := 0,
    exiting := false, conts := [] }

/-- The firmware image that the modelled device has booted (R404). [DESIGN CHOICE: log entry 7] -/
def Image.booted : Image := ⟨2 ^ 26, 0, true, true, []⟩

/-- The machine right after a cold reset with a verified image.
[DESIGN CHOICE: log entry 6; DESIGN CHOICE: log entry 7; PRESUMED: log entry 56; DESIGN CHOICE: log entry 60] -/
def State.reset : State :=
  { agenda := [], issue := none, ptime := 0, clock := 0, free := 0, nextId := 1, mem := [], fw := [],
    threads := [], groups := [], insts := [], subs := [], recorded := [], flocks := [], herds := [], kernels := [], ctxs := [],
    cores := [], l1 := [], tlb := [], reqs := [], dir := [], persist := [], refusals := [], msgs := [], grains := [],
    mons := [], proxy := [], mirrors := [], ops := [], tileOrder := [], holds := [],
    ftu := Vector.replicate 8 FtuRing.reset, fq := Vector.replicate 4 ⟨[], 0, []⟩, bounce := [], frames := [], sdns := [],
    calls := [], callSeq := 0, sched := ⟨2000, 1024, 12, 1400⟩, rot := Vector.replicate 4 0, qlast := (0, 0), lnchq := [], qerr := [], qeff := [], cpls := [],
    fab := { mesh := true, cfg := ⟨1, 1, 1, 0⟩, dev := 0, sx := 1, sy := 1, sz := 1, ports := Vector.replicate 24 Port.reset, lost := [], told := [], oc := [],
             oq := [], reorder := [], out := [], fwd := [], retained := [], seq := 0, released := [], recovering := none,
             markers := [], markersSent := false, routePending := false, locked := false, err := 0, horizon := false },
    recs := [], ckpts := [], replays := [],
    ev := ⟨0, 0, 0, 0, [], [], 0⟩, trig := ⟨0, false, 0, false, 0, 0, [], false⟩,
    pw := ⟨2800, 0, 0, false, false, false, false⟩,
    plat := { image := some Image.booted, recovery := false, minVersion := 0, everDbg := false, everRec := false,
              ctxSel := 0, ctxArg := 0, ctxStat := 0, hostUp := false, spdm := [], gateReq := [] } }

end Sys2Proof.Machine
end

