-- ==== Sys2Proof/Machine/Ops.lean ====
section
/-! DEFINITION. The named operations that every meaning shares: bytes and memory, registers and threads, fetch sets, events,
and taking a trap and leaving it again (R147 to R155, R349). -/
namespace Sys2Proof.Machine

/-- The outcome of a meaning or a step. -/
abbrev Out := Host.Outcome State Fault Refusal

/-! ## Bytes (R3: little-endian) -/

/-- The n low bytes of a number, least significant first. -/
def bytesOf : Nat → Nat → List Byte
  | 0, _ => []
  | n + 1, v => BitVec.ofNat 8 v :: bytesOf n (v / 256)
/-- The number whose little-endian bytes are given. -/
def natOf : List Byte → Nat
  | [] => 0
  | b :: l => b.toNat + 256 * natOf l
/-- The n bytes that a list begins with; zeros beyond its end. -/
def takeBytes (n : Nat) (l : List Byte) : List Byte := l.take n ++ List.replicate (n - l.length) 0
/-- Bits hi:lo of a number. -/
def bitsOf (v hi lo : Nat) : Nat := (v >>> lo) % 2 ^ (hi + 1 - lo)
/-- Bit 0 first. -/
def boolBit (b : Bool) : Nat := if b then 1 else 0

/-! ## Memory in canonical form -/

/-- The byte at an address; an unlisted one reads as zero. [DESIGN CHOICE: log entry 6] -/
def memGet : Memory → Nat → Byte
  | [], _ => 0
  | (k, v) :: l, a => if k = a then v else memGet l a
/-- Writes a byte, keeping addresses rising and no zero listed. [DESIGN CHOICE: log entry 6] -/
def memSet : Memory → Nat → Byte → Memory
  | [], a, v => if v = 0 then [] else [(a, v)]
  | (k, w) :: l, a, v =>
    if a < k then (if v = 0 then (k, w) :: l else (a, v) :: (k, w) :: l)
    else if a = k then (if v = 0 then l else (a, v) :: l)
    else (k, w) :: memSet l a v
/-- n bytes from an address. -/
def memRead (m : Memory) : Nat → Nat → List Byte
  | _, 0 => []
  | a, n + 1 => memGet m a :: memRead m (a + 1) n
/-- Writes bytes from an address. [DESIGN CHOICE: log entry 6] -/
def memWrite (m : Memory) : Nat → List Byte → Memory
  | _, [] => m
  | a, b :: l => memWrite (memSet m a b) (a + 1) l
/-- The canonical form from a least address on. -/
def memWfFrom : Nat → Memory → Bool
  | _, [] => true
  | lo, (k, v) :: l => decide (lo ≤ k) && decide (v ≠ 0) && memWfFrom (k + 1) l
/-- The canonical form: addresses strictly rise and no listed byte is zero. [DESIGN CHOICE: log entry 6] -/
def Memory.wf (m : Memory) : Bool := memWfFrom 0 m
/-- Drops every byte of [a, a + n). -/
def memClear (m : Memory) (a n : Nat) : Memory := m.filter fun c => c.1 < a || a + n ≤ c.1

/-! ## Registers (R43, R45) -/

/-- A g register as the open chain reads it (R37). -/
def rd (t : Thread) (r : Fld) : W32 := t.old.g.get r.toFin
/-- A pair, g[r] low (R3). -/
def rd2 (t : Thread) (r : Fld) : W64 := rd t (r + 1) ++ rd t r
/-- A predicate; p7 always reads true (R43). -/
def rdP (t : Thread) (r : BitVec 3) : Bool := r = 7 || t.old.p.get r.toFin
/-- A handle register. -/
def rdH (t : Thread) (r : BitVec 5) : HReg := t.old.h.get r.toFin
/-- A g register as it stands now, outside a chain. -/
def nowG (t : Thread) (r : Fld) : W32 := t.regs.g.get r.toFin
/-- One write; a write to p7 is discarded (R45). -/
def Regs.write (r : Regs) : Wr → Regs
  | .g i v => { r with g := r.g.set i.toNat v i.isLt }
  | .p i v => if i = 7 then r else { r with p := r.p.set i.toNat v i.isLt }
  | .h i v => { r with h := r.h.set i.toNat v i.isLt }
def Regs.writes (r : Regs) (ws : List Wr) : Regs := ws.foldl Regs.write r
/-- Writes to a thread's registers. -/
def Thread.put (t : Thread) (ws : List Wr) : Thread := { t with regs := t.regs.writes ws }
/-- The writes of a 64-bit value to a pair. -/
def wr2 (r : Fld) (v : W64) : List Wr := [.g r (v.extractLsb' 0 32), .g (r + 1) (v.extractLsb' 32 32)]
/-- The writes of consecutive registers. -/
def wrs32 : Fld → List W32 → List Wr
  | _, [] => []
  | r, v :: l => .g r v :: wrs32 (r + 1) l
/-- The destination of a write, as the pending set names it; p7 never becomes pending (R45). -/
def Wr.dest : Wr → List Dest
  | .g r _ => [.g r]
  | .p r _ => if r = 7 then [] else [.p r]
  | .h r _ => [.h r]
def destsOf (ws : List Wr) : List Dest := ws.flatMap Wr.dest

/-! ## Finding and changing the parts of the state -/

/-- The bit of a lane. -/
def laneBit (lane : Nat) : Mask := BitVec.ofNat 32 (2 ^ lane)
/-- The mask of a list of lanes. -/
def maskOf (l : List Nat) : Mask := l.foldl (fun m i => m ||| laneBit i) 0
def hasLane (m : Mask) (lane : Nat) : Bool := m.getLsbD lane
/-- The lanes of a mask in ascending order. -/
def lanesOf (m : Mask) : List Nat := (List.range 32).filter fun i => m.getLsbD i

def Thread.is (t : Thread) (gid lane : Nat) : Bool := t.gid = gid && t.lane = lane
def Thread.inMask (t : Thread) (gid : Nat) (m : Mask) : Bool := t.gid = gid && hasLane m t.lane
def State.thread? (s : State) (gid lane : Nat) : Option Thread := s.threads.find? fun t => t.is gid lane
/-- Changes the threads of a group that a mask names. -/
def State.mapLanes (s : State) (gid : Nat) (m : Mask) (f : Thread → Thread) : State :=
  { s with threads := s.threads.map fun t => if t.inMask gid m then f t else t }
/-- Changes one thread. -/
def State.updT (s : State) (gid lane : Nat) (f : Thread → Thread) : State :=
  { s with threads := s.threads.map fun t => if t.is gid lane then f t else t }

/-- What a missing group looks like: no context, no privilege. -/
def Group.absent (gid : Nat) : Group :=
  { gid, ctx := 0, kid := 0, herd := 0, flk := 0, grp := 0, fid := 0, pcore := 0, pen := 0, hslot := 0, regsN := 64,
    code := HReg.reset, sys := false, shep := false, step := false, lvl := [], fsets := [], copyN := 0, tileN := 0,
    gatherN := 0, collN := 0, tiles := [], cur := none }
def State.group? (s : State) (gid : Nat) : Option Group := s.groups.find? fun g => g.gid = gid
def State.group (s : State) (gid : Nat) : Group := (s.group? gid).getD (Group.absent gid)
def State.updGroup (s : State) (gid : Nat) (f : Group → Group) : State :=
  { s with groups := s.groups.map fun g => if g.gid = gid then f g else g }
/-- The shepherd and the flocks of a system context are privileged (R54). -/
def Group.priv (g : Group) : Bool := g.sys || g.shep

def State.core (s : State) (id : Nat) : Core := (s.cores.find? fun c => c.id = id).getD (Core.reset id)
/-- Changes a core, which becomes listed. -/
def State.updCore (s : State) (id : Nat) (f : Core → Core) : State :=
  if s.cores.any (fun c => c.id = id) then
    { s with cores := s.cores.map fun c => if c.id = id then f c else c }
  else { s with cores := s.cores ++ [f (Core.reset id)] }

def State.flock? (s : State) (fid : Nat) : Option Flock := s.flocks.find? fun f => f.fid = fid
def State.updFlock (s : State) (fid : Nat) (f : Flock → Flock) : State :=
  { s with flocks := s.flocks.map fun k => if k.fid = fid then f k else k }
def State.ctx? (s : State) (id : Nat) : Option Context := s.ctxs.find? fun c => c.id = id
def State.updCtx (s : State) (id : Nat) (f : Context → Context) : State :=
  { s with ctxs := s.ctxs.map fun c => if c.id = id then f c else c }
/-- Whether a `sys` at a packet goes to the context's library (R358). -/
def Context.forwards (c : Context) (pkt : W32) : Bool := c.libos && !(c.libent ≤ pkt && pkt < c.libend)
/-- A context that lives: neither DYING nor DEAD (R340). [DEDUCED: log entry 52] -/
def Context.alive (c : Context) : Bool := c.st = .live || c.st = .stopping || c.st = .stopped
def State.kernel? (s : State) (ctx kid : Nat) : Option Kernel := s.kernels.find? fun k => k.ctx = ctx && k.kid = kid
def State.updKernel (s : State) (ctx kid : Nat) (f : Kernel → Kernel) : State :=
  { s with kernels := s.kernels.map fun k => if k.ctx = ctx && k.kid = kid then f k else k }
def Herd.is (h : Herd) (ctx kid herd : Nat) : Bool := h.ctx = ctx && h.kid = kid && h.herd = herd
/-- Whether a herd's flocks take room in pens. -/
def HerdSt.inPens : HerdSt → Bool
  | .loading | .resident | .saving => true
  | _ => false
def State.herd? (s : State) (ctx kid herd : Nat) : Option Herd := s.herds.find? fun h => h.is ctx kid herd
def State.updHerd (s : State) (ctx kid herd : Nat) (f : Herd → Herd) : State :=
  { s with herds := s.herds.map fun h => if h.is ctx kid herd then f h else h }
def State.op? (s : State) (id : Nat) : Option Op := s.ops.find? fun o => o.id = id
def State.updOp (s : State) (id : Nat) (f : Op → Op) : State :=
  { s with ops := s.ops.map fun o => if o.id = id then f o else o }
def State.req? (s : State) (id : Nat) : Option Req := s.reqs.find? fun r => r.id = id

/-- The herd of a group, when its kernel placed it there. -/
def State.herdOf (s : State) (g : Group) : Option Herd := s.herd? g.ctx g.kid g.herd
/-- Whether a group's pen is on a core: its herd is resident, or it is a shepherd group. -/
def State.onCore (s : State) (g : Group) : Bool :=
  g.shep || (match s.herdOf g with | some h => h.st = .resident | none => false)

/-- Whether a group's pen is switched out: the SHADOW pen of its core (R153, R341). -/
def State.shadowed (s : State) (g : Group) : Bool :=
  !g.shep && s.onCore g && (let c := s.core g.pcore; (if g.pen = 0 then c.pen0 else c.pen1).st = .shadow)

/-- An identifier that nothing carries yet. -/
def State.takeId (s : State) : Nat × State := (s.nextId, { s with nextId := s.nextId + 1 })
/-- The next open value (guide: a value the spec leaves open). [DESIGN CHOICE: log entry 5] -/
def State.takeFree (s : State) : W64 × State := (Config.freeWord s.free, { s with free := s.free + 1 })

/-! ## Fetch sets (R145, R146) -/

/-- Takes lanes out of a group's fetch sets. -/
def Group.dropLanes (g : Group) (m : Mask) : Group :=
  { g with fsets := g.fsets.filterMap fun f =>
      if f.lanes &&& ~~~m = 0 then none else some { f with lanes := f.lanes &&& ~~~m } }
/-- Adds a fetch set. -/
def Group.addSet (g : Group) (m : Mask) (last : Nat) : Group :=
  if m = 0 then g else { g with fsets := g.fsets ++ [⟨m, last, false, false⟩] }
/-- The lanes of a list of (lane, position) grouped by position, in the order of first appearance. -/
def groupLanes {α : Type} [DecidableEq α] : List (Nat × α) → List (α × Mask)
  | [] => []
  | (l, a) :: rest =>
    let r := groupLanes rest
    match r.find? fun x => x.1 = a with
    | some _ => r.map fun x => if x.1 = a then (x.1, x.2 ||| laneBit l) else x
    | none => (a, laneBit l) :: r
/-- The rest of a chain that a thread has at a place. -/
def Thread.contAt (t : Thread) (pkt : W32) (slot : BitVec 2) : Option Cont :=
  t.conts.find? fun c => c.depth = t.depth && c.pkt = pkt && c.slot = slot
/-- The rest of a chain that a thread stands at. -/
def Thread.contHere (t : Thread) : Option Cont := t.contAt t.pkt t.slot
/-- Makes the lanes of a mask, which have just become READY, fetch sets, one for each position they stand at.
[DEDUCED: log entry 23] -/
def State.enset (s : State) (gid : Nat) (m : Mask) : State :=
  let ls := (s.threads.filter fun t => t.inMask gid m).map fun t =>
    let p := if t.wait = some .fence then (t.npkt, t.nslot) else (t.pkt, t.slot)
    (t.lane, p, (t.contAt p.1 p.2).map fun c => (c.fin, c.ended))
  s.updGroup gid fun g => (groupLanes ls).foldl (fun g x => g.addSet x.2 s.clock) (g.dropLanes m)

/-! ## Events and snapshots (R400, R401, R408) -/

/-- A group identifier in event data (R408). -/
def groupIdent (g : Group) (lane : Nat) : W64 :=
  BitVec.ofNat 64 (g.kid % 2 ^ 24 + g.herd % 2 ^ 24 * 2 ^ 24 + g.flk % 8 * 2 ^ 48 + g.grp % 32 * 2 ^ 51 + lane % 32 * 2 ^ 56)

/-- The number of fetch sets that hold READY or SWITCH threads (R154). -/
def Group.nfs (g : Group) : Nat := min g.fsets.length 32
/-- The number of the group's sub-groups in the replay queue (R150, R154). -/
def State.npark (s : State) (gid : Nat) : Nat := min (s.subs.filter fun b => b.gid = gid && b.idx.isSome).length 32
/-- The groups of a core's pens. -/
def State.coreGroups (s : State) (core : Nat) : List Group :=
  s.groups.filter fun g => g.pcore = core && s.onCore g
/-- The sub-groups in a core's replay queue. -/
def State.coreSubs (s : State) (core : Nat) : List SubGroup :=
  s.subs.filter fun b => b.idx.isSome && (let g := s.group b.gid; g.pcore = core && s.onCore g)
/-- The record of a core (R401, kind 1). -/
def State.coreRecord (s : State) (c : Core) : List W64 :=
  let gs := s.coreGroups c.id
  let active : Nat := if c.pen0.st = .active then 0 else if c.pen1.st = .active then 1 else 2
  [BitVec.ofNat 64 active,
   BitVec.ofNat 64 ((gs.map Group.nfs).sum + 2 ^ 32 * (gs.map fun g => s.npark g.gid).sum),
   BitVec.ofNat 64 (s.coreSubs c.id).length,
   BitVec.ofNat 64 (s.reqs.filter fun r => r.src = c.id).length,
   BitVec.ofNat 64 c.issues,
   BitVec.ofNat 64 (s.ops.filter fun o => o.core = c.id && o.st = .queued).length]
/-- The channel of a physical address (R24). -/
def channel (pa : Nat) : Nat :=
  (bitsOf pa 16 9 ^^^ bitsOf pa 24 17 ^^^ bitsOf pa 32 25 ^^^ bitsOf pa 38 33) % 256
/-- Whether the home of a frame's word of an index is its near bank: in a move the words switch in order (R245).
[DEDUCED: log entry 53] -/
def Frame.nearAt (f : Frame) (i : Nat) : Bool :=
  match f.st with
  | .hbm => false
  | .near => true
  | .promoting => decide (i < f.moved)
  | .demoting => decide (f.moved ≤ i)
/-- Whether a word of memory is mid-switch between its homes (R245). -/
def State.midSwitch (s : State) (w : Nat) : Bool :=
  s.frames.any fun f => f.frame = w / 65536 && decide (f.moved ≤ w % 65536 / 4) && decide (w % 65536 / 4 < f.moved + f.mid)
/-- The home of a physical address (R19, R173): its channel's agent, 0 to 255, or the near-tier bank that holds its frame, 256 to
319; host memory has the proxy home, 320 (R186). -/
def State.homeOf (s : State) (pa : Nat) : Nat :=
  if 2 ^ 52 ≤ pa then 320 else
  match s.frames.find? fun f => f.frame = pa / 65536 with
  | some f => if f.nearAt (pa % 65536 / 4) then 256 + f.bank % 64 else channel pa
  | none => channel pa
/-- Whether a home's word is in transition (R177). -/
def Dir.transient : Dir → Bool
  | .recall _ _ => true
  | .inval _ _ _ => true
  | .kept _ _ => true
  | _ => false
/-- The record of a home (R401, kind 2). -/
def State.homeRecord (s : State) (home : Nat) : List W64 :=
  [BitVec.ofNat 64 (s.reqs.filter fun r => s.persist.contains r.id && s.homeOf r.pa = home).length,
   BitVec.ofNat 64 (s.mons.filter fun m => m.fid.isNone && s.homeOf m.addr = home).length,
   BitVec.ofNat 64 (s.dir.filter fun d => d.2.transient && s.homeOf d.1 = home).length,
   BitVec.ofNat 64 ((s.refusals.lookup home).getD 0), 0, 0]
/-- The code of a port's state (R365). -/
def PortSt.code : PortSt → Nat
  | .down => 0 | .training => 1 | .up => 2 | .retry => 3 | .stalled => 4 | .failed => 5
/-- The lowest inbound watermark of a port: `ps.wm` (R365). -/
def Port.wm (p : Port) : W64 := p.w.foldl (fun m x => if x < m then x else m) (p.w.headD 0)
/-- The record of a port (R401, kind 3). -/
def State.portRecord (s : State) (p : Port) : List W64 :=
  [BitVec.ofNat 64 p.st.code, BitVec.ofNat 64 p.retry.toNat, if s.fab.mesh then p.wm else 0, BitVec.ofNat 64 p.sent, BitVec.ofNat 64 p.recv, 0]
/-- The record of a core's copy engine (R401, kind 4). -/
def State.engineRecord (s : State) (core : Nat) : List W64 :=
  let n := fun (st : OpSt) => (s.ops.filter fun o => o.core = core && o.st = st).length
  let two := fun (a b : OpSt) => BitVec.ofNat 64 (n a + 2 ^ 32 * n b)
  [two .queued .running, two .stopped .failed, two .suspended .done,
   BitVec.ofNat 64 (s.core core).rdBytes, BitVec.ofNat 64 (s.core core).wrBytes, 0]
/-- Every block's record, latched in one step (R400). Blocks that stand as reset left them are not listed. -/
def State.latch (s : State) : List (Nat × Nat × W64 × List W64) :=
  (s.cores.map fun c => (1, c.id, s.ptime, s.coreRecord c)) ++
  ((List.range 321).filterMap fun ch =>
    let r := s.homeRecord ch
    if r.all (· = 0) then none else some (2, ch, s.ptime, r)) ++
  ((List.range 24).filterMap fun i => (s.fab.ports[i]?).map fun p => (3, i, s.ptime, s.portRecord p)) ++
  (s.cores.map fun c => (4, c.id, s.ptime, s.engineRecord c.id))

/-- Queues an event record for the service die, or counts it as lost (R409). -/
def State.queueEvent (s : State) (e : EvRec) : State :=
  if s.ev.held.length < 1024 then { s with ev := { s.ev with held := s.ev.held ++ [e] } }
  else
    let n := (s.ev.lost.lookup e.kind).getD 0
    let n' : W32 := if n = BitVec.allOnes 32 then n else n + 1
    { s with ev := { s.ev with lost := (e.kind, n') :: s.ev.lost.filter fun x => x.1 ≠ e.kind } }
/-- A snapshot trigger, by the `tg.src` bit that fired, or 0 for `tg.time` (R400). -/
def State.trigger (s : State) (bit : Nat) : State :=
  if s.trig.full then
    { s with trig := { s.trig with miss := if s.trig.miss = BitVec.allOnes 32 then s.trig.miss else s.trig.miss + 1 } }
  else
    { s with trig := { s.trig with full := true, recs := s.latch, idx := 0 } }.queueEvent
      ⟨6, 0xFFFF, 0, s.ptime, [s.ptime, BitVec.ofNat 64 bit]⟩
/-- The `tg.src` bit that an event kind fires, when the trigger block names one for it. -/
def srcBit (kind : Nat) : Option Nat :=
  match kind with
  | 3 => some 65 | 4 => some 66 | 15 => some 67 | 8 => some 68 | 16 => some 70 | 7 => some 71 | 5 => some 72
  | _ => none
/-- Posts an event (R408), which may fire the snapshot trigger (R400). -/
def State.post (s : State) (kind : Nat) (inst : Nat) (ctx : Nat) (d : List W64) : State :=
  let s := s.queueEvent ⟨kind, BitVec.ofNat 16 inst, ctx, s.ptime, d⟩
  match srcBit kind with
  | some b => if s.trig.arm && s.trig.src.getLsbD (b - 65) then s.trigger b else s
  | none => s

/-! ## Taking a trap and leaving it (R147 to R151, R349) -/

/-- The highest replay-queue index that a group's sub-groups may take (R150). -/
def Group.replayTop (g : Group) : Nat := if g.sys then 64 else 60
/-- A free replay-queue entry for a group of a core. -/
def State.freeEntry (s : State) (g : Group) : Option Nat :=
  let used := (s.coreSubs g.pcore).filterMap SubGroup.idx
  (List.range g.replayTop).find? fun i => !used.contains i
/-- An entry of a core's shepherd queue (R347). -/
def State.pushShep (s : State) (core : Nat) (e : ShepEntry) : State :=
  s.updCore core fun c => { c with entries := c.entries ++ [e] }
/-- `%tgt` for a lane of a group (R348). -/
def tgtOf (g : Group) (lane : Nat) : W32 := BitVec.ofNat 32 (g.pen % 2 * 2 ^ 13 + g.hslot % 256 * 2 ^ 5 + lane % 32)
/-- The pasture of a core (R18). -/
def pastureOf (pcore : Nat) : Nat := pcore / 512 % 4
/-- A pasture's fault queue takes an entry, which gets the next sequence number (R239, R240). -/
def State.pushFault (s : State) (pasture : Nat) (e : FaultEnt) : State :=
  match s.fq[pasture]? with
  | none => s
  | some q =>
    let q' := { q with entries := q.entries ++ [{ e with seq := q.seq }], seq := q.seq + 1 }
    { s with fq := s.fq.setIfInBounds pasture q' }
/-- The lowest lane of a mask. -/
def lowestLane (m : Mask) : Nat := (lanesOf m).headD 0
/-- Whether a group is a pager flock's: a system flock on the last core of its pasture (R241). -/
def Group.pager (g : Group) : Bool := g.sys && g.pcore % 512 = 511
/-- The fault address of a parked sub-group: an engine's, or that of its lowest lane (R236, R240). -/
def State.faultAddr (s : State) (b : SubGroup) : Nat :=
  b.eng.getD (match s.thread? b.gid (lowestLane b.lanes) with | some t => t.trr.aux.toNat | none => 0) % 2 ^ 57
/-- Posts a sub-group that has a replay-queue entry: a page fault to its pasture's fault queue, but a pager's own to its
shepherd (R241); every other cause to the core's shepherd (R149). -/
def State.postSub (s : State) (b : SubGroup) : State :=
  let g := s.group b.gid
  let lane := lowestLane b.lanes
  if b.cause = 0x10 && !g.pager then
    s.pushFault (pastureOf g.pcore)
      { sub := some b.id, va := s.faultAddr b, ctx := g.ctx, kind := BitVec.ofNat 4 b.kind, acc := b.acc, eng := b.eng.isSome,
        pcore := g.pcore, pen := g.pen, grp := g.hslot, lanes := b.lanes, seq := 0, time := b.time }
  else
    s.pushShep g.pcore
      { kind := 1, idx := b.idx.getD 0xFF, ctx := g.ctx, g2 := b.cause.setWidth 32, g3 := 0, tgt := tgtOf g lane }
/-- Brings a sub-group whose threads have collected their results into the replay queue, where it is posted, or onto the end of the
list of those that wait for an entry (R150); one whose herd is out of its pens waits for the resumption (R153). A shepherd's trap
stops its core's shepherd instead (R347). -/
def State.admitSub (s : State) (id : Nat) : State :=
  match s.subs.find? fun b => b.id = id with
  | none => s
  | some b =>
    let g := s.group b.gid
    if g.shep then
      let t := s.thread? b.gid (lowestLane b.lanes)
      let r := match t with | some t => t.trr | none => TrapRec.reset
      let fin := fun (x : SubGroup) => if x.id = id then { x with collecting := false } else x
      ({ s with subs := s.subs.map fin }.updCore g.pcore fun c => { c with stopped := true }).post 16 g.pcore 0 [b.cause.setWidth 64, r.pkt.setWidth 64, r.slot.setWidth 64]
    else
      match (if s.onCore g then s.freeEntry g else none) with
      | some i =>
        let b' := { b with idx := some i, taken := false, collecting := false }
        let s := { s with subs := s.subs.map fun (x : SubGroup) => if x.id = id then b' else x }
        if b.taken then s else s.postSub b'
      | none => { s with subs := (s.subs.filter fun x => x.id ≠ id) ++ [{ b with collecting := false }] }
/-- Whether every thread of a sub-group has collected its results; those of a SHADOW pen are taken to have when the pen is ACTIVE again
(R153). -/
def State.subSettled (s : State) (b : SubGroup) : Bool :=
  !s.shadowed (s.group b.gid) && s.threads.all fun t => !(t.inMask b.gid b.lanes && t.outst ≠ [])
/-- A sub-group whose collection is over enters the queue. -/
def State.settleSub (s : State) (id : Nat) : State :=
  match s.subs.find? fun b => b.id = id with
  | none => s
  | some b => if b.collecting && s.subSettled b then s.admitSub id else s

/-- A thread takes its trap record and leaves the READY threads. It stays in SWITCH while results are outstanding, which
are collected before it is PARKED (R42, R149). -/
def Thread.park (t : Thread) (r : TrapRec) : Thread :=
  { t with st := if t.outst = [] then .parked else .switch, pend := if t.outst = [] then [] else t.pend, trr := r,
           pkt := r.pkt, slot := r.slot, wait := none }
/-- Adds a lane to the sub-group of a cause among those being formed, or starts one. -/
def joinSub (forming : List Nat) (subs : List SubGroup) (gid nid : Nat) (time : W64) (x : LTrap) : List SubGroup × List Nat × Nat :=
  match subs.find? fun b => forming.contains b.id && b.gid = gid && b.cause = x.cause with
  | some b =>
    let low := x.lane < lowestLane b.lanes
    let b' := { b with lanes := b.lanes ||| laneBit x.lane, acc := if low then x.acc else b.acc,
                       kind := if low then x.kind else b.kind }
    (subs.map fun c => if c.id = b.id then b' else c, forming, nid)
  | none =>
    (subs ++ [{ id := nid, gid, lanes := laneBit x.lane, cause := x.cause, idx := none, taken := false, collecting := true, acc := x.acc,
                kind := x.kind, eng := none, time }], forming ++ [nid], nid + 1)
/-- The restart point of a fault in the open chain: the word, or its prefix (R148). -/
def Issue.restartSlot (iss : Issue) : BitVec 2 := if iss.imm.isSome then iss.slot - 1 else iss.slot
/-- The trap record of a fault of the issuing word (R349). -/
def Issue.faultRec (iss : Issue) (cause : Byte) (aux : W64) : TrapRec :=
  ⟨iss.pkt, iss.restartSlot, cause, aux, iss.word, iss.pkt, iss.slot⟩
/-- TAKING A TRAP: the lane leaves the open chain with trap record `r` and joins the parked sub-group of its cause, which
the end of the chain brings into the replay queue (R149). -/
def State.takeTrap (s : State) (iss : Issue) (x : LTrap) (r : TrapRec) : State :=
  let j := joinSub iss.subs s.subs iss.gid s.nextId s.ptime x
  { s with
    threads := s.threads.map fun t => if t.is iss.gid x.lane then t.park r else t,
    subs := j.1, nextId := j.2.2,
    issue := some { iss with lanes := iss.lanes &&& ~~~laneBit x.lane, subs := j.2.1 } }
/-- Keeps a rest of a chain for a thread; what it kept at its own signal depth or below is given up. -/
def Thread.keep (t : Thread) (cs : List Cont) : Thread := { t with conts := cs ++ t.conts.filter fun c => c.depth < t.depth }
/-- The transfer that a word of the open chain has made for a lane (R37). -/
def Issue.xferOf (iss : Issue) (lane : Nat) : Option (W32 × BitVec 2) := (iss.xfer.find? fun x => x.1 = lane).map Prod.snd
/-- The rest of a chain that a lane issues again from its restart point: the transfer of a lower-slot word has committed, and
takes effect at that chain's end (R148). [DEDUCED: log entry 72] -/
def Issue.restCont (iss : Issue) (t : Thread) (slot : BitVec 2) : List Cont :=
  match iss.xferOf t.lane with
  | some x => [⟨t.depth, iss.pkt, slot, false, false, false, 0, 0, some x, none, false⟩]
  | none => []
/-- A lane that stops in the open chain keeps the transfer that the chain has made for it. -/
def State.keepXfer (s : State) (iss : Issue) (lane : Nat) (slot : BitVec 2) : State :=
  s.updT iss.gid lane fun t => t.keep (iss.restCont t slot)
/-- Takes the trap of one lane at the issuing word, `Trap(cause, aux)` of R85. -/
def State.trapLane (s : State) (x : LTrap) : State :=
  match s.issue with
  | none => s
  | some iss => (s.keepXfer iss x.lane iss.restartSlot).takeTrap iss x (iss.faultRec x.cause x.aux)
/-- Takes the traps of several lanes. -/
def State.trapLanes (s : State) (l : List LTrap) : State := l.foldl State.trapLane s

/-- Whether a lane is still in the open chain. [DEDUCED: log entry 21] -/
def State.inChain (s : State) (gid lane : Nat) : Bool :=
  match s.issue with
  | some iss => iss.gid = gid && hasLane iss.lanes lane
  | none => false
/-- Takes lanes of a group out of the open chain. [DEDUCED: log entry 21] -/
def State.leaveChain (s : State) (gid : Nat) (m : Mask) : State :=
  match s.issue with
  | some iss => if iss.gid = gid then { s with issue := some { iss with lanes := iss.lanes &&& ~~~m } } else s
  | none => s
/-- Records an event for threads of a SHADOW pen: their wait is over, and they take the event when the pen is ACTIVE again (R153).
[DEDUCED: log entry 69] -/
def State.record (s : State) (e : Recorded) : State :=
  let m := maskOf (e.woke.map Prod.fst ++ e.traps.map fun x => x.1.lane)
  { s with recorded := s.recorded ++ [e], threads := s.threads.map fun t => if t.inMask e.gid m then { t with wait := none } else t }
/-- Parks waiting threads of a group outside an issue, with their whole records given; their sub-group takes an entry at once (R150). -/
def State.parkNow (s : State) (gid : Nat) (l : List (LTrap × TrapRec)) (eng : Option Nat) : State :=
  let s1 := l.foldl (fun (acc : State × List Nat) x =>
    let j := joinSub acc.2 acc.1.subs gid acc.1.nextId acc.1.ptime x.1
    let s := acc.1
    ({ s with threads := s.threads.map fun t => if t.is gid x.1.lane then t.park x.2 else t,
              subs := j.1, nextId := j.2.2 }, j.2.1)) (s, [])
  let s2 := { s1.1 with subs := s1.1.subs.map fun b => if s1.2.contains b.id then { b with eng := eng } else b }
  s1.2.foldl State.settleSub s2
/-- A fault outside an issue reaches threads of a group: they leave the open chain and park, or it is recorded (R149, R153). -/
def State.parkWaiting (s : State) (gid : Nat) (l : List (LTrap × TrapRec)) (eng : Option Nat) : State :=
  let s := s.leaveChain gid (maskOf (l.map fun x => x.1.lane))
  if s.shadowed (s.group gid) then s.record ⟨gid, [], l, eng⟩ else s.parkNow gid l eng

/-- Makes a herd runnable: an event that releases one of its threads has been recorded (R153, R332). A saved herd begins to wait for a
core then (R331). [DEDUCED: log entry 69] -/
def State.recordRelease (s : State) (g : Group) : State :=
  s.updHerd g.ctx g.kid g.herd fun h =>
    if h.st = .resident then h else { h with runnable := true, since := if h.runnable then h.since else s.ptime }

/-- LEAVING A TRAP: the threads of a parked sub-group become READY at the restart points that their trap records hold, and
the sub-group leaves the replay queue (R151). -/
def State.releaseSub (s : State) (id : Nat) : State :=
  match s.subs.find? fun b => b.id = id with
  | none => s
  | some b =>
    let s := { s with
      subs := s.subs.filter fun x => x.id ≠ id,
      threads := s.threads.map fun (t : Thread) =>
        if t.inMask b.gid b.lanes && t.st = TSt.parked then { t with st := .ready, pkt := t.trr.pkt, slot := t.trr.slot } else t }
    (s.enset b.gid b.lanes).recordRelease (s.group b.gid)

/-! ## Waits (R152) -/

/-- A thread that has just parked its last outstanding result has an empty pending set. [DEDUCED: log entry 19] -/
def Thread.clearPend (t : Thread) : Thread := if t.outst = [] then { t with pend := [] } else t
/-- The record of a step trap (R155): the next word restarts, the chain's first word is named. [DEDUCED: log entry 20] -/
def stepRec (t : Thread) (npkt : W32) (nslot : BitVec 2) (cpkt : W32) : TrapRec :=
  ⟨npkt, nslot, 0x04, BitVec.ofNat 64 (cpkt.toNat + t.cslot.toNat * 2 ^ 32), t.cword, cpkt, t.cslot⟩
/-- A waiting thread whose chain has words left, which issue when its wait ends. -/
def Thread.midChain (t : Thread) : Bool :=
  t.conts.any fun c => c.kept && c.depth = t.depth && c.pkt = t.npkt && c.slot = t.nslot
/-- A thread leaves CONV or BLOCKED: it stands at the next word, in SWITCH when its chain carried S and results are still
outstanding, else READY; its chain counts as completed, unless words of it are left or it is a shepherd's (R152, R392). -/
def Thread.resume (t : Thread) (shep : Bool) (ws : List Wr) : Thread :=
  let t := (t.put ws)
  let t := { t with wait := none, pkt := t.npkt, slot := t.nslot }
  if t.midChain then { t with st := .ready } else
  let t := { t with rwc := if shep then t.rwc else t.rwc + 1 }
  if t.then_ then (if t.outst = [] then { t with st := .ready, pend := [] } else { t with st := .switch })
  else { t with st := .ready }
/-- Waiting lanes of one group, whose chain is over, leave their wait, each with the writes it gets; threads whose chain issued with
`gstate.step` set then take the step trap, while it is set (R155). [DEDUCED: log entry 20] -/
def State.wakeNow (s : State) (gid : Nat) (l : List (Nat × List Wr)) : State :=
  let m := maskOf (l.map Prod.fst)
  let g := s.group gid
  let steps := s.threads.filter fun t => t.inMask gid m && !g.shep && g.step && t.stepped && !t.midChain
  let recs := steps.map fun t =>
    ((⟨t.lane, 0x04, (stepRec t t.npkt t.nslot t.pkt).aux, 0, 0⟩ : LTrap), stepRec t t.npkt t.nslot t.pkt)
  let go := fun (t : Thread) => if t.inMask gid m then t.resume g.shep ((l.lookup t.lane).getD []) else t
  let s1 := { s with threads := s.threads.map go }
  let s2 := (if recs = [] then s1 else s1.parkNow gid recs none).enset gid (m &&& ~~~maskOf (steps.map Thread.lane))
  s2.recordRelease g
/-- Ends the wait of the lanes of one group, each with the writes it gets (R152); in a SHADOW pen the event is recorded (R153). -/
def State.wake (s : State) (gid : Nat) (l : List (Nat × List Wr)) : State :=
  -- a wait that ends before its chain does is over at once
  let early := l.filter fun x => s.inChain gid x.1
  let ended := fun (t : Thread) =>
    if t.inMask gid (maskOf (early.map Prod.fst)) then
      { t.put ((early.lookup t.lane).getD []) with wait := none, st := .ready }
    else t
  let s := { s with threads := s.threads.map ended }
  let l := l.filter fun x => !(early.any fun y => y.1 = x.1)
  if s.shadowed (s.group gid) then s.record ⟨gid, l, [], none⟩ else s.wakeNow gid l
/-- A recorded event is taken, or the part of it that concerns some lanes: threads that have exited since take nothing (R153). -/
def State.takeEvent (s : State) (e : Recorded) (m : Mask) : State :=
  let live := fun (lane : Nat) => hasLane m lane && (match s.thread? e.gid lane with | some t => t.st ≠ .exited | none => false)
  let w := e.woke.filter fun x => live x.1
  let f := e.traps.filter fun x => live x.1.lane
  let s := if w = [] then s else s.wakeNow e.gid w
  if f = [] then s else s.parkNow e.gid f e.eng
/-- What was recorded for some groups is taken, in the order in which it was recorded (R153). -/
def State.takeEvents (s : State) (p : Nat → Bool) : State :=
  (s.recorded.filter fun e => p e.gid).foldl (fun s e => s.takeEvent e (BitVec.allOnes 32)) { s with recorded := s.recorded.filter fun e => !p e.gid }
/-- What was recorded for groups that are in no SHADOW pen any more is taken, and parked sub-groups that have collected their results
are placed (R153). -/
def State.takeRecorded (s : State) : State :=
  let s' := s.takeEvents fun gid => !s.shadowed (s.group gid)
  (s'.subs.filter SubGroup.collecting).foldl (fun s b => s.settleSub b.id) s'
/-- What was recorded for one thread is taken ahead of a signal to it (R13, R152). -/
def State.takeOwn (s : State) (gid lane : Nat) : State :=
  let m := laneBit lane
  let rest := fun (e : Recorded) =>
    if e.gid = gid then { e with woke := e.woke.filter fun x => x.1 ≠ lane, traps := e.traps.filter fun x => x.1.lane ≠ lane } else e
  (s.recorded.filter fun e => e.gid = gid).foldl (fun s e => s.takeEvent e m)
    { s with recorded := (s.recorded.map rest).filter fun e => e.woke ≠ [] || e.traps ≠ [] }
/-- A lane of the open chain that has begun to wait at its word: in CONV, BLOCKED, or in a `fence` (R152, R200). -/
def Thread.waits (t : Thread) : Bool := t.st = .conv || t.st = .blocked || t.wait = some .fence
/-- The place after a slot. -/
def nextPlace (pkt : W32) (slot : BitVec 2) : W32 × BitVec 2 := if slot = 2 then (pkt + 1, 0) else (pkt, slot + 1)
/-- Lanes of the open chain that wait at its word stop there, when words of the chain are left, or its end has something to do
(R158): that comes when the wait ends. When a lane's access is held, as an acquire or for its checks (R147, R212), the lanes that
run stop together, and stand READY at the next word. [DEDUCED: log entry 72] -/
def State.suspend (s : State) : State :=
  match s.issue with
  | none => s
  | some iss =>
    let ended := iss.rest.isEmpty
    if ended && iss.fin.isNone then s else
    let held := !ended && s.threads.any fun t => t.inMask iss.gid iss.lanes && !t.waits && t.hold
    let m := maskOf ((s.threads.filter fun t => t.inMask iss.gid iss.lanes && (t.waits || held)).map Thread.lane)
    if m = 0 then s else
    let p := if ended then nextPlace iss.pkt iss.slot else (iss.pkt, iss.slot + 1)
    let go := fun (t : Thread) =>
      let k := (iss.conts.lookup t.lane).filter Cont.kept
      let after : Cont :=
        { depth := t.depth, pkt := p.1, slot := p.2, kept := true,
          sw := iss.sw || (match k with | some c => c.sw | none => false),
          step := (match k with | some c => c.step | none => iss.step),
          cword := (match k with | some c => c.cword | none => iss.firstWord),
          cslot := (match k with | some c => c.cslot | none => iss.first), xfer := iss.xferOf t.lane, fin := iss.fin, ended }
      let t := if t.waits then t else { t with pkt := p.1, slot := p.2, stepped := false }
      { t.keep (after :: iss.restCont t (if t.waits then t.slot else iss.restartSlot)) with npkt := p.1, nslot := p.2 }
    let s := s.mapLanes iss.gid m go
    let held := maskOf ((s.threads.filter fun t => t.inMask iss.gid m && !(t.st = .conv || t.st = .blocked)).map Thread.lane)
    let s := (s.updGroup iss.gid fun g => g.dropLanes m).enset iss.gid held
    { s with issue := some { iss with lanes := iss.lanes &&& ~~~m, all := iss.all &&& ~~~m } }
/-- The issuing thread enters a hardware wait at the issuing word (R152). -/
def Thread.block (t : Thread) (w : Wait) (iss : Issue) (d : List Dest) : Thread :=
  { t with st := .blocked, wait := some w, wword := iss.word, pkt := iss.pkt, slot := iss.restartSlot, pend := t.pend ++ d }

/-- A new outstanding result (R40). [DEDUCED: log entry 19] -/
def Thread.await (t : Thread) (r : Result) : Thread :=
  { t with outst := t.outst ++ [r], pend := t.pend ++ r.dests }
/-- A result whose value is known at issue. -/
def Result.known (id : Nat) (ws : List Wr) (flags : BitVec 5) (sx : Bool) : Result :=
  { id, dests := destsOf ws, writes := ws, need := 0, parts := [], flags, acq := false, rem := false, sx, atom := false }

end Sys2Proof.Machine
end

