-- ==== Sys2Proof/Machine/Flags.lean ====
section
/-! DEFINITION. How a word acts on the lanes of its fetch set, floating flags and traps (R77 to R84, R110), and the
privilege check (R54). -/
namespace Sys2Proof.Machine

/-- What a word does for one lane: the thread after it, or a trap, before which nothing has changed (R85). -/
inductive LaneRes where
  | go (t : Thread)
  | trap (cause : Byte) (aux : W64)
  deriving DecidableEq, Repr

/-- The thread after a word that did not trap. -/
def LaneRes.thread (t : Thread) : LaneRes → Thread
  | .go t' => t'
  | .trap _ _ => t
/-- The trap of a lane. -/
def LaneRes.trap? (lane : Nat) : LaneRes → Option LTrap
  | .go _ => none
  | .trap c a => some ⟨lane, c, a, 0, 0⟩

/-- The threads that issue the open word. -/
def State.issuing (s : State) (iss : Issue) : List Thread := s.threads.filter fun t => t.inMask iss.gid iss.lanes
/-- Every issuing lane acts for itself; the lanes that trap leave the chain (R147 to R149). -/
def State.eachLane (s : State) (f : Issue → Thread → LaneRes) : State :=
  match s.issue with
  | none => s
  | some iss =>
    let traps := (s.issuing iss).filterMap fun t => (f iss t).trap? t.lane
    let go := fun (t : Thread) => if t.inMask iss.gid iss.lanes then (f iss t).thread t else t
    { s with threads := s.threads.map go }.trapLanes traps
/-- A word that cannot trap and only writes registers, of fixed latency (R38). -/
def alu (s : State) (f : Issue → Thread → List Wr) : Out := .next (s.eachLane fun iss t => .go (t.put (f iss t)))

/-! ## Floating-point control, status and traps -/

/-- `%fpctl.rm` (R77). -/
def Thread.dir (t : Thread) : Dir5 :=
  match t.octl.extractLsb' 0 2 with
  | 0 => .rn | 1 => .rz | 2 => .ru | _ => .rd
/-- `%fpctl.ftz` (R77). -/
def Thread.ftz (t : Thread) : Bool := t.octl.getLsbD 2
/-- `%fpctl.xen` (R77). -/
def Thread.xen (t : Thread) : Exc := t.octl.extractLsb' 8 5
/-- A rounding field: 0 follows `%fpctl` (R62, R134). -/
def Thread.dirOf (t : Thread) (k : Nat) : Dir5 :=
  match k with
  | 0 => t.dir | 1 => .rn | 2 => .rz | 3 => .ru | 4 => .rd | _ => .rna
/-- The cause of the first enabled exception, in the order NV, DZ, OF, UF, NX (R84). -/
def fpCause (e : Exc) : Byte :=
  if e.getLsbD 0 then 0x08 else if e.getLsbD 1 then 0x09 else if e.getLsbD 2 then 0x0A else if e.getLsbD 3 then 0x0B
  else 0x0C
/-- The aux of R84: every exception raised, and which elements raised an enabled one. -/
def fpAux (xen e0 e1 : Exc) : W64 :=
  BitVec.ofNat 64 ((e0 ||| e1).toNat + (if e0 &&& xen = 0 then 0 else 32) + (if e1 &&& xen = 0 then 0 else 64))
/-- A floating word of fixed latency: flags set when it completes, or a trap that leaves the thread as it was (R80, R84). -/
def fpDone (t : Thread) (ws : List Wr) (e0 e1 : Exc) : LaneRes :=
  if (e0 ||| e1) &&& t.xen = 0 then .go { t.put ws with fpstat := t.fpstat ||| (e0 ||| e1).setWidth 32 }
  else .trap (fpCause ((e0 ||| e1) &&& t.xen)) (fpAux t.xen e0 e1)
/-- The identifier of a thread's next outstanding result. -/
def Thread.nextRes (t : Thread) : Nat := t.outst.foldl (fun m r => max m (r.id + 1)) 0
/-- A word of the SX pipe: the trap is decided at issue; else the result is outstanding and its flags are set when it is
written (R110). -/
def sxDone (t : Thread) (ws : List Wr) (e0 e1 : Exc) : LaneRes :=
  if (e0 ||| e1) &&& t.xen = 0 then .go (t.await (Result.known t.nextRes ws (e0 ||| e1) true))
  else .trap (fpCause ((e0 ||| e1) &&& t.xen)) (fpAux t.xen e0 e1)
/-- The end of a collection (R42, R343): with no result outstanding any more, the pending set is empty and the thread may issue. -/
def Thread.collected (t : Thread) : Thread := if t.coll && t.outst.isEmpty then { t with pend := [], coll := false } else t
/-- Writes a result whose value is known: registers and flags (R40, R110). -/
def Thread.land (t : Thread) (r : Result) : Thread :=
  { t.put r.writes with fpstat := t.fpstat ||| r.flags.setWidth 32, outst := t.outst.filter fun x => x.id ≠ r.id }.collected
/-- Writes every known SX result, as `wrs` to a floating control waits for them (R110). -/
def Thread.landSx (t : Thread) : Thread := (t.outst.filter fun r => r.sx && r.need = 0).foldl Thread.land t

/-! ## Traps that no word of the chain survives (R70, items 1 to 4) -/

/-- The trap record of a decode trap: the reported word, restarting at the chain's first word. -/
def Issue.decodeRec (iss : Issue) (cause : Byte) : TrapRec :=
  ⟨iss.pkt, iss.first, cause, 0, iss.word, iss.pkt, iss.slot⟩
/-- A decode trap on every lane of the chain. -/
def State.decodeTrap (s : State) (cause : Byte) : State :=
  match s.issue with
  | none => s
  | some iss =>
    (lanesOf iss.lanes).foldl (fun s lane =>
      match s.issue with
      | none => s
      | some i => s.takeTrap i ⟨lane, cause, 0, 0, 0⟩ (iss.decodeRec cause)) s
/-- A privileged form: outside the shepherd and the system flocks it traps with cause 0x02 and does nothing else (R54). -/
def priv (s : State) (k : State → Out) : Out :=
  match s.issue with
  | none => .next s
  | some iss => if (s.group iss.gid).priv then k s else .next (s.decodeTrap 0x02)

/-! ## Words that act lane after lane on the whole state -/

/-- What a word does for one lane of a state: the state after it, or a trap. -/
inductive StepRes where
  | ok (s : State)
  | trap (s : State) (cause : Byte) (aux : W64) (acc : BitVec 3) (kind : Nat)

/-- Lanes act in ascending order, each on the state that its predecessor left; the lanes that trap leave the chain
(R196, R202). -/
def State.laneFold (s : State) (f : Issue → State → Thread → StepRes) : State :=
  match s.issue with
  | none => s
  | some iss =>
    (lanesOf iss.lanes).foldl (fun s lane =>
      match s.thread? iss.gid lane with
      | none => s
      | some t =>
        match f iss s t with
        | .ok s' => s'
        | .trap s' c a acc kind => s'.trapLane ⟨lane, c, a, acc, kind⟩) s

end Sys2Proof.Machine
end

