-- ==== Sys2Proof/Machine/Xlate.lean ====
section
/-! DEFINITION. Coherent access by the device's own agents, translation (R231 to R238, R246), handles (R167 to R172) and the
checks of an access (R170). -/
namespace Sys2Proof.Machine

/-! ## Words, owners and the directory (R174, R177) -/

/-- The address of the word that holds a byte. -/
def wordOf (pa : Nat) : Nat := pa / 4 * 4
/-- The words that [pa, pa + n) touches. -/
def wordsOf (pa n : Nat) : List Nat :=
  (List.range ((pa + n + 3) / 4 - pa / 4)).map fun i => wordOf pa + 4 * i
def L1Word.is (l : L1Word) (core w : Nat) : Bool := l.core = core && l.addr = w
def State.l1? (s : State) (core w : Nat) : Option L1Word := s.l1.find? fun l => l.is core w
/-- The L1 word of the core that owns a word. -/
def State.ownerOf (s : State) (w : Nat) : Option L1Word := s.l1.find? fun l => l.addr = w && l.st = .own
/-- The home's state of a word; an unlisted word is CLEAN with no sharer. -/
def State.dirOf (s : State) (w : Nat) : Dir := (s.dir.lookup w).getD (.clean [])
def State.setDir (s : State) (w : Nat) (d : Dir) : State :=
  let rest := s.dir.filter fun x => x.1 ≠ w
  { s with dir := if d = .clean [] then rest else (w, d) :: rest }
/-- A word's value on its way home in a writeback or a recall response (R178). -/
def State.homeward (s : State) (w : Nat) : Option W32 :=
  s.msgs.findSome? fun m =>
    match m with
    | .writeback _ x v => if x = w then some v else none
    | .response _ x (some v) => if x = w then some v else none
    | _ => none
/-- The value of a byte for every strong reader: the owner's when a core owns its word, or that on its way home (R181). -/
def State.cohByte (s : State) (pa : Nat) : Byte :=
  match s.ownerOf (wordOf pa) with
  | some l => l.val.extractLsb' (8 * (pa % 4)) 8
  | none =>
    match s.homeward (wordOf pa) with
    | some v => v.extractLsb' (8 * (pa % 4)) 8
    | none => memGet s.mem pa
/-- n bytes as a strong reader sees them. [DEDUCED: log entry 28] -/
def State.cohRead (s : State) (pa : Nat) : Nat → List Byte
  | 0 => []
  | n + 1 => s.cohByte pa :: s.cohRead (pa + 1) n
/-- A 32-bit word of home memory. -/
def State.homeWord (s : State) (w : Nat) : W32 := BitVec.ofNat 32 (natOf (memRead s.mem w 4))

/-! ## Page tables (R231 to R234) -/

/-- The kind of an access, for rights and fault entries (R240). -/
inductive Acc where
  | read | write | fetch
  deriving DecidableEq, Repr
def Acc.bit : Acc → BitVec 3
  | .read => 1 | .write => 2 | .fetch => 4
/-- Host physical memory is addressed above every device address. [DESIGN CHOICE: log entry 6] -/
def hostBase : Nat := 2 ^ 52
def pteV (e : W64) : Bool := e.getLsbD 0
def pteLeaf (e : W64) : Bool := e.getLsbD 1
def pteCtg (e : W64) : Bool := e.getLsbD 5
def pteHost (e : W64) : Bool := e.getLsbD 8
def pteZf (e : W64) : Bool := e.getLsbD 9
def pteFrame (e : W64) : Nat := (e.extractLsb' 12 40).toNat
/-- The right of an access (R233). -/
def pteRight (e : W64) : Acc → Bool
  | .read => e.getLsbD 2 | .write => e.getLsbD 3 | .fetch => e.getLsbD 4
def pteReserved (e : W64) : Bool := e.extractLsb' 10 2 ≠ 0 || e.extractLsb' 52 12 ≠ 0
/-- A malformed valid entry at a level (R233). -/
def pteBad (lvl : Nat) (e : W64) : Bool :=
  pteReserved e || (lvl = 0 && !pteLeaf e) || (lvl = 3 && pteLeaf e) ||
  (pteLeaf e && lvl = 1 && pteFrame e % 512 ≠ 0) || (pteLeaf e && lvl = 2 && pteFrame e % 2 ^ 18 ≠ 0) ||
  (!pteHost e && decide (0x7FFFFFF < pteFrame e))
/-- The outcome of a walk: a leaf with its level, the address of its entry and the entry; a ZERO entry; nothing there. -/
inductive Walk where
  | leaf (lvl epa : Nat) (e : W64)
  | zero (lvl epa : Nat) (e : W64)
  | absent
  | malformed
  deriving DecidableEq, Repr
/-- The lowest VA bit that a level indexes. -/
def lvlShift (lvl : Nat) : Nat := 12 + 9 * lvl
/-- An 8-byte table entry, by a strong read. -/
def State.readPte (s : State) (epa : Nat) : W64 := BitVec.ofNat 64 (natOf (s.cohRead epa 8))
/-- Walks from a table of a level. In an entry that names a table `pte.host` has no meaning: the table is device memory.
Of an entry with `pte.v` = 0 only a ZERO one's reserved bits can make it malformed. [DEDUCED: log entry 73; DESIGN CHOICE: log entry 74] -/
def State.walkFrom (s : State) (va : Nat) : Nat → Nat → Walk
  | lvl, table =>
    let idx := if lvl = 3 then va / 2 ^ 39 % 2 ^ 18 else va / 2 ^ lvlShift lvl % 512
    let epa := table + 8 * idx
    let e := s.readPte epa
    if !pteV e then (if pteZf e then (if pteReserved e then .malformed else .zero lvl epa e) else .absent)
    else if pteBad lvl e then .malformed
    else if pteLeaf e then .leaf lvl epa e
    else match lvl with
      | 0 => .malformed
      | l + 1 => s.walkFrom va l (pteFrame e * 4096)
/-- A walk of a context's tables; an address past 57 bits names nothing. -/
def State.walk (s : State) (ctx va : Nat) : Walk :=
  match s.ctx? ctx with
  | none => .absent
  | some c => if 2 ^ 57 ≤ va then .absent else s.walkFrom va 3 c.root
/-- The pages of 4 KiB that a leaf's translation covers (R231, R234). -/
def leafPages (lvl : Nat) (e : W64) : Nat := if lvl = 0 then (if pteCtg e then 16 else 1) else if lvl = 1 then 512 else 2 ^ 18
/-- The physical address under a leaf of so many pages. -/
def leafPa (pages : Nat) (e : W64) (va : Nat) : Nat :=
  (if pteHost e then hostBase else 0) + (pteFrame e / pages * pages * 4096 + va % (pages * 4096))
/-- Whether a parked sub-group, a fault entry or a bounce record names a page of a context (R235). -/
def State.named (s : State) (ctx va pages : Nat) : Bool :=
  let here := fun (x : Nat) => decide (x / (pages * 4096) = va / (pages * 4096))
  (s.subs.any fun b => b.cause = 0x10 && (s.group b.gid).ctx = ctx && here (s.faultAddr b)) ||
  (s.fq.toList.any fun q => q.entries.any fun e => e.ctx = ctx && here e.va) ||
  (s.bounce.any fun b => b.ctx = ctx && here b.va)
/-- Whether a bounce record holds a page back (R244). -/
def State.bounced (s : State) (ctx va pages : Nat) : Bool :=
  s.bounce.any fun b => b.ctx = ctx && b.va / (pages * 4096) = va / (pages * 4096)
/-- Whether the context's next access to a frame is to fault (R246). -/
def State.pinLost (s : State) (ctx pa : Nat) : Bool :=
  s.frames.any fun f => f.frame = pa / 65536 && f.fna.contains ctx
/-- The context's handle table refuses stores by its threads (R167). -/
def State.inHtab (s : State) (ctx va : Nat) : Bool :=
  match s.ctx? ctx with
  | some c => decide (c.htab ≤ va) && decide (va < c.htab + 131072)
  | none => false

/-- A translation: an address, a ZERO leaf to be served, or a fault with the kind of its fault entry (R240). -/
inductive XlRes where
  | ok (pa : Nat)
  | zero (lvl epa : Nat) (e : W64)
  | fault (cause : Byte) (kind : Nat)
  deriving DecidableEq, Repr
/-- What the tables as they stand give. An access to a FAULTED page is 0 NOTPRESENT, also where the entry has `pte.zf` set.
[DESIGN CHOICE: log entry 74] -/
def State.xlWalk (s : State) (ctx va : Nat) (acc : Acc) : XlRes :=
  match s.walk ctx va with
  | .absent => .fault 0x10 0
  | .malformed => .fault 0x10 5
  | .zero lvl epa e => if s.named ctx va (leafPages lvl e) then .fault 0x10 0 else .zero lvl epa e
  | .leaf lvl _ e =>
    if s.bounced ctx va (leafPages lvl e) then .fault 0x10 0
    else if s.pinLost ctx (leafPa (leafPages lvl e) e va) then .fault 0x10 2
    else if !pteRight e acc then .fault 0x11 0
    else .ok (leafPa (leafPages lvl e) e va)
/-- The physical address that a device agent reaches, or none where a lane would fault (R167, R354). [DEDUCED: log entry 28] -/
def State.peek (s : State) (ctx va : Nat) (acc : Acc) : Option Nat :=
  match s.xlWalk ctx va acc with
  | .ok pa => some pa
  | _ => none

/-- A value on its way home arrives: a writeback makes the word CLEAN; a recall is still answered, without a value, and so is a request
that waits for the writeback. -/
def State.landMsgs (s : State) (w : Nat) : State :=
  match s.homeward w with
  | none => s
  | some v =>
    let s := { s with mem := memWrite s.mem w (bytesOf 4 v.toNat) }
    match s.dirOf w with
    | .owned _ =>
      let wb : Msg → Bool := fun m => match m with | .writeback _ x _ => x = w | _ => false
      { s with msgs := s.msgs.filter fun m => !wb m }.setDir w (.clean [])
    | d =>
      let bare := fun (m : Msg) =>
        match m with
        | .writeback c x v => if x = w then Msg.response c x none else .writeback c x v
        | .response c x v => if x = w then Msg.response c x none else .response c x v
        | m => m
      let s := { s with msgs := s.msgs.map bare }
      match d with
      | .kept c held => s.setDir w (.recall c held)
      | _ => s
/-- A word's owner gives it back: its value goes home and the word is CLEAN (R181). [DEDUCED: log entry 28] -/
def State.pullWord (s : State) (w : Nat) : State :=
  match s.ownerOf w with
  | none => s.landMsgs w
  | some l =>
    let s := { s with mem := memWrite s.mem w (bytesOf 4 l.val.toNat), l1 := s.l1.filter fun x => !(x.addr = w && x.st = L1St.own) }
    match s.dirOf w with
    | .owned _ => s.setDir w (.clean [])
    | .kept _ held => s.setDir w (.inval [] [] held)
    | _ => s
/-- The words that an agent which is no core is about to write: owned ones go home, and WI copies go (R181). -/
def State.takeWords (s : State) (ws : List Nat) : State :=
  ws.foldl (fun s w =>
    let s := s.landMsgs w
    match s.dirOf w with
    | .owned _ | .kept _ _ => s.pullWord w
    | .clean _ => { s with l1 := s.l1.filter fun l => !(l.addr = w && l.st = L1St.wi) }.setDir w (.clean [])
    | .recall _ _ =>
      (match s.ownerOf w with
       | some l => { s with mem := memWrite s.mem w (bytesOf 4 l.val.toNat) }
       | none => s)
    | .inval _ _ _ => { s with l1 := s.l1.filter fun l => !(l.addr = w && l.st = L1St.wi) }) s
/-- A word still owned after such a write, as its recall is under way, takes the written value. -/
def State.ownersFollow (s : State) (ws : List Nat) : State :=
  { s with l1 := s.l1.map fun (l : L1Word) => if l.st = .own && ws.contains l.addr then { l with val := s.homeWord l.addr } else l }

/-! ## Writes at a home (R181, R184): undo records, monitors, mirrors -/

/-- Whether a context records (R394). -/
def State.recording (s : State) (ctx : Nat) : Bool :=
  (match s.ctx? ctx with | some c => c.rec_ | none => false) &&
  (match s.recs.find? fun r => r.ctx = ctx with
   | some r => decide (24 ≤ r.lg.toNat) && decide (r.lg.toNat ≤ 40) && decide (r.base.toNat % 2 ^ r.lg.toNat = 0)
   | none => false) &&
  s.kernels.all fun k => !(k.ctx = ctx && k.r.dclass = 0 && k.st ≠ .done && k.st ≠ .faulted)
/-- Whether a context is being re-executed (R397). -/
def State.replaying (s : State) (ctx : Nat) : Bool :=
  s.replays.any fun r => r.begun && r.ctx = ctx
/-- Changes the newest checkpoint of a context. -/
def State.updNewest (s : State) (ctx : Nat) (f : Ckpt → Ckpt) : State :=
  match (s.ckpts.filter fun c => c.ctx = ctx).getLast? with
  | none => s
  | some n => { s with ckpts := s.ckpts.map fun (c : Ckpt) => if c.ctx = ctx && c.seq = n.seq then f c else c }
/-- The size of a log record with what follows it (R396). -/
def LogRec.size (r : LogRec) : Nat := 32 + (r.extra.length + 31) / 32 * 32
/-- Bits [191:0] of a stamp in three words (R396, R408). -/
def LogRec.words (r : LogRec) : List W64 :=
  [BitVec.ofNat 64 (r.kind.toNat + r.herd % 2 ^ 24 * 2 ^ 16 + r.flk % 8 * 2 ^ 40 + r.grp % 32 * 2 ^ 43 + r.lane % 32 * 2 ^ 48),
   r.rwc, r.addr]
/-- The bytes of a record and of what follows it (R396). [DESIGN CHOICE: log entry 41] -/
def LogRec.bytes (r : LogRec) : List Byte :=
  ((r.words ++ [r.val]).flatMap fun w => bytesOf 8 w.toNat) ++ takeBytes (r.size - 32) r.extra
/-- Writes bytes at the write offset of a record ring, 32 at a time, where the ring's page is PRESENT (R394, R396).
[DESIGN CHOICE: log entry 41] -/
def State.ringWrite (s : State) (r : RecCtl) (bs : List Byte) : State :=
  (List.range (bs.length / 32)).foldl (fun s i =>
    match s.peek r.ctx (r.base.toNat + (r.wr.toNat + 32 * i) % 2 ^ r.lg.toNat) .write with
    | some pa =>
      let bytes := (bs.drop (32 * i)).take 32
      let ws := wordsOf pa 32
      let s := s.takeWords ws
      { s with mem := memWrite s.mem pa bytes }.ownersFollow ws
    | none => s) s
/-- Bytes that the spec leaves open here: another device's members gave them, or it gives them no layout.
[DESIGN CHOICE: log entry 5; DESIGN CHOICE: log entry 38; DESIGN CHOICE: log entry 41] -/
def State.openBytes (s : State) (n : Nat) : List Byte × State :=
  ((List.range n).map fun i => BitVec.ofNat 8 ((Config.freeWord (s.free + i / 8)).toNat / 256 ^ (i % 8)),
    { s with free := s.free + (n + 7) / 8 })
/-- A live context begins to stop (R340). -/
def Context.stop (c : Context) : Context := if c.st = .live then { c with st := .stopping } else c
/-- A record enters the record ring, where its write offset stands, and `add` keeps it with the newest checkpoint; one that would
overwrite the older retained checkpoint is not written, and the context stops instead (R395). [DESIGN CHOICE: log entry 41] -/
def State.enterRing (s : State) (ctx : Nat) (bs : List Byte) (add : State → State) : State :=
  match s.recs.find? fun r => r.ctx = ctx with
  | none => add s
  | some r =>
    let size := 2 ^ r.lg.toNat
    let used := ((s.ckpts.filter fun c => c.ctx = ctx).map fun c =>
      c.size + (c.log.map LogRec.size).sum + (c.undo.length * 544)).sum + bs.length
    let upd := fun (s : State) (f : RecCtl → RecCtl) => { s with recs := s.recs.map fun (x : RecCtl) => if x.ctx = ctx then f x else x }
    if size < used then
      (if r.full then s else
        ((upd s fun x => { x with full := true }).updCtx ctx Context.stop).post 5 0xFFFF ctx [r.wr, r.ckseq.setWidth 64])
    else upd ((add s).ringWrite r bs) fun x => { x with wr := BitVec.ofNat 64 ((x.wr.toNat + bs.length) % size) }
/-- Adds a log record to a context's record (R396). -/
def State.putLog (s : State) (r : LogRec) : State :=
  s.enterRing r.ctx r.bytes fun s => s.updNewest r.ctx fun c => { c with log := c.log ++ [r] }
/-- The first write to each grain after a checkpoint keeps the grain's prior bytes (R395); how the undo record holds them in the ring
is open. [DESIGN CHOICE: log entry 41] -/
def State.undoGrains (s : State) (ctx pa n : Nat) : State :=
  if !s.recording ctx || s.replaying ctx then s else
  (List.range ((pa + n + 511) / 512 - pa / 512)).foldl (fun s i =>
    let g := pa / 512 * 512 + 512 * i
    match (s.ckpts.filter fun c => c.ctx = ctx).getLast? with
    | none => s
    | some c =>
      if c.undo.any fun u => u.1 = g then s
      else
        let l := s.openBytes 544
        l.2.enterRing ctx l.1 fun s => s.updNewest ctx fun c => { c with undo := (g, s.cohRead g 512) :: c.undo }) s
/-- A core's acquire: it drops its SI and WI words and keeps owned ones (R176, R212). -/
def State.acquireCore (s : State) (core : Nat) : State :=
  { s with l1 := s.l1.filter fun l => !(l.core = core && l.st ≠ .own) }
/-- Adds a log record of a thread's event (R396), unless the context is re-executed or not recorded. [DEDUCED: log entry 40] -/
def State.logEvent (s : State) (gid lane : Nat) (kind : Byte) (addr val : W64) (extra : List Byte) : State :=
  let g := s.group gid
  if !s.recording g.ctx || s.replaying g.ctx then s else
  let rwc := match s.thread? gid lane with | some t => t.rwc | none => 0
  let r : LogRec := { ctx := g.ctx, kind, kid := g.kid, lane, herd := g.herd, flk := g.flk, grp := g.grp, rwc, addr, val, extra }
  s.putLog r
/-- Whether a record was logged for a lane of a group. -/
def LogRec.of (r : LogRec) (g : Group) (lane : Nat) : Bool :=
  r.kind ≠ 9 && r.kid = g.kid && r.herd = g.herd && r.flk = g.flk && r.grp = g.grp && r.lane = lane
def State.updReplay (s : State) (ctx : Nat) (f : Replay → Replay) : State :=
  { s with replays := s.replays.map fun r => if r.ctx = ctx then f r else r }
/-- In a re-execution, the next record of a lane (R397). -/
def State.nextRec (s : State) (g : Group) (lane : Nat) : Option LogRec :=
  (s.replays.find? fun r => r.begun && r.ctx = g.ctx).bind fun r => r.log.find? fun x => x.of g lane
/-- Whether the next record of an atomic's word is another lane's (R397). [DEDUCED: log entry 40] -/
def Replay.laterAtom (p : Replay) (g : Group) (lane : Nat) (addr : W64) : Bool :=
  match p.log.find? fun x => x.kind = 1 && x.addr = addr with
  | some x => !x.of g lane
  | none => false
/-- The stamp of a record: the record without its value (R396). -/
def LogRec.stamp (r : LogRec) : LogRec := { r with val := 0, extra := [] }
/-- An event of R396 with the value it delivers: recorded in a recording run; in a re-execution compared with the thread's
next record, which gives the value, and a comparison that fails ends the re-execution (R397, R398). -/
def State.logged (s : State) (gid lane : Nat) (kind : Byte) (addr val : W64) (extra : List Byte) : W64 × List Byte × State :=
  let g := s.group gid
  match s.replays.find? fun r => r.begun && r.ctx = g.ctx with
  | none => (val, extra, s.logEvent gid lane kind addr val extra)
  | some r =>
      let rwc := match s.thread? gid lane with | some t => t.rwc | none => 0
      let met : LogRec :=
        { ctx := g.ctx, kind, kid := g.kid, lane, herd := g.herd, flk := g.flk, grp := g.grp, rwc, addr, val, extra }
      match r.log.find? fun x => x.of g lane with
      | none => (val, extra, s)
      | some x =>
        if x.stamp = met.stamp then
          (x.val, x.extra, s.updReplay g.ctx fun r => { r with log := r.log.erase x })
        else
          (val, extra,
            ((s.updReplay g.ctx fun r => { r with diverged := true }).updCtx g.ctx Context.stop).post 4
              (r.seq.toNat % 2 ^ 16) g.ctx (x.stamp.words ++ met.stamp.words))
/-- A write meets armed monitors: each fires with status 0, which is an acquire (R195). -/
def State.fireMonitors (s : State) (fid : Option Nat) (a n : Nat) : State :=
  let hit := s.mons.filter fun m => m.fid = fid && decide (m.addr < a + n) && decide (a < m.addr + m.n)
  hit.foldl (fun s m =>
    let s := { s with mons := s.mons.filter fun x => x.id ≠ m.id }
    match s.thread? m.gid m.lane with
    | some t =>
      (match t.wait with
       | some (.mwait mon d) =>
         if mon = m.id then
           let r := s.logged m.gid m.lane 2 (BitVec.ofNat 64 m.addr) 0 []
           (r.2.2.wake m.gid [(m.lane, [.g d (r.1.setWidth 32)])]).acquireCore (s.group m.gid).pcore
         else s
       | _ => s)
    | none => s) s
/-- Whether a window binds a mirrored range. -/
def MirrorSeq.binds (m : MirrorSeq) (w : Window) : Bool := w.va = m.va && w.len = 512 * m.grains.length
/-- A write to a mirrored range takes the next sequence number and goes to every subscriber (R189). -/
def State.mirrorWrite (s : State) (pa : Nat) (bs : List Byte) : State :=
  s.mirrors.foldl (fun s m =>
    match m.grains.findIdx? fun g => g = pa / 512 * 512 with
    | none => s
    | some i =>
      let seq := m.seq + 1
      let u : Update := ⟨seq, 512 * i + pa % 512, bs⟩
      let sub := fun (w : Window) =>
        if w.st = .active && m.binds w then { w with updates := w.updates ++ [u] } else w
      { s with
        mirrors := s.mirrors.map fun (x : MirrorSeq) => if x.ctx = m.ctx && x.va = m.va && x.grains.length = m.grains.length then { x with seq := seq } else x,
        flocks := s.flocks.map fun (f : Flock) => if f.ctx = m.ctx then { f with wins := f.wins.map sub } else f }) s
/-- A write applied at its home: `Applied` of R170. -/
def State.applyWrite (s : State) (ctx pa : Nat) (bs : List Byte) : State :=
  let s := s.undoGrains ctx pa bs.length
  ({ s with mem := memWrite s.mem pa bs }.fireMonitors none pa bs.length).mirrorWrite pa bs
/-- A write by an agent of the device that is no core (a walk, an engine, a completion word): the home's transaction with
its recalls and invalidations, taken as one step (R181). A word in transition keeps its transaction and takes the bytes.
[DEDUCED: log entry 28] -/
def State.cohWrite (s : State) (ctx pa : Nat) (bs : List Byte) : State :=
  let ws := wordsOf pa bs.length
  ((s.takeWords ws).applyWrite ctx pa bs).ownersFollow ws

/-! ## Translation (R233) -/

/-- Sets `pte.a`, and `pte.d` for a write, at the entry's home (R233). -/
def State.markUsed (s : State) (ctx va : Nat) (acc : Acc) : State :=
  match s.walk ctx va with
  | .leaf _ epa e =>
    let e' : W64 := e ||| 0x40 ||| (if acc = .write then 0x80 else 0)
    if e' = e then s else s.cohWrite 0 epa (bytesOf 8 e'.toNat)
  | _ => s
def TlbEnt.covers (t : TlbEnt) (core ctx va : Nat) : Bool :=
  t.core = core && t.ctx = ctx && t.vpn ≤ va / 4096 && decide (va / 4096 < t.vpn + t.pages)
/-- A core's translation unit keeps the leaf it has walked (R233). [DESIGN CHOICE: log entry 29] -/
def State.cacheLeaf (s : State) (core ctx va : Nat) : State :=
  match s.walk ctx va with
  | .leaf lvl _ e =>
    let n := leafPages lvl e
    let ent : TlbEnt := ⟨core, ctx, va / 4096 / n * n, n, e⟩
    { s with tlb := ent :: s.tlb.filter fun t => !t.covers core ctx va }
  | _ => s
/-- An access of the present step meets a frame that faults on its context's next access; the mark goes when the step is over, so
that every lane of the access parks (R246). -/
def State.tellPin (s : State) (ctx fr : Nat) : State :=
  { s with frames := s.frames.map fun (f : Frame) =>
      if f.frame = fr && f.fna.contains ctx && !f.told.contains ctx then { f with told := f.told ++ [ctx] } else f }
/-- The marks that an access has met are cleared (R246). -/
def State.clearTold (s : State) : State :=
  if s.frames.any fun f => f.told ≠ [] then
    { s with frames := s.frames.map fun (f : Frame) => { f with fna := f.fna.filter fun c => !f.told.contains c, told := [] } }
  else s
/-- TRANSLATION by a core's unit (R233): from the tables as they stand, or from a cached leaf that permits the access; where
both would serve and differ, which one is an open value. No cached leaf reaches a bounced page (R244). An access through a leaf whose
entry has changed marks the entry while it still maps the page's frame. [DESIGN CHOICE: log entry 29] -/
def State.translate (s : State) (core ctx va : Nat) (acc : Acc) : XlRes × State :=
  let w := s.xlWalk ctx va acc
  let walked := fun (s : State) =>
    match w, s.walk ctx va with
    | .ok _, _ => (s.markUsed ctx va acc).cacheLeaf core ctx va
    | .fault 0x10 2, .leaf lvl _ e => s.tellPin ctx (leafPa (leafPages lvl e) e va / 65536)
    | _, _ => s
  let same : Nat → Bool := fun pa => match s.walk ctx va with | .leaf lvl _ e => leafPa (leafPages lvl e) e va = pa | _ => false
  match s.tlb.find? fun t => t.covers core ctx va && pteRight t.pte acc with
  | some t =>
    let pa := leafPa t.pages t.pte va
    if w = .ok pa then (w, s.markUsed ctx va acc)
    else if s.bounced ctx va t.pages then (.fault 0x10 0, s)
    else if s.pinLost ctx pa then (.fault 0x10 2, s.tellPin ctx (pa / 65536))
    else
      let s' := { s with free := s.free + 1 }
      if Config.useCached s.free then (.ok pa, if same pa then s'.markUsed ctx va acc else s') else (w, walked s')
  | none => (w, walked s)

/-- Bytes of a context's address space, as the device's own agents read them; none where a page is missing.
[DEDUCED: log entry 28] -/
def State.vaRead (s : State) (ctx : Nat) : Nat → Nat → Option (List Byte)
  | _, 0 => some []
  | va, n + 1 =>
    match s.peek ctx va .read, s.vaRead ctx (va + 1) n with
    | some pa, some l => some (s.cohByte pa :: l)
    | _, _ => none
/-- The pieces of [va, va + n) that lie in one 4 KiB page each. -/
def pieces : Nat → Nat → Nat → List (Nat × Nat)
  | 0, _, _ => []
  | f + 1, va, n =>
    if n = 0 then [] else
    let k := min n (4096 - va % 4096)
    (va, k) :: pieces f (va + k) (n - k)
/-- Sets `pte.a` of the pages that an agent of the device reads through (R232). [DEDUCED: log entry 28] -/
def State.touchRead (s : State) (ctx va n : Nat) : State :=
  (pieces (n / 4096 + 2) va n).foldl (fun s p => if (s.peek ctx p.1 .read).isSome then s.markUsed ctx p.1 .read else s) s
/-- Sets `pte.a` of the page of a handle-table entry that is read (R232). [DEDUCED: log entry 28] -/
def State.touchEntry (s : State) (ctx idx : Nat) : State :=
  match s.ctx? ctx with
  | some c => s.touchRead ctx (c.htab + 32 * idx) 32
  | none => s
/-- Writes bytes of a context's address space, when every page of them can be written. [DEDUCED: log entry 28] -/
def State.vaWrite (s : State) (ctx va : Nat) (bs : List Byte) : Option State :=
  let ps := pieces (bs.length / 4096 + 2) va bs.length
  if ps.all fun p => (s.peek ctx p.1 .write).isSome then
    some (ps.foldl (fun s p =>
      match s.peek ctx p.1 .write with
      | some pa => (s.markUsed ctx p.1 .write).cohWrite ctx pa ((bs.drop (p.1 - va)).take p.2)
      | none => s) s)
  else none

/-! ## Handles (R167 to R172) -/

inductive Space where
  | global | scratch | peer | bstore | near | pod | code | none7
  deriving DecidableEq, Repr
def heSpace (e : BitVec 256) : Space :=
  match e.extractLsb' 128 3 with
  | 0 => .global | 1 => .scratch | 2 => .peer | 3 => .bstore | 4 => .near | 5 => .pod | 6 => .code | _ => .none7
def heBase (e : BitVec 256) : Nat := (e.extractLsb' 0 57).toNat
def heLen (e : BitVec 256) : Nat := (e.extractLsb' 64 64).toNat
def heValid (e : BitVec 256) : Bool := e.getLsbD 131
/-- Rights in the order of R167: 0 read, 1 write, 2 execute, 3 atomic, 4 engine. -/
def heRight (e : BitVec 256) (k : Nat) : Bool := e.getLsbD (132 + k)
/-- Whether a policy code is permitted: 0 SI, 1 WI, 2 WT, 3 OWN. -/
def hePol (e : BitVec 256) (k : Nat) : Bool := e.getLsbD (137 + k)
def hePeer (e : BitVec 256) : Nat := (e.extractLsb' 141 3).toNat
def heDev (e : BitVec 256) : Nat := (e.extractLsb' 144 12).toNat
def heGen (e : BitVec 256) : W32 := e.extractLsb' 160 32
/-- The table's entry at an index; none where its page is not present (R167). -/
def State.tableEntry (s : State) (ctx idx : Nat) : Option (BitVec 256) :=
  match s.ctx? ctx with
  | none => none
  | some c =>
    if 4095 < idx then none else
    match s.peek ctx (c.htab + 32 * idx) .read with
    | some pa => some (BitVec.ofNat 256 (natOf (s.cohRead pa 32)))
    | none => none
/-- The flocks of a group's herd. -/
def State.herdFlocks (s : State) (g : Group) : List Flock :=
  s.flocks.filter fun f => f.ctx = g.ctx && f.kid = g.kid && f.herd = g.herd
/-- Whether the copy in a handle register may be used now (R168). -/
def State.usable (s : State) (g : Group) (h : HReg) : Bool :=
  h.loaded && !h.stale && heValid h.ent &&
  (match s.tableEntry g.ctx h.idx.toNat with
   | some e => heValid e && heGen e = heGen h.ent
   | none => false) &&
  (heSpace h.ent ≠ .peer || decide (hePeer h.ent < (s.herdFlocks g).length))
/-- A fat pointer: offset g[a], table index g[a+1][11:0], the entry read from the table (R168). [DEDUCED: log entry 32] -/
def State.fatPtr (s : State) (g : Group) (t : Thread) (a : Fld) : HReg :=
  let w := rd t (a + 1)
  let idx : BitVec 12 := w.extractLsb' 0 12
  match s.tableEntry g.ctx idx.toNat with
  | some e => ⟨w.extractLsb' 12 20 = 0, idx, e, false⟩
  | none => ⟨false, idx, 0, false⟩

/-- The outcome of checks 1 to 5 of R170: the address, or a cause and its aux. -/
inductive ChkRes where
  | ok (a : Nat)
  | bad (cause : Byte) (aux : W64)
  deriving DecidableEq, Repr
/-- The flock whose storage a SCRATCH, PEER or BSTORE entry names. -/
def State.spaceFlock (s : State) (g : Group) (e : BitVec 256) : Option Flock :=
  match heSpace e with
  | .peer => (s.herdFlocks g).find? fun f => f.flk = hePeer e
  | _ => s.flock? g.fid
/-- Checks 1 to 5 of R170 for n bytes at an offset, with a right and a policy code. An atomic on a BSTORE or CODE handle fails at
check 4: R192 names no place for it. A 64-byte spool operand is to be 64-aligned.
[DEDUCED: log entry 32; DEDUCED: log entry 73; DESIGN CHOICE: log entry 74] -/
def State.check (s : State) (g : Group) (h : HReg) (off : Int) (n right pol : Nat) : ChkRes :=
  if !s.usable g h then .bad 0x12 (h.idx.setWidth 64)
  else
    let e := h.ent
    let a : Int := heBase e + off
    let lim : Option Nat :=
      match heSpace e with
      | .scratch | .peer => (s.spaceFlock g e).map Flock.scrLen
      | .bstore => (s.spaceFlock g e).map Flock.bstLen
      | _ => none
    let inLim : Bool := match lim with | some l => decide (a + n ≤ (l : Int)) | none => true
    if a % (n : Int) ≠ 0 then .bad 0x15 (BitVec.ofInt 64 a)
    else if off < 0 ∨ (heLen e : Int) < off + n ∨ !inLim then .bad 0x13 (BitVec.ofInt 64 off)
    else if !heRight e right || (right = 3 && (heSpace e = .bstore || heSpace e = .code)) then .bad 0x11 (BitVec.ofInt 64 a)
    else if !hePol e pol then .bad 0x14 (BitVec.ofInt 64 a)
    else .ok a.toNat

/-- Where an access that has passed its checks goes. -/
inductive Place where
  | scr (fid off : Nat)
  | bst (fid off : Nat)
  | mem (pa : Nat)
  | pod (dev va : Nat)
  /-- A page that the first-touch unit will serve (R238). -/
  | ft (va : Nat)
  deriving DecidableEq, Repr
/-- A place, or a fault. -/
inductive PlaceRes where
  | ok (p : Place)
  | bad (cause : Byte) (aux : W64) (acc : BitVec 3) (kind : Nat)
  deriving DecidableEq, Repr

/-- The ring of a pasture's first-touch unit: 0 for 4 KiB frames, 1 for 64 KiB frames. [DEDUCED: log entry 53] -/
def State.ftuRing (s : State) (pasture ring : Nat) : FtuRing := (s.ftu[2 * pasture + ring]?).getD FtuRing.reset
/-- Whether a ring serves (R237). -/
def FtuRing.on (r : FtuRing) : Bool :=
  decide (4 ≤ r.lg.toNat) && decide (r.lg.toNat ≤ 20) && decide (r.base.toNat % (8 * 2 ^ r.lg.toNat) = 0)
/-- Pages that held accesses are still to be served from a ring; each takes one frame (R238). -/
def State.ftuClaims (s : State) (pasture ring : Nat) : List (Nat × Nat) :=
  ((s.reqs.filter fun r => r.ft && pastureOf r.src = pasture).filterMap fun r =>
    match s.walk r.ctx r.va with
    | .zero _ _ e =>
      let k := if pteCtg e then 1 else 0
      if k = ring then some (r.ctx, r.va / (if k = 1 then 65536 else 4096)) else none
    | _ => none).dedup
/-- Whether the unit of a core's pasture will serve a ZERO leaf that an access meets (R238). A ZERO entry at level 3, of which the rule
does not speak, is as one at level 1 or 2. [DEDUCED: log entry 73] -/
def State.ftuServes (s : State) (core ctx va lvl : Nat) (e : W64) : Bool :=
  let p := pastureOf core
  let k := if pteCtg e then 1 else 0
  let r := s.ftuRing p k
  let c := s.ftuClaims p k
  let page := (ctx, va / (if k = 1 then 65536 else 4096))
  lvl = 0 && r.on && (c.contains page || decide (c.length < (r.tail - r.head).toNat))
/-- A fault of translation for a lane (R170, check 6). -/
def xlBad (va : Nat) (acc : Acc) (cause : Byte) (kind : Nat) : PlaceRes := .bad cause (BitVec.ofNat 64 va) acc.bit kind
/-- Grain registration: a lane's write to a grain that a transfer of another core has registered (R188). -/
def State.grainBlocks (s : State) (core pa n : Nat) : Bool :=
  s.grains.any fun g => decide (g.addr ≤ pa + n - 1) && decide (pa < g.addr + 512) && g.core ≠ core
/-- Serves a ZERO leaf (R238): the frame at the head of the ring, the leaf or the 16 entries of its group, and the low-pool
event of R237. -/
def State.serveFirstTouch (s : State) (core ctx va : Nat) (wr : Bool) : State :=
  match s.walk ctx va with
  | .zero 0 epa e =>
    let p := pastureOf core
    let k := if pteCtg e then 1 else 0
    let r := s.ftuRing p k
    if !r.on || r.head = r.tail then s else
    let slot := r.base.toNat + 8 * (r.head.toNat % 2 ^ r.lg.toNat)
    let frame := natOf (s.cohRead slot 8) % 2 ^ 39
    let mk := fun (e : W64) (pa : Nat) =>
      (e &&& 0xFFF0000000000C3C) ||| 0x43 ||| (if wr then 0x80 else 0) ||| BitVec.ofNat 64 (pa / 4096 % 2 ^ 40 * 4096)
    let s :=
      if k = 0 then s.cohWrite 0 epa (bytesOf 8 (mk e frame).toNat)
      else (List.range 16).foldl (fun s i =>
        let ep := epa / 128 * 128 + 8 * i
        s.cohWrite 0 ep (bytesOf 8 (mk (s.readPte ep) (frame / 65536 * 65536 + 4096 * i)).toNat)) s
    let r' := { r with head := r.head + 1 }
    let s := { s with ftu := s.ftu.setIfInBounds (2 * p + k) r' }
    if r'.tail - r'.head = r'.low && !r'.lowev then
      { s with ftu := s.ftu.setIfInBounds (2 * p + k) { r' with lowev := true } }.post 17 (2 * p + k) 0
        [(r'.tail - r'.head).setWidth 64]
    else s
  | _ => s

/-- Whether the pod has a device (R371, R370). -/
def State.inPod (s : State) (dev : Nat) : Bool :=
  if s.fab.mesh then decide (dev % 8 < s.fab.sx) && decide (dev / 8 % 8 < s.fab.sy) && decide (dev / 64 < s.fab.sz)
  else decide (dev < 1024)
/-- Check 6 and 7 at an address of the issuing context (R170): translation, the page's rights, grain registration. -/
def State.placeVa (s : State) (g : Group) (a n right : Nat) (acc : Acc) : PlaceRes × State :=
  let wr := acc = .write
  if wr && s.inHtab g.ctx a then (xlBad a acc 0x11 0, s) else
  match s.translate g.pcore g.ctx a acc with
  | (.ok pa, s) =>
    if right = 3 && (match s.xlWalk g.ctx a .read with | .fault 0x11 _ => true | _ => false) then (xlBad a .read 0x11 0, s)
    else if wr && s.grainBlocks g.pcore pa n then (xlBad a acc 0x16 0, s)
    else (.ok (.mem pa), s)
  | (.zero lvl _ e, s) =>
    if !s.ftuServes g.pcore g.ctx a lvl e then (xlBad a acc 0x10 1, s)
    else if !pteRight e acc || (right = 3 && !pteRight e .read) then
      (xlBad a acc 0x11 0, s.serveFirstTouch g.pcore g.ctx a wr)
    else (.ok (.ft a), s)
  | (.fault c k, s) => (xlBad a acc c k, s)
/-- ADDRESSING (R170, checks 1 to 6, and 7 for a write): where n bytes at an offset of a handle lie. A POD entry that names
this device reaches the issuing context itself, and a device that the pod does not have fails the access, as a page does there
that the access may not use (R199, R417). [DEDUCED: log entry 66] -/
def State.place (s : State) (g : Group) (h : HReg) (off : Int) (n right pol : Nat) (acc : Acc) : PlaceRes × State :=
  match s.check g h off n right pol with
  | .bad c a => (.bad c a acc.bit 0, s)
  | .ok a =>
    match heSpace h.ent with
    | .scratch | .peer => ((match s.spaceFlock g h.ent with | some f => .ok (.scr f.fid a) | none => xlBad a acc 0x13 0), s)
    | .bstore => (.ok (.bst g.fid a), s)
    | .pod =>
      if !s.inPod (heDev h.ent) then (xlBad a acc 0x31 0, s)
      else if heDev h.ent ≠ s.fab.dev then (.ok (.pod (heDev h.ent) a), s)
      else
        (match s.placeVa g a n right acc with
         | (.bad 0x10 _ _ _, s) => (xlBad a acc 0x31 0, s)
         | (.bad 0x11 x y k, s) => (if acc = .write && s.inHtab g.ctx a then .bad 0x11 x y k else xlBad a acc 0x31 0, s)
         | r => r)
    | _ => s.placeVa g a n right acc

end Sys2Proof.Machine
end

