-- ==== Sys2Proof/Machine/Home.lean ====
section
/-! DEFINITION. Memory requests at their homes: the directory transitions of R181, refusals and persistence (R182, R183),
messages (R178), replies to threads, atomics (R192, R193) and the proxy home (R186). -/
namespace Sys2Proof.Machine

/-! ## Results that a thread awaits (R40) -/

/-- The writes of a loaded value: consecutive registers, 8- and 16-bit values zero-extended (R196). -/
def loadWrites (d : Fld) (bs : List Byte) : List Wr :=
  wrs32 d ((List.range ((bs.length + 3) / 4)).map fun i => BitVec.ofNat 32 (natOf ((bs.drop (4 * i)).take 4)))
/-- Bytes of the parts of a result in the order of their offsets. -/
def joinParts (n : Nat) (ps : List (Nat × List Byte)) : List Byte :=
  (List.range n).map fun i =>
    match ps.find? fun p => p.1 ≤ i && decide (i < p.1 + p.2.length) with
    | some p => (p.2[i - p.1]?).getD 0
    | none => 0
/-- The first g register among a result's destinations. -/
def firstG : List Dest → Option Fld
  | [] => none
  | .g r :: _ => some r
  | _ :: l => firstG l
/-- The bytes that a result's parts span. -/
def partsLen (ps : List (Nat × List Byte)) : Nat := ps.foldl (fun m p => max m (p.1 + p.2.length)) 0
/-- A value as the log records hold it: the low 8 bytes, and the rest in a data record (R396). [DEDUCED: log entry 40] -/
def logVal (bs : List Byte) : W64 := BitVec.ofNat 64 (natOf (bs.take 8))
def logExtra (bs : List Byte) : List Byte := if bs.length ≤ 8 then [] else takeBytes 32 bs
/-- A lane's chain that ended while an access of it was held has now completed, and a stepped one takes its step trap (R155).
[DEDUCED: log entry 20] -/
def State.stepHeld (s : State) (gid lane : Nat) : State :=
  match s.thread? gid lane with
  | none => s
  | some t =>
    if !t.stepped || !(s.group gid).step || t.waits || t.st = .parked || t.st = .exited || t.exiting then s
    else
      let r := stepRec t t.npkt t.nslot t.pkt
      (s.updGroup gid fun g => g.dropLanes (laneBit lane)).parkWaiting gid [(⟨lane, 0x04, r.aux, 0, 0⟩, r)] none
/-- A part of a result has come back (R40); with the last one the value is known, and an acquire completes: the core drops
its SI and WI words and the thread may go on (R212). -/
def State.feed (s : State) (gid lane rid off : Nat) (bs : List Byte) (flags : BitVec 5) (addr : Nat) : State :=
  match s.thread? gid lane with
  | none => s
  | some t =>
    match t.outst.find? fun r => r.id = rid with
    | none => s
    | some r =>
      let r := { r with parts := r.parts ++ [(off, bs)], need := r.need - 1, flags := r.flags ||| flags }
      if r.need ≠ 0 then
        s.updT gid lane fun t => { t with outst := t.outst.map fun x => if x.id = rid then r else x }
      else
        let all := joinParts (partsLen r.parts) r.parts
        let l := if r.acq && !r.atom then s.logged gid lane 2 (BitVec.ofNat 64 addr) (logVal all) (logExtra all) else (logVal all, logExtra all, s)
        let all := if r.acq && !r.atom then (if l.2.1 = [] then bytesOf all.length l.1.toNat else takeBytes all.length l.2.1) else all
        let r := match firstG r.dests with
          | some d => { r with writes := loadWrites d all }
          | none => r
        let s := l.2.2.updT gid lane fun t =>
          { t with outst := t.outst.map fun (x : Result) => if x.id = rid then r else x, hold := if r.acq || r.rem then false else t.hold }
        let s := if r.acq then s.acquireCore (s.group gid).pcore else s
        if r.acq || r.rem then s.stepHeld gid lane else s

/-! ## Read-modify-writes (R193) -/

/-- Elementwise half-precision addition. -/
def addX2 (f : Fmt) (a b : Nat) : FR :=
  let lo := redNode .add f (a % 2 ^ 16) (b % 2 ^ 16)
  let hi := redNode .add f (a / 2 ^ 16 % 2 ^ 16) (b / 2 ^ 16 % 2 ^ 16)
  ⟨lo.bits + hi.bits * 2 ^ 16, lo.exc ||| hi.exc⟩
/-- The bytes that a read-modify-write acts on. -/
def rmwBytes : RmwOp → Nat
  | .add w | .andB w | .orB w | .xorB w | .minI w | .maxI w | .minN w | .maxN w | .xchg w | .cas w => w / 8
  | .addF32 | .minF32 | .maxF32 | .addF16x2 | .addBf16x2 => 4
  | .addF64 | .minF64 | .maxF64 => 8
/-- The new value and the exceptions (R193). -/
def rmwApply (op : RmwOp) (old b c : Nat) : FR :=
  let sg := fun (w x : Nat) => (BitVec.ofNat w x).toInt
  match op with
  | .add w => ⟨(old + b) % 2 ^ w, 0⟩
  | .andB _ => ⟨old &&& b, 0⟩
  | .orB _ => ⟨old ||| b, 0⟩
  | .xorB _ => ⟨old ^^^ b, 0⟩
  | .minI w => ⟨if sg w b < sg w old then b else old, 0⟩
  | .maxI w => ⟨if sg w old < sg w b then b else old, 0⟩
  | .minN _ => ⟨if b < old then b else old, 0⟩
  | .maxN _ => ⟨if old < b then b else old, 0⟩
  | .xchg _ => ⟨b, 0⟩
  | .cas _ => ⟨if old = b then c else old, 0⟩
  | .addF32 => redNode .add f32 old b
  | .minF32 => redNode .min f32 old b
  | .maxF32 => redNode .max f32 old b
  | .addF64 => redNode .add f64 old b
  | .minF64 => redNode .min f64 old b
  | .maxF64 => redNode .max f64 old b
  | .addF16x2 => addX2 f16 old b
  | .addBf16x2 => addX2 bf16 old b

/-! ## Requests -/

def sdAgent : Agent := 2048
def hostAgent : Agent := 2049
def engineAgent : Agent := 2050
def Req.outside (r : Req) : Bool := r.src = sdAgent || r.src = hostAgent
def Req.words (r : Req) : List Nat := wordsOf r.pa r.n
/-- Whether two requests touch a common word. -/
def Req.meets (a b : Req) : Bool := decide (wordOf a.pa < b.pa + b.n) && decide (wordOf b.pa < a.pa + a.n)
def State.dropReq (s : State) (id : Nat) : State :=
  { s with reqs := s.reqs.filter fun r => r.id ≠ id, persist := s.persist.filter (· ≠ id) }
def State.updReq (s : State) (id : Nat) (f : Req → Req) : State :=
  { s with reqs := s.reqs.map fun r => if r.id = id then f r else r }
/-- Whether a word's transition is held by a request. -/
def Dir.heldBy (d : Dir) (id : Nat) : Bool :=
  match d with
  | .recall _ h => h = id
  | .inval _ _ h => h = id
  | .kept _ h => h = id
  | _ => false
/-- Whether a word is in transition for another request. -/
def State.busyFor (s : State) (id w : Nat) : Bool := (s.dirOf w).transient && !(s.dirOf w).heldBy id
/-- Whether a request already stands in a transition. -/
def State.inFlight (s : State) (r : Req) : Bool := r.words.any fun w => (s.dirOf w).heldBy r.id
/-- Whether a request writes. -/
def Req.writes (r : Req) : Bool :=
  match r.kind with
  | .write _ | .ownStore | .hostWrite | .sdWrite | .rmw _ _ _ => true
  | _ => false
/-- Whether an access of a service-die core waits for an older one of the same core: behind an acquire, and, when it writes, behind
what a release fence orders (R185, R223). [DEDUCED: log entry 30] -/
def Req.dieBehind (r x : Req) : Bool :=
  x.src = r.src && x.lane = r.lane && decide (x.id < r.id) && r.outside && (x.acq || (x.wrs && r.writes))
/-- Whether an access of a request's thread is older than its own; the pieces of one access have successive identifiers. -/
def Req.olderOf (x r : Req) : Bool :=
  x.src = r.src && x.gid = r.gid && x.lane = r.lane && x.eng.isNone && r.eng.isNone && decide (x.id + r.off / 8 < r.id)
/-- Whether a request waits at its home behind a persistent one (R182): any that is not ahead of it in the queue, but for those
that the persistent one itself waits for. -/
def State.behindPersistent (s : State) (r x : Req) : Bool :=
  s.persist.contains x.id &&
  !(s.persist.contains r.id && decide (s.persist.idxOf r.id < s.persist.idxOf x.id)) &&
  !(decide (r.id < x.id) && (r.src = x.src || r.outside))
/-- Whether a home may take a request now: sent and not refused, not at a remote device or in the first-touch unit; a release
when the earlier accesses of its thread are complete (R211); behind its core's own writebacks and its older requests for the word,
those that the first-touch unit holds among them (R178, R208), behind older requests from outside (R183), those of its service-die
core that order it (R223), and behind persistent ones (R182). [DEDUCED: log entry 27] -/
def State.mayTake (s : State) (r : Req) : Bool :=
  !r.refused && !r.ft && r.dev.isNone && !s.inFlight r &&
  (!r.rel || !s.reqs.any fun x => x.olderOf r) &&
  (s.msgs.all fun m => match m with | .writeback c w _ => !(c = r.src && r.words.contains w) | _ => true) &&
  s.reqs.all fun x =>
    !r.dieBehind x &&
    !(x.ft && x.src = r.src && x.ctx = r.ctx && decide (x.id < r.id) && decide (wordOf x.va < r.va + r.n) && decide (wordOf r.va < x.va + x.n)) &&
    !(x.meets r && x.id ≠ r.id && !x.ft && x.dev.isNone &&
      ((x.src = r.src && decide (x.id < r.id)) ||
       (x.outside && decide (x.id < r.id) && !s.inFlight x) ||
       s.behindPersistent r x))
/-- The device requests in a home's persistent queue. -/
def State.persistOf (s : State) (home : Nat) : Nat :=
  (s.persist.filter fun i => match s.req? i with | some x => !x.outside && s.homeOf x.pa = home | none => false).length
/-- Counts a refusal of a home (R401). -/
def State.countRefusal (s : State) (home : Nat) : State :=
  { s with refusals := (home, (s.refusals.lookup home).getD 0 + 1) :: s.refusals.filter fun x => x.1 ≠ home }
/-- A refusal: the sixteenth makes the request persistent, and it enters its home's persistent queue when one of the 64
entries is free (R182). [DEDUCED: log entry 27] -/
def State.refuse (s : State) (r : Req) : State :=
  let k := r.refusals + 1
  let pers := r.persistent || decide (16 ≤ k)
  let s := (s.updReq r.id fun x => { x with refusals := k, persistent := pers, refused := true }).countRefusal (s.homeOf r.pa)
  if pers && decide (s.persistOf (s.homeOf r.pa) < 64) && !s.persist.contains r.id then { s with persist := s.persist ++ [r.id] } else s
/-- A request from outside that its home cannot take at once is held in arrival order, as a persistent one (R183).
[DEDUCED: log entry 27] -/
def State.holdOutside (s : State) (r : Req) : State :=
  if s.persist.contains r.id then s
  else { s.updReq r.id (fun x => { x with persistent := true }) with persist := s.persist ++ [r.id] }

/-- An L1 evicts a line: owned words are written back, the others dropped (R174). -/
def State.evictLine (s : State) (c line : Nat) : State :=
  let here := s.l1.filter fun l => l.core = c && l.addr / 64 = line / 64
  { s with l1 := s.l1.filter fun l => !(l.core = c && l.addr / 64 = line / 64),
           msgs := s.msgs ++ here.filterMap fun l => if l.st = .own then some (Msg.writeback c l.addr l.val) else none }
/-- The lines of an L1: 192 KiB (R20). -/
def l1Lines : Nat := 3072
/-- Makes room in a full L1 for a word's line: which line goes is open. [DESIGN CHOICE: log entry 26] -/
def State.makeRoom (s : State) (core w : Nat) : State :=
  let here := s.l1.filter fun l => l.core = core
  if here.length < l1Lines || here.any (fun l => decide (l.addr / 64 = w / 64)) then s
  else
    let lines := (here.map fun l => l.addr / 64).dedup
    if lines.length < l1Lines then s
    else
      let f := s.takeFree
      f.2.evictLine core (64 * (lines[f.1.toNat % lines.length]?).getD 0)
/-- A core's copy of a word. -/
def State.setL1 (s : State) (core w ctx : Nat) (st : L1St) (v : W32) : State :=
  let s := s.makeRoom core w
  { s with l1 := ⟨core, w, st, ctx, v⟩ :: s.l1.filter fun l => !l.is core w }
/-- Refreshes the values of a core's own copies of the words of a write (R174, R209). -/
def State.refreshCopies (s : State) (core : Nat) (ws : List Nat) : State :=
  { s with l1 := s.l1.map fun (l : L1Word) =>
      if l.core = core && l.st ≠ .own && ws.contains l.addr then { l with val := s.homeWord l.addr } else l }
/-- A word of an L1 with the bytes of a store merged in. -/
def L1Word.merge (l : L1Word) (pa : Nat) (bs : List Byte) : W32 :=
  (List.range 4).foldl (fun (v : W32) i =>
    if pa ≤ l.addr + i ∧ l.addr + i < pa + bs.length then
      BitVec.ofNat 32 (v.toNat - v.toNat / 2 ^ (8 * i) % 256 * 2 ^ (8 * i) + ((bs[l.addr + i - pa]?).getD 0).toNat * 2 ^ (8 * i))
    else v) l.val
/-- The bytes of a store merged into the owner's words (R179). -/
def State.mergeOwned (s : State) (core pa : Nat) (bs : List Byte) : State :=
  { s with l1 := s.l1.map fun (l : L1Word) =>
      if l.core = core && l.st = .own && (wordsOf pa bs.length).contains l.addr then { l with val := l.merge pa bs } else l }
/-- A remote home's reply updates a core's own copies of the words that a store of their context wrote there (R176, R209, R417). -/
def State.mergeCopies (s : State) (core ctx pa : Nat) (bs : List Byte) : State :=
  { s with l1 := s.l1.map fun (l : L1Word) =>
      if l.core = core && l.ctx = ctx && l.st ≠ .own && (wordsOf pa bs.length).contains l.addr then { l with val := l.merge pa bs } else l }
/-- An OWN store takes effect in its owner's L1: the same effects as a write applied at a home (R180, R184, R195). -/
def State.ownWrite (s : State) (core ctx pa : Nat) (bs : List Byte) : State :=
  ((s.undoGrains ctx pa bs.length).mergeOwned core pa bs).fireMonitors none pa bs.length

/-- The core whose scratchpad a monitor watches. -/
def State.monCore (s : State) (m : Monitor) : Option Nat := m.fid.bind fun f => (s.flock? f).map Flock.pcore
/-- The home, or the scratchpad, arms a monitor; the oldest of a full table, of 512 or of 64, is evicted with status 2 (R195,
R267). -/
def State.arm (s : State) (m : Monitor) : State :=
  let same := s.mons.filter fun x =>
    x.fid.isSome = m.fid.isSome && (if m.fid.isSome then s.monCore x = s.monCore m else s.homeOf x.addr = s.homeOf m.addr)
  let s := match same with
    | o :: _ =>
      if same.length < (if m.fid.isSome then 64 else 512) then s else
        let s := { s with mons := s.mons.filter fun x => x.id ≠ o.id }
        match s.thread? o.gid o.lane with
        | some t =>
          (match t.wait with
           | some (.mwait mon d) =>
             if mon = o.id then
               let r := s.logged o.gid o.lane 2 (BitVec.ofNat 64 o.addr) 2 []
               (r.2.2.wake o.gid [(o.lane, [.g d (r.1.setWidth 32)])]).acquireCore (s.group o.gid).pcore
             else s
           | _ => s)
        | none => s
    | [] => s
  { s with mons := s.mons ++ [m] }
/-- Ends an `mwait` with a status: an acquire (R195). -/
def State.endMwait (s : State) (gid lane addr : Nat) (status : W64) : State :=
  match s.thread? gid lane with
  | some t =>
    (match t.wait with
     | some (.mwait _ d) =>
       let r := s.logged gid lane 2 (BitVec.ofNat 64 addr) status []
       (r.2.2.wake gid [(lane, [.g d (r.1.setWidth 32)])]).acquireCore (s.group gid).pcore
     | _ => s)
  | none => s

/-- The value of the request's bytes for a strong reader. -/
def State.reqBytes (s : State) (r : Req) : List Byte := s.cohRead r.pa r.n
/-- Replies to a load: the copies that its policy keeps (R176), then the thread's result. -/
def State.replyLoad (s : State) (r : Req) (st : Option L1St) : State :=
  let bs := s.reqBytes r
  let s := match st with
    | some st =>
      r.words.foldl (fun (s : State) w =>
        match s.l1? r.src w with
        | some l => if l.st = L1St.own || (l.st = L1St.wi && st = L1St.si) then s else s.setL1 r.src w r.ctx st (s.homeWord w)
        | none => s.setL1 r.src w r.ctx st (s.homeWord w)) s
    | none => s
  let s := s.dropReq r.id
  match r.eng, r.rid with
  | some op, _ => s.updOp op fun o => { o with got := (r.pa, bs) :: o.got }
  | none, some rid => s.feed r.gid r.lane rid r.off bs 0 (r.va - r.off)
  | none, none => s
/-- The owner's grant (R181): the words enter its L1, and a store takes effect there. -/
def State.grantOwn (s : State) (r : Req) : State :=
  let s := r.words.foldl (fun s w =>
    match s.dirOf w with
    | .owned _ => s
    | _ =>
      -- a recall sent before this grant has been delivered before it (R178)
      let late : Msg → Bool := fun m => match m with | .recall c x => c = r.src && x = w | _ => false
      ({ s with msgs := s.msgs.filter fun m => !late m }.setL1 r.src w r.ctx .own (s.homeWord w)).setDir w (.owned r.src)) s
  match r.kind with
  | .ownStore => (s.ownWrite r.src r.ctx r.pa r.data).dropReq r.id
  | _ => s.replyLoad r none
/-- Completes a write-through whose value has been applied: the requester's own copy is updated (R176). -/
def State.replyWrite (s : State) (r : Req) : State := (s.refreshCopies r.src r.words).dropReq r.id
/-- Whether a mirrored range has a subscriber (R190): a window that is, or is to be, ACTIVE on it. [DEDUCED: log entry 55] -/
def State.subscribed (s : State) (m : MirrorSeq) : Bool :=
  s.flocks.any fun f => f.ctx = m.ctx && f.wins.toList.any fun w => m.binds w && (w.st = .loading || w.st = .active || w.st = .suspended)
/-- Whether a request is for a mirrored range, where an OWN request is served as WT (R189). -/
def State.mirrored (s : State) (pa : Nat) : Bool := s.mirrors.any fun m => m.grains.contains (pa / 512 * 512) && s.subscribed m
/-- The kind as the home serves it. -/
def State.servedKind (s : State) (r : Req) : ReqKind :=
  if s.mirrored r.pa then (match r.kind with | .ownLoad => .read false | .ownStore => .write false | k => k) else r.kind
/-- Whether the words' present states make the home recall them first (R181). -/
def State.needsRecall (s : State) (r : Req) (w : Nat) : Bool :=
  match s.dirOf w with
  | .owned c =>
    (match s.servedKind r with
     | .read si => si && c ≠ r.src
     | .mwait _ => false
     | .wi | .ownLoad | .ownStore => decide (c ≠ r.src)
     | _ => true)
  | _ => false
/-- The sharers that a write or an OWN request invalidates: all but the requester. -/
def State.othersOf (s : State) (r : Req) (w : Nat) : List Agent :=
  match s.dirOf w with
  | .clean l => l.filter (· ≠ r.src)
  | _ => []
/-- The sharers of a word that the directory names. [DEDUCED: log entry 27] -/
def State.sharersOf (s : State) (w : Nat) : List Agent :=
  match s.dirOf w with
  | .clean l => l
  | _ => []
/-- The virtual address under which a table of a level, for addresses from `va`, maps a physical address. -/
def State.vaFrom (s : State) (pa : Nat) : Nat → Nat → Nat → Option Nat
  | lvl, table, va =>
    (List.range (if lvl = 3 then 2 ^ 18 else 512)).findSome? fun i =>
      let e := s.readPte (table + 8 * i)
      let v := va + i * 2 ^ lvlShift lvl
      let at_ := leafPa (leafPages lvl e) e v
      if !pteV e || pteBad lvl e then none
      else if pteLeaf e then (if at_ ≤ pa ∧ pa < at_ + 2 ^ lvlShift lvl then some (v + (pa - at_)) else none)
      else match lvl with
        | 0 => none
        | l + 1 => s.vaFrom pa l (pteFrame e * 4096) v
/-- Where a context maps a physical address, if anywhere. [DEDUCED: log entry 40] -/
def State.vaOf (s : State) (c : Context) (pa : Nat) : Option Nat := s.vaFrom pa 3 c.root 0
/-- A service-die or host write into a context's memory is logged, 64 bytes to a record (R396, kind 9). [DEDUCED: log entry 40] -/
def State.logOutside (s : State) (pa : Nat) (bs : List Byte) : State :=
  s.ctxs.foldl (fun s c =>
    if !s.recording c.id || s.replaying c.id then s else
    (List.range ((bs.length + 63) / 64)).foldl (fun s i =>
      match s.vaOf c (pa + 64 * i) with
      | none => s
      | some va =>
        let part := (bs.drop (64 * i)).take 64
        let r : LogRec := { ctx := c.id, kind := 9, kid := 0, lane := 0, herd := 0, flk := 0, grp := 0, rwc := 0,
                            addr := BitVec.ofNat 64 va, val := logVal part, extra := part }
        s.putLog r) s) s
/-- Performs an atomic: the prior value and its exceptions go to the requester (R193). -/
def State.doRmw (s : State) (r : Req) (op : RmwOp) (b c : W64) : State :=
  let n := rmwBytes op
  let old := memRead s.mem r.pa n
  let lg := match r.rid with
    | some _ => s.logged r.gid r.lane 1 (BitVec.ofNat 64 r.va) (logVal old) []
    | none => (logVal old, [], s)
  let old := bytesOf n lg.1.toNat
  let v := rmwApply op (natOf old) (b.toNat % 2 ^ (8 * n)) (c.toNat % 2 ^ (8 * n))
  let s := lg.2.2.applyWrite r.ctx r.pa (bytesOf n v.bits)
  match r.rid with
  | some rid => s.feed r.gid r.lane rid r.off old v.exc r.va
  | none => s

/-- Invalidations go to the sharers of a request's words, which hold it until the last acknowledgement (R181). -/
def State.sendInval (s : State) (r : Req) (keepR : Bool) : State :=
  let next := fun (w : Nat) =>
    match s.dirOf w with
    | .owned c => Dir.kept c r.id
    | _ => Dir.inval (s.othersOf r w) (if keepR then (s.sharersOf w).filter (· = r.src) else []) r.id
  { s with
    dir := r.words.foldl (fun d w => (w, next w) :: d.filter fun x => x.1 ≠ w) s.dir,
    msgs := s.msgs ++ r.words.flatMap fun w => (s.othersOf r w).map fun a => Msg.invalidate a w }
/-- A request whose words are all stable, none owned against it: the CLEAN rows of R181. One that must invalidate sharers takes
effect with the last acknowledgement, its visibility point (R210), and is then served again. -/
def State.serve (s : State) (r : Req) : State :=
  let quiet := r.words.all fun w => (s.othersOf r w).isEmpty
  let share := fun (s : State) (a : Agent) =>
    r.words.foldl (fun s w =>
      match s.dirOf w with
      | .clean l => s.setDir w (.clean (if l.contains a then l else l ++ [a]))
      | _ => s) s
  match s.servedKind r with
  | .read si => s.replyLoad r (if si then some .si else none)
  | .wi => (share s r.src).replyLoad r (some .wi)
  | .hostRead => (share s hostAgent).dropReq r.id
  | .sdRead => (share s sdAgent).dropReq r.id
  | .mwait b =>
    let v := natOf (s.reqBytes r)
    let s := s.dropReq r.id
    if v = b.toNat % 2 ^ (8 * r.n) then
      (match s.thread? r.gid r.lane with
       | some t =>
         (match t.wait with
          | some (.mwait mon _) => s.arm ⟨mon, none, r.pa, r.n, r.gid, r.lane⟩
          | _ => s)
       | none => s)
    else s.endMwait r.gid r.lane r.va 1
  | .ownLoad | .ownStore => if quiet then s.grantOwn r else s.sendInval r false
  | .write _ => if quiet then (s.applyWrite r.ctx r.pa r.data).replyWrite r else s.sendInval r true
  | .hostWrite | .sdWrite =>
    if quiet then ((s.applyWrite r.ctx r.pa r.data).logOutside r.pa r.data).replyWrite r else s.sendInval r true
  | .rmw op b c => if quiet then (s.doRmw r op b c).replyWrite r else s.sendInval r true

/-! ## The proxy home (R186) -/

def State.proxyLine? (s : State) (pa : Nat) : Option ProxyLine := s.proxy.find? fun l => l.line = pa / 64 * 64
/-- Whether the proxy holds a line well enough for a request; a device address needs none. -/
def State.proxyHolds (s : State) (r : Req) : Bool :=
  decide (r.pa < hostBase) ||
  (match s.proxyLine? r.pa with
   | none => false
   | some l =>
     match s.servedKind r with
     | .read _ | .wi | .mwait _ | .hostRead | .sdRead => true
     | _ => l.x)
/-- A store to a kept line makes it Modified. -/
def State.proxyDirty (s : State) (r : Req) : State :=
  match s.servedKind r with
  | .read _ | .wi | .mwait _ | .hostRead | .sdRead => s
  | _ => { s with proxy := s.proxy.map fun (l : ProxyLine) => if l.line = r.pa / 64 * 64 then { l with m := true } else l }

/-! ## Taking a request (R181) -/

/-- Grains that a transfer has registered hold outside writes back (R188). -/
def State.grainHolds (s : State) (r : Req) : Bool :=
  (match r.kind with | .hostWrite | .sdWrite => true | .rmw _ _ _ => r.outside | _ => false) &&
  s.grains.any fun g => decide (g.addr < r.pa + r.n) && decide (r.pa < g.addr + 512)
/-- In a re-execution an atomic waits until its record is the next of its word, and an acquire load until it reads what its record
holds (R397, R398). [DEDUCED: log entry 40] -/
def State.replayHolds (s : State) (r : Req) : Bool :=
  match s.replays.find? fun p => p.begun && p.ctx = r.ctx, r.kind, r.rid with
  | some p, .rmw _ _ _, some _ => p.laterAtom (s.group r.gid) r.lane (BitVec.ofNat 64 r.va)
  | some p, _, some rid =>
    (match p.log.find? fun x => x.of (s.group r.gid) r.lane, (s.thread? r.gid r.lane).bind fun t => t.outst.find? fun x => x.id = rid with
     | some x, some o =>
       o.acq && x.kind = 2 && x.addr = BitVec.ofNat 64 (r.va - r.off) &&
       decide (s.cohRead r.pa r.n ≠ ((if x.extra = [] then bytesOf 8 x.val.toNat else x.extra).drop r.off).take r.n)
     | _, _ => false)
  | _, _, _ => false
/-- An access whose check failed after its word had issued: at a remote device, on the way there, or at a ZERO page that the
first-touch unit can no longer serve (R147, R199, R238, R368). Its lane, which was held, parks at the word; the aux is the
access's address. A store that failed remotely is noted for the thread's next acquire, release, fence or `exit`.
[DEDUCED: log entry 66] -/
def State.reqFault (s : State) (r : Req) (cause : Byte) (acc : BitVec 3) (kind : Nat) : State :=
  let aux := BitVec.ofNat 64 (r.va - r.off)
  let s := s.dropReq r.id
  let note : Deferred := ⟨cause, aux, r.word, r.pkt, r.slot⟩
  let store := match r.kind with | .write _ | .ownStore => true | _ => false
  match s.thread? r.gid r.lane with
  | none => s
  | some t =>
    if store && cause = 0x31 then
      s.updT r.gid r.lane fun t => { t with podErr := if t.podErr.contains note then t.podErr else t.podErr ++ [note] }
    else
      let mine := fun (x : Req) => x.gid = r.gid && x.lane = r.lane && x.eng.isNone &&
        (if store then x.ft && x.word = r.word && x.pkt = r.pkt && x.slot = r.slot else r.rid.isSome && x.rid = r.rid)
      let s := { s with reqs := s.reqs.filter fun x => !mine x }
      let waits := match r.kind with | .mwait _ => true | _ => false
      let shep := (s.group r.gid).shep
      let back := fun (t : Thread) =>
        let ds := ((t.outst.filter fun x => some x.id = r.rid).map Result.dests).flatten
        let ended := !waits && !s.inChain r.gid r.lane && !(t.midChain && t.pkt = t.npkt && t.slot = t.nslot)
        { t with outst := t.outst.filter fun x => some x.id ≠ r.rid, pend := t.pend.filter fun d => !ds.contains d, hold := false,
                 exiting := false, rwc := if ended && !shep then t.rwc - 1 else t.rwc }.collected
      let s := s.updT r.gid r.lane back
      let s := s.updGroup r.gid fun g => g.dropLanes (laneBit r.lane)
      s.parkWaiting r.gid [(⟨t.lane, cause, aux, acc, kind⟩, ⟨r.pkt, r.rslot, cause, aux, r.word, r.pkt, r.slot⟩)] none
/-- A request that failed outside the device, for want of a context, a device or the host link (R199, R368). -/
def State.reqFailed (s : State) (r : Req) : State := s.reqFault r 0x31 1 0
/-- The words that a request kept stable are stable again. -/
def State.unkeep (s : State) (r : Req) : State :=
  r.words.foldl (fun s w =>
    match s.dirOf w with
    | .inval [] keep h => if h = r.id then s.setDir w (.clean keep) else s
    | .kept c h => if h = r.id then s.setDir w (.owned c) else s
    | _ => s) s
/-- The home takes a request. A word in transition, or mid-switch to another home, refuses a device's and holds an outside one (R181,
R183, R245). With the host link down a request to host memory fails (R368). [DEDUCED: log entry 27] -/
def State.takeReq (s : State) (r : Req) : State :=
  if decide (hostBase ≤ r.pa) && !s.plat.hostUp && r.eng.isNone then s.reqFailed r
  else if r.words.any fun w => s.busyFor r.id w || s.midSwitch w then (if r.outside then s.holdOutside r else s.refuse r)
  else
    let s := s.unkeep r
    if s.grainHolds r || s.replayHolds r || !s.proxyHolds r then s
    else if r.words.any fun w => s.needsRecall r w then
      { s with
        dir := r.words.foldl (fun d w =>
          let d' := match s.dirOf w with
            | .owned c => if s.needsRecall r w then Dir.recall c r.id else Dir.kept c r.id
            | _ => Dir.inval [] (s.sharersOf w) r.id
          (w, d') :: d.filter fun x => x.1 ≠ w) s.dir,
        msgs := s.msgs ++ r.words.flatMap fun w =>
          if s.needsRecall r w then (match s.dirOf w with | .owned c => [Msg.recall c w] | _ => []) else [] }
    else (s.proxyDirty r).serve r
/-- A home takes the request of an identifier, if it may; one from outside is held until then. [DEDUCED: log entry 27] -/
def State.tryTake (s : State) (id : Nat) : State :=
  match s.req? id with
  | none => s
  | some r =>
    if s.mayTake r then s.takeReq r
    else if r.outside && r.dev.isNone && !s.inFlight r then s.holdOutside r
    else s
/-- Whether a held request still waits: for a recalled word, an acknowledgement, or the writeback of a word that it keeps stable and
whose owner has evicted it (R178, R181). [DEDUCED: log entry 27] -/
def State.stillOpen (s : State) (r : Req) : Bool :=
  r.words.any fun x =>
    match s.dirOf x with
    | .recall _ h => h = r.id
    | .inval (_ :: _) _ h => h = r.id
    | .kept c h => h = r.id && s.msgs.any fun m => match m with | .writeback o w _ => o = c && w = x | _ => false
    | _ => false
/-- A recalled word has come home: its value is written, and the held request is taken when it waits for nothing more (R181). -/
def State.recalled (s : State) (w : Nat) (v : Option W32) : State :=
  match s.dirOf w with
  | .recall _ held =>
    let s := match v with
      | some x => { s with mem := memWrite s.mem w (bytesOf 4 x.toNat) }
      | none => s
    let s := s.setDir w (.clean [])
    match s.req? held with
    | none => s
    | some r => if s.stillOpen r then { s with dir := (w, Dir.inval [] [] held) :: s.dir.filter fun x => x.1 ≠ w } else s.takeReq r
  | _ => s
/-- The last acknowledgement of a request's words completes it (R181). -/
def State.acked (s : State) (a : Agent) (w : Nat) : State :=
  match s.dirOf w with
  | .inval left keep held =>
    let s := { s with dir := (w, Dir.inval (left.erase a) keep held) :: s.dir.filter fun x => x.1 ≠ w }
    match s.req? held with
    | none => if left.erase a = [] then s.setDir w (.clean keep) else s
    | some r => if s.stillOpen r then s else (s.unkeep r).serve r
  | _ => s
/-- The writeback of a word that a held request keeps stable has come home (R181). [DEDUCED: log entry 27] -/
def State.keptBack (s : State) (w held : Nat) (v : W32) : State :=
  let s := { s with mem := memWrite s.mem w (bytesOf 4 v.toNat) }.setDir w (.inval [] [] held)
  match s.req? held with
  | none => s.setDir w (.clean [])
  | some r => if s.stillOpen r then s else s.takeReq r

/-! ## Sending requests -/

/-- A new request of a thread. -/
def Req.mk' (id : Nat) (g : Group) (t : Thread) (iss : Issue) (kind : ReqKind) (pa va n : Nat) (data : List Byte)
    (rid : Option Nat) (off : Nat) : Req :=
  { id, src := g.pcore, gid := g.gid, lane := t.lane, ctx := g.ctx, kind, pa, va, n, data, rid, off, refusals := 0, persistent := false, refused := false, dev := none, ft := false, rel := false, word := iss.word, pkt := iss.pkt,
    slot := iss.slot, rslot := iss.restartSlot, eng := none, acq := false, wrs := false }
/-- The pieces of an access: at most 8 bytes each (R179). -/
def pieces8 : Nat → Nat → List (Nat × Nat)
  | 0, _ => []
  | f + 1, n => if n = 0 then [] else if n ≤ 8 then [(0, n)] else (0, 8) :: (pieces8 f (n - 8)).map fun p => (p.1 + 8, p.2)
/-- The access of n bytes split into requests, with their offsets. -/
def splitReq (n : Nat) : List (Nat × Nat) := pieces8 4 n

end Sys2Proof.Machine
end

