-- ==== Sys2Proof/Machine/Operands.lean ====
section
/-! DEFINITION. Operand classes: which registers each instruction reads and writes, in which class (R49, R55 to R69 and
the form tables of each chapter). The class check (R49), the ownership check (R44), the hazard check (R41), the pending
set (R40) and the destination check of a chain (R36) all read this one table. -/
namespace Sys2Proof.Machine

/-- The register file that an operand names. -/
inductive File where
  | g | p | h
  deriving DecidableEq, Repr

/-- One register operand: `n` registers from `r`, which must be a multiple of `al` (R49); read, written, or (`dyn`) read
only when a descriptor asks for it (R272). -/
structure Opnd where
  file : File
  r : Nat
  n : Nat
  al : Nat
  rd : Bool
  wr : Bool
  dyn : Bool
  deriving DecidableEq, Repr

/-- A read operand of `n` g registers. -/
def rG (n : Nat) (r : Fld) : Opnd := ⟨.g, r.toNat, n, n, true, false, false⟩
/-- A written operand of `n` g registers. -/
def wG (n : Nat) (r : Fld) : Opnd := ⟨.g, r.toNat, n, n, false, true, false⟩
/-- A destination that is a source too (R116, R132, R133). -/
def uG (n : Nat) (r : Fld) : Opnd := ⟨.g, r.toNat, n, n, true, true, false⟩
/-- An operand read only when a descriptor names it (R272). -/
def mG (n : Nat) (r : Fld) : Opnd := ⟨.g, r.toNat, n, n, true, false, true⟩
/-- The status register of `spush.try`, the second of its c pair (R265). -/
def wSub (r : Fld) : Opnd := ⟨.g, r.toNat + 1, 1, 1, false, true, false⟩
/-- A predicate read. -/
def rP (r : BitVec 3) : Opnd := ⟨.p, r.toNat, 1, 1, true, false, false⟩
/-- A predicate written. -/
def wP (r : BitVec 3) : Opnd := ⟨.p, r.toNat, 1, 1, false, true, false⟩
/-- A handle register read. -/
def rH (r : BitVec 5) : Opnd := ⟨.h, r.toNat, 1, 1, true, false, false⟩
/-- A handle register written. -/
def wH (r : BitVec 5) : Opnd := ⟨.h, r.toNat, 1, 1, false, true, false⟩

/-- The registers of a 64-bit selector are a pair (R46, R47). -/
def selWidth (k : Fld) : Nat :=
  if k = 0x10 ∨ k = 0x13 ∨ k = 0x22 ∨ k = 0x27 then 2 else 1
/-- The assigned selectors (R46). -/
def selAssigned (k : Fld) : Bool :=
  k < 5 || (8 ≤ k && k < 0x15) || (0x20 ≤ k && k < 0x28)
/-- The selectors that `wrs` may write (R46, R47). -/
def selWritable (k : Fld) : Bool := k = 0x11 || k = 0x12 || (0x20 ≤ k && k < 0x28)
/-- The privileged selectors (R46). -/
def selPriv (k : Fld) : Bool := 0x20 ≤ k && k < 0x28

/-- The elements of a packed register (R140): 8 for the 4-bit formats, 4 for the 8-bit ones. -/
def packCount (f : BitVec 3) : Nat := if f = 0 ∨ f = 1 ∨ f = 7 then 8 else 4
/-- The registers of an access size (R64). -/
def szRegs (z : BitVec 3) : Nat := if z = 3 then 2 else if z = 4 then 4 else if z = 5 then 8 else 1
/-- The bytes of an access size (R64). -/
def szBytes (z : BitVec 3) : Nat := 2 ^ z.toNat

/-- The register operands of an instruction. -/
def opnds : Instr → List Opnd
  | .nop _ => []
  | .brk _ _ => []
  | .exit _ => []
  | .yld _ => []
  | .sys _ => []
  | .sigret _ => []
  | .rds _ d k => [wG (selWidth k) d]
  | .wrs _ a k => [rG (selWidth k) a]
  | .iret _ => []
  | .br _ _ p _ => [rP p]
  | .jmp _ _ => []
  | .call _ _ => [wG 1 63]
  | .jmpi _ a => [rG 1 a]
  | .calli _ a => [wG 1 63, rG 1 a]
  | .ret _ => [rG 1 63]
  | .reconv _ a => [rG 1 a]
  | .pollOr _ p q b => [wP p, rP q, rG 1 b]
  | .pollAnd _ p q b => [wP p, rP q, rG 1 b]
  | .pollSame _ p q b => [wP p, rP q, rG 1 b]
  | .gmask _ d q b => [wG 1 d, rP q, rG 1 b]
  | .xchAt _ d a b => [wG 1 d, rG 1 a, rG 2 b]
  | .xchBack _ d a b => [wG 1 d, rG 1 a, rG 2 b]
  | .xchFwd _ d a b => [wG 1 d, rG 1 a, rG 2 b]
  | .xchFlip _ d a b => [wG 1 d, rG 1 a, rG 2 b]
  | .redAddI32 _ d a b => [wG 1 d, rG 1 a, rG 1 b]
  | .redAddI64 _ d a b => [wG 2 d, rG 2 a, rG 1 b]
  | .redMinI32 _ d a b => [wG 1 d, rG 1 a, rG 1 b]
  | .redMinN32 _ d a b => [wG 1 d, rG 1 a, rG 1 b]
  | .redMaxI32 _ d a b => [wG 1 d, rG 1 a, rG 1 b]
  | .redMaxN32 _ d a b => [wG 1 d, rG 1 a, rG 1 b]
  | .redMinI64 _ d a b => [wG 2 d, rG 2 a, rG 1 b]
  | .redMinN64 _ d a b => [wG 2 d, rG 2 a, rG 1 b]
  | .redMaxI64 _ d a b => [wG 2 d, rG 2 a, rG 1 b]
  | .redMaxN64 _ d a b => [wG 2 d, rG 2 a, rG 1 b]
  | .redAddF32 _ d a b => [wG 1 d, rG 1 a, rG 1 b]
  | .redMinF32 _ d a b => [wG 1 d, rG 1 a, rG 1 b]
  | .redMaxF32 _ d a b => [wG 1 d, rG 1 a, rG 1 b]
  | .redAddF64 _ d a b => [wG 2 d, rG 2 a, rG 1 b]
  | .redMinF64 _ d a b => [wG 2 d, rG 2 a, rG 1 b]
  | .redMaxF64 _ d a b => [wG 2 d, rG 2 a, rG 1 b]
  | .scanAddI32 _ d a b => [wG 1 d, rG 1 a, rG 1 b]
  | .scanAddI64 _ d a b => [wG 2 d, rG 2 a, rG 1 b]
  | .scanAddF32 _ d a b => [wG 1 d, rG 1 a, rG 1 b]
  | .scanAddF64 _ d a b => [wG 2 d, rG 2 a, rG 1 b]
  | .vmrgLoN64 _ d a b => [wG 2 d, rG 4 a, rG 1 b]
  | .vmrgHiN64 _ d a b => [wG 2 d, rG 4 a, rG 1 b]
  | .vmrgLoI64 _ d a b => [wG 2 d, rG 4 a, rG 1 b]
  | .vmrgHiI64 _ d a b => [wG 2 d, rG 4 a, rG 1 b]
  | .bsortN64 _ d a b => [wG 2 d, rG 2 a, rG 2 b]
  | .bsortI64 _ d a b => [wG 2 d, rG 2 a, rG 2 b]
  | .rankN64 _ d a b => [wG 1 d, rG 2 a, rG 1 b]
  | .rankI64 _ d a b => [wG 1 d, rG 2 a, rG 1 b]
  | .imx _ _ => []
  | .movi _ d _ => [wG 1 d]
  | .add _ d a b => [wG 1 d, rG 1 a, rG 1 b]
  | .sub _ d a b => [wG 1 d, rG 1 a, rG 1 b]
  | .mul _ d a b => [wG 1 d, rG 1 a, rG 1 b]
  | .mulhI32 _ d a b => [wG 1 d, rG 1 a, rG 1 b]
  | .mulhN32 _ d a b => [wG 1 d, rG 1 a, rG 1 b]
  | .addSatI32 _ d a b => [wG 1 d, rG 1 a, rG 1 b]
  | .addSatN32 _ d a b => [wG 1 d, rG 1 a, rG 1 b]
  | .subSatI32 _ d a b => [wG 1 d, rG 1 a, rG 1 b]
  | .subSatN32 _ d a b => [wG 1 d, rG 1 a, rG 1 b]
  | .minI32 _ d a b => [wG 1 d, rG 1 a, rG 1 b]
  | .minN32 _ d a b => [wG 1 d, rG 1 a, rG 1 b]
  | .maxI32 _ d a b => [wG 1 d, rG 1 a, rG 1 b]
  | .maxN32 _ d a b => [wG 1 d, rG 1 a, rG 1 b]
  | .abs _ d a => [wG 1 d, rG 1 a]
  | .neg _ d a => [wG 1 d, rG 1 a]
  | .and _ d a b => [wG 1 d, rG 1 a, rG 1 b]
  | .or _ d a b => [wG 1 d, rG 1 a, rG 1 b]
  | .xor _ d a b => [wG 1 d, rG 1 a, rG 1 b]
  | .andn _ d a b => [wG 1 d, rG 1 a, rG 1 b]
  | .not _ d a => [wG 1 d, rG 1 a]
  | .shl _ d a b => [wG 1 d, rG 1 a, rG 1 b]
  | .shr _ d a b => [wG 1 d, rG 1 a, rG 1 b]
  | .sar _ d a b => [wG 1 d, rG 1 a, rG 1 b]
  | .rotl _ d a b => [wG 1 d, rG 1 a, rG 1 b]
  | .rotr _ d a b => [wG 1 d, rG 1 a, rG 1 b]
  | .bcnt _ d a => [wG 1 d, rG 1 a]
  | .lzc _ d a => [wG 1 d, rG 1 a]
  | .tzc _ d a => [wG 1 d, rG 1 a]
  | .bitrev _ d a => [wG 1 d, rG 1 a]
  | .byterev _ d a => [wG 1 d, rG 1 a]
  | .saddX2 _ d a b => [wG 1 d, rG 1 a, rG 1 b]
  | .saddX4 _ d a b => [wG 1 d, rG 1 a, rG 1 b]
  | .saddX8 _ d a b => [wG 1 d, rG 1 a, rG 1 b]
  | .saddX16 _ d a b => [wG 1 d, rG 1 a, rG 1 b]
  | .mov _ d a => [wG 1 d, rG 1 a]
  | .addi _ d a _ => [wG 1 d, rG 1 a]
  | .andi _ d a _ => [wG 1 d, rG 1 a]
  | .ori _ d a _ => [wG 1 d, rG 1 a]
  | .xori _ d a _ => [wG 1 d, rG 1 a]
  | .shli _ d a _ => [wG 1 d, rG 1 a]
  | .shri _ d a _ => [wG 1 d, rG 1 a]
  | .sari _ d a _ => [wG 1 d, rG 1 a]
  | .muli _ d a _ => [wG 1 d, rG 1 a]
  | .cmpEqI32 _ p a b => [wP p, rG 1 a, rG 1 b]
  | .cmpNeI32 _ p a b => [wP p, rG 1 a, rG 1 b]
  | .cmpLtI32 _ p a b => [wP p, rG 1 a, rG 1 b]
  | .cmpLeI32 _ p a b => [wP p, rG 1 a, rG 1 b]
  | .cmpGtI32 _ p a b => [wP p, rG 1 a, rG 1 b]
  | .cmpGeI32 _ p a b => [wP p, rG 1 a, rG 1 b]
  | .cmpLtN32 _ p a b => [wP p, rG 1 a, rG 1 b]
  | .cmpLeN32 _ p a b => [wP p, rG 1 a, rG 1 b]
  | .cmpGtN32 _ p a b => [wP p, rG 1 a, rG 1 b]
  | .cmpGeN32 _ p a b => [wP p, rG 1 a, rG 1 b]
  | .muladd _ d a b r => [wG 1 d, rG 1 a, rG 1 b, rG 1 r]
  | .addI64 _ d a b => [wG 2 d, rG 2 a, rG 2 b]
  | .subI64 _ d a b => [wG 2 d, rG 2 a, rG 2 b]
  | .mulI64 _ d a b => [wG 2 d, rG 2 a, rG 2 b]
  | .mulhI64 _ d a b => [wG 2 d, rG 2 a, rG 2 b]
  | .mulhN64 _ d a b => [wG 2 d, rG 2 a, rG 2 b]
  | .addSatI64 _ d a b => [wG 2 d, rG 2 a, rG 2 b]
  | .addSatN64 _ d a b => [wG 2 d, rG 2 a, rG 2 b]
  | .subSatI64 _ d a b => [wG 2 d, rG 2 a, rG 2 b]
  | .subSatN64 _ d a b => [wG 2 d, rG 2 a, rG 2 b]
  | .minI64 _ d a b => [wG 2 d, rG 2 a, rG 2 b]
  | .minN64 _ d a b => [wG 2 d, rG 2 a, rG 2 b]
  | .maxI64 _ d a b => [wG 2 d, rG 2 a, rG 2 b]
  | .maxN64 _ d a b => [wG 2 d, rG 2 a, rG 2 b]
  | .absI64 _ d a => [wG 2 d, rG 2 a]
  | .negI64 _ d a => [wG 2 d, rG 2 a]
  | .andI64 _ d a b => [wG 2 d, rG 2 a, rG 2 b]
  | .orI64 _ d a b => [wG 2 d, rG 2 a, rG 2 b]
  | .xorI64 _ d a b => [wG 2 d, rG 2 a, rG 2 b]
  | .andnI64 _ d a b => [wG 2 d, rG 2 a, rG 2 b]
  | .notI64 _ d a => [wG 2 d, rG 2 a]
  | .shlI64 _ d a b => [wG 2 d, rG 2 a, rG 1 b]
  | .shrI64 _ d a b => [wG 2 d, rG 2 a, rG 1 b]
  | .sarI64 _ d a b => [wG 2 d, rG 2 a, rG 1 b]
  | .rotlI64 _ d a b => [wG 2 d, rG 2 a, rG 1 b]
  | .rotrI64 _ d a b => [wG 2 d, rG 2 a, rG 1 b]
  | .bcntI64 _ d a => [wG 1 d, rG 2 a]
  | .lzcI64 _ d a => [wG 1 d, rG 2 a]
  | .tzcI64 _ d a => [wG 1 d, rG 2 a]
  | .bitrevI64 _ d a => [wG 2 d, rG 2 a]
  | .byterevI64 _ d a => [wG 2 d, rG 2 a]
  | .saddX2I64 _ d a b => [wG 2 d, rG 2 a, rG 2 b]
  | .saddX4I64 _ d a b => [wG 2 d, rG 2 a, rG 2 b]
  | .saddX8I64 _ d a b => [wG 2 d, rG 2 a, rG 2 b]
  | .saddX16I64 _ d a b => [wG 2 d, rG 2 a, rG 2 b]
  | .movI64 _ d a => [wG 2 d, rG 2 a]
  | .addwI32 _ d a b => [wG 2 d, rG 2 a, rG 1 b]
  | .addwN32 _ d a b => [wG 2 d, rG 2 a, rG 1 b]
  | .mulxI32 _ d a b => [wG 2 d, rG 1 a, rG 1 b]
  | .mulxN32 _ d a b => [wG 2 d, rG 1 a, rG 1 b]
  | .cmpEqI64 _ p a b => [wP p, rG 2 a, rG 2 b]
  | .cmpNeI64 _ p a b => [wP p, rG 2 a, rG 2 b]
  | .cmpLtI64 _ p a b => [wP p, rG 2 a, rG 2 b]
  | .cmpLeI64 _ p a b => [wP p, rG 2 a, rG 2 b]
  | .cmpGtI64 _ p a b => [wP p, rG 2 a, rG 2 b]
  | .cmpGeI64 _ p a b => [wP p, rG 2 a, rG 2 b]
  | .cmpLtN64 _ p a b => [wP p, rG 2 a, rG 2 b]
  | .cmpLeN64 _ p a b => [wP p, rG 2 a, rG 2 b]
  | .cmpGtN64 _ p a b => [wP p, rG 2 a, rG 2 b]
  | .cmpGeN64 _ p a b => [wP p, rG 2 a, rG 2 b]
  | .fextN32 _ d a b => [wG 1 d, rG 1 a, rG 1 b]
  | .fextI32 _ d a b => [wG 1 d, rG 1 a, rG 1 b]
  | .fins _ d a b => [uG 1 d, rG 1 a, rG 1 b]
  | .bpick _ d a b => [wG 1 d, rG 1 a, rG 1 b]
  | .bfn3 _ d a b => [wG 1 d, rG 1 a, rG 1 b]
  | .sel _ d a b _ p => [wG 1 d, rG 1 a, rG 1 b, rP p]
  | .selI64 _ d a b _ p => [wG 2 d, rG 2 a, rG 2 b, rP p]
  | .addF32 _ d a b => [wG 1 d, rG 1 a, rG 1 b]
  | .subF32 _ d a b => [wG 1 d, rG 1 a, rG 1 b]
  | .mulF32 _ d a b => [wG 1 d, rG 1 a, rG 1 b]
  | .minF32 _ d a b => [wG 1 d, rG 1 a, rG 1 b]
  | .maxF32 _ d a b => [wG 1 d, rG 1 a, rG 1 b]
  | .absF32 _ d a => [wG 1 d, rG 1 a]
  | .negF32 _ d a => [wG 1 d, rG 1 a]
  | .cpsgnF32 _ d a b => [wG 1 d, rG 1 a, rG 1 b]
  | .fmaF32 _ d a b r => [wG 1 d, rG 1 a, rG 1 b, rG 1 r]
  | .addF64 _ d a b => [wG 2 d, rG 2 a, rG 2 b]
  | .subF64 _ d a b => [wG 2 d, rG 2 a, rG 2 b]
  | .mulF64 _ d a b => [wG 2 d, rG 2 a, rG 2 b]
  | .minF64 _ d a b => [wG 2 d, rG 2 a, rG 2 b]
  | .maxF64 _ d a b => [wG 2 d, rG 2 a, rG 2 b]
  | .absF64 _ d a => [wG 2 d, rG 2 a]
  | .negF64 _ d a => [wG 2 d, rG 2 a]
  | .cpsgnF64 _ d a b => [wG 2 d, rG 2 a, rG 2 b]
  | .fmaF64 _ d a b r => [wG 2 d, rG 2 a, rG 2 b, rG 2 r]
  | .addF16x2 _ d a b => [wG 1 d, rG 1 a, rG 1 b]
  | .subF16x2 _ d a b => [wG 1 d, rG 1 a, rG 1 b]
  | .mulF16x2 _ d a b => [wG 1 d, rG 1 a, rG 1 b]
  | .minF16x2 _ d a b => [wG 1 d, rG 1 a, rG 1 b]
  | .maxF16x2 _ d a b => [wG 1 d, rG 1 a, rG 1 b]
  | .absF16x2 _ d a => [wG 1 d, rG 1 a]
  | .negF16x2 _ d a => [wG 1 d, rG 1 a]
  | .addBf16x2 _ d a b => [wG 1 d, rG 1 a, rG 1 b]
  | .subBf16x2 _ d a b => [wG 1 d, rG 1 a, rG 1 b]
  | .mulBf16x2 _ d a b => [wG 1 d, rG 1 a, rG 1 b]
  | .minBf16x2 _ d a b => [wG 1 d, rG 1 a, rG 1 b]
  | .maxBf16x2 _ d a b => [wG 1 d, rG 1 a, rG 1 b]
  | .absBf16x2 _ d a => [wG 1 d, rG 1 a]
  | .negBf16x2 _ d a => [wG 1 d, rG 1 a]
  | .fmaF16x2 _ d a b r => [wG 1 d, rG 1 a, rG 1 b, rG 1 r]
  | .fmaBf16x2 _ d a b r => [wG 1 d, rG 1 a, rG 1 b, rG 1 r]
  | .fcmpF32 _ p a b _ => [wP p, rG 1 a, rG 1 b]
  | .fcmpF64 _ p a b _ => [wP p, rG 2 a, rG 2 b]
  | .frcpF32 _ d a => [wG 1 d, rG 1 a]
  | .frsqF32 _ d a => [wG 1 d, rG 1 a]
  | .exp2F32 _ d a => [wG 1 d, rG 1 a]
  | .log2F32 _ d a => [wG 1 d, rG 1 a]
  | .sinF32 _ d a => [wG 1 d, rG 1 a]
  | .cosF32 _ d a => [wG 1 d, rG 1 a]
  | .tanhF32 _ d a => [wG 1 d, rG 1 a]
  | .frcpF64 _ d a => [wG 2 d, rG 2 a]
  | .frsqF64 _ d a => [wG 2 d, rG 2 a]
  | .fdivfixF32 _ d a b => [uG 1 d, rG 1 a, rG 1 b]
  | .fsqrtfixF32 _ d a => [uG 1 d, rG 1 a]
  | .fclassF32 _ d a => [wG 1 d, rG 1 a]
  | .frndF32 _ d a _ => [wG 1 d, rG 1 a]
  | .fscaleF32 _ d a b => [wG 1 d, rG 1 a, rG 1 b]
  | .fexpoF32 _ d a => [wG 1 d, rG 1 a]
  | .fdivfixF64 _ d a b => [uG 2 d, rG 2 a, rG 2 b]
  | .fsqrtfixF64 _ d a => [uG 2 d, rG 2 a]
  | .fclassF64 _ d a => [wG 1 d, rG 2 a]
  | .frndF64 _ d a _ => [wG 2 d, rG 2 a]
  | .fscaleF64 _ d a b => [wG 2 d, rG 2 a, rG 1 b]
  | .fexpoF64 _ d a => [wG 1 d, rG 2 a]
  | .cvtF32F64 _ d a _ => [wG 1 d, rG 2 a]
  | .cvtF64F32 _ d a _ => [wG 2 d, rG 1 a]
  | .cvtF16F32 _ d a _ => [wG 1 d, rG 1 a]
  | .cvtF32F16 _ d a _ => [wG 1 d, rG 1 a]
  | .cvtBf16F32 _ d a _ => [wG 1 d, rG 1 a]
  | .cvtF32Bf16 _ d a _ => [wG 1 d, rG 1 a]
  | .cvtF16x2F32 _ d a _ => [wG 1 d, rG 2 a]
  | .cvtBf16x2F32 _ d a _ => [wG 1 d, rG 2 a]
  | .cvtF32I32 _ d a _ => [wG 1 d, rG 1 a]
  | .cvtF32N32 _ d a _ => [wG 1 d, rG 1 a]
  | .cvtI32F32 _ d a _ => [wG 1 d, rG 1 a]
  | .cvtN32F32 _ d a _ => [wG 1 d, rG 1 a]
  | .cvtF64I64 _ d a _ => [wG 2 d, rG 2 a]
  | .cvtF64N64 _ d a _ => [wG 2 d, rG 2 a]
  | .cvtI64F64 _ d a _ => [wG 2 d, rG 2 a]
  | .cvtN64F64 _ d a _ => [wG 2 d, rG 2 a]
  | .cvtF64I32 _ d a _ => [wG 2 d, rG 1 a]
  | .cvtF64N32 _ d a _ => [wG 2 d, rG 1 a]
  | .cvtI32F64 _ d a _ => [wG 1 d, rG 2 a]
  | .cvtN32F64 _ d a _ => [wG 1 d, rG 2 a]
  | .cvtF32I64 _ d a _ => [wG 1 d, rG 2 a]
  | .cvtF32N64 _ d a _ => [wG 1 d, rG 2 a]
  | .cvtI64F32 _ d a _ => [wG 2 d, rG 1 a]
  | .cvtN64F32 _ d a _ => [wG 2 d, rG 1 a]
  | .cvtI64I32 _ d a _ => [wG 2 d, rG 1 a]
  | .cvtN64N32 _ d a _ => [wG 2 d, rG 1 a]
  | .cvtSatI32I64 _ d a _ => [wG 1 d, rG 2 a]
  | .cvtSatN32N64 _ d a _ => [wG 1 d, rG 2 a]
  | .cvtF64Td8 _ d a _ => [wG 2 d, rG 1 a]
  | .cvtTd8F64 _ d a _ _ => [wG 1 d, rG 2 a]
  | .cvtF32Td8 _ d a _ => [wG 1 d, rG 1 a]
  | .cvtTd8F32 _ d a _ _ => [wG 1 d, rG 1 a]
  | .npk _ d a b f => [wG 1 d, rG (packCount f) a, rG 1 b]
  | .npkSat _ d a b f => [wG 1 d, rG (packCount f) a, rG 1 b]
  | .nupk _ d a b f => [wG (packCount f) d, rG 1 a, rG 1 b]
  | .nscl _ d a _ => [wG 1 d, rG 1 a]
  | .ld _ d a h z _ _ => [wG (szRegs z) d, rG 1 a, rH h]
  | .st _ d a h z _ _ => [rG (szRegs z) d, rG 1 a, rH h]
  | .ldg _ d a h z _ _ => [wG (szRegs z) d, rG 1 a, rH h]
  | .stg _ d a h z _ _ => [rG (szRegs z) d, rG 1 a, rH h]
  | .atomAddN32 _ d a b _ => [wG 1 d, rG 2 a, rG 1 b]
  | .atomAndB32 _ d a b _ => [wG 1 d, rG 2 a, rG 1 b]
  | .atomOrB32 _ d a b _ => [wG 1 d, rG 2 a, rG 1 b]
  | .atomXorB32 _ d a b _ => [wG 1 d, rG 2 a, rG 1 b]
  | .atomMinI32 _ d a b _ => [wG 1 d, rG 2 a, rG 1 b]
  | .atomMaxI32 _ d a b _ => [wG 1 d, rG 2 a, rG 1 b]
  | .atomMinN32 _ d a b _ => [wG 1 d, rG 2 a, rG 1 b]
  | .atomMaxN32 _ d a b _ => [wG 1 d, rG 2 a, rG 1 b]
  | .atomAddN64 _ d a b _ => [wG 2 d, rG 2 a, rG 2 b]
  | .atomAndB64 _ d a b _ => [wG 2 d, rG 2 a, rG 2 b]
  | .atomOrB64 _ d a b _ => [wG 2 d, rG 2 a, rG 2 b]
  | .atomXorB64 _ d a b _ => [wG 2 d, rG 2 a, rG 2 b]
  | .atomMinI64 _ d a b _ => [wG 2 d, rG 2 a, rG 2 b]
  | .atomMaxI64 _ d a b _ => [wG 2 d, rG 2 a, rG 2 b]
  | .atomMinN64 _ d a b _ => [wG 2 d, rG 2 a, rG 2 b]
  | .atomMaxN64 _ d a b _ => [wG 2 d, rG 2 a, rG 2 b]
  | .atomXchgB32 _ d a b _ => [wG 1 d, rG 2 a, rG 1 b]
  | .atomCasB32 _ d a b _ => [wG 1 d, rG 2 a, rG 2 b]
  | .atomXchgB64 _ d a b _ => [wG 2 d, rG 2 a, rG 2 b]
  | .atomCasB64 _ d a b _ => [wG 2 d, rG 2 a, rG 4 b]
  | .atomAddF32 _ d a b _ => [wG 1 d, rG 2 a, rG 1 b]
  | .atomMinF32 _ d a b _ => [wG 1 d, rG 2 a, rG 1 b]
  | .atomMaxF32 _ d a b _ => [wG 1 d, rG 2 a, rG 1 b]
  | .atomAddF64 _ d a b _ => [wG 2 d, rG 2 a, rG 2 b]
  | .atomMinF64 _ d a b _ => [wG 2 d, rG 2 a, rG 2 b]
  | .atomMaxF64 _ d a b _ => [wG 2 d, rG 2 a, rG 2 b]
  | .atomAddF16x2 _ d a b _ => [wG 1 d, rG 2 a, rG 1 b]
  | .atomAddBf16x2 _ d a b _ => [wG 1 d, rG 2 a, rG 1 b]
  | .fence _ => []
  | .mwaitB32 _ d a b => [wG 1 d, rG 2 a, rG 1 b]
  | .mwaitB64 _ d a b => [wG 1 d, rG 2 a, rG 2 b]
  | .mwsub _ d a b => [wG 1 d, rG 2 a, rG 2 b]
  | .mwend _ a => [rG 1 a]
  | .mwseq _ d a => [wG 1 d, rG 1 a]
  | .mwsync _ a b => [rG 1 a, rG 1 b]
  | .pfch _ a b => [rG 2 a, rG 1 b]
  | .tlook _ d a => [wG 1 d, rG 2 a]
  | .tset _ a b => [rG 2 a, rG 1 b]
  | .tclr _ b => [rG 1 b]
  | .hsel _ h a => [wH h, rG 1 a]
  | .hget _ d h _ => [wG 2 d, rH h]
  | .hnew _ a b => [rG 1 a, rG 8 b]
  | .hrev _ a => [rG 1 a]
  | .barInit _ b r => [rG 2 b, rG 1 r]
  | .barChk _ a b => [wG 1 a, rG 2 b]
  | .barOwe _ a b r => [wG 1 a, rG 2 b, rG 1 r]
  | .barWait _ b r => [rG 2 b, rG 1 r]
  | .barTry _ a b r => [wG 1 a, rG 2 b, rG 1 r]
  | .sinit _ b r => [rG 2 b, rG 4 r]
  | .spush _ a b r => [rG 2 a, rG 2 b, rG 1 r]
  | .spop _ a b => [wG 2 a, rG 2 b]
  | .sallow _ b r => [rG 2 b, rG 2 r]
  | .spushTry _ a b r => [rG 2 a, rG 2 b, rG 2 r, wSub r]
  | .spopTry _ a b => [wG 2 a, rG 2 b]
  | .smInit _ _ r => [rG 1 r]
  | .smRd _ a _ => [wG 1 a]
  | .tgate _ _ r => [rG 2 r]
  | .twait _ a _ => [wG 1 a]
  | .cpy _ a b r => [rG 8 a, mG 2 b, mG 2 r]
  | .cpyAt _ a b r => [rG 8 a, rG 2 b, mG 2 r]
  | .cpm _ a b r => [rG 8 a, rG 1 b, rG 1 r]
  | .drn _ a b r => [rG 2 a, rG 1 b, mG 2 r]
  | .bld _ a r => [rG 8 a, mG 2 r]
  | .gath _ a r => [rG 8 a, mG 2 r]
  | .chain _ a b => [rG 2 a, rG 1 b]
  | .waitc _ _ _ => []
  | .collBcast _ a b r _ => [rG 4 a, rG 2 b, mG 2 r]
  | .collRedAddF32 _ a b r _ => [rG 4 a, rG 2 b, mG 2 r]
  | .collRedAddF64 _ a b r _ => [rG 4 a, rG 2 b, mG 2 r]
  | .collRedAddI32 _ a b r _ => [rG 4 a, rG 2 b, mG 2 r]
  | .collRedAddI64 _ a b r _ => [rG 4 a, rG 2 b, mG 2 r]
  | .collRedMinF32 _ a b r _ => [rG 4 a, rG 2 b, mG 2 r]
  | .collRedMaxF32 _ a b r _ => [rG 4 a, rG 2 b, mG 2 r]
  | .collRedMinF64 _ a b r _ => [rG 4 a, rG 2 b, mG 2 r]
  | .collRedMaxF64 _ a b r _ => [rG 4 a, rG 2 b, mG 2 r]
  | .collRedMinI64 _ a b r _ => [rG 4 a, rG 2 b, mG 2 r]
  | .collRedMaxI64 _ a b r _ => [rG 4 a, rG 2 b, mG 2 r]
  | .collRedMinN64 _ a b r _ => [rG 4 a, rG 2 b, mG 2 r]
  | .collRedMaxN64 _ a b r _ => [rG 4 a, rG 2 b, mG 2 r]
  | .mmaPt _ _ _ _ _ _ f => [rG 4 (f ++ 0#2)]
  | .mmaMinp _ _ _ _ _ _ f => [rG 4 (f ++ 0#2)]
  | .mmaMaxp _ _ _ _ _ _ f => [rG 4 (f ++ 0#2)]
  | .mmaMaxt _ _ _ _ _ _ f => [rG 4 (f ++ 0#2)]
  | .mmaOrand _ _ _ _ _ _ f => [rG 4 (f ++ 0#2)]
  | .mmz _ a b r => [rG 1 a, rG 1 b, rG 1 r]
  | .mmcvt _ a b r => [rG 2 a, rG 1 b, rG 1 r]
  | .mst _ a b => [rG 4 a, rG 2 b]
  | .tstamp _ _ => []
  | .tret _ a _ => [rG 2 a]
  | .osend _ a b r => [wG 1 a, rG 8 b, rG 1 r]
  | .orecv _ a b _ => [wG 8 a, wG 4 b]
  | .rput _ a b => [rG 4 a, mG 2 b]
  | .rget _ a b => [rG 4 a, mG 2 b]
  | .ratm _ a b _ => [rG 4 a, rG 2 b]
  | .wmrd _ a _ => [wG 2 a]
  | .orecvTry _ a b _ => [wG 8 a, wG 4 b]
  | .cont _ a b => [rG 1 a, ⟨.g, b.toNat, 14, 2, true, false, false⟩]
  | .lnch _ a b => [wG 1 a, rG 2 b]
  | .qput _ a b r => [wG 1 a, rG 1 b, rG 2 r]
  | .repl _ a b => [wG 1 a, rG 1 b]
  | .sigdl _ a b r => [wG 1 a, rG 1 b, rG 2 r]
  | .penx _ a b => [wG 1 a, rG 1 b]
  | .swp _ a b r => [wG 1 a, rG 1 b, rG 4 r]
  | .kill _ a b r => [wG 1 a, rG 1 b, rG 1 r]
  | .kterm _ a b r => [wG 1 a, rG 1 b, rG 1 r]
  | .tlbinv _ a b r => [rG 2 a, rG 1 b, rG 1 r]
  | .sdn _ a b r => [rG 2 a, rG 1 b, rG 1 r]
  | .pin _ a b _ => [rG 2 a, rG 1 b]
  | .unpin _ a b _ => [rG 2 a, rG 1 b]
  | .migr _ a b _ => [rG 2 a, rG 1 b]
  | .fqpop _ a => [wG 8 a]
  | .fqpopTry _ a => [wG 8 a]
  | .fqdone _ a b _ => [rG 2 a, rG 1 b]
  | .step _ a b => [wG 1 a, rG 1 b]
  | .snap _ a b => [wG 1 a, rG 2 b]
  | .ckpt _ a b r => [wG 1 a, rG 1 b, rG 8 r]
  | .variableResultReturn _ _ _ => []
  | .instanceComplete _ => []
  | .replayEntryFreed _ => []
  | .homeRead _ => []
  | .homeWiLoad _ => []
  | .homeOwnRequest _ => []
  | .homeWriteThrough _ => []
  | .requestRetry _ => []
  | .l1Evict _ _ => []
  | .ownerWriteback _ _ => []
  | .recallTaken _ _ => []
  | .recallResponse _ _ => []
  | .invalidate _ _ => []
  | .invalidationAck _ _ => []
  | .hostCxlMemRead _ => []
  | .hostCxlMemWrite _ _ => []
  | .serviceDieAccess _ _ => []
  | .hostSnoop _ => []
  | .proxyHostResponse _ _ => []
  | .atomicService _ => []
  | .mirrorUpdate _ _ => []
  | .mirrorSnapshotApplied _ _ => []
  | .podRemoteAccess _ => []
  | .podStoreAck _ => []
  | .remoteErrorResponse _ => []
  | .firstTouchServed _ => []
  | .ftuRingWrite _ _ _ _ => []
  | .promote _ => []
  | .evict _ => []
  | .migrationCopyDone _ => []
  | .l2PinTimeout _ => []
  | .sdnComplete _ => []
  | .bounceStallEnd _ => []
  | .barrierSectorCredit _ _ => []
  | .gateFire _ _ => []
  | .engineTake _ => []
  | .engineWriteBurst _ _ => []
  | .engineFault _ _ => []
  | .engineDone _ => []
  | .cpyAtStart _ => []
  | .cpmFillDone _ => []
  | .chainRecordRead _ _ => []
  | .chainRecordComplete _ _ => []
  | .collDeliveryDone _ => []
  | .mmaReachArray _ => []
  | .mmaComputeDone _ => []
  | .tretRecordWrite _ => []
  | .submissionWindowWrite _ _ _ _ => []
  | .dispatcherIntake _ _ => []
  | .kernelDispatch _ _ => []
  | .herdPlace _ => []
  | .d0Placement _ _ => []
  | .preempt _ => []
  | .quantumExpiry _ _ _ => []
  | .herdRetire _ _ _ => []
  | .gathererBatchLaunch _ _ _ => []
  | .gathererFlushTimeout _ _ _ => []
  | .issuePromotion _ _ => []
  | .d0Overrun _ _ => []
  | .budgetExceeded _ _ _ => []
  | .scWrite _ _ => []
  | .ctxCreate => []
  | .ctxRelease => []
  | .penSwitch _ => []
  | .penIdleSwitch _ => []
  | .swapSaveDone _ _ _ => []
  | .swapLoadDone _ _ _ => []
  | .shepherdEntryTake _ => []
  | .syscallForward _ => []
  | .syscallReply _ _ _ => []
  | .syscallTimeout _ => []
  | .serviceCoreWatchdog => []
  | .killComplete _ => []
  | .ktermComplete _ _ => []
  | .hostLinkTrained => []
  | .hostLinkDown => []
  | .portDisable _ => []
  | .portEnable _ => []
  | .portTrained _ => []
  | .portTrainingFailed _ => []
  | .flitReceive _ _ => []
  | .flitError _ => []
  | .replayAccepted _ => []
  | .replayFailed _ => []
  | .beaconSend _ => []
  | .beaconReceive _ _ _ => []
  | .ordPacketReceive _ _ => []
  | .ordRelease => []
  | .ordStallDeclared _ => []
  | .stallNotice _ _ => []
  | .endMarker _ => []
  | .routeTrigger => []
  | .routeInstall => []
  | .ordAckSend _ => []
  | .ordAck _ _ => []
  | .ocTokenRefill _ => []
  | .ptimeDelayMeasure _ _ _ _ => []
  | .ptimeHorizon => []
  | .ualinkRequest _ _ _ => []
  | .checkpointAuto _ => []
  | .snapshotTimeTrigger => []
  | .tgWrite _ _ => []
  | .tgFullClear => []
  | .snapshotIndexWrite _ => []
  | .coldReset _ => []
  | .recoveryImageWrite _ => []
  | .warmReset _ => []
  | .spdmGetMeasurements _ => []
  | .powerCap _ => []
  | .thermalThrottle _ => []
  | .thermalTrip _ => []
  | .thermalTripEnd _ => []
  | .pwWrite _ => []
  | .eventRingDrain => []
  | .evHeadWrite _ => []
  | .evLostClear _ => []
  | .coreGateWrite _ _ => []
  | .registerWrite _ _ => []
  | .illegalInstruction _ => []
  | .syscallReceiptAck _ => []
  | .nvmeStagingWrite _ _ => []
  | .precisionTimeMeasurement _ => []
  | .proxyLineEvict _ => []
  | .issueWithholdEnd _ _ => []

/-- The field values that a form allows, beyond its register classes (R58, R60, R62, R64, R69 and the form tables). -/
def rangeOk : Instr → Bool
  | .nop _ => true
  | .brk _ _ => true
  | .exit _ => true
  | .yld _ => true
  | .sys _ => true
  | .sigret _ => true
  | .rds _ _ k => selAssigned k
  | .wrs _ _ k => selAssigned k && selWritable k
  | .iret _ => true
  | .br _ _ _ _ => true
  | .jmp _ _ => true
  | .call _ _ => true
  | .jmpi _ _ => true
  | .calli _ _ => true
  | .ret _ => true
  | .reconv _ _ => true
  | .pollOr _ _ _ _ => true
  | .pollAnd _ _ _ _ => true
  | .pollSame _ _ _ _ => true
  | .gmask _ _ _ _ => true
  | .xchAt _ _ _ _ => true
  | .xchBack _ _ _ _ => true
  | .xchFwd _ _ _ _ => true
  | .xchFlip _ _ _ _ => true
  | .redAddI32 _ _ _ _ => true
  | .redAddI64 _ _ _ _ => true
  | .redMinI32 _ _ _ _ => true
  | .redMinN32 _ _ _ _ => true
  | .redMaxI32 _ _ _ _ => true
  | .redMaxN32 _ _ _ _ => true
  | .redMinI64 _ _ _ _ => true
  | .redMinN64 _ _ _ _ => true
  | .redMaxI64 _ _ _ _ => true
  | .redMaxN64 _ _ _ _ => true
  | .redAddF32 _ _ _ _ => true
  | .redMinF32 _ _ _ _ => true
  | .redMaxF32 _ _ _ _ => true
  | .redAddF64 _ _ _ _ => true
  | .redMinF64 _ _ _ _ => true
  | .redMaxF64 _ _ _ _ => true
  | .scanAddI32 _ _ _ _ => true
  | .scanAddI64 _ _ _ _ => true
  | .scanAddF32 _ _ _ _ => true
  | .scanAddF64 _ _ _ _ => true
  | .vmrgLoN64 _ _ _ _ => true
  | .vmrgHiN64 _ _ _ _ => true
  | .vmrgLoI64 _ _ _ _ => true
  | .vmrgHiI64 _ _ _ _ => true
  | .bsortN64 _ _ _ _ => true
  | .bsortI64 _ _ _ _ => true
  | .rankN64 _ _ _ _ => true
  | .rankI64 _ _ _ _ => true
  | .imx _ _ => true
  | .movi _ _ _ => true
  | .add _ _ _ _ => true
  | .sub _ _ _ _ => true
  | .mul _ _ _ _ => true
  | .mulhI32 _ _ _ _ => true
  | .mulhN32 _ _ _ _ => true
  | .addSatI32 _ _ _ _ => true
  | .addSatN32 _ _ _ _ => true
  | .subSatI32 _ _ _ _ => true
  | .subSatN32 _ _ _ _ => true
  | .minI32 _ _ _ _ => true
  | .minN32 _ _ _ _ => true
  | .maxI32 _ _ _ _ => true
  | .maxN32 _ _ _ _ => true
  | .abs _ _ _ => true
  | .neg _ _ _ => true
  | .and _ _ _ _ => true
  | .or _ _ _ _ => true
  | .xor _ _ _ _ => true
  | .andn _ _ _ _ => true
  | .not _ _ _ => true
  | .shl _ _ _ _ => true
  | .shr _ _ _ _ => true
  | .sar _ _ _ _ => true
  | .rotl _ _ _ _ => true
  | .rotr _ _ _ _ => true
  | .bcnt _ _ _ => true
  | .lzc _ _ _ => true
  | .tzc _ _ _ => true
  | .bitrev _ _ _ => true
  | .byterev _ _ _ => true
  | .saddX2 _ _ _ _ => true
  | .saddX4 _ _ _ _ => true
  | .saddX8 _ _ _ _ => true
  | .saddX16 _ _ _ _ => true
  | .mov _ _ _ => true
  | .addi _ _ _ _ => true
  | .andi _ _ _ _ => true
  | .ori _ _ _ _ => true
  | .xori _ _ _ _ => true
  | .shli _ _ _ i => decide (i.toNat < 32)
  | .shri _ _ _ i => decide (i.toNat < 32)
  | .sari _ _ _ i => decide (i.toNat < 32)
  | .muli _ _ _ _ => true
  | .cmpEqI32 _ _ _ _ => true
  | .cmpNeI32 _ _ _ _ => true
  | .cmpLtI32 _ _ _ _ => true
  | .cmpLeI32 _ _ _ _ => true
  | .cmpGtI32 _ _ _ _ => true
  | .cmpGeI32 _ _ _ _ => true
  | .cmpLtN32 _ _ _ _ => true
  | .cmpLeN32 _ _ _ _ => true
  | .cmpGtN32 _ _ _ _ => true
  | .cmpGeN32 _ _ _ _ => true
  | .muladd _ _ _ _ _ => true
  | .addI64 _ _ _ _ => true
  | .subI64 _ _ _ _ => true
  | .mulI64 _ _ _ _ => true
  | .mulhI64 _ _ _ _ => true
  | .mulhN64 _ _ _ _ => true
  | .addSatI64 _ _ _ _ => true
  | .addSatN64 _ _ _ _ => true
  | .subSatI64 _ _ _ _ => true
  | .subSatN64 _ _ _ _ => true
  | .minI64 _ _ _ _ => true
  | .minN64 _ _ _ _ => true
  | .maxI64 _ _ _ _ => true
  | .maxN64 _ _ _ _ => true
  | .absI64 _ _ _ => true
  | .negI64 _ _ _ => true
  | .andI64 _ _ _ _ => true
  | .orI64 _ _ _ _ => true
  | .xorI64 _ _ _ _ => true
  | .andnI64 _ _ _ _ => true
  | .notI64 _ _ _ => true
  | .shlI64 _ _ _ _ => true
  | .shrI64 _ _ _ _ => true
  | .sarI64 _ _ _ _ => true
  | .rotlI64 _ _ _ _ => true
  | .rotrI64 _ _ _ _ => true
  | .bcntI64 _ _ _ => true
  | .lzcI64 _ _ _ => true
  | .tzcI64 _ _ _ => true
  | .bitrevI64 _ _ _ => true
  | .byterevI64 _ _ _ => true
  | .saddX2I64 _ _ _ _ => true
  | .saddX4I64 _ _ _ _ => true
  | .saddX8I64 _ _ _ _ => true
  | .saddX16I64 _ _ _ _ => true
  | .movI64 _ _ _ => true
  | .addwI32 _ _ _ _ => true
  | .addwN32 _ _ _ _ => true
  | .mulxI32 _ _ _ _ => true
  | .mulxN32 _ _ _ _ => true
  | .cmpEqI64 _ _ _ _ => true
  | .cmpNeI64 _ _ _ _ => true
  | .cmpLtI64 _ _ _ _ => true
  | .cmpLeI64 _ _ _ _ => true
  | .cmpGtI64 _ _ _ _ => true
  | .cmpGeI64 _ _ _ _ => true
  | .cmpLtN64 _ _ _ _ => true
  | .cmpLeN64 _ _ _ _ => true
  | .cmpGtN64 _ _ _ _ => true
  | .cmpGeN64 _ _ _ _ => true
  | .fextN32 _ _ _ _ => true
  | .fextI32 _ _ _ _ => true
  | .fins _ _ _ _ => true
  | .bpick _ _ _ _ => true
  | .bfn3 _ _ _ _ => true
  | .sel _ _ _ _ _ _ => true
  | .selI64 _ _ _ _ _ _ => true
  | .addF32 _ _ _ _ => true
  | .subF32 _ _ _ _ => true
  | .mulF32 _ _ _ _ => true
  | .minF32 _ _ _ _ => true
  | .maxF32 _ _ _ _ => true
  | .absF32 _ _ _ => true
  | .negF32 _ _ _ => true
  | .cpsgnF32 _ _ _ _ => true
  | .fmaF32 _ _ _ _ _ => true
  | .addF64 _ _ _ _ => true
  | .subF64 _ _ _ _ => true
  | .mulF64 _ _ _ _ => true
  | .minF64 _ _ _ _ => true
  | .maxF64 _ _ _ _ => true
  | .absF64 _ _ _ => true
  | .negF64 _ _ _ => true
  | .cpsgnF64 _ _ _ _ => true
  | .fmaF64 _ _ _ _ _ => true
  | .addF16x2 _ _ _ _ => true
  | .subF16x2 _ _ _ _ => true
  | .mulF16x2 _ _ _ _ => true
  | .minF16x2 _ _ _ _ => true
  | .maxF16x2 _ _ _ _ => true
  | .absF16x2 _ _ _ => true
  | .negF16x2 _ _ _ => true
  | .addBf16x2 _ _ _ _ => true
  | .subBf16x2 _ _ _ _ => true
  | .mulBf16x2 _ _ _ _ => true
  | .minBf16x2 _ _ _ _ => true
  | .maxBf16x2 _ _ _ _ => true
  | .absBf16x2 _ _ _ => true
  | .negBf16x2 _ _ _ => true
  | .fmaF16x2 _ _ _ _ _ => true
  | .fmaBf16x2 _ _ _ _ _ => true
  | .fcmpF32 _ _ _ _ x => x < 8
  | .fcmpF64 _ _ _ _ x => x < 8
  | .frcpF32 _ _ _ => true
  | .frsqF32 _ _ _ => true
  | .exp2F32 _ _ _ => true
  | .log2F32 _ _ _ => true
  | .sinF32 _ _ _ => true
  | .cosF32 _ _ _ => true
  | .tanhF32 _ _ _ => true
  | .frcpF64 _ _ _ => true
  | .frsqF64 _ _ _ => true
  | .fdivfixF32 _ _ _ _ => true
  | .fsqrtfixF32 _ _ _ => true
  | .fclassF32 _ _ _ => true
  | .frndF32 _ _ _ k => k < 6
  | .fscaleF32 _ _ _ _ => true
  | .fexpoF32 _ _ _ => true
  | .fdivfixF64 _ _ _ _ => true
  | .fsqrtfixF64 _ _ _ => true
  | .fclassF64 _ _ _ => true
  | .frndF64 _ _ _ k => k < 6
  | .fscaleF64 _ _ _ _ => true
  | .fexpoF64 _ _ _ => true
  | .cvtF32F64 _ _ _ m => m < 6
  | .cvtF64F32 _ _ _ m => m < 6
  | .cvtF16F32 _ _ _ m => m < 6
  | .cvtF32F16 _ _ _ m => m < 6
  | .cvtBf16F32 _ _ _ m => m < 6
  | .cvtF32Bf16 _ _ _ m => m < 6
  | .cvtF16x2F32 _ _ _ m => m < 6
  | .cvtBf16x2F32 _ _ _ m => m < 6
  | .cvtF32I32 _ _ _ m => m < 6
  | .cvtF32N32 _ _ _ m => m < 6
  | .cvtI32F32 _ _ _ m => m < 6
  | .cvtN32F32 _ _ _ m => m < 6
  | .cvtF64I64 _ _ _ m => m < 6
  | .cvtF64N64 _ _ _ m => m < 6
  | .cvtI64F64 _ _ _ m => m < 6
  | .cvtN64F64 _ _ _ m => m < 6
  | .cvtF64I32 _ _ _ m => m < 6
  | .cvtF64N32 _ _ _ m => m < 6
  | .cvtI32F64 _ _ _ m => m < 6
  | .cvtN32F64 _ _ _ m => m < 6
  | .cvtF32I64 _ _ _ m => m < 6
  | .cvtF32N64 _ _ _ m => m < 6
  | .cvtI64F32 _ _ _ m => m < 6
  | .cvtN64F32 _ _ _ m => m < 6
  | .cvtI64I32 _ _ _ m => m < 6
  | .cvtN64N32 _ _ _ m => m < 6
  | .cvtSatI32I64 _ _ _ m => m < 6
  | .cvtSatN32N64 _ _ _ m => m < 6
  | .cvtF64Td8 _ _ _ m => m < 6
  | .cvtTd8F64 _ _ _ _ m => m < 6
  | .cvtF32Td8 _ _ _ m => m < 6
  | .cvtTd8F32 _ _ _ _ m => m < 6
  | .npk _ _ _ _ _ => true
  | .npkSat _ _ _ _ _ => true
  | .nupk _ _ _ _ _ => true
  | .nscl _ _ _ _ => true
  | .ld _ _ _ _ z _ o => z < 6 && o < 3
  | .st _ _ _ _ z _ o => z < 6 && o < 3
  | .ldg _ _ _ _ z _ o => z < 6 && o < 3
  | .stg _ _ _ _ z _ o => z < 6 && o < 3
  | .atomAddN32 _ _ _ _ _ => true
  | .atomAndB32 _ _ _ _ _ => true
  | .atomOrB32 _ _ _ _ _ => true
  | .atomXorB32 _ _ _ _ _ => true
  | .atomMinI32 _ _ _ _ _ => true
  | .atomMaxI32 _ _ _ _ _ => true
  | .atomMinN32 _ _ _ _ _ => true
  | .atomMaxN32 _ _ _ _ _ => true
  | .atomAddN64 _ _ _ _ _ => true
  | .atomAndB64 _ _ _ _ _ => true
  | .atomOrB64 _ _ _ _ _ => true
  | .atomXorB64 _ _ _ _ _ => true
  | .atomMinI64 _ _ _ _ _ => true
  | .atomMaxI64 _ _ _ _ _ => true
  | .atomMinN64 _ _ _ _ _ => true
  | .atomMaxN64 _ _ _ _ _ => true
  | .atomXchgB32 _ _ _ _ _ => true
  | .atomCasB32 _ _ _ _ _ => true
  | .atomXchgB64 _ _ _ _ _ => true
  | .atomCasB64 _ _ _ _ _ => true
  | .atomAddF32 _ _ _ _ _ => true
  | .atomMinF32 _ _ _ _ _ => true
  | .atomMaxF32 _ _ _ _ _ => true
  | .atomAddF64 _ _ _ _ _ => true
  | .atomMinF64 _ _ _ _ _ => true
  | .atomMaxF64 _ _ _ _ _ => true
  | .atomAddF16x2 _ _ _ _ _ => true
  | .atomAddBf16x2 _ _ _ _ _ => true
  | .fence _ => true
  | .mwaitB32 _ _ _ _ => true
  | .mwaitB64 _ _ _ _ => true
  | .mwsub _ _ _ _ => true
  | .mwend _ _ => true
  | .mwseq _ _ _ => true
  | .mwsync _ _ _ => true
  | .pfch _ _ _ => true
  | .tlook _ _ _ => true
  | .tset _ _ _ => true
  | .tclr _ _ => true
  | .hsel _ _ _ => true
  | .hget _ _ _ k => k < 3
  | .hnew _ _ _ => true
  | .hrev _ _ => true
  | .barInit _ _ _ => true
  | .barChk _ _ _ => true
  | .barOwe _ _ _ _ => true
  | .barWait _ _ _ => true
  | .barTry _ _ _ _ => true
  | .sinit _ _ _ => true
  | .spush _ _ _ _ => true
  | .spop _ _ _ => true
  | .sallow _ _ _ => true
  | .spushTry _ _ _ _ => true
  | .spopTry _ _ _ => true
  | .smInit _ k _ => k < 16
  | .smRd _ _ k => k < 16
  | .tgate _ k _ => k < 8
  | .twait _ _ k => k < 8
  | .cpy _ _ _ _ => true
  | .cpyAt _ _ _ _ => true
  | .cpm _ _ _ _ => true
  | .drn _ _ _ _ => true
  | .bld _ _ _ => true
  | .gath _ _ _ => true
  | .chain _ _ _ => true
  | .waitc _ _ _ => true
  | .collBcast _ _ _ _ _ => true
  | .collRedAddF32 _ _ _ _ _ => true
  | .collRedAddF64 _ _ _ _ _ => true
  | .collRedAddI32 _ _ _ _ _ => true
  | .collRedAddI64 _ _ _ _ _ => true
  | .collRedMinF32 _ _ _ _ _ => true
  | .collRedMaxF32 _ _ _ _ _ => true
  | .collRedMinF64 _ _ _ _ _ => true
  | .collRedMaxF64 _ _ _ _ _ => true
  | .collRedMinI64 _ _ _ _ _ => true
  | .collRedMaxI64 _ _ _ _ _ => true
  | .collRedMinN64 _ _ _ _ _ => true
  | .collRedMaxN64 _ _ _ _ _ => true
  | .mmaPt _ _ m _ _ y _ => m < 3 && y < 2
  | .mmaMinp _ _ m _ _ y _ => m < 3 && y < 2
  | .mmaMaxp _ _ m _ _ y _ => m < 3 && y < 2
  | .mmaMaxt _ _ m _ _ y _ => m < 3 && y < 2
  | .mmaOrand _ _ m _ _ y _ => m < 3 && y < 2
  | .mmz _ _ _ _ => true
  | .mmcvt _ _ _ _ => true
  | .mst _ _ _ => true
  | .tstamp _ _ => true
  | .tret _ _ _ => true
  | .osend _ _ _ _ => true
  | .orecv _ _ _ k => k < 16
  | .rput _ _ _ => true
  | .rget _ _ _ => true
  | .ratm _ _ _ k => k < 8
  | .wmrd _ _ k => k < 26
  | .orecvTry _ _ _ k => k < 16
  | .cont _ _ _ => true
  | .lnch _ _ _ => true
  | .qput _ _ _ _ => true
  | .repl _ _ _ => true
  | .sigdl _ _ _ _ => true
  | .penx _ _ _ => true
  | .swp _ _ _ _ => true
  | .kill _ _ _ _ => true
  | .kterm _ _ _ _ => true
  | .tlbinv _ _ _ _ => true
  | .sdn _ _ _ _ => true
  | .pin _ _ _ k => k < 3
  | .unpin _ _ _ k => k < 3
  | .migr _ _ _ k => k < 4
  | .fqpop _ _ => true
  | .fqpopTry _ _ => true
  | .fqdone _ _ _ k => k < 4
  | .step _ _ _ => true
  | .snap _ _ _ => true
  | .ckpt _ _ _ _ => true
  | .variableResultReturn _ _ _ => true
  | .instanceComplete _ => true
  | .replayEntryFreed _ => true
  | .homeRead _ => true
  | .homeWiLoad _ => true
  | .homeOwnRequest _ => true
  | .homeWriteThrough _ => true
  | .requestRetry _ => true
  | .l1Evict _ _ => true
  | .ownerWriteback _ _ => true
  | .recallTaken _ _ => true
  | .recallResponse _ _ => true
  | .invalidate _ _ => true
  | .invalidationAck _ _ => true
  | .hostCxlMemRead _ => true
  | .hostCxlMemWrite _ _ => true
  | .serviceDieAccess _ _ => true
  | .hostSnoop _ => true
  | .proxyHostResponse _ _ => true
  | .atomicService _ => true
  | .mirrorUpdate _ _ => true
  | .mirrorSnapshotApplied _ _ => true
  | .podRemoteAccess _ => true
  | .podStoreAck _ => true
  | .remoteErrorResponse _ => true
  | .firstTouchServed _ => true
  | .ftuRingWrite _ _ _ _ => true
  | .promote _ => true
  | .evict _ => true
  | .migrationCopyDone _ => true
  | .l2PinTimeout _ => true
  | .sdnComplete _ => true
  | .bounceStallEnd _ => true
  | .barrierSectorCredit _ _ => true
  | .gateFire _ _ => true
  | .engineTake _ => true
  | .engineWriteBurst _ _ => true
  | .engineFault _ _ => true
  | .engineDone _ => true
  | .cpyAtStart _ => true
  | .cpmFillDone _ => true
  | .chainRecordRead _ _ => true
  | .chainRecordComplete _ _ => true
  | .collDeliveryDone _ => true
  | .mmaReachArray _ => true
  | .mmaComputeDone _ => true
  | .tretRecordWrite _ => true
  | .submissionWindowWrite _ _ _ _ => true
  | .dispatcherIntake _ _ => true
  | .kernelDispatch _ _ => true
  | .herdPlace _ => true
  | .d0Placement _ _ => true
  | .preempt _ => true
  | .quantumExpiry _ _ _ => true
  | .herdRetire _ _ _ => true
  | .gathererBatchLaunch _ _ _ => true
  | .gathererFlushTimeout _ _ _ => true
  | .issuePromotion _ _ => true
  | .d0Overrun _ _ => true
  | .budgetExceeded _ _ _ => true
  | .scWrite _ _ => true
  | .ctxCreate => true
  | .ctxRelease => true
  | .penSwitch _ => true
  | .penIdleSwitch _ => true
  | .swapSaveDone _ _ _ => true
  | .swapLoadDone _ _ _ => true
  | .shepherdEntryTake _ => true
  | .syscallForward _ => true
  | .syscallReply _ _ _ => true
  | .syscallTimeout _ => true
  | .serviceCoreWatchdog => true
  | .killComplete _ => true
  | .ktermComplete _ _ => true
  | .hostLinkTrained => true
  | .hostLinkDown => true
  | .portDisable _ => true
  | .portEnable _ => true
  | .portTrained _ => true
  | .portTrainingFailed _ => true
  | .flitReceive _ _ => true
  | .flitError _ => true
  | .replayAccepted _ => true
  | .replayFailed _ => true
  | .beaconSend _ => true
  | .beaconReceive _ _ _ => true
  | .ordPacketReceive _ _ => true
  | .ordRelease => true
  | .ordStallDeclared _ => true
  | .stallNotice _ _ => true
  | .endMarker _ => true
  | .routeTrigger => true
  | .routeInstall => true
  | .ordAckSend _ => true
  | .ordAck _ _ => true
  | .ocTokenRefill _ => true
  | .ptimeDelayMeasure _ _ _ _ => true
  | .ptimeHorizon => true
  | .ualinkRequest _ _ _ => true
  | .checkpointAuto _ => true
  | .snapshotTimeTrigger => true
  | .tgWrite _ _ => true
  | .tgFullClear => true
  | .snapshotIndexWrite _ => true
  | .coldReset _ => true
  | .recoveryImageWrite _ => true
  | .warmReset _ => true
  | .spdmGetMeasurements _ => true
  | .powerCap _ => true
  | .thermalThrottle _ => true
  | .thermalTrip _ => true
  | .thermalTripEnd _ => true
  | .pwWrite _ => true
  | .eventRingDrain => true
  | .evHeadWrite _ => true
  | .evLostClear _ => true
  | .coreGateWrite _ _ => true
  | .registerWrite _ _ => true
  | .illegalInstruction _ => true
  | .syscallReceiptAck _ => true
  | .nvmeStagingWrite _ _ => true
  | .precisionTimeMeasurement _ => true
  | .proxyLineEvict _ => true
  | .issueWithholdEnd _ _ => true

end Sys2Proof.Machine
end

