-- ==== Sys2Proof/Machine/MemOps.lean ====
section
/-! DEFINITION. The memory words: LD, ST, LDG, STG, ATMI, ATMX, MSYNC, TAG and HDL (R189 to R203). -/
namespace Sys2Proof.Machine

/-! ## Whose context and target a thread has (R348, R416) -/

/-- The core whose threads a thread's `%tgt` names: a pager thread's is that of the entry it popped last (R416). -/
def tgtCore (g : Group) (t : Thread) : Option Nat := if g.pager then t.popCore else some g.pcore
/-- The group at the pen and group slot of `%tgt`. -/
def State.tgtGroup (s : State) (core : Nat) (tgt : W32) : Option Group :=
  s.groups.find? fun g => g.pcore = core && !g.shep && s.onCore g && g.pen = (tgt.extractLsb' 13 1).toNat &&
    g.hslot = (tgt.extractLsb' 5 8).toNat
/-- The thread at `%tgt` (R348). -/
def State.target (s : State) (g : Group) (t : Thread) : Option Thread :=
  match tgtCore g t with
  | none => none
  | some core =>
    match s.tgtGroup core t.tgt with
    | some k => s.thread? k.gid (t.tgt.extractLsb' 0 5).toNat
    | none => none
/-- A group as a thread acts for it: a shepherd thread acts in the context of its target. -/
def State.actFor (s : State) (g : Group) (t : Thread) : Group :=
  if g.shep then
    match s.target g t with
    | some x => { g with ctx := (s.group x.gid).ctx }
    | none => g
  else g
/-- The issuing group as a thread acts for it. -/
def State.actGroup (s : State) (iss : Issue) (t : Thread) : Group := s.actFor (s.group iss.gid) t

/-! ## Scratchpads and B-stores -/

/-- The waiter whose wait-list head covers a scratchpad byte (R255, R263). [DESIGN CHOICE: log entry 39] -/
def Flock.linkAt (f : Flock) (a : Nat) : Option Waiter := f.waiters.find? fun w => decide (w.link ≤ a) && decide (a < w.link + 6)
/-- A scratchpad byte as a program reads it. [DESIGN CHOICE: log entry 39] -/
def Flock.scrByte (f : Flock) (a : Nat) : Byte :=
  match f.linkAt a with
  | some w => ((Config.waitLink w.gid w.lane ||| 1).toNat / 256 ^ (a - w.link)) % 256
  | none => memGet f.scr a
/-- Writes a scratchpad, but not the wait-list heads that are in use (R254); monitors of its words fire (R195). -/
def State.scrWrite (s : State) (fid off : Nat) (bs : List Byte) : State :=
  let put := fun (f : Flock) =>
    bs.zipIdx.foldl (fun (m : Memory) x => if (f.linkAt (off + x.2)).isSome then m else memSet m (off + x.2) x.1) f.scr
  (s.updFlock fid fun f => { f with scr := put f }).fireMonitors (some fid) off bs.length
def State.scrRead (s : State) (fid off n : Nat) : List Byte :=
  match s.flock? fid with
  | some f => (List.range n).map fun i => f.scrByte (off + i)
  | none => List.replicate n 0
def State.bstWrite (s : State) (fid off : Nat) (bs : List Byte) : State :=
  s.updFlock fid fun f => { f with bst := memWrite f.bst off bs }
def State.bstRead (s : State) (fid off n : Nat) : List Byte :=
  match s.flock? fid with
  | some f => memRead f.bst off n
  | none => List.replicate n 0

/-! ## Loads and stores (R174, R196, R209) -/

/-- The policy code as a place uses it: CODE and the scratchpads ignore it (R171). -/
def polOf (h : HReg) (p : Nat) : Nat := if heSpace h.ent = .code then 2 else p
/-- Whether an earlier access of a core to a word has still to reach its home: one with the address, or one that the first-touch
unit holds (R178, R208). [DEDUCED: log entry 26] -/
def State.behind (s : State) (g : Group) (pa va n : Nat) (f : Req → Bool) : Bool :=
  s.reqs.any fun r => f r && r.src = g.pcore &&
    (if r.ft then r.ctx = g.ctx && decide (wordOf va < r.va + r.n) && decide (wordOf r.va < va + n)
     else decide (wordOf pa < r.pa + r.n) && decide (wordOf r.pa < pa + n))
/-- Whether a core's L1 serves a load: every word owned, or held as its policy allows, a remote one for its own context (R417), no store
of the core to them in flight, and for a strong load none of its thread's own loads either (R174, R209). [DEDUCED: log entry 26] -/
def State.l1Serves (s : State) (g : Group) (lane pa va n pol : Nat) (strong : Bool) : Bool :=
  ((wordsOf pa n).all fun w =>
    match s.l1? g.pcore w with
    | none => false
    | some l =>
      match l.st with
      | .own => true
      | .wi => decide (pol ≤ 1)
      | .si => pol = 0 && !strong && (decide (pa < 2 ^ 60) || l.ctx = g.ctx)) &&
  !s.behind g pa va n fun r => (strong && r.gid = g.gid && r.lane = lane) ||
    (match r.kind with | .write _ => true | .ownStore => true | .rmw _ _ _ => true | _ => false)
/-- Whether a core may apply a store in its L1: it owns every word, and no access of it to them is on its way (R174, R208).
[DEDUCED: log entry 26] -/
def State.ownsAll (s : State) (g : Group) (pa va n : Nat) : Bool :=
  ((wordsOf pa n).all fun w => match s.l1? g.pcore w with | some l => l.st = .own | none => false) &&
  !s.behind g pa va n fun _ => true
/-- Bytes from a core's own copies. -/
def State.l1Bytes (s : State) (core pa : Nat) : Nat → List Byte
  | 0 => []
  | n + 1 =>
    (match s.l1? core (wordOf pa) with
     | some l => l.val.extractLsb' (8 * (pa % 4)) 8
     | none => s.cohByte pa) :: s.l1Bytes core (pa + 1) n
/-- The key of a remote word in an L1 (R171: SI copies of POD words). -/
def podKey (dev va : Nat) : Nat := 2 ^ 60 + dev * 2 ^ 57 + va
/-- A load's kind at its home (R176). -/
def loadKind (pol : Nat) : ReqKind := match pol with | 0 => .read true | 1 => .wi | 2 => .read false | _ => .ownLoad
/-- A result of a load that is still to come, in so many parts. -/
def pendingLoad (id : Nat) (d : Fld) (n parts : Nat) (acq rem : Bool) : Result :=
  { id, dests := destsOf (loadWrites d (List.replicate n 0)), writes := [], need := parts, parts := [], flags := 0, acq, rem, sx := false, atom := false }
/-- An access sent out piece by piece: a piece that the L1 serves comes back at once, the others become requests, and so do those of an
acquire in a re-execution (R397). -/
def State.sendLoad (s : State) (iss : Issue) (g : Group) (t : Thread) (rid pol n : Nat) (strong acq : Bool) (p : Place) (va : Nat) :
    State :=
  (splitReq n).foldl (fun s q =>
    match p with
    | .mem pa =>
      if s.l1Serves g t.lane (pa + q.1) (va + q.1) q.2 pol strong && !(acq && s.replaying g.ctx) then
        s.feed g.gid t.lane rid q.1 (s.l1Bytes g.pcore (pa + q.1) q.2) 0 va
      else
        { s with nextId := s.nextId + 1,
                 reqs := s.reqs ++ [Req.mk' s.nextId g t iss (loadKind pol) (pa + q.1) (va + q.1) q.2 [] (some rid) q.1] }
    | .pod dev a =>
      if s.l1Serves g t.lane (podKey dev (a + q.1)) (a + q.1) q.2 pol strong then
        s.feed g.gid t.lane rid q.1 (s.l1Bytes g.pcore (podKey dev (a + q.1)) q.2) 0 va
      else
        { s with nextId := s.nextId + 1,
                 reqs := s.reqs ++ [{ Req.mk' s.nextId g t iss (loadKind pol) (podKey dev (a + q.1)) (a + q.1) q.2 [] (some rid) q.1
                                      with dev := some dev }] }
    | .ft a =>
      { s with nextId := s.nextId + 1,
               reqs := s.reqs ++ [{ Req.mk' s.nextId g t iss (loadKind pol) 0 (a + q.1) q.2 [] (some rid) q.1 with ft := true }] }
    | _ => s) s
/-- Whether a place is at a remote device or in host memory, whose answer a lane awaits before it goes on (R147, R199,
R368). -/
def Place.remote : Place → Bool
  | .pod _ _ => true
  | .mem pa => decide (hostBase ≤ pa)
  | _ => false
/-- Whether a lane's checks go on after its word: at the first-touch unit too (R147, R238). -/
def Place.pends : Place → Bool
  | .ft _ => true
  | p => p.remote
/-- A lane goes no further until what its word awaits is known (R147, R212): it may still park there. -/
def State.holdLane (s : State) (iss : Issue) (lane : Nat) (h : Bool) : State :=
  if h then (s.keepXfer iss lane iss.restartSlot).updT iss.gid lane fun t => { t with hold := true } else s
/-- Whether a request is one that a lane of a mask has under way. -/
def Req.ofLanes (r : Req) (gid : Nat) (m : Mask) : Bool := r.gid = gid && hasLane m r.lane && r.eng.isNone && r.id ≠ 0
/-- Whether a release write of a lane has earlier accesses to wait for, and is sent when they are complete (R211). -/
def State.relAfter (s : State) (gid lane : Nat) (rel : Bool) : Bool := rel && s.reqs.any fun r => r.ofLanes gid (laneBit lane)
/-- A load of n bytes by one lane (R196): `ord` 0 weak, 1 strong, 2 acquire. [DEDUCED: log entry 26] -/
def State.laneLoad (s : State) (iss : Issue) (g : Group) (t : Thread) (h : HReg) (off : Int) (n pol ord : Nat) (d : Fld) : StepRes :=
  match s.place g h off n 0 pol .read with
  | (.bad c a acc k, s) => .trap s c a acc k
  | (.ok p, s) =>
    let rid := t.nextRes
    let acq := ord = 2
    match p with
    | .scr fid a => .ok ((s.updT g.gid t.lane fun t => t.await (pendingLoad rid d n 1 acq false)).feed g.gid t.lane rid 0 (s.scrRead fid a n) 0 a)
    | .bst fid a => .ok ((s.updT g.gid t.lane fun t => t.await (pendingLoad rid d n 1 acq false)).feed g.gid t.lane rid 0 (s.bstRead fid a n) 0 a)
    | _ =>
      let s := (s.holdLane iss t.lane (acq || p.pends)).updT g.gid t.lane fun t =>
        t.await (pendingLoad rid d n (splitReq n).length acq p.remote)
      .ok (s.sendLoad iss g t rid (polOf h pol) n (ord ≠ 0) acq p (heBase h.ent + off.toNat))
/-- The bytes of a store's data registers. -/
def storeBytes (t : Thread) (d : Fld) (n : Nat) : List Byte :=
  ((List.range ((n + 3) / 4)).flatMap fun i => bytesOf 4 (rd t (d + BitVec.ofNat 6 i)).toNat).take n
/-- A store of bytes by one lane (R196), a release or not. A piece whose words the core owns is applied in its L1 (R174); one that
fails at its remote home at once is noted (R199). [DEDUCED: log entry 26] -/
def State.laneStore (s : State) (iss : Issue) (g : Group) (t : Thread) (h : HReg) (off : Int) (bs : List Byte) (pol : Nat) (rel : Bool) :
    StepRes :=
  let rel := s.relAfter g.gid t.lane rel
  match s.place g h off bs.length 1 pol .write with
  | (.bad c a acc k, s) =>
    if c = 0x31 then
      let note : Deferred := ⟨c, a, iss.word, iss.pkt, iss.slot⟩
      .ok (s.updT g.gid t.lane fun t => { t with podErr := t.podErr ++ [note] })
    else .trap s c a acc k
  | (.ok p, s) =>
    let va := heBase h.ent + off.toNat
    let kind : ReqKind := if pol = 3 then .ownStore else .write (pol = 0)
    match p with
    | .scr fid a => .ok (s.scrWrite fid a bs)
    | .bst fid a => .ok (s.bstWrite fid a bs)
    | .mem pa =>
      .ok ((splitReq bs.length).foldl (fun s q =>
        let part := (bs.drop q.1).take q.2
        if !rel && s.ownsAll g (pa + q.1) (va + q.1) q.2 && !s.mirrored (pa + q.1) then s.ownWrite g.pcore g.ctx (pa + q.1) part
        else
          { s with nextId := s.nextId + 1,
                   reqs := s.reqs ++ [{ Req.mk' s.nextId g t iss kind (pa + q.1) (va + q.1) q.2 part none q.1 with rel }] }) s)
    | .pod dev a =>
      .ok ((splitReq bs.length).foldl (fun s q =>
        { s with nextId := s.nextId + 1,
                 reqs := s.reqs ++ [{ Req.mk' s.nextId g t iss kind (podKey dev (a + q.1)) (a + q.1) q.2 ((bs.drop q.1).take q.2) none q.1
                                      with dev := some dev, rel }] }) s)
    | .ft a =>
      .ok ((splitReq bs.length).foldl (fun s q =>
        { s with nextId := s.nextId + 1,
                 reqs := s.reqs ++ [{ Req.mk' s.nextId g t iss kind 0 (a + q.1) q.2 ((bs.drop q.1).take q.2) none q.1
                                      with ft := true, rel }] }) (s.holdLane iss t.lane true))
/-- The displacement of a MEM word (R51). -/
def dispOf (iss : Issue) : Int :=
  match iss.imm with
  | some i => i.toInt
  | none => 0
/-- LD and LDG: the offset of each lane (R196, R198). The lowest active lane of a block is the lowest of those that no earlier word
of the chain has parked. [DEDUCED: log entry 73] -/
def loadWord (s : State) (block : Bool) (d a : Fld) (h : BitVec 5) (z : BitVec 3) (p o : BitVec 2) : Out :=
  .next (s.laneFold fun iss s' t =>
    let n := szBytes z
    let base : Int :=
      if block then
        (match s.thread? iss.gid (lowestLane iss.lanes) with | some b => ((rd b a).toNat : Int) | none => 0) + t.lane * n
      else (rd t a).toNat
    s'.laneLoad iss (s'.actGroup iss t) t (rdH t h) (base + dispOf iss) n p.toNat o.toNat d)
/-- ST and STG; `o` is 2 in a release. [DEDUCED: log entry 73] -/
def storeWord (s : State) (block : Bool) (d a : Fld) (h : BitVec 5) (z : BitVec 3) (p o : BitVec 2) : Out :=
  .next (s.laneFold fun iss s' t =>
    let n := szBytes z
    let base : Int :=
      if block then
        (match s.thread? iss.gid (lowestLane iss.lanes) with | some b => ((rd b a).toNat : Int) | none => 0) + t.lane * n
      else (rd t a).toNat
    s'.laneStore iss (s'.actGroup iss t) t (rdH t h) (base + dispOf iss) (storeBytes t d n) p.toNat (o = 2))

/-! ## Atomics (R192 to R194) -/

/-- An atomic of one lane: at a scratchpad at once, else carried to its service group. -/
def State.laneAtom (s : State) (iss : Issue) (g : Group) (t : Thread) (op : RmwOp) (b c : W64) (d a : Fld) (ord : Nat) : StepRes :=
  let h := s.fatPtr g t a
  let n := rmwBytes op
  match s.place g h (rd t a).toNat n 3 2 .write with
  | (.bad cs x acc k, s) => .trap s cs x acc k
  | (.ok p, s) =>
    let rid := t.nextRes
    let acq := ord = 1 || ord = 3
    let va := heBase h.ent + (rd t a).toNat
    let rel := s.relAfter g.gid t.lane (decide (2 ≤ ord))
    let s := (s.holdLane iss t.lane (acq || p.pends)).updT g.gid t.lane fun t => t.await { pendingLoad rid d n 1 acq p.remote with atom := true }
    let req := { Req.mk' s.nextId g t iss (.rmw op b c) 0 va n [] (some rid) 0 with rel }
    match p with
    | .scr fid o =>
      let lg := s.logged g.gid t.lane 1 (BitVec.ofNat 64 va) (logVal (s.scrRead fid o n)) []
      let old := bytesOf n lg.1.toNat
      let v := rmwApply op (natOf old) (b.toNat % 2 ^ (8 * n)) (c.toNat % 2 ^ (8 * n))
      .ok ((lg.2.2.scrWrite fid o (bytesOf n v.bits)).feed g.gid t.lane rid 0 old v.exc va)
    | .bst _ _ => .ok s
    | .mem pa => .ok { s with nextId := s.nextId + 1, reqs := s.reqs ++ [{ req with pa := pa }] }
    | .pod dev x => .ok { s with nextId := s.nextId + 1, reqs := s.reqs ++ [{ req with pa := podKey dev x, va := x, dev := some dev }] }
    | .ft x => .ok { s with nextId := s.nextId + 1, reqs := s.reqs ++ [{ req with va := x, ft := true }] }
/-- An atomic word with a 32-bit operand. -/
def atom32 (op : RmwOp) (d a b : Fld) (o : BitVec 2) (s : State) : Out :=
  .next (s.laneFold fun iss s t => s.laneAtom iss (s.actGroup iss t) t op ((rd t b).setWidth 64) 0 d a o.toNat)
/-- An atomic word with a 64-bit operand. -/
def atom64 (op : RmwOp) (d a b : Fld) (o : BitVec 2) (s : State) : Out :=
  .next (s.laneFold fun iss s t => s.laneAtom iss (s.actGroup iss t) t op (rd2 t b) 0 d a o.toNat)

/-! ## mwait (R195) -/

/-- `mwait` of one lane: compared and armed in one step at the scratchpad or, as a request, at the home. The protection fault of a
CODE or BSTORE handle comes after the checks that are common to accesses: R195 names no place for it. [DEDUCED: log entry 73] -/
def State.laneMwait (s : State) (iss : Issue) (g : Group) (t : Thread) (n : Nat) (b : W64) (d a : Fld) : StepRes :=
  let h := s.fatPtr g t a
  let off : Nat := (rd t a).toNat
  let va := heBase h.ent + off
  match s.place g h off n 0 2 .read with
  | (.bad c x acc k, s) => .trap s c x acc k
  | (.ok p, s) =>
    if heSpace h.ent = .bstore || heSpace h.ent = .code then .trap s 0x11 (BitVec.ofNat 64 va) 1 0 else
    let mon := s.nextId
    let blk := fun (s : State) => s.updT g.gid t.lane fun t => t.block (.mwait mon d) iss (destsOf [Wr.g d 0])
    let req := Req.mk' (mon + 1) g t iss (.mwait b) 0 va n [] none 0
    let s := { s with nextId := s.nextId + 2 }
    match p with
    | .scr fid o =>
      if natOf (s.scrRead fid o n) = b.toNat % 2 ^ (8 * n) then .ok ((blk s).arm ⟨mon, some fid, o, n, g.gid, t.lane⟩)
      else
        let lg := s.logged g.gid t.lane 2 (BitVec.ofNat 64 va) 1 []
        .ok ((lg.2.2.updT g.gid t.lane fun t => t.await (Result.known t.nextRes [.g d (lg.1.setWidth 32)] 0 false)).acquireCore g.pcore)
    | .bst _ _ => .ok s
    | .mem pa => .ok { blk s with reqs := s.reqs ++ [{ req with pa := pa }] }
    | .pod dev x =>
      .ok { blk s with
            reqs := s.reqs ++ [{ req with pa := podKey dev x, va := x, dev := some dev }] }
    | .ft x => .ok { blk s with reqs := s.reqs ++ [{ req with va := x, ft := true }] }

/-! ## Mirror windows (R189 to R191) -/

/-- The pages of a range are translated for a read, in order; those that the first-touch unit serves are served (R238). A page that
cannot be read gives its address with the cause and the kind of its fault entry. [DESIGN CHOICE: log entry 73] -/
def State.touchPages (s : State) (core ctx va n : Nat) : Option (Nat × Byte × Nat) × State :=
  (pieces (n / 4096 + 2) va n).foldl (fun r p =>
    match r with
    | (some f, s) => (some f, s)
    | (none, s) =>
      match s.translate core ctx p.1 .read with
      | (.ok _, s) => (none, s)
      | (.zero lvl _ e, s) => if s.ftuServes core ctx p.1 lvl e then (none, s.serveFirstTouch core ctx p.1 false) else (some (p.1, 0x10, 1), s)
      | (.fault c k, s) => (some (p.1, c, k), s)) (none, s)
/-- The grains of a range, by translation; none where a page is missing. -/
def State.grainsOf (s : State) (ctx va n : Nat) : Option (List Nat) :=
  ((List.range (n / 512)).map fun i => s.peek ctx (va + 512 * i) .read).foldr (fun x l =>
    match x, l with
    | some p, some l => some (p :: l)
    | _, _ => none) (some [])
def Flock.setWin (f : Flock) (i : Nat) (w : Window) : Flock := { f with wins := f.wins.setIfInBounds i w }
/-- `mwsub` of one lane: checks, a free identifier, and a window whose snapshot is still to be copied in. R191 names no cause for a
handle of another space, for which this is a protection fault; a page inside the range that cannot be read faults as one of a load
does, with its own address. [DESIGN CHOICE: log entry 73] -/
def State.laneMwsub (s : State) (g : Group) (t : Thread) (d a b : Fld) : StepRes :=
  let h := s.fatPtr g t a
  let off : Nat := (rd t a).toNat
  let len := (rd t (b + 1)).toNat
  let scr := (rd t b).toNat
  let va := heBase h.ent + off
  let aux := BitVec.ofNat 64 va
  match s.place g h off 1 0 2 .read with
  | (.bad c x acc k, s) => .trap s c x acc k
  | (.ok _, s) =>
    match s.place g h ((off : Int) + len - 1) 1 0 2 .read with
    | (.bad c x acc k, s) => .trap s c x acc k
    | (.ok _, s) =>
      let fl := s.flock? g.fid
      let room := match fl with | some f => decide (scr + len ≤ f.scrLen) | none => false
      if heSpace h.ent ≠ .global && heSpace h.ent ≠ .near then .trap s 0x11 aux 1 0
      else if len % 512 ≠ 0 || len < 512 || 2 ^ 20 < len || !room then .trap s 0x13 aux 1 0
      else if va % 512 ≠ 0 || scr % 512 ≠ 0 then .trap s 0x15 aux 1 0
      else
        match s.touchPages g.pcore g.ctx va len with
        | (some f, s) => .trap s f.2.1 (BitVec.ofNat 64 f.1) 1 f.2.2
        | (none, s) =>
        match s.grainsOf g.ctx va len with
        | none => .trap s 0x10 aux 1 0
        | some gr =>
          let rid := t.nextRes
          match fl with
          | none => .ok s
          | some f =>
            match (List.range 8).find? fun i => match f.wins[i]? with | some w => w.st = .free | none => false with
            | none => .ok (s.updT g.gid t.lane fun t => t.await (Result.known rid [.g d 0xFFFFFFFF] 0 false))
            | some i =>
              let s := s.updT g.gid t.lane fun t => t.await (pendingLoad rid d 4 1 false false)
              let s := s.updFlock f.fid fun f =>
                f.setWin i { Window.reset with st := .loading, scr, va, len, ret := some (g.gid, t.lane, rid) }
              -- a range mirrored before keeps its sequence; its grains are where its pages are now
              let same := fun (m : MirrorSeq) => m.ctx = g.ctx && m.va = va && m.grains.length = gr.length
              if s.mirrors.any same then
                .ok { s with mirrors := s.mirrors.map fun (m : MirrorSeq) => if same m then { m with grains := gr } else m }
              else .ok { s with mirrors := s.mirrors ++ [⟨g.ctx, va, gr, 0⟩] }
/-- The window of a flock. -/
def State.window? (s : State) (fid i : Nat) : Option Window :=
  match s.flock? fid with
  | some f => f.wins[i]?
  | none => none
/-- The state of a window as programs meet it: while its `mwsub` is under way it is still FREE (R190). -/
def Window.now (w : Window) : WinSt := if w.ret.isSome then .free else w.st
/-- Whether an `mwsync` is over: the sequence applied, or the window neither active nor to become so again (R191). -/
def Window.synced (w : Window) (seq : BitVec 31) : Bool :=
  match w.now with
  | .free | .detached => true
  | .active => decide ((w.applied - seq).toNat < 2 ^ 30)
  | _ => false
/-- Ends the `mwsync` waits of a window that are over; each is an acquire (R191). -/
def State.wakeSyncs (s : State) (fid win : Nat) : State :=
  s.threads.foldl (fun s t =>
    match t.wait, s.window? fid win with
    | some (.mwsync w seq), some x =>
      if w = win && (s.group t.gid).fid = fid && x.synced seq then
        let r := s.logged t.gid t.lane 2 (BitVec.ofNat 64 win) (seq.setWidth 64) []
        (r.2.2.wake t.gid [(t.lane, [])]).acquireCore (s.group t.gid).pcore
      else s
    | _, _ => s) s
/-- `mwend` of a window: one that is ACTIVE, SUSPENDED or DETACHED is FREE again (R190). -/
def State.endWindow (s : State) (fid win : Nat) : State :=
  match s.window? fid win with
  | some w => if w.now = .free then s else (s.updFlock fid fun f => f.setWin win Window.reset).wakeSyncs fid win
  | none => s

/-! ## Tags (R202) -/

def tagNone : W64 := BitVec.allOnes 64
/-- The tag table after `tset`. -/
def setTag (l : List (Nat × W64)) (slot : Nat) (v : W64) : List (Nat × W64) :=
  let rest := l.filter fun x => x.1 ≠ slot && x.2 ≠ v
  if v = tagNone then l.filter fun x => x.1 ≠ slot else (slot, v) :: rest

/-! ## Handle words (R203) -/

/-- The image of an octet. -/
def octet (t : Thread) (b : Fld) : BitVec 256 :=
  BitVec.ofNat 256 (natOf ((List.range 8).flatMap fun i => bytesOf 4 (rd t (b + BitVec.ofNat 6 i)).toNat))
/-- The entries that `hnew` refuses (R172). -/
def hnewRefused (e : BitVec 256) : Bool :=
  heSpace e = .none7 || (heSpace e = .pod && (hePol e 3 || hePol e 1)) ||
  (heSpace e = .code && (heRight e 1 || heRight e 3)) || (hePeer e ≠ 0 && heSpace e ≠ .peer) ||
  e.extractLsb' 57 7 ≠ 0 || e.extractLsb' 156 4 ≠ 0 || e.extractLsb' 192 64 ≠ 0
/-- Replaces a field of an entry. -/
def heWithGen (e : BitVec 256) (g : W32) : BitVec 256 :=
  (e &&& ~~~((BitVec.allOnes 32).setWidth 256 <<< 160)) ||| ((g.setWidth 256) <<< 160)
def heWithValid (e : BitVec 256) (v : Bool) : BitVec 256 :=
  (e &&& ~~~((1 : BitVec 256) <<< 131)) ||| (if v then (1 : BitVec 256) <<< 131 else 0)
/-- Writes a table entry; none where its page cannot be written. -/
def State.putEntry (s : State) (ctx idx : Nat) (e : BitVec 256) : Option State :=
  match s.ctx? ctx with
  | none => none
  | some c =>
    match s.peek ctx (c.htab + 32 * idx) .read with
    | some pa => some ((s.markUsed ctx (c.htab + 32 * idx) .write).cohWrite ctx pa (bytesOf 32 e.toNat))
    | none => none

/-! ## The words -/

/-- R196. Loads one element per active lane through a handle under the given policy and order. -/
def execLd (_cs : CS) (d a : BitVec 6) (h : BitVec 5) (z : BitVec 3) (p o : BitVec 2) (s : State) : Out :=
  loadWord s false d a h z p o

/-- R198. Loads a contiguous block for the whole fetch set from the lowest lane's offset. -/
def execLdg (_cs : CS) (d a : BitVec 6) (h : BitVec 5) (z : BitVec 3) (p o : BitVec 2) (s : State) : Out :=
  loadWord s true d a h z p o

/-- R196. Stores one element per active lane through a handle under the given policy and order. -/
def execSt (_cs : CS) (d a : BitVec 6) (h : BitVec 5) (z : BitVec 3) (p o : BitVec 2) (s : State) : Out :=
  storeWord s false d a h z p o

/-- R198. Stores a contiguous block for the whole fetch set. -/
def execStg (_cs : CS) (d a : BitVec 6) (h : BitVec 5) (z : BitVec 3) (p o : BitVec 2) (s : State) : Out :=
  storeWord s true d a h z p o

/-- R193. Performs an atomic 32-bit add at the owning service group and returns the prior value. -/
def execAtomAddN32 (_cs : CS) (d a b : BitVec 6) (o : BitVec 2) (s : State) : Out :=
  atom32 (RmwOp.add 32) d a b o s

/-- R193. Performs an atomic 32-bit AND. -/
def execAtomAndB32 (_cs : CS) (d a b : BitVec 6) (o : BitVec 2) (s : State) : Out :=
  atom32 (RmwOp.andB 32) d a b o s

/-- R193. Performs an atomic 32-bit OR. -/
def execAtomOrB32 (_cs : CS) (d a b : BitVec 6) (o : BitVec 2) (s : State) : Out :=
  atom32 (RmwOp.orB 32) d a b o s

/-- R193. Performs an atomic 32-bit XOR. -/
def execAtomXorB32 (_cs : CS) (d a b : BitVec 6) (o : BitVec 2) (s : State) : Out :=
  atom32 (RmwOp.xorB 32) d a b o s

/-- R193. Performs an atomic signed 32-bit minimum. -/
def execAtomMinI32 (_cs : CS) (d a b : BitVec 6) (o : BitVec 2) (s : State) : Out :=
  atom32 (RmwOp.minI 32) d a b o s

/-- R193. Performs an atomic signed 32-bit maximum. -/
def execAtomMaxI32 (_cs : CS) (d a b : BitVec 6) (o : BitVec 2) (s : State) : Out :=
  atom32 (RmwOp.maxI 32) d a b o s

/-- R193. Performs an atomic unsigned 32-bit minimum. -/
def execAtomMinN32 (_cs : CS) (d a b : BitVec 6) (o : BitVec 2) (s : State) : Out :=
  atom32 (RmwOp.minN 32) d a b o s

/-- R193. Performs an atomic unsigned 32-bit maximum. -/
def execAtomMaxN32 (_cs : CS) (d a b : BitVec 6) (o : BitVec 2) (s : State) : Out :=
  atom32 (RmwOp.maxN 32) d a b o s

/-- R193. Performs an atomic 32-bit exchange. -/
def execAtomXchgB32 (_cs : CS) (d a b : BitVec 6) (o : BitVec 2) (s : State) : Out :=
  atom32 (RmwOp.xchg 32) d a b o s

/-- R193. Performs an atomic f32 add, rounded to nearest. -/
def execAtomAddF32 (_cs : CS) (d a b : BitVec 6) (o : BitVec 2) (s : State) : Out :=
  atom32 RmwOp.addF32 d a b o s

/-- R193. Performs an atomic f32 minimum. -/
def execAtomMinF32 (_cs : CS) (d a b : BitVec 6) (o : BitVec 2) (s : State) : Out :=
  atom32 RmwOp.minF32 d a b o s

/-- R193. Performs an atomic f32 maximum. -/
def execAtomMaxF32 (_cs : CS) (d a b : BitVec 6) (o : BitVec 2) (s : State) : Out :=
  atom32 RmwOp.maxF32 d a b o s

/-- R193. Performs an atomic packed f16 add. -/
def execAtomAddF16x2 (_cs : CS) (d a b : BitVec 6) (o : BitVec 2) (s : State) : Out :=
  atom32 RmwOp.addF16x2 d a b o s

/-- R193. Performs an atomic packed bf16 add. -/
def execAtomAddBf16x2 (_cs : CS) (d a b : BitVec 6) (o : BitVec 2) (s : State) : Out :=
  atom32 RmwOp.addBf16x2 d a b o s

/-- R193. Performs an atomic 64-bit add. -/
def execAtomAddN64 (_cs : CS) (d a b : BitVec 6) (o : BitVec 2) (s : State) : Out :=
  atom64 (RmwOp.add 64) d a b o s

/-- R193. Performs an atomic 64-bit AND. -/
def execAtomAndB64 (_cs : CS) (d a b : BitVec 6) (o : BitVec 2) (s : State) : Out :=
  atom64 (RmwOp.andB 64) d a b o s

/-- R193. Performs an atomic 64-bit OR. -/
def execAtomOrB64 (_cs : CS) (d a b : BitVec 6) (o : BitVec 2) (s : State) : Out :=
  atom64 (RmwOp.orB 64) d a b o s

/-- R193. Performs an atomic 64-bit XOR. -/
def execAtomXorB64 (_cs : CS) (d a b : BitVec 6) (o : BitVec 2) (s : State) : Out :=
  atom64 (RmwOp.xorB 64) d a b o s

/-- R193. Performs an atomic signed 64-bit minimum. -/
def execAtomMinI64 (_cs : CS) (d a b : BitVec 6) (o : BitVec 2) (s : State) : Out :=
  atom64 (RmwOp.minI 64) d a b o s

/-- R193. Performs an atomic signed 64-bit maximum. -/
def execAtomMaxI64 (_cs : CS) (d a b : BitVec 6) (o : BitVec 2) (s : State) : Out :=
  atom64 (RmwOp.maxI 64) d a b o s

/-- R193. Performs an atomic unsigned 64-bit minimum. -/
def execAtomMinN64 (_cs : CS) (d a b : BitVec 6) (o : BitVec 2) (s : State) : Out :=
  atom64 (RmwOp.minN 64) d a b o s

/-- R193. Performs an atomic unsigned 64-bit maximum. -/
def execAtomMaxN64 (_cs : CS) (d a b : BitVec 6) (o : BitVec 2) (s : State) : Out :=
  atom64 (RmwOp.maxN 64) d a b o s

/-- R193. Performs an atomic 64-bit exchange. -/
def execAtomXchgB64 (_cs : CS) (d a b : BitVec 6) (o : BitVec 2) (s : State) : Out :=
  atom64 (RmwOp.xchg 64) d a b o s

/-- R193. Performs an atomic f64 add. -/
def execAtomAddF64 (_cs : CS) (d a b : BitVec 6) (o : BitVec 2) (s : State) : Out :=
  atom64 RmwOp.addF64 d a b o s

/-- R193. Performs an atomic f64 minimum. -/
def execAtomMinF64 (_cs : CS) (d a b : BitVec 6) (o : BitVec 2) (s : State) : Out :=
  atom64 RmwOp.minF64 d a b o s

/-- R193. Performs an atomic f64 maximum. -/
def execAtomMaxF64 (_cs : CS) (d a b : BitVec 6) (o : BitVec 2) (s : State) : Out :=
  atom64 RmwOp.maxF64 d a b o s

/-- R193. Performs an atomic 32-bit compare-and-swap. -/
def execAtomCasB32 (_cs : CS) (d a b : BitVec 6) (o : BitVec 2) (s : State) : Out :=
  .next (s.laneFold fun iss s t =>
    s.laneAtom iss (s.actGroup iss t) t (.cas 32) ((rd t b).setWidth 64) ((rd t (b + 1)).setWidth 64) d a o.toNat)

/-- R193. Performs an atomic 64-bit compare-and-swap. -/
def execAtomCasB64 (_cs : CS) (d a b : BitVec 6) (o : BitVec 2) (s : State) : Out :=
  .next (s.laneFold fun iss s t =>
    s.laneAtom iss (s.actGroup iss t) t (.cas 64) (rd2 t b) (rd2 t (b + 2)) d a o.toNat)

/-- Whether a lane's earlier accesses and results are all in. -/
def State.drained (s : State) (t : Thread) : Bool := t.outst = [] && !s.reqs.any fun r => r.ofLanes t.gid (laneBit t.lane)
/-- A lane in `fence` is in SWITCH until its earlier accesses are in (R152, R200). -/
def Thread.fence (t : Thread) (iss : Issue) : Thread :=
  { t with st := .switch, wait := some .fence, wword := iss.word, pkt := iss.pkt, slot := iss.restartSlot }
/-- A lane's `fence` is over: the core drops its SI and WI words, and a POD store that has failed meanwhile is reported here (R199,
R200). [DEDUCED: log entry 20] -/
def State.endFence (s : State) (gid lane : Nat) : State :=
  match s.thread? gid lane with
  | none => s
  | some t =>
    let g := s.group gid
    let s := s.acquireCore g.pcore
    let out := fun (s : State) => s.updGroup gid fun g => g.dropLanes (laneBit lane)
    match t.podErr with
    | d :: rest =>
      (out (s.updT gid lane fun t => { t with podErr := rest })).parkWaiting gid
        [(⟨lane, d.cause, d.aux, 0, 0⟩, ⟨t.pkt, t.slot, d.cause, d.aux, d.word, d.pkt, d.slot⟩)] none
    | [] =>
      if !g.shep && g.step && t.stepped && !t.midChain then
        let r := stepRec t t.npkt t.nslot t.pkt
        (out s).parkWaiting gid [(⟨lane, 0x04, r.aux, 0, 0⟩, r)] none
      else (s.updT gid lane fun t => { t.resume g.shep [] with pend := [] }).recordRelease g
/-- The fences that are over end (R200); no chain of their threads is open, and their pen is not switched out (R153). -/
def State.serveFences (s : State) : State :=
  (s.threads.filter fun t => t.wait = some .fence).foldl (fun s t =>
    if s.drained t && !s.inChain t.gid t.lane && s.onCore (s.group t.gid) && !s.shadowed (s.group t.gid) then s.endFence t.gid t.lane else s) s

/-- R200. Waits until every earlier access is applied, then removes the core's SI and WI words; it is both release and acquire. The
lanes of one word wait together. [DEDUCED: log entry 19] -/
def execFence (_cs : CS) (s : State) : Out :=
  match s.issue with
  | none => .next s
  | some iss =>
    if (s.issuing iss).all s.drained then
      .next ((s.mapLanes iss.gid iss.lanes fun t => { t with pend := [] }).acquireCore (s.group iss.gid).pcore)
    else .next (s.mapLanes iss.gid iss.lanes fun t => t.fence iss)

/-- R195. Compares a word with a value, arms a monitor on equality, and blocks until the monitor fires or is lost. -/
def execMwaitB32 (_cs : CS) (d a b : BitVec 6) (s : State) : Out :=
  .next (s.laneFold fun iss s t => s.laneMwait iss (s.actGroup iss t) t 4 ((rd t b).setWidth 64) d a)

/-- R195. Compares a pair with a value, arms a monitor on equality, and blocks until the monitor fires or is lost. -/
def execMwaitB64 (_cs : CS) (d a b : BitVec 6) (s : State) : Out :=
  .next (s.laneFold fun iss s t => s.laneMwait iss (s.actGroup iss t) t 8 (rd2 t b) d a)

/-- R191. Subscribes a mirror window binding a scratchpad range to a memory range and returns its identifier. -/
def execMwsub (_cs : CS) (d a b : BitVec 6) (s : State) : Out :=
  .next (s.laneFold fun iss s t => s.laneMwsub (s.actGroup iss t) t d a b)

/-- R191. Frees a mirror window. -/
def execMwend (_cs : CS) (a : BitVec 6) (s : State) : Out :=
  .next (s.laneFold fun iss s t =>
    let id := (rd t a).toNat
    if 7 < id then .trap s 0x13 (BitVec.ofNat 64 id) 0 0
    else .ok (s.endWindow (s.group iss.gid).fid id))

/-- R191. Reads a window's detached bit and applied sequence number. -/
def execMwseq (_cs : CS) (d a : BitVec 6) (s : State) : Out :=
  .next (s.laneFold fun iss s t =>
    let id := (rd t a).toNat
    if 7 < id then .trap s 0x13 (BitVec.ofNat 64 id) 0 0
    else
      let v : W32 := match s.window? (s.group iss.gid).fid id with
        | some w => if w.now = .free then 0 else w.applied.setWidth 32 ||| (if w.st = .detached then 0x80000000 else 0)
        | none => 0
      .ok (s.updT iss.gid t.lane fun t => t.await (Result.known t.nextRes [.g d v] 0 false)))

/-- R191. Waits until a window has applied a given sequence number, as an acquire. -/
def execMwsync (_cs : CS) (a b : BitVec 6) (s : State) : Out :=
  .next (s.laneFold fun iss s t =>
    let g := s.group iss.gid
    let id := (rd t a).toNat
    let seq : BitVec 31 := (rd t b).setWidth 31
    if 7 < id then .trap s 0x13 (BitVec.ofNat 64 id) 0 0
    else
      match s.window? g.fid id with
      | none => .ok s
      | some w =>
        if w.synced seq then
          .ok ((s.logged g.gid t.lane 2 (BitVec.ofNat 64 id) (seq.setWidth 64) []).2.2.acquireCore g.pcore)
        else .ok (s.updT g.gid t.lane fun t => t.block (.mwsync id seq) iss []))

/-- R201. Asks the homes of a range to fill their L2 slices; it never faults. -/
def execPfch (_cs : CS) (a b : BitVec 6) (s : State) : Out :=
  .next (s.eachLane fun _ t =>
    -- the L2 slices that the homes fill hold nothing that the homes do not (R175)
    let _ := (rd2 t a, rd t b)
    .go t)

/-- R202. Returns the tag-table slot that holds a tag, or a miss code. -/
def execTlook (_cs : CS) (d a : BitVec 6) (s : State) : Out :=
  .next (s.laneFold fun iss s t =>
    let v := rd2 t a
    let tags := match s.flock? (s.group iss.gid).fid with | some f => f.tags | none => []
    let r : W32 := match tags.find? fun x => x.2 = v with | some x => BitVec.ofNat 32 x.1 | none => 0xFFFFFFFF
    .ok (s.updT iss.gid t.lane fun t => t.await (Result.known t.nextRes [.g d r] 0 false)))

/-- R202. Stores a tag in a slot of the tag table, removing it from any other slot. -/
def execTset (_cs : CS) (a b : BitVec 6) (s : State) : Out :=
  .next (s.laneFold fun iss s t =>
    let slot := (rd t b).toNat
    if 255 < slot then .trap s 0x13 (BitVec.ofNat 64 slot) 0 0
    else .ok (s.updFlock (s.group iss.gid).fid fun f => { f with tags := setTag f.tags slot (rd2 t a) }))

/-- R202. Empties a slot of the tag table. -/
def execTclr (_cs : CS) (b : BitVec 6) (s : State) : Out :=
  .next (s.laneFold fun iss s t =>
    let slot := (rd t b).toNat
    if 255 < slot then .trap s 0x13 (BitVec.ofNat 64 slot) 0 0
    else .ok (s.updFlock (s.group iss.gid).fid fun f => { f with tags := f.tags.filter fun x => x.1 ≠ slot }))

/-- R203. Loads a handle register with a table index and a copy of its entry. -/
def execHsel (_cs : CS) (h : BitVec 5) (a : BitVec 6) (s : State) : Out :=
  .next (s.laneFold fun iss s t =>
    let g := s.actGroup iss t
    let idx := rd t a
    if 4095 < idx.toNat then .trap s 0x12 (idx.setWidth 64) 0 0
    else
      let e := (s.tableEntry g.ctx idx.toNat).getD 0
      .ok ((s.touchEntry g.ctx idx.toNat).updT iss.gid t.lane fun t => t.await (Result.known t.nextRes [.h h ⟨true, idx.setWidth 12, e, false⟩] 0 false)))

/-- R203. Reads a field of the entry copy held in a handle register. -/
def execHget (_cs : CS) (d : BitVec 6) (h : BitVec 5) (k : BitVec 6) (s : State) : Out :=
  .next (s.laneFold fun iss s t =>
    let r := rdH t h
    if !r.loaded then .trap s 0x12 (r.idx.setWidth 64) 0 0
    else
      let v : W64 :=
        if k = 0 then BitVec.ofNat 64 (heBase r.ent)
        else if k = 1 then r.ent.extractLsb' 64 64
        else heGen r.ent ++ r.ent.extractLsb' 128 32
      .ok (s.updT iss.gid t.lane fun t => t.await (Result.known t.nextRes (wr2 d v) 0 false)))

/-- R203. Writes a handle-table entry from a register octet, revoking any valid old entry first. -/
def execHnew (_cs : CS) (a b : BitVec 6) (s : State) : Out :=
  priv s fun s => .next (s.laneFold fun iss s t =>
    let g := s.actGroup iss t
    let idx := rd t a
    let e := octet t b
    if 4095 < idx.toNat || hnewRefused e then .trap s 0x12 (idx.setWidth 64) 0 0
    else
      match s.tableEntry g.ctx idx.toNat with
      | none => .trap s 0x12 (idx.setWidth 64) 0 0
      | some old =>
        let gen := if heValid old then heGen old + 1 else heGen old
        match s.putEntry g.ctx idx.toNat (heWithGen e gen) with
        | some s => .ok s
        | none => .trap s 0x12 (idx.setWidth 64) 0 0)

/-- R169. Revokes a handle-table entry and completes once no access through it remains. -/
def execHrev (_cs : CS) (a : BitVec 6) (s : State) : Out :=
  priv s fun s => .next (s.laneFold fun iss s t =>
    let g := s.actGroup iss t
    let idx := rd t a
    if 4095 < idx.toNat then .trap s 0x12 (idx.setWidth 64) 0 0
    else
      match s.tableEntry g.ctx idx.toNat with
      | none => .trap s 0x12 (idx.setWidth 64) 0 0
      | some old =>
        match s.putEntry g.ctx idx.toNat (heWithGen (heWithValid old false) (heGen old + 1)) with
        | some s => .ok s
        | none => .trap s 0x12 (idx.setWidth 64) 0 0)

end Sys2Proof.Machine
end

