-- ==== Sys2Proof/Machine/Cross.lean ====
section
/-! DEFINITION. Convergence and the cross-lane words (GRP, major 0x05): arriving, the convergence fault, completing an
instance (R159 to R166), and the withdrawal of a waiting thread (R152). -/
namespace Sys2Proof.Machine

/-! ## Arriving (R159, R161) -/

/-- The trap record of a lane that takes a convergence fault at the word where it waits (R161). -/
def waitRec (t : Thread) (cause : Byte) (aux : W64) : TrapRec := ⟨t.pkt, t.slot, cause, aux, t.wword, t.pkt, t.slot⟩
/-- The aux of a convergence fault: the lane's own mask low, the other instance's high. -/
def convAux (own other : Mask) : W64 := other ++ own
/-- Parks waiting lanes of a group with cause 0x01: those still in the open chain leave it, the others leave their wait.
[DEDUCED: log entry 22] -/
def State.convFault (s : State) (gid : Nat) (l : List (Nat × W64)) : State :=
  let inChain := fun (lane : Nat) => match s.issue with | some iss => iss.gid = gid && hasLane iss.lanes lane | none => false
  let now := l.filter fun x => inChain x.1
  let rest := l.filter fun x => !inChain x.1
  let s := s.trapLanes (now.map fun x => ⟨x.1, 0x01, x.2, 0, 0⟩)
  s.parkWaiting gid (rest.filterMap fun x =>
    match s.thread? gid x.1 with
    | some t => some (⟨x.1, 0x01, x.2, 0, 0⟩, waitRec t 0x01 x.2)
    | none => none) none
/-- A lane arrives at a cross-lane word: it joins the instance of its mask, opens one, or meets an instance whose mask
intersects its own and differs. [DEDUCED: log entry 22] -/
def State.arrive (s : State) (iss : Issue) (t : Thread) (m : Mask) (op : XOp) (d : Fld) (dests : List Dest) (a : Arrival) : State :=
  if !hasLane m t.lane then s.trapLane ⟨t.lane, 0x01, m.setWidth 64, 0, 0⟩
  else
    let here := s.insts.filter fun i => i.gid = iss.gid && i.pkt = iss.pkt && i.slot = iss.slot
    let met := here.filter fun i => i.mask ≠ m && i.mask &&& m ≠ 0
    match met.head? with
    | some i =>
      let s := { s with insts := s.insts.filter fun x => !(met.any fun i => i.iid = x.iid) }
      let s := s.trapLane ⟨t.lane, 0x01, convAux m i.mask, 0, 0⟩
      s.convFault iss.gid (met.flatMap fun i => i.arr.map fun x => (x.lane, convAux i.mask m))
    | none =>
      let wait := fun (t : Thread) =>
        { t with st := .conv, wword := iss.word, pkt := iss.pkt, slot := iss.restartSlot, pend := t.pend ++ dests }
      let s := s.updT iss.gid t.lane wait
      match here.find? fun i => i.mask = m with
      | some i => { s with insts := s.insts.map fun (x : Inst) => if x.iid = i.iid then { x with arr := x.arr ++ [a] } else x }
      | none =>
        { s with nextId := s.nextId + 1,
                 insts := s.insts ++ [{ iid := s.nextId, gid := iss.gid, pkt := iss.pkt, slot := iss.slot, word := iss.word,
                                        mask := m, op, d, arr := [a] }] }
/-- A cross-lane word: the lanes arrive in ascending order; one that an earlier lane's convergence fault has parked has left
the chain. -/
def crossWord (s : State) (op : XOp) (d : Fld) (dests : List Dest) (mask : Thread → Mask) (arr : Thread → Arrival) : Out :=
  match s.issue with
  | none => .next s
  | some iss =>
    .next ((lanesOf iss.lanes).foldl (fun s lane =>
      match s.issue, s.thread? iss.gid lane with
      | some i, some t =>
        if hasLane i.lanes lane then s.arrive iss t (mask t) op d dests { arr t with set := s.clock } else s
      | _, _ => s) s)

/-! ## Cycles of waiting instances (R161) -/

/-- Whether an instance waits for a lane that another holds waiting. -/
def Inst.waitsFor (i j : Inst) : Bool :=
  i.gid = j.gid && i.iid ≠ j.iid && j.arr.any fun a => hasLane i.mask a.lane && !(i.arr.any fun b => b.lane = a.lane)
/-- The way from an instance back to the first of the path, through instances not on it yet. [DEDUCED: log entry 22] -/
def findCycle (insts : List Inst) (first : Inst) : Nat → Inst → List Inst → Option (List Inst)
  | 0, _, _ => none
  | f + 1, cur, path =>
    if cur.waitsFor first then some path
    else
      (insts.filter fun j => cur.waitsFor j && !(path.any fun p => p.iid = j.iid)).findSome? fun j =>
        findCycle insts first f j (path ++ [j])
/-- The instances of a group that stand on a cycle, each with the mask of the next instance of a cycle through it.
[DEDUCED: log entry 22] -/
def State.onCycles (s : State) (gid : Nat) : List (Inst × Mask) :=
  let insts := s.insts.filter fun i => i.gid = gid
  insts.filterMap fun i => (findCycle insts i insts.length i [i]).map fun path => (i, ((path[1]?).map Inst.mask).getD 0)
/-- Every lane of every instance that stands on a cycle parks; its aux names the next instance of the cycle.
[DEDUCED: log entry 22] -/
def State.convCycle (s : State) (gid : Nat) : State :=
  let l := s.onCycles gid
  let s := { s with insts := s.insts.filter fun i => !(l.any fun x => x.1.iid = i.iid) }
  s.convFault gid (l.flatMap fun x => x.1.arr.map fun a => (a.lane, convAux x.1.mask x.2))

/-! ## Completing an instance (R160, R165, R166) -/

/-- A key in the order of its form. -/
def keyOf (signed : Bool) (x : W64) : Int := if signed then x.toInt else x.toNat
/-- `Merge` of R165, with fuel for both runs. -/
def mergeRuns (signed : Bool) : Nat → List W64 → List W64 → List W64
  | 0, _, _ => []
  | _ + 1, [], ys => ys
  | _ + 1, xs, [] => xs
  | f + 1, x :: xs, y :: ys =>
    if keyOf signed x ≤ keyOf signed y then x :: mergeRuns signed f xs (y :: ys) else y :: mergeRuns signed f (x :: xs) ys
/-- The value that a lane's operand list gives a lane, when it has arrived. -/
def xOf (a : List Arrival) (lane : Nat) : Option W64 := (a.find? fun r => r.lane = lane).map Arrival.x
/-- The source lane of an `xch` form for a receiver (R165). -/
def xchSource (op : XOp) (lane : Nat) (b : W32) : Option Nat :=
  let v : Int := b.toNat % 32
  let z := min (b.toNat / 32 % 8) 5
  let sz := 32 >>> z
  let base := lane - lane % sz
  let src : Int := match op with
    | .xchAt => base + (v.toNat % sz)
    | .xchBack => lane - v
    | .xchFwd => lane + v
    | _ => ((BitVec.ofNat 5 lane ^^^ BitVec.ofNat 5 (v.toNat % sz)).toNat : Int)
  if base ≤ src ∧ src < base + sz then some src.toNat else none
/-- Wrapping sum of w-bit patterns. -/
def sumW (w : Nat) (l : List W64) : W64 := BitVec.ofNat 64 ((l.map BitVec.toNat).sum % 2 ^ w)
/-- The least or greatest w-bit value by a key. -/
def pickW (lt : Int → Int → Bool) (key : W64 → Int) (l : List W64) : W64 :=
  match l with
  | [] => 0
  | x :: xs => xs.foldl (fun m y => if lt (key y) (key m) then y else m) x
/-- The signed value of the low w bits. -/
def sgnW (w : Nat) (x : W64) : Int := (BitVec.ofNat w x.toNat).toInt
/-- The writes of a w-bit result. -/
def wrW (w : Nat) (d : Fld) (v : W64) : List Wr := if w = 64 then wr2 d v else [.g d (v.setWidth 32)]
/-- The float format of a cross-lane form. -/
def xFmt (dbl : Bool) : Fmt := if dbl then f64 else f32
def xW (dbl : Bool) : Nat := if dbl then 64 else 32
/-- Partial sums left to right with the exceptions of all of them (R104). -/
def scanFloat (f : Fmt) : List Nat → List Nat × Exc
  | [] => ([], 0)
  | x :: xs =>
    let r := xs.foldl (fun (acc : List Nat × Exc × Nat) y =>
      let n := redNode .add f acc.2.2 y
      (acc.1 ++ [n.bits], acc.2.1 ||| n.exc, n.bits)) ([x], 0, x)
    (r.1, r.2.1)
/-- Integer partial sums. -/
def scanInt (w : Nat) (l : List W64) : List W64 := (List.range l.length).map fun i => sumW w (l.take (i + 1))
/-- Each arrived lane's writes, in ascending lane order, and the exceptions that every one of them collects (R165).
[DEDUCED: log entry 17] -/
def xResults (op : XOp) (d : Fld) (a : List Arrival) : List (Nat × List Wr) × Exc :=
  let xs := a.map Arrival.x
  let all := fun (ws : List Wr) => (a.map fun r => (r.lane, ws), (0 : Exc))
  let each := fun (f : Arrival → List Wr) => (a.map fun r => (r.lane, f r), (0 : Exc))
  let pd : BitVec 3 := d.extractLsb' 0 3
  let opt := fun (l : List W64) => (List.range 32).map fun i =>
    match a.findIdx? fun r => r.lane = i with
    | some k => (l[k]?).map BitVec.toNat
    | none => none
  let redF := fun (o : RedOp) (dbl : Bool) =>
    let r := laneTree o (xFmt dbl) (opt xs)
    (a.map fun q => (q.lane, wrW (xW dbl) d (BitVec.ofNat 64 r.bits)), r.exc)
  let runs := fun (sg hi : Bool) =>
    let z := mergeRuns sg (2 * a.length) xs (a.map Arrival.y)
    (a.zipIdx.map fun q => (q.1.lane, wr2 d ((z[(if hi then a.length else 0) + q.2]?).getD 0)), (0 : Exc))
  match op with
  | .reconv => all []
  | .pollOr => all [.p pd (a.any Arrival.q)]
  | .pollAnd => all [.p pd (a.all Arrival.q)]
  | .pollSame => all [.p pd (a.all Arrival.q || a.all fun r => !r.q)]
  | .gmask => all [.g d (maskOf ((a.filter Arrival.q).map Arrival.lane))]
  | .xchAt | .xchBack | .xchFwd | .xchFlip =>
    each fun r =>
      let v := match xchSource op r.lane r.b with
        | some l => (xOf a l).getD r.x
        | none => r.x
      [.g d (v.setWidth 32)]
  | .addI w => all (wrW w d (sumW w xs))
  | .minI w => all (wrW w d (pickW (fun x y => decide (x < y)) (sgnW w) xs))
  | .minN w => all (wrW w d (pickW (fun x y => decide (x < y)) (fun x => (x.toNat : Int)) xs))
  | .maxI w => all (wrW w d (pickW (fun x y => decide (y < x)) (sgnW w) xs))
  | .maxN w => all (wrW w d (pickW (fun x y => decide (y < x)) (fun x => (x.toNat : Int)) xs))
  | .addF dbl => redF .add dbl
  | .minF dbl => redF .min dbl
  | .maxF dbl => redF .max dbl
  | .scanI w => ((a.zip (scanInt w xs)).map fun r => (r.1.lane, wrW w d r.2), 0)
  | .scanF dbl =>
    let r := scanFloat (xFmt dbl) (xs.map BitVec.toNat)
    ((a.zip r.1).map fun q => (q.1.lane, wrW (xW dbl) d (BitVec.ofNat 64 q.2)), r.2)
  | .vmrgLo sg => runs sg false
  | .vmrgHi sg => runs sg true
  | .bsort sg =>
    each fun r =>
      let k := r.b.toNat % 8
      let t := r.b.toNat / 8 % 8
      let q := r.lane ^^^ 2 ^ k
      match xOf a q with
      | none => wr2 d r.x
      | some y =>
        let asc : Bool := r.lane / 2 ^ t % 2 = 0
        let keepMin : Bool := decide (r.lane < q) = asc
        let lo := if keyOf sg y < keyOf sg r.x then y else r.x
        let hi := if keyOf sg y < keyOf sg r.x then r.x else y
        wr2 d (if keepMin then lo else hi)
  | .rank sg =>
    each fun r =>
      [.g d (BitVec.ofNat 32 (a.countP fun m =>
        keyOf sg m.x < keyOf sg r.x || (m.x = r.x && decide (m.lane < r.lane))))]
/-- The bits of a `bsort` control that matter. -/
def ctlBits (b : W32) : Nat := b.toNat % 64
/-- The traps of a `bsort` instance (R166): the lanes disagree, or the control is out of range. -/
def bsortTraps (a : List Arrival) : List (Nat × W64) :=
  if a.any fun r => a.any fun q => ctlBits q.b ≠ ctlBits r.b then
    a.map fun r =>
      (r.lane, convAux r.b (((a.find? fun q => ctlBits q.b ≠ ctlBits r.b).map Arrival.b).getD 0))
  else if a.any fun r => !(decide (r.b.toNat % 8 < r.b.toNat / 8 % 8) && decide (r.b.toNat / 8 % 8 ≤ 5)) then
    a.map fun r => (r.lane, r.b.setWidth 64)
  else []
/-- Whether every lane of an instance's mask has arrived or exited (R160). -/
def State.instReady (s : State) (i : Inst) : Bool :=
  i.arr ≠ [] && (lanesOf i.mask).all fun l =>
    (i.arr.any fun a => a.lane = l) ||
    (match s.thread? i.gid l with | some t => t.st = .exited | none => true)
/-- An instance completes: its lanes get their results and go on at the next word, those of a `reconv` as one fetch set, others
in the fetch sets in which they arrived (R145, R160, R165).
[DEDUCED: log entry 17; DEDUCED: log entry 23] -/
def State.completeInst (s : State) (i : Inst) : State :=
  let a := (List.range 32).filterMap fun l => i.arr.find? fun r => r.lane = l
  let s := { s with insts := s.insts.filter fun x => x.iid ≠ i.iid }
  let bad := match i.op with | .bsort _ => bsortTraps a | _ => []
  if bad ≠ [] then s.convFault i.gid bad
  else
    let r := xResults i.op i.d a
    let flag := fun (t : Thread) => { t with fpstat := t.fpstat ||| r.2.setWidth 32 }
    let s := s.mapLanes i.gid (maskOf (a.map Arrival.lane)) flag
    if i.op = .reconv then s.wake i.gid r.1
    else (a.map Arrival.set).dedup.foldl (fun s k =>
      s.wake i.gid (r.1.filter fun x => a.any fun y => y.lane = x.1 && y.set = k)) s

/-! ## Withdrawal (R152) -/

/-- A thread leaves its instance or its wait without completing it; the object it waited on forgets it. [DEDUCED: log entry 21] -/
def State.withdraw (s : State) (gid lane : Nat) : State :=
  let drop := fun (i : Inst) => if i.gid = gid then { i with arr := i.arr.filter fun a => a.lane ≠ lane } else i
  { s with
    insts := (s.insts.map drop).filter fun i => i.arr ≠ [],
    mons := s.mons.filter fun m => !(m.gid = gid && m.lane = lane),
    reqs := s.reqs.filter fun r => !(r.gid = gid && r.lane = lane && (match r.kind with | .mwait _ => true | _ => false) && !s.inFlight r),
    flocks := s.flocks.map fun (f : Flock) => { f with waiters := f.waiters.filter fun w => !(w.gid = gid && w.lane = lane) },
    fab := { s.fab with oq := s.fab.oq.map fun (q : OqEnt) => { q with waiters := q.waiters.filter fun w => w ≠ (gid, lane) } },
    fq := s.fq.map fun (q : FaultQueue) => { q with waiters := q.waiters.filter fun w => w ≠ (gid, lane) },
    kernels := s.kernels.map fun (k : Kernel) => { k with waiters := k.waiters.filter fun w => w ≠ (gid, lane) },
    lnchq := s.lnchq.filter fun w => w ≠ (gid, lane),
    sdns := s.sdns.map fun (x : Sdn) => if x.gid = gid && x.lane = lane then { x with gid := 0, lane := 0 } else x,
    threads := s.threads.map fun t => if t.is gid lane then { t with wait := none } else t }

/-! ## The words -/

/-- An arrival with operands. -/
def arrOf (t : Thread) (x y : W64) (b : W32) (q : Bool) : Arrival := ⟨t.lane, 0, x, y, b, q⟩
/-- A predicate form: p destination, predicate source, mask in b. -/
def pollWord (s : State) (op : XOp) (p : BitVec 3) (q : BitVec 3) (b : Fld) : Out :=
  crossWord s op (p.setWidth 6) (if p = 7 then [] else [.p p]) (fun t => rd t b) (fun t => arrOf t 0 0 0 (rdP t q))
/-- An `xch` form: the segment operand in g[b], the mask in g[b+1]. -/
def xchWord (s : State) (op : XOp) (d a b : Fld) : Out :=
  crossWord s op d [.g d] (fun t => rd t (b + 1)) (fun t => arrOf t ((rd t a).setWidth 64) 0 (rd t b) false)
/-- A 32-bit reduction, scan. -/
def red32 (s : State) (op : XOp) (d a b : Fld) : Out :=
  crossWord s op d [.g d] (fun t => rd t b) (fun t => arrOf t ((rd t a).setWidth 64) 0 0 false)
/-- A 64-bit reduction, scan. -/
def red64 (s : State) (op : XOp) (d a b : Fld) : Out :=
  crossWord s op d (destsOf (wr2 d 0)) (fun t => rd t b) (fun t => arrOf t (rd2 t a) 0 0 false)
/-- A merge form. -/
def vmrgWord (s : State) (op : XOp) (d a b : Fld) : Out :=
  crossWord s op d (destsOf (wr2 d 0)) (fun t => rd t b) (fun t => arrOf t (rd2 t a) (rd2 t (a + 2)) 0 false)
/-- A `bsort` form: the control in g[b], the mask in g[b+1]. -/
def bsortWord (s : State) (op : XOp) (d a b : Fld) : Out :=
  crossWord s op d (destsOf (wr2 d 0)) (fun t => rd t (b + 1)) (fun t => arrOf t (rd2 t a) 0 (rd t b) false)
/-- A `rank` form. -/
def rankWord (s : State) (op : XOp) (d a b : Fld) : Out :=
  crossWord s op d [.g d] (fun t => rd t b) (fun t => arrOf t (rd2 t a) 0 0 false)

/-- R160. Waits until every lane of the mask has arrived or exited, then releases the arrived lanes as one fetch set. -/
def execReconv (_cs : CS) (a : BitVec 6) (s : State) : Out :=
  crossWord s .reconv 0 [] (fun t => rd t a) (fun t => arrOf t 0 0 0 false)

/-- R165. Writes to each arrived lane the OR of the lanes' predicates. -/
def execPollOr (_cs : CS) (p q : BitVec 3) (b : BitVec 6) (s : State) : Out :=
  pollWord s .pollOr p q b

/-- R165. Writes to each arrived lane the AND of the lanes' predicates. -/
def execPollAnd (_cs : CS) (p q : BitVec 3) (b : BitVec 6) (s : State) : Out :=
  pollWord s .pollAnd p q b

/-- R165. Writes to each arrived lane whether all the lanes' predicates are equal. -/
def execPollSame (_cs : CS) (p q : BitVec 3) (b : BitVec 6) (s : State) : Out :=
  pollWord s .pollSame p q b

/-- R165. Writes the mask of the arrived lanes whose predicate is set. -/
def execGmask (_cs : CS) (d : BitVec 6) (q : BitVec 3) (b : BitVec 6) (s : State) : Out :=
  crossWord s .gmask d [.g d] (fun t => rd t b) (fun t => arrOf t 0 0 0 (rdP t q))

/-- R165. Gives each lane the value of the lane at a given index within its segment. -/
def execXchAt (_cs : CS) (d a b : BitVec 6) (s : State) : Out :=
  xchWord s .xchAt d a b

/-- R165. Gives each lane the value of the lane v places below it. -/
def execXchBack (_cs : CS) (d a b : BitVec 6) (s : State) : Out :=
  xchWord s .xchBack d a b

/-- R165. Gives each lane the value of the lane v places above it. -/
def execXchFwd (_cs : CS) (d a b : BitVec 6) (s : State) : Out :=
  xchWord s .xchFwd d a b

/-- R165. Gives each lane the value of the lane whose index is its own XORed with v. -/
def execXchFlip (_cs : CS) (d a b : BitVec 6) (s : State) : Out :=
  xchWord s .xchFlip d a b

/-- R165. Adds the 32-bit values of the arrived lanes, wrapping, and gives the sum to every lane. -/
def execRedAddI32 (_cs : CS) (d a b : BitVec 6) (s : State) : Out :=
  red32 s (.addI 32) d a b

/-- R165. Gives every lane the signed 32-bit minimum over the arrived lanes. -/
def execRedMinI32 (_cs : CS) (d a b : BitVec 6) (s : State) : Out :=
  red32 s (.minI 32) d a b

/-- R165. Gives every lane the unsigned 32-bit minimum over the arrived lanes. -/
def execRedMinN32 (_cs : CS) (d a b : BitVec 6) (s : State) : Out :=
  red32 s (.minN 32) d a b

/-- R165. Gives every lane the signed 32-bit maximum over the arrived lanes. -/
def execRedMaxI32 (_cs : CS) (d a b : BitVec 6) (s : State) : Out :=
  red32 s (.maxI 32) d a b

/-- R165. Gives every lane the unsigned 32-bit maximum over the arrived lanes. -/
def execRedMaxN32 (_cs : CS) (d a b : BitVec 6) (s : State) : Out :=
  red32 s (.maxN 32) d a b

/-- R103. Adds the f32 values of the arrived lanes in the fixed tree and gives the sum to every lane. -/
def execRedAddF32 (_cs : CS) (d a b : BitVec 6) (s : State) : Out :=
  red32 s (.addF false) d a b

/-- R165. Gives every lane the f32 minimum over the arrived lanes, taken in the fixed tree. -/
def execRedMinF32 (_cs : CS) (d a b : BitVec 6) (s : State) : Out :=
  red32 s (.minF false) d a b

/-- R165. Gives every lane the f32 maximum over the arrived lanes, taken in the fixed tree. -/
def execRedMaxF32 (_cs : CS) (d a b : BitVec 6) (s : State) : Out :=
  red32 s (.maxF false) d a b

/-- R165. Gives each lane the wrapping 32-bit sum over the arrived lanes at or below it. -/
def execScanAddI32 (_cs : CS) (d a b : BitVec 6) (s : State) : Out :=
  red32 s (.scanI 32) d a b

/-- R104. Gives each lane the f32 prefix sum over the arrived lanes, added left to right. -/
def execScanAddF32 (_cs : CS) (d a b : BitVec 6) (s : State) : Out :=
  red32 s (.scanF false) d a b

/-- R165. Adds the 64-bit values of the arrived lanes, wrapping, and gives the sum to every lane. -/
def execRedAddI64 (_cs : CS) (d a b : BitVec 6) (s : State) : Out :=
  red64 s (.addI 64) d a b

/-- R165. Gives every lane the signed 64-bit minimum over the arrived lanes. -/
def execRedMinI64 (_cs : CS) (d a b : BitVec 6) (s : State) : Out :=
  red64 s (.minI 64) d a b

/-- R165. Gives every lane the unsigned 64-bit minimum over the arrived lanes. -/
def execRedMinN64 (_cs : CS) (d a b : BitVec 6) (s : State) : Out :=
  red64 s (.minN 64) d a b

/-- R165. Gives every lane the signed 64-bit maximum over the arrived lanes. -/
def execRedMaxI64 (_cs : CS) (d a b : BitVec 6) (s : State) : Out :=
  red64 s (.maxI 64) d a b

/-- R165. Gives every lane the unsigned 64-bit maximum over the arrived lanes. -/
def execRedMaxN64 (_cs : CS) (d a b : BitVec 6) (s : State) : Out :=
  red64 s (.maxN 64) d a b

/-- R103. Adds the f64 values of the arrived lanes in the fixed tree and gives the sum to every lane. -/
def execRedAddF64 (_cs : CS) (d a b : BitVec 6) (s : State) : Out :=
  red64 s (.addF true) d a b

/-- R165. Gives every lane the f64 minimum over the arrived lanes, taken in the fixed tree. -/
def execRedMinF64 (_cs : CS) (d a b : BitVec 6) (s : State) : Out :=
  red64 s (.minF true) d a b

/-- R165. Gives every lane the f64 maximum over the arrived lanes, taken in the fixed tree. -/
def execRedMaxF64 (_cs : CS) (d a b : BitVec 6) (s : State) : Out :=
  red64 s (.maxF true) d a b

/-- R165. Gives each lane the wrapping 64-bit sum over the arrived lanes at or below it. -/
def execScanAddI64 (_cs : CS) (d a b : BitVec 6) (s : State) : Out :=
  red64 s (.scanI 64) d a b

/-- R104. Gives each lane the f64 prefix sum over the arrived lanes, added left to right. -/
def execScanAddF64 (_cs : CS) (d a b : BitVec 6) (s : State) : Out :=
  red64 s (.scanF true) d a b

/-- R165. Merges two unsigned 64-bit runs held across the lanes and gives each lane its element of the lower half. -/
def execVmrgLoN64 (_cs : CS) (d a b : BitVec 6) (s : State) : Out :=
  vmrgWord s (.vmrgLo false) d a b

/-- R165. Merges two unsigned 64-bit runs held across the lanes and gives each lane its element of the upper half. -/
def execVmrgHiN64 (_cs : CS) (d a b : BitVec 6) (s : State) : Out :=
  vmrgWord s (.vmrgHi false) d a b

/-- R166. Performs one bitonic compare-exchange step on unsigned 64-bit keys across the lanes. -/
def execBsortN64 (_cs : CS) (d a b : BitVec 6) (s : State) : Out :=
  bsortWord s (.bsort false) d a b

/-- R165. Gives each lane the stable rank of its unsigned 64-bit key among the arrived lanes. -/
def execRankN64 (_cs : CS) (d a b : BitVec 6) (s : State) : Out :=
  rankWord s (.rank false) d a b

/-- R165. Merges two signed 64-bit runs held across the lanes and gives each lane its element of the lower half. -/
def execVmrgLoI64 (_cs : CS) (d a b : BitVec 6) (s : State) : Out :=
  vmrgWord s (.vmrgLo true) d a b

/-- R165. Merges two signed 64-bit runs held across the lanes and gives each lane its element of the upper half. -/
def execVmrgHiI64 (_cs : CS) (d a b : BitVec 6) (s : State) : Out :=
  vmrgWord s (.vmrgHi true) d a b

/-- R166. Performs one bitonic compare-exchange step on signed 64-bit keys across the lanes. -/
def execBsortI64 (_cs : CS) (d a b : BitVec 6) (s : State) : Out :=
  bsortWord s (.bsort true) d a b

/-- R165. Gives each lane the stable rank of its signed 64-bit key among the arrived lanes. -/
def execRankI64 (_cs : CS) (d a b : BitVec 6) (s : State) : Out :=
  rankWord s (.rank true) d a b

/-- R160. A convergence or cross-lane instance whose lanes have all arrived or exited delivers its results and releases its lanes. -/
def execInstanceComplete (iid : Nat) (s : State) : Out :=
  match s.insts.find? fun i => i.iid = iid with
  | some i => .next (if s.instReady i then s.completeInst i else s)
  | none => .next s

end Sys2Proof.Machine
end

