-- ==== Sys2Proof/WellFormed.lean ====
section
/-! DEFINITION. Well-formed instructions: register classes (R49), the registers that a thread owns (R44) and the field
values that a form allows (R8). A word that decodes but is not well-formed raises the illegal-instruction trap. -/
namespace Sys2Proof
open Machine

/-- A thread with N registers owns g0 to g(N-2) and g63 (R44). -/
def owned (n r : Nat) : Bool := r + 1 < n || r = 63

/-- The class constraint of one operand (R49): aligned, and within its file. -/
def Opnd.classOk (o : Machine.Opnd) : Bool :=
  match o.file with
  | .g => o.r % o.al = 0 && o.r + o.n ≤ 64
  | .p => o.r < 8
  | .h => o.r < 32

/-- Every g register of an operand is owned (R44). -/
def Opnd.ownedOk (n : Nat) (o : Machine.Opnd) : Bool :=
  match o.file with
  | .g => (List.range o.n).all fun i => owned n (o.r + i)
  | _ => true

/-- A prefix word has C set (R50, R52). -/
def prefixOk : Instr → Bool
  | .imx cs _ => cs.c
  | _ => true

/-- The static checks of a word, whatever thread issues it. -/
def wf (i : Instr) : Bool := prefixOk i && rangeOk i && (opnds i).all Opnd.classOk

/-- Well-formed for a thread allocated `n` registers. -/
def wfFor (n : Nat) (i : Instr) : Bool := wf i && (opnds i).all (Opnd.ownedOk n)

end Sys2Proof
end

