-- ==== Sys2Proof/Machine/Control.lean ====
section
/-! DEFINITION. Control flow and the CTL words: transfers and their targets (R33, R34, R156, R157), special registers (R46,
R47, R348), `brk`, `exit`, `yld`, `sys`, `iret` (R158), and signal frames (R352 to R355). -/
namespace Sys2Proof.Machine

/-! ## Targets of a transfer (R33) -/

/-- The fault of a transfer to a packet index: outside the CODE handle's bound, or in memory without execute right. A
shepherd's code is the firmware image. -/
def State.badTarget (s : State) (g : Group) (tgt : Int) : Option (Byte × W64) :=
  let aux : W64 := (BitVec.ofInt 32 tgt).setWidth 64
  if g.shep then
    let size : Nat := match s.plat.image with | some i => i.size | none => 0
    if tgt < 0 ∨ (size : Int) < 12 * tgt + 12 then some (0x13, aux) else none
  else
    let e := g.code.ent
    if tgt < 0 ∨ 2 ^ 32 ≤ tgt ∨ (heLen e : Int) < 12 * tgt + 12 then some (0x13, aux)
    else
      let noX := fun (va : Nat) => match s.xlWalk g.ctx va .fetch with | .fault 0x11 _ => true | _ => false
      let va := heBase e + 12 * tgt.toNat
      if !heRight e 2 || noX va || noX (va + 11) then some (0x11, aux) else none
/-- Adds a lane's transfer to the open chain; it takes effect when the chain ends (R37). -/
def State.addXfer (s : State) (lane : Nat) (pkt : W32) (slot : BitVec 2) : State :=
  match s.issue with
  | none => s
  | some iss => { s with issue := some { iss with xfer := iss.xfer ++ [(lane, pkt, slot)] } }
/-- A transfer word: the target of each lane that transfers, validated before anything changes (R156); `link` writes the
return packet to g63. -/
def transfer (s : State) (link : Bool) (tgt : Issue → Thread → Option Int) : Out :=
  .next (s.laneFold fun iss s t =>
    match tgt iss t with
    | none => .ok s
    | some x =>
      match s.badTarget (s.group iss.gid) x with
      | some (c, a) => .trap s c a 0 0
      | none =>
        let s := s.addXfer t.lane (BitVec.ofInt 32 x) 0
        .ok (if link then s.updT iss.gid t.lane fun t => t.put [.g 63 (iss.pkt + 1)] else s))
/-- The packet that a PC-relative form names (R34). -/
def relTarget {w : Nat} (iss : Issue) (off : BitVec w) : Int := iss.pkt.toNat + off.toInt
/-- Sets what the end of the chain does. -/
def State.setFin (s : State) (f : Issue → Fin) : State :=
  match s.issue with
  | none => s
  | some iss => { s with issue := some { iss with fin := some (f iss) } }

/-! ## Special registers (R46, R47, R348) -/

/-- The state word of a group (R154). -/
def State.gstate (s : State) (g : Group) : W32 := BitVec.ofNat 32 (boolBit g.step + g.nfs * 2 ^ 8 + s.npark g.gid * 2 ^ 16)
/-- The value of a selector for a thread. -/
def State.selValue (s : State) (g : Group) (t : Thread) (k : Fld) : W64 :=
  let n := fun (x : Nat) => BitVec.ofNat 64 x
  let tr := fun (f : TrapRec → W64) => match s.target g t with | some x => f x.trr | none => 0
  match k.toNat with
  | 0 => n t.lane | 1 => n g.grp | 2 => n g.flk | 3 => n g.flk | 4 => n g.herd
  | 0x10 => s.ptime
  | 0x11 => t.octl.setWidth 64
  | 0x12 => t.fpstat.setWidth 64
  | 0x13 => t.rwc
  | 0x14 => n g.ctx
  | 0x20 => t.tgt.setWidth 64
  | 0x21 => tr fun r => r.cause.setWidth 64
  | 0x22 => tr TrapRec.aux
  | 0x23 => tr fun r => r.word.setWidth 64
  | 0x24 => tr fun r => r.pkt.setWidth 64
  | 0x25 => tr fun r => r.slot.setWidth 64
  | 0x26 => (match s.target g t with | some x => (s.gstate (s.group x.gid)).setWidth 64 | none => 0)
  | 0x27 => tr fun r => BitVec.ofNat 64 (r.opkt.toNat + r.oslot.toNat * 2 ^ 32)
  | 8 => if g.lvl = [] then 0 else n t.lane
  | i => if 8 < i ∧ i < 16 then ((g.lvl[i - 8]?).getD 0).setWidth 64 else 0
/-- Every result that is known lands, as `rds %fpstat` waits for the flags of older words (R110). -/
def Thread.landKnown (t : Thread) : Thread := (t.outst.filter fun r => r.need = 0).foldl Thread.land t
/-- Changes a field of the target's trap record. -/
def TrapRec.setSel (r : TrapRec) (k : Fld) (v : W64) : TrapRec :=
  match k.toNat with
  | 0x21 => { r with cause := v.setWidth 8 }
  | 0x22 => { r with aux := v }
  | 0x23 => { r with word := v.setWidth 32 }
  | 0x24 => { r with pkt := v.setWidth 32 }
  | 0x25 => { r with slot := v.setWidth 2 }
  | 0x27 => { r with opkt := v.setWidth 32, oslot := v.extractLsb' 32 2 }
  | _ => r
/-- Writes a selector for a thread (R47, R348); reserved bits are dropped (R77, R78). Flags that a higher-slot word of the chain raises
are added to what `%fpstat` was written. [DESIGN CHOICE: log entry 74] -/
def State.selWrite (s : State) (g : Group) (t : Thread) (k : Fld) (v : W64) : State :=
  let upd := fun (f : Thread → Thread) => s.updT t.gid t.lane f
  match k.toNat with
  | 0x11 => upd fun t => { t.landSx with fpctl := v.setWidth 32 &&& 0x1F07 }
  | 0x12 => upd fun t => { t.landSx with fpstat := v.setWidth 32 &&& 0x1F }
  | 0x20 => upd fun t => { t with tgt := v.setWidth 32 &&& 0x3FFF }
  | _ =>
    match s.target g t with
    | none => s
    | some x =>
      if k = 0x26 then s.updGroup x.gid fun g => { g with step := v.getLsbD 0 }
      else s.updT x.gid x.lane fun x => { x with trr := x.trr.setSel k v }
/-- `rds` of an assigned selector by every lane: a variable-latency result (R38). `%ptime` is logged (R396, kind 5). -/
def rdsWord (s : State) (d k : Fld) : Out :=
  .next (s.laneFold fun iss s t =>
    let g := s.group iss.gid
    let s := if k = 0x12 then s.updT t.gid t.lane Thread.landKnown else s
    let t := (s.thread? t.gid t.lane).getD t
    let v := s.selValue g t k
    let l := if k = 0x10 then s.logged t.gid t.lane 5 0x10 v [] else (v, [], s)
    let ws := if selWidth k = 2 then wr2 d l.1 else [Wr.g d (l.1.setWidth 32)]
    .ok (l.2.2.updT t.gid t.lane fun t => t.await (Result.known t.nextRes ws 0 false)))
/-- `wrs` of a writable selector by every lane. -/
def wrsWord (s : State) (a k : Fld) : Out :=
  .next (s.laneFold fun iss s t =>
    .ok (s.selWrite (s.group iss.gid) t k (if selWidth k = 2 then rd2 t a else (rd t a).setWidth 64)))

/-! ## Signal frames (R352 to R355) -/

/-- A trap record as its 32 bytes (R349). -/
def TrapRec.image (r : TrapRec) : Nat :=
  r.pkt.toNat + r.slot.toNat * 2 ^ 32 + r.cause.toNat * 2 ^ 40 + r.aux.toNat * 2 ^ 64 + r.word.toNat * 2 ^ 128 +
  r.opkt.toNat * 2 ^ 160 + r.oslot.toNat * 2 ^ 192
/-- A trap record from its 32 bytes. -/
def TrapRec.ofImage (n : Nat) : TrapRec :=
  ⟨BitVec.ofNat 32 n, BitVec.ofNat 2 (n / 2 ^ 32), BitVec.ofNat 8 (n / 2 ^ 40), BitVec.ofNat 64 (n / 2 ^ 64),
   BitVec.ofNat 32 (n / 2 ^ 128), BitVec.ofNat 32 (n / 2 ^ 160), BitVec.ofNat 2 (n / 2 ^ 192)⟩
/-- A handle register in a frame (R352). -/
def HReg.image (h : HReg) : Nat := h.idx.toNat + boolBit h.loaded * 2 ^ 15 + (heGen h.ent).toNat * 2 ^ 32
/-- p0 to p6 as bits. -/
def predBits (r : Regs) : Nat := ((List.range 7).map fun i => boolBit ((r.p[i]?).getD false) * 2 ^ i).sum
/-- A signal frame (R352). -/
def frameBytes (n : Nat) (t : Thread) (sig : Nat) (value : W64) (r : TrapRec) : List Byte :=
  ((List.range 64).flatMap fun i => bytesOf 4 (if owned n i then ((t.regs.g[i]?).getD 0).toNat else 0)) ++
  (t.regs.h.toList.flatMap fun h => bytesOf 8 h.image) ++
  bytesOf 32 r.image ++ bytesOf 4 (predBits t.regs) ++ bytesOf 4 t.fpctl.toNat ++
  bytesOf 4 t.fpstat.toNat ++ bytesOf 4 sig ++ bytesOf 8 value.toNat ++ List.replicate 456 0
/-- The eight-byte places of a frame through a handle, or the fault of the first that fails. -/
def State.framePlaces (s : State) (g : Group) (h : HReg) (off : Int) (right : Nat) (acc : Acc) :
    (Except (Byte × W64 × BitVec 3 × Nat) (List Place)) × State :=
  (List.range 128).foldl (fun (r : (Except (Byte × W64 × BitVec 3 × Nat) (List Place)) × State) (i : Nat) =>
    match r.1 with
    | .error _ => r
    | .ok l =>
      match r.2.place g h (off + 8 * i) 8 right 2 acc with
      | (.bad c a x k, s) => (.error (c, a, x, k), s)
      | (.ok (.ft va), s) =>
        let s := s.serveFirstTouch g.pcore g.ctx va (acc = .write)
        (match s.peek g.ctx va acc with
         | some pa => (.ok (l ++ [.mem pa]), s)
         | none => (.error (0x10, BitVec.ofNat 64 va, acc.bit, 1), s))
      | (.ok p, s) => (.ok (l ++ [p]), s)) (.ok [], s)
/-- The spaces that a signal frame may use. -/
def frameSpace (h : HReg) : Bool := heSpace h.ent = .global || heSpace h.ent = .near || heSpace h.ent = .scratch
/-- Writes a frame with WT stores. -/
def State.frameWrite (s : State) (ctx : Nat) (ps : List Place) (bs : List Byte) : State :=
  ps.zipIdx.foldl (fun s p =>
    let part := (bs.drop (8 * p.2)).take 8
    match p.1 with
    | .scr fid a => s.scrWrite fid a part
    | .mem pa => s.cohWrite ctx pa part
    | _ => s) s
/-- Reads a frame. -/
def State.frameRead (s : State) (ps : List Place) : List Byte :=
  ps.flatMap fun p =>
    match p with
    | .scr fid a => s.scrRead fid a 8
    | .mem pa => s.cohRead pa 8
    | _ => List.replicate 8 0
/-- The registers that a frame restores (R355). -/
def State.frameRegs (s : State) (ctx n : Nat) (r : Regs) (bs : List Byte) : Regs :=
  let w := fun (o k : Nat) => natOf ((bs.drop o).take k)
  let gs := (List.range 64).filterMap fun i => if owned n i then some (Wr.g (BitVec.ofNat 6 i) (BitVec.ofNat 32 (w (4 * i) 4))) else none
  let ps := (List.range 7).map fun i => Wr.p (BitVec.ofNat 3 i) ((w 0x220 4).testBit i)
  let hs := (List.range 32).map fun i =>
    let v := w (0x100 + 8 * i) 8
    let idx : BitVec 12 := BitVec.ofNat 12 v
    let h : HReg :=
      if v.testBit 15 then ⟨true, idx, heWithGen ((s.tableEntry ctx idx.toNat).getD 0) (BitVec.ofNat 32 (v / 2 ^ 32)), false⟩
      else HReg.reset
    Wr.h (BitVec.ofNat 5 i) h
  r.writes (gs ++ ps ++ hs)
/-- `sigret` of one lane (R355). -/
def State.laneSigret (s : State) (iss : Issue) (t : Thread) : StepRes :=
  let g := s.group iss.gid
  let c := s.ctx? g.ctx
  let sp : Nat := match c with | some c => (rd t c.sigsp).toNat | none => 0
  let h := match c with | some c => rdH t c.sigh | none => HReg.reset
  let aux := BitVec.ofNat 64 sp
  if t.depth = 0 then .trap s 0x01 aux 0 0
  else if s.usable g h && !frameSpace h then .trap s 0x11 aux 1 0
  else
    match s.framePlaces g h sp 0 .read with
    | (.error e, s) => .trap s e.1 e.2.1 e.2.2.1 e.2.2.2
    | (.ok ps, s) =>
      let bs := s.frameRead ps
      let w := fun (o k : Nat) => natOf ((bs.drop o).take k)
      let sig := w 0x22C 4
      if sig = 0 ∨ 63 < sig then .trap s 0x01 aux 0 0
      else
        let r := TrapRec.ofImage (w 0x200 32)
        let s' := s.updT t.gid t.lane fun t =>
          { t with regs := s.frameRegs g.ctx g.regsN t.regs bs, trr := r, depth := t.depth - 1, pend := [], outst := [],
                   fpctl := BitVec.ofNat 32 (w 0x224 4) &&& 0x1F07, fpstat := BitVec.ofNat 32 (w 0x228 4) &&& 0x1F }
        .ok (s'.addXfer t.lane r.pkt r.slot)
/-- The entry of the signal table: handler and action; none where it cannot be read (R351, R354). -/
def State.sigEntry (s : State) (ctx n : Nat) : Option (W32 × Nat) :=
  match s.ctx? ctx with
  | none => none
  | some c =>
    match s.vaRead ctx (c.sigtab + 16 * n) 16 with
    | some bs => some (BitVec.ofNat 32 (natOf bs), natOf bs / 2 ^ 32 % 4)
    | none => none
/-- The thread that a signal redirects: READY at the handler, or PARKED with the handler as its restart point (R152).
[DEDUCED: log entry 43] -/
def State.redirect (s : State) (t : Thread) (handler : W32) : State :=
  if t.st = .parked then s.updT t.gid t.lane fun t => { t with trr := { t.trr with pkt := handler, slot := 0 }, pkt := handler, slot := 0 }
  else
    let s := s.withdraw t.gid t.lane
    let s := s.updT t.gid t.lane fun t => { t with st := .ready, pend := [], wait := none, pkt := handler, slot := 0 }
    (s.enset t.gid (laneBit t.lane)).recordRelease (s.group t.gid)
/-- SIGNAL DELIVERY to a thread whose results are in (R354): the status, and the state after it. [DEDUCED: log entry 43] -/
def State.deliverSignal (s : State) (t : Thread) (n : Nat) (value : W64) : W32 × State :=
  let g := s.group t.gid
  match s.ctx? g.ctx with
  | none => (1, s)
  | some c =>
    let s := s.touchRead g.ctx (c.sigtab + 16 * n) 16
    match s.sigEntry g.ctx n with
    | none => (7, s)
    | some (handler, act) =>
      if act = 1 then (6, s) else if act ≠ 2 then (5, s) else if t.depth = 8 then (3, s)
      else
        let sp := (nowG t c.sigsp).toNat
        let h := t.regs.h.get c.sigh.toFin
        if !owned g.regsN c.sigsp.toNat || sp % 64 ≠ 0 || !frameSpace h then (2, s)
        else
          match s.framePlaces g h ((sp : Int) - 1024) 1 .write with
          | (.error _, _) => (2, s)
          | (.ok ps, s) =>
            let r := if t.st = .parked then t.trr else ⟨t.pkt, t.slot, 0, 0, 0, 0, 0⟩
            let s := s.frameWrite g.ctx ps (frameBytes g.regsN t n value r)
            let sp' : W32 := BitVec.ofNat 32 (sp - 1024)
            let upd := fun (t : Thread) =>
              { t.put ([Wr.g c.sigsp sp', Wr.g 0 (BitVec.ofNat 32 n), Wr.g 1 sp'] ++ wr2 2 value) with depth := t.depth + 1 }
            (0, (s.updT t.gid t.lane upd).redirect t handler)

/-! ## The words -/

/-- R32. Does nothing and occupies no pipe. -/
def execNop (_cs : CS) (s : State) : Out :=
  .next s

/-- R158. Takes a breakpoint trap, cause 0x03, with aux set to the code. -/
def execBrk (_cs : CS) (k : BitVec 6) (s : State) : Out :=
  .next (s.setFin fun iss => .brk k iss.word iss.slot)

/-- R158. Collects the thread's outstanding results, then moves the thread to EXITED. -/
def execExit (_cs : CS) (s : State) : Out :=
  .next (s.setFin fun _ => .exit)

/-- R158. Ranks the fetch set last until every other ready fetch set of the core has been offered one issue. -/
def execYld (_cs : CS) (s : State) : Out :=
  match s.issue with
  | none => .next s
  | some iss =>
    let mark := fun (f : FSet) => if f.lanes &&& iss.lanes = 0 then f else { f with yld := true }
    .next (s.updGroup iss.gid fun g => { g with fsets := g.fsets.map mark })

/-- R356. Acts as a fence and parks the thread with cause 0x05 so that its system call can be relayed. -/
def execSys (_cs : CS) (s : State) : Out :=
  match s.issue with
  | none => .next s
  | some iss =>
    let g := s.group iss.gid
    let s := s.acquireCore g.pcore
    match s.ctx? g.ctx with
    | some c =>
      if c.forwards iss.pkt then transfer s true fun _ _ => some (c.libent.toNat : Int)
      else .next (s.setFin fun iss => .sys iss.word iss.slot)
    | none => .next (s.setFin fun iss => .sys iss.word iss.slot)

/-- R355. Restores the thread from its signal frame and resumes it at the restart point held there. -/
def execSigret (_cs : CS) (s : State) : Out :=
  .next (s.laneFold fun iss s t => s.laneSigret iss t)

/-- R158. Reads a special register into a general register, with variable latency. -/
def execRds (_cs : CS) (d k : BitVec 6) (s : State) : Out :=
  if !selAssigned k then .next (s.decodeTrap 0x01)
  else if selPriv k then priv s fun s => rdsWord s d k else rdsWord s d k

/-- R158. Writes a general register to a special register. -/
def execWrs (_cs : CS) (a k : BitVec 6) (s : State) : Out :=
  if !selAssigned k || !selWritable k then .next (s.decodeTrap 0x01)
  else if selPriv k then priv s fun s => wrsWord s a k else wrsWord s a k

/-- R347. Ends the shepherd thread's handling of its current entry and returns the thread to idle. -/
def execIret (_cs : CS) (s : State) : Out :=
  priv s fun s =>
  match s.issue with
  | none => .next s
  | some iss =>
    let g := s.group iss.gid
    let bad := (lanesOf iss.lanes).filter fun l => !(g.shep && (s.core g.pcore).handling.contains l)
    .next ((s.setFin fun _ => .iret).trapLanes (bad.map fun l => ⟨l, 0x01, 0, 0, 0⟩))

/-- R157. Branches by a packet offset when the predicate, negated if neg is set, is true. -/
def execBr (_cs : CS) (n : BitVec 1) (p : BitVec 3) (o : BitVec 20) (s : State) : Out :=
  transfer s false fun iss t => if rdP t p = decide (n = 0) then some (relTarget iss o) else none

/-- R157. Jumps by a 24-bit packet offset. -/
def execJmp (_cs : CS) (o : BitVec 24) (s : State) : Out :=
  transfer s false fun iss _ => some (relTarget iss o)

/-- R157. Writes the return packet index to g63 and jumps by a packet offset. -/
def execCall (_cs : CS) (o : BitVec 24) (s : State) : Out :=
  transfer s true fun iss _ => some (relTarget iss o)

/-- R157. Jumps to the packet index held in a register. -/
def execJmpi (_cs : CS) (a : BitVec 6) (s : State) : Out :=
  transfer s false fun _ t => some ((rd t a).toNat : Int)

/-- R157. Writes the return packet index to g63 and jumps to the packet index held in a register. -/
def execCalli (_cs : CS) (a : BitVec 6) (s : State) : Out :=
  transfer s true fun _ t => some ((rd t a).toNat : Int)

/-- R157. Jumps to the packet index held in g63. -/
def execRet (_cs : CS) (s : State) : Out :=
  transfer s false fun _ t => some ((rd t 63).toNat : Int)

/-- R51. Supplies a 24-bit immediate to the word chained after it. -/
def execImx (_cs : CS) (i : BitVec 24) (s : State) : Out :=
  match s.issue with
  | none => .next s
  | some iss => .next { s with issue := some { iss with imm := some i } }

end Sys2Proof.Machine
end

