-- ==== Sys2Proof/Machine/HomeEvents.lean ====
section
/-! DEFINITION. The events of the homes: requests taken, messages delivered, retries and evictions (R174, R178, R181 to R183),
outside agents and the proxy home (R185, R186), mirror windows (R189, R190), POD accesses (R199, R370, R417) and storage
(R369). -/
namespace Sys2Proof.Machine

/-! ## Messages (R178) -/

/-- The agent of a message. -/
def Msg.agent : Msg → Agent
  | .recall c _ | .response c _ _ | .invalidate c _ | .ack c _ | .writeback c _ _ => c
def Msg.word : Msg → Nat
  | .recall _ w | .response _ w _ | .invalidate _ w | .ack _ w | .writeback _ w _ => w
/-- Whether a message goes to the agent. -/
def Msg.down : Msg → Bool
  | .recall _ _ | .invalidate _ _ => true
  | _ => false
/-- Whether an older message between the same two is still on its way in the same direction. -/
def State.overtakes (s : State) (m : Msg) : Bool :=
  (s.msgs.takeWhile (· ≠ m)).any fun x =>
    x.agent = m.agent && x.down = m.down && s.homeOf x.word = s.homeOf m.word
/-- Delivers the oldest message that a test picks, when nothing between the same two is older. -/
def State.deliver (s : State) (p : Msg → Bool) (f : State → Msg → State) : State :=
  match s.msgs.find? p with
  | none => s
  | some m => if s.overtakes m then s else f { s with msgs := s.msgs.erase m } m
/-- A core takes a recall: it returns the word that it owns, or discards the recall (R181). -/
def State.takeRecall (s : State) (c w : Nat) : State :=
  match s.l1? c w with
  | some l =>
    if l.st = .own then { s with l1 := s.l1.filter (fun x => !x.is c w), msgs := s.msgs ++ [.response c w (some l.val)] } else s
  | none => s
/-- A home takes an owner's writeback: as the response to its recall when one is out (R181). -/
def State.takeWriteback (s : State) (c w : Nat) (v : W32) : State :=
  match s.dirOf w with
  | .owned o => if o = c then { s with mem := memWrite s.mem w (bytesOf 4 v.toNat) }.setDir w (.clean []) else s
  | .recall o _ => if o = c then s.recalled w (some v) else s
  | .kept o held =>
    if o = c then s.keptBack w held v else s
  | _ => s
/-- A sharer takes an invalidation: it drops its copy and acknowledges. -/
def State.takeInvalidate (s : State) (a w : Nat) : State :=
  { s with l1 := s.l1.filter (fun l => !(l.is a w && l.st ≠ L1St.own)), msgs := s.msgs ++ [.ack a w] }
/-! ## Requests -/

/-- Takes a request when it is of a kind that an event names. -/
def State.takeKind (s : State) (id : Nat) (p : ReqKind → Bool) : State :=
  match s.req? id with
  | some r => if p r.kind then s.tryTake id else s
  | none => s
def ReqKind.isRead : ReqKind → Bool
  | .read _ | .hostRead | .sdRead | .mwait _ => true
  | _ => false
def ReqKind.isOwn : ReqKind → Bool
  | .ownLoad | .ownStore => true
  | _ => false
def ReqKind.isWrite : ReqKind → Bool
  | .write _ | .hostWrite | .sdWrite => true
  | _ => false
def ReqKind.isRmw : ReqKind → Bool
  | .rmw _ _ _ => true
  | _ => false
/-- A refused request is sent again; a persistent one enters its home's queue when an entry is free (R182).
[DEDUCED: log entry 27] -/
def State.retry (s : State) (id : Nat) : State :=
  match s.req? id with
  | none => s
  | some r =>
    let s := s.updReq id fun x => { x with refused := false }
    if r.persistent && !s.persist.contains id && decide (s.persistOf (s.homeOf r.pa) < 64) then { s with persist := s.persist ++ [id] } else s
/-- A request of an agent that is no core's thread. -/
def Req.outsider (id : Nat) (src : Agent) (ctx : Nat) (kind : ReqKind) (pa n : Nat) (data : List Byte) : Req :=
  { id, src, gid := 0, lane := 0, ctx, kind, pa, va := 0, n, data, rid := none, off := 0, refusals := 0, persistent := false,
    refused := false, dev := none, ft := false, rel := false, word := 0, pkt := 0, slot := 0, rslot := 0, eng := none, acq := false, wrs := false }
/-- The device's HBM: 512 GiB (R366). [DESIGN CHOICE: log entry 65] -/
def hbmBytes : Nat := 2 ^ 39
/-- Sends an outside agent's request, which its home takes at once when it may (R183). Addresses past HBM name nothing.
[DESIGN CHOICE: log entry 65] -/
def State.sendOutside (s : State) (r : Req) : State :=
  if r.n = 0 ∨ hbmBytes < r.pa + r.n then s
  else { s with nextId := s.nextId + 1, reqs := s.reqs ++ [{ r with id := s.nextId }] }.tryTake s.nextId
/-- Sends an outside agent's access. [DESIGN CHOICE: log entry 65] -/
def State.outside (s : State) (src : Agent) (ctx : Nat) (kind : ReqKind) (pa n : Nat) (data : List Byte) : State :=
  s.sendOutside (Req.outsider 0 src ctx kind pa n data)
/-- An agent's operation as a request kind, its size and its data. -/
def agentReq (rd : ReqKind) (wr : ReqKind) : AgentOp → ReqKind × Nat × List Byte
  | .read n => (rd, n, [])
  | .write bs => (wr, bs.length, bs)
  | .rmw op b c => (.rmw op b c, rmwBytes op, [])

/-- A service-die core's access, with its acquire and release bits, or its fence: a release waits for the core's earlier accesses, the
later ones wait for an acquire; a fence orders those under way with the later ones (R185, R223). [DEDUCED: log entry 30] -/
def State.dieOp (s : State) (pa : Nat) : DieOp → State
  | .access core op acq rel =>
    let k := agentReq .sdRead .sdWrite op
    s.sendOutside { Req.outsider 0 sdAgent 0 k.1 pa k.2.1 k.2.2 with lane := core, acq, rel }
  | .fence core acq rel =>
    let mine := fun (x : Req) => x.src = sdAgent && x.lane = core
    let reads := fun (x : Req) => match x.kind with | .sdWrite => false | _ => true
    { s with reqs := s.reqs.map fun x =>
        if mine x then { x with acq := x.acq || (acq && rel) || (acq && reads x), wrs := x.wrs || rel } else x }

/-! ## The proxy home (R186) -/

/-- Completes the transition of a word: its owner returns it, its sharers acknowledge. [DEDUCED: log entry 28] -/
def State.settleWord (s : State) (w : Nat) : State :=
  match s.dirOf w with
  | .recall c _ =>
    let v := match s.ownerOf w with | some l => some l.val | none => s.homeward w
    let mine : Msg → Bool := fun m => m.agent = c && m.word = w
    { s with l1 := s.l1.filter (fun l => !(l.addr = w && l.st = L1St.own)), msgs := s.msgs.filter fun m => !mine m }.recalled w v
  | .kept _ _ => s.pullWord w
  | .inval left _ _ =>
    left.foldl (fun s a =>
      let mine : Msg → Bool := fun m => m.agent = a && m.word = w
      { s with l1 := s.l1.filter (fun l => !(l.is a w && l.st ≠ L1St.own)), msgs := s.msgs.filter fun m => !mine m }.acked a w) s
  | _ => s
/-- A host snoop of a line: owners give its words back, sharers drop them, monitors of its words are lost (status 2), and the
proxy lets the line go (R186, R195). [DEDUCED: log entry 28] -/
def State.snoop (s : State) (line : Nat) : State :=
  let ws := (List.range 16).map fun i => line + 4 * i
  -- a request held by a recall is taken when its last word is back, and may then await acknowledgements of its own
  let s := (ws ++ ws).foldl State.settleWord s
  let s := ws.foldl (fun s w =>
    let s := s.pullWord w
    { s with l1 := s.l1.filter fun l => !(l.addr = w && l.st = L1St.wi) }.setDir w (.clean [])) s
  let lost := s.mons.filter fun m => m.fid.isNone && decide (m.addr < line + 64) && decide (line < m.addr + m.n)
  let s := lost.foldl (fun s m =>
    let s := { s with mons := s.mons.filter fun x => x.id ≠ m.id }
    match s.thread? m.gid m.lane with
    | some t => (match t.wait with
      | some (.mwait mon _) => if mon = m.id then s.endMwait m.gid m.lane m.addr 2 else s
      | _ => s)
    | none => s) s
  { s with proxy := s.proxy.filter fun l => l.line ≠ line }
/-- The host answers a line request of the proxy: the oldest waiting device request of the line is taken under the line state
that it needs; a line read with RdCurr is not kept. -/
def State.hostResponse (s : State) (line : Nat) (data : List Byte) : State :=
  match s.reqs.find? fun r => decide (hostBase ≤ r.pa) && r.pa / 64 * 64 = line && s.mayTake r && !s.proxyHolds r with
  | none => s
  | some r =>
    let had := s.proxyLine? line
    let excl := match s.servedKind r with | .read _ | .wi | .mwait _ => false | _ => true
    let keep := match s.servedKind r with | .read _ => false | _ => true
    let s := if had.isSome then s else { s with mem := memWrite s.mem line (takeBytes 64 data) }
    let rest := s.proxy.filter fun l => l.line ≠ line
    let m := match had with | some l => l.m | none => false
    let s := { s with proxy := ⟨line, excl, m⟩ :: rest }.tryTake r.id
    if had.isNone && !keep then { s with proxy := s.proxy.filter fun l => l.line ≠ line } else s

/-! ## Mirror windows (R189, R190) -/

/-- A subscriber applies its next update (R189). -/
def State.mirrorUpdate (s : State) (fid win : Nat) : State :=
  match s.window? fid win with
  | none => s
  | some w =>
    match w.st, w.updates with
    | .active, u :: rest =>
      let s := s.updFlock fid fun f => f.setWin win { w with updates := rest, applied := u.seq }
      (s.scrWrite fid (w.scr + u.off) (u.data.take (w.len - u.off))).wakeSyncs fid win
    | _, _ => s
/-- A snapshot has been copied in: owned words of the range are recalled, the window is ACTIVE with the current sequence, and
an `mwsub` gets its identifier (R190, R191). -/
def State.snapshotApplied (s : State) (fid win : Nat) : State :=
  match s.window? fid win, s.flock? fid with
  | some w, some f =>
    if w.st ≠ .loading then s else
    match s.mirrors.find? fun m => m.ctx = f.ctx && m.binds w with
    | none => s
    | some m =>
      let s := m.grains.foldl (fun s g => (wordsOf g 512).foldl State.pullWord s) s
      let bs := m.grains.flatMap fun g => s.cohRead g 512
      let s := s.updFlock fid fun f => f.setWin win
        { w with st := if w.detachOnResume then .detached else .active, detachOnResume := false, applied := m.seq, updates := [], ret := none }
      let s := s.scrWrite fid w.scr (bs.take w.len)
      let s := match w.ret with
        | some r => s.feed r.1 r.2.1 r.2.2 0 (bytesOf 4 win) 0 w.va
        | none => s
      s.wakeSyncs fid win
  | _, _ => s

/-! ## POD accesses (R199, R417) -/

/-- The context of this device that an access of a job reaches: the lowest identifier. -/
def State.jobCtx (s : State) (job : W32) : Option Context :=
  (s.ctxs.filter fun c => c.alive && c.job = job).foldl (fun (b : Option Context) c =>
    match b with
    | some x => if c.id < x.id then some c else b
    | none => some c) none
/-- An access from a peer: translated in the selected context, checked against the page rights, and sent to the homes in
pieces of at most 8 bytes; it fails as a whole before any piece is sent. [DESIGN CHOICE: log entry 65] -/
def State.podIncoming (s : State) (job : W32) (va : Nat) (op : AgentOp) : State :=
  match s.jobCtx job with
  | none => s
  | some c =>
    let k := agentReq (.read false) (.write false) op
    let acc := match op with | .read _ => Acc.read | _ => Acc.write
    let ps := (List.range ((k.2.1 + 7) / 8)).map fun i => (8 * i, min 8 (k.2.1 - 8 * i))
    let may := ps.all fun p =>
      (s.peek c.id (va + p.1) acc).isSome && (s.peek c.id (va + p.1 + p.2 - 1) acc).isSome &&
      (match op with | .rmw _ _ _ => (s.peek c.id (va + p.1) .read).isSome | _ => true)
    if !may then s
    else ps.foldl (fun s p =>
      match s.peek c.id (va + p.1) acc with
      | some pa =>
        let id := s.nextId
        { (s.markUsed c.id (va + p.1) acc) with
          nextId := id + 1,
          reqs := (s.markUsed c.id (va + p.1) acc).reqs ++ [Req.outsider id engineAgent c.id k.1 pa p.2 ((k.2.2.drop p.1).take p.2)] }.tryTake id
      | none => s) s
/-- Whether a request to a remote device is yet to be sent: a release behind earlier accesses of its thread (R211), an atomic or an
acquire whose turn in a re-execution has not come (R397). [DEDUCED: log entry 30] -/
def State.devWaits (s : State) (r : Req) : Bool :=
  (r.rel && s.reqs.any fun x => x.olderOf r) || (r.kind.isRmw && s.replayHolds r)
/-- A remote device's answer to a request of this one: the value of a load, kept as an SI copy where the policy keeps one, the
prior value of an atomic with the exceptions of its operation, or the status of an `mwait`. [DEDUCED: log entry 66] -/
def State.podAnswer (s : State) (id : Nat) (data : List Byte) : State :=
  match s.req? id with
  | none => s
  | some r =>
    if r.dev.isNone || s.devWaits r then s else
    let s := s.dropReq id
    let bs := takeBytes r.n data
    match r.eng with
    | some op => s.updOp op fun o => { o with got := (r.pa, bs) :: o.got }
    | none =>
    match r.kind, r.rid with
    | .mwait _, _ => s.endMwait r.gid r.lane r.va (BitVec.ofNat 64 (natOf (takeBytes 4 data)))
    | .rmw op b c, some rid =>
      let l := s.logged r.gid r.lane 1 (BitVec.ofNat 64 r.va) (logVal bs) []
      let bs := bytesOf r.n l.1.toNat
      let v := rmwApply op (natOf bs) (b.toNat % 2 ^ (8 * r.n)) (c.toNat % 2 ^ (8 * r.n))
      (l.2.2.mergeCopies r.src r.ctx r.pa (bytesOf r.n v.bits)).feed r.gid r.lane rid r.off bs v.exc r.va
    | .read si, some rid =>
      let keep := fun (s : State) (w : Nat) =>
        if w + 4 ≤ r.pa + r.n ∧ r.pa ≤ w then
          s.setL1 r.src w r.ctx .si (BitVec.ofNat 32 (natOf ((bs.drop (w - r.pa)).take 4)))
        else s
      let s := if si then r.words.foldl keep s else s
      s.feed r.gid r.lane rid r.off bs 0 (r.va - r.off)
    | _, _ => s

/-! ## The events -/

/-- R181. The home takes an SI or WT load request and replies with the word, from the owner if needed. -/
def execHomeRead (req : Nat) (s : State) : Out :=
  .next (s.takeKind req ReqKind.isRead)

/-- R181. The home takes a WI load, replies, and registers the requester as a sharer. -/
def execHomeWiLoad (req : Nat) (s : State) : Out :=
  .next (s.takeKind req (· = .wi))

/-- R181. The home takes an OWN load or store, invalidating or recalling as needed, and grants ownership. -/
def execHomeOwnRequest (req : Nat) (s : State) : Out :=
  .next (s.takeKind req ReqKind.isOwn)

/-- R181. The home applies a write-through, read-modify-write or engine write and invalidates the other sharers. -/
def execHomeWriteThrough (req : Nat) (s : State) : Out :=
  .next (s.takeKind req ReqKind.isWrite)

/-- R193. The owning service group performs one read-modify-write at the home and returns the prior value. -/
def execAtomicService (req : Nat) (s : State) : Out :=
  .next (s.takeKind req ReqKind.isRmw)

/-- R182. A requester retries a refused request; at the 16th refusal the request becomes persistent. -/
def execRequestRetry (req : Nat) (s : State) : Out :=
  .next (s.retry req)

/-- R174. The L1 evicts a line, writing owned words back and dropping SI and WI words silently. -/
def execL1Evict (core line : Nat) (s : State) : Out :=
  .next (s.evictLine core line)

/-- R181. The home takes an owner's writeback, writing the value and making the word CLEAN, or treats it as the response to a pending recall. -/
def execOwnerWriteback (core word : Nat) (s : State) : Out :=
  .next (s.deliver (fun m => match m with | .writeback c w _ => c = core && w = word | _ => false) fun s m =>
    match m with | .writeback c w v => s.takeWriteback c w v | _ => s)

/-- R181. An owner core takes a recall of a word and returns it, or discards the recall when it no longer owns the word. -/
def execRecall (core word : Nat) (s : State) : Out :=
  .next (s.deliver (· = Msg.recall core word) fun s _ => s.takeRecall core word)

/-- R181. The home takes a recall response, writes the value and serves the request it was holding. -/
def execRecallResponse (core word : Nat) (s : State) : Out :=
  .next (s.deliver (fun m => match m with | .response c w _ => c = core && w = word | _ => false) fun s m =>
    match m, s.dirOf word with
    | .response c w v, .recall o _ => if o = c then s.recalled w v else s
    | _, _ => s)

/-- R181. A sharer takes an invalidation, drops its copy and acknowledges. -/
def execInvalidate (agent word : Nat) (s : State) : Out :=
  .next (s.deliver (· = Msg.invalidate agent word) fun s _ => s.takeInvalidate agent word)

/-- R181. The home counts an acknowledgement and completes the held request on the last one. -/
def execInvalidationAck (agent word : Nat) (s : State) : Out :=
  .next (s.deliver (· = Msg.ack agent word) fun s _ => s.acked agent word)

/-- R185. A host CXL.mem read of a line is held and never refused, recalls owned words, adds the host as a sharer and replies. -/
def execHostCxlMemRead (pa : Nat) (s : State) : Out :=
  .next (s.outside hostAgent 0 .hostRead (pa / 64 * 64) 64 [])

/-- R185. A host CXL.mem write is applied as a write-through. -/
def execHostCxlMemWrite (pa : Nat) (data : List Byte) (s : State) : Out :=
  .next (s.outside hostAgent 0 .hostWrite pa data.length data)

/-- R185. A service-die core's access reaches a home as a WI request that is never refused; its fences order its accesses. -/
def execServiceDieAccess (pa : Nat) (op : DieOp) (s : State) : Out :=
  .next (s.dieOp pa op)

/-- R186. The proxy home recalls and invalidates the device copies of a host line, then answers the host's snoop. -/
def execHostSnoop (line : Nat) (s : State) : Out :=
  .next (s.snoop (line / 64 * 64))

/-- R186. The proxy home takes the host's CXL.cache response and completes the device request. -/
def execProxyHostResponse (line : Nat) (data : List Byte) (s : State) : Out :=
  .next (s.hostResponse (line / 64 * 64) data)

/-- R186. The proxy home evicts a host line it holds, writing back a Modified line with DirtyEvict or dropping a Shared one; an armed
`mwait` on it is lost, as at a snoop. [DEDUCED: log entry 73] -/
def execProxyLineEvict (line : Nat) (s : State) : Out :=
  let l := line / 64 * 64
  -- the words of the line leave the device first, as at a snoop
  if s.proxy.any fun x => x.line = l then .next (s.snoop l) else .next s

/-- R189. A subscriber applies a multicast write of a mirrored range to its scratchpad, in sequence order. -/
def execMirrorUpdate (fid win : Nat) (s : State) : Out :=
  .next (s.mirrorUpdate fid win)

/-- R190. A window's snapshot has been copied into the scratchpad, and the window becomes ACTIVE with its applied sequence set. -/
def execMirrorSnapshotApplied (fid win : Nat) (s : State) : Out :=
  .next (s.snapshotApplied fid win)

/-- R417. A remote device takes a POD access, selects the context by job, translates the address and performs the access. -/
def execPodRemoteAccess (acc : PodAccess) (s : State) : Out :=
  match acc with
  | .incoming job va op => .next (s.podIncoming job va op)
  | .answered req data => .next (s.podAnswer req data)

/-- R223. The remote home acknowledges a POD store, and waiting releases of the thread may proceed. -/
def execPodStoreAck (req : Nat) (s : State) : Out :=
  match s.req? req with
  | some r => .next (if r.dev.isSome && (r.kind.isWrite || r.kind.isOwn) && !s.devWaits r then (s.mergeCopies r.src r.ctx r.pa r.data).dropReq req else s)
  | none => .next s

/-- R370. A UALink read, write or atomic from a peer is served. -/
def execUalinkRequest (job : W32) (va : Nat) (op : AgentOp) (s : State) : Out :=
  let n := (agentReq .sdRead .sdWrite op).2.1
  .next (if s.fab.mesh || decide (256 < n) then s else s.podIncoming job va op)

/-- R369. An NVMe controller on a storage root port writes read data into the HBM staging region. -/
def execNvmeStagingWrite (pa : Nat) (data : List Byte) (s : State) : Out :=
  .next (s.outside sdAgent 0 .sdWrite pa data.length data)

end Sys2Proof.Machine
end

