-- ==== Sys2Proof/Machine/Sync.lean ====
section
/-! DEFINITION. Credit barriers, seams, spools and timed gates (R250 to R269). -/
namespace Sys2Proof.Machine

/-! ## Objects in scratchpads (R250, R251) -/

/-- Checks an object operand: space, atomic right and policy WT; the flock that holds it and its offset there.
[DEDUCED: log entry 32] -/
def State.objPlace (s : State) (g : Group) (h : HReg) (off n : Nat) : Except (Byte × W64) (Nat × Nat) :=
  let wrong := heSpace h.ent ≠ .scratch && heSpace h.ent ≠ .peer
  match s.check g h off n 3 2 with
  | .bad c a => if wrong && (c = 0x11 || c = 0x14) then .error (0x11, BitVec.ofNat 64 off) else .error (c, a)
  | .ok a =>
    if wrong then .error (0x11, BitVec.ofNat 64 off)
    else match s.spaceFlock g h.ent with
      | some f => .ok (f.fid, a)
      | none => .error (0x12, h.idx.setWidth 64)
/-- The raw bytes of an object. -/
def State.objRead (s : State) (fid off n : Nat) : Nat :=
  match s.flock? fid with
  | some f => natOf (memRead f.scr off n)
  | none => 0
/-- Adds a waiter to an object's list. -/
def State.addWaiter (s : State) (fid : Nat) (w : Waiter) : State := s.updFlock fid fun f => { f with waiters := f.waiters ++ [w] }
/-- The waiters whose list head lies at a place. -/
def State.waitersAt (s : State) (fid link : Nat) : List Waiter :=
  match s.flock? fid with
  | some f => f.waiters.filter fun w => w.link = link
  | none => []
/-- Takes a waiter off its list. -/
def State.dropWaiter (s : State) (fid : Nat) (w : Waiter) : State :=
  s.updFlock fid fun f => { f with waiters := f.waiters.erase w }

/-! ## Credit barriers (R255 to R259) -/

/-- A barrier's 16 bytes (R255). -/
structure Bar where
  link : Nat
  phase : Nat
  err : Nat
  pend : Nat
  expect : Nat
  sect : Int
  deriving DecidableEq, Repr
def Bar.ofNat (n : Nat) : Bar :=
  ⟨bitsOf n 47 0, bitsOf n 55 48, bitsOf n 59 56, bitsOf n 83 64, bitsOf n 103 84, (BitVec.ofNat 24 (n >>> 104)).toInt⟩
def Bar.toNat (b : Bar) : Nat :=
  b.link + b.phase % 256 * 2 ^ 48 + b.err % 16 * 2 ^ 56 + b.pend % 2 ^ 20 * 2 ^ 64 + b.expect % 2 ^ 20 * 2 ^ 84 +
  (BitVec.ofInt 24 b.sect).toNat * 2 ^ 104
/-- Sets a sticky flag: 0 OVF, 1 UND, 2 ABT, 3 STL. -/
def Bar.flag (b : Bar) (k : Nat) : Bar := { b with err := b.err ||| 2 ^ k }
def State.bar (s : State) (fid off : Nat) : Bar := Bar.ofNat (s.objRead fid off 16)
def State.setBar (s : State) (fid off : Nat) (b : Bar) : State := s.scrWrite fid off (bytesOf 16 b.toNat)
/-- The herd-relative position of the core that holds a flock. -/
def State.posOf (s : State) (fid : Nat) : Nat := match s.flock? fid with | some f => f.flk | none => 0
/-- The token of a phase (R256). -/
def State.token (s : State) (fid off phase : Nat) : W32 :=
  BitVec.ofNat 32 (phase % 256 * 2 ^ 24 + s.posOf fid % 8 * 2 ^ 19 + off / 16 % 2 ^ 15 * 16)
/-- Releases a waiting thread, as an acquire when `acq`; what it gets is logged (R215, R396). -/
def State.releaseWaiter (s : State) (gid lane : Nat) (kind : Byte) (addr : Nat) (v : W64) (ws : W64 → List Wr) (acq : Bool) : State :=
  let r := s.logged gid lane kind (BitVec.ofNat 64 addr) v []
  let s := r.2.2.wake gid [(lane, ws r.1)]
  if acq then s.acquireCore (s.group gid).pcore else s
/-- A phase ends (R257). -/
def State.phaseEnd (s : State) (fid off : Nat) (b : Bar) : State :=
  let tok := s.token fid off b.phase
  let b1 := if b.sect < 0 then b.flag 1 else b
  let s := s.setBar fid off { b1 with phase := (b.phase + 1) % 256, pend := b.expect, sect := 0 }
  (s.waitersAt fid off).foldl (fun s w =>
    (s.dropWaiter fid w).releaseWaiter w.gid w.lane 3 tok.toNat (tok.setWidth 64) (fun _ => []) true) s
/-- An operation examines what stores have left in the barrier since its last one: a phase that stands at its end then ends (R254).
[DEDUCED: log entry 39] -/
def State.reexamine (s : State) (fid a : Nat) : State :=
  let x := s.bar fid a
  if x.expect ≠ 0 && x.pend = 0 && decide (x.sect ≤ 0) then s.phaseEnd fid a x else s
/-- Sector credits by an engine (R257, R258); `abort` sets ABT too. -/
def State.creditBar (s : State) (fid off n : Nat) (abort : Bool) : State :=
  let s := s.reexamine fid off
  let b : Bar := s.bar fid off
  let b : Bar := if abort then b.flag 2 else b
  let x : Int := b.sect - n
  let b : Bar := if x < -(2 ^ 23) then { b.flag 1 with sect := -(2 ^ 23) } else { b with sect := x }
  if b.expect = 0 then s.setBar fid off (b.flag 1)
  else if b.pend = 0 && decide (b.sect ≤ 0) then s.phaseEnd fid off b
  else s.setBar fid off b
/-- `bar.init` of one lane. -/
def State.barInit (s : State) (g : Group) (t : Thread) (b c : Fld) : StepRes :=
  let off := (rd t b).toNat
  match s.objPlace g (s.fatPtr g t b) off 16 with
  | .error e => .trap s e.1 e.2 0 0
  | .ok (fid, a) =>
    let n := rd t c
    let s := s.reexamine fid a
    let x := s.bar fid a
    if n = 0 ∨ 0xFFFFF < n.toNat then .trap s 0x13 (n.setWidth 64) 0 0
    else if x.expect ≠ 0 && (s.waitersAt fid a ≠ [] || x.link ≠ 0) then .trap s 0x23 ((s.token fid a x.phase).setWidth 64) 0 0
    else .ok (s.setBar fid a ⟨x.link, 0, 0, n.toNat, n.toNat, 0⟩)
/-- An arrival with so many sectors: the token of its phase (R258). -/
def State.arriveBar (s : State) (g : Group) (t : Thread) (d : Fld) (fid a : Nat) (sectors : Nat) : StepRes :=
  let x := s.bar fid a
  let tok := s.token fid a x.phase
  if x.expect = 0 ∨ x.pend = 0 then .trap (s.setBar fid a (x.flag 0)) 0x23 (tok.setWidth 64) 0 0
  else
    let y := { x with pend := x.pend - 1, sect := x.sect + sectors }
    let s := if y.pend = 0 && decide (y.sect ≤ 0) then s.phaseEnd fid a y else s.setBar fid a y
    .ok (s.updT g.gid t.lane fun t => t.await (Result.known t.nextRes [.g d tok] 0 false))
/-- `bar.chk` and `bar.owe` of one lane. -/
def State.barArrive (s : State) (g : Group) (t : Thread) (d b : Fld) (owe : Option W32) : StepRes :=
  let off := (rd t b).toNat
  match s.objPlace g (s.fatPtr g t b) off 16 with
  | .error e => .trap s e.1 e.2 0 0
  | .ok (fid, a) =>
    let s := s.reexamine fid a
    match owe with
    | none => s.arriveBar g t d fid a 0
    | some n =>
      let x := s.bar fid a
      if n.toNat % 32 ≠ 0 then .trap s 0x13 (n.setWidth 64) 0 0
      else if 2 ^ 23 - 1 < x.sect + n.toNat / 32 then .trap s 0x23 ((s.token fid a x.phase).setWidth 64) 0 0
      else s.arriveBar g t d fid a (n.toNat / 32)
/-- Whether a token cannot be of a barrier's recent phases: its distance, its position, its offset or its zero bits are wrong. -/
def State.staleToken (s : State) (fid a : Nat) (tok : W32) (dist : Nat) : Bool :=
  decide (128 ≤ dist) || (s.token fid a 0).setWidth 24 ≠ tok.setWidth 24
/-- `bar.wait` of one lane, and `bar.try` when it has a status register. -/
def State.barWait (s : State) (iss : Issue) (g : Group) (t : Thread) (b c : Fld) (d : Option Fld) : StepRes :=
  let off := (rd t b).toNat
  match s.objPlace g (s.fatPtr g t b) off 16 with
  | .error e => .trap s e.1 e.2 0 0
  | .ok (fid, a) =>
    let tok := rd t c
    let s := s.reexamine fid a
    let x := s.bar fid a
    let dist := (x.phase + 256 - tok.toNat / 2 ^ 24) % 256
    if x.expect = 0 then .trap s 0x22 (tok.setWidth 64) 0 0
    else if s.staleToken fid a tok dist then .trap (s.setBar fid a (x.flag 3)) 0x22 (tok.setWidth 64) 0 0
    else
      match d with
      | none =>
        if dist = 0 then
          .ok ((s.addWaiter fid ⟨a, a, g.gid, t.lane⟩).updT g.gid t.lane fun t => t.block (.bar fid a tok) iss [])
        else .ok ((s.logged g.gid t.lane 3 (tok.setWidth 64) (tok.setWidth 64) []).2.2.acquireCore g.pcore)
      | some d =>
        -- in a re-execution the next record says whether the form succeeded (R397)
        let ended : Bool := match s.nextRec g t.lane with
          | some x => x.kind = 3
          | none => dist ≠ 0
        let r := s.logged g.gid t.lane (if ended then 3 else 4) (tok.setWidth 64) (if ended then tok.setWidth 64 else 0) []
        let s := r.2.2.updT g.gid t.lane fun t => t.await (Result.known t.nextRes [.g d (if ended then 1 else 0)] 0 false)
        .ok (if ended then s.acquireCore g.pcore else s)

/-! ## Seams (R260 to R262) -/

/-- {seam, x}: the aux of cause 0x21. -/
def seamAux (n x : Nat) : W64 := BitVec.ofNat 64 (n * 2 ^ 32 + x)
/-- The threads of a flock that have not exited. -/
def State.liveOf (s : State) (fid : Nat) : List Thread :=
  s.threads.filter fun t => t.st ≠ .exited && (s.group t.gid).fid = fid
def State.seam? (s : State) (fid n : Nat) : Option Seam := (s.flock? fid).bind fun f => f.seams[n]?
def State.setSeam (s : State) (fid n : Nat) (x : Seam) : State :=
  s.updFlock fid fun f => { f with seams := f.seams.setIfInBounds n x }
/-- `sm.init` of one lane. -/
def State.seamInit (s : State) (g : Group) (t : Thread) (k c : Fld) : StepRes :=
  let n := (rd t c).toNat
  match s.seam? g.fid k.toNat with
  | none => .ok s
  | some x =>
    if n = 0 ∨ 1024 < n then .trap s 0x13 (BitVec.ofNat 64 n) 0 0
    else if (s.liveOf g.fid).length < n then .trap s 0x21 (seamAux k.toNat n) 0 0
    else if x.signers ≠ [] then .trap s 0x21 (seamAux k.toNat x.signers.length) 0 0
    else .ok (s.setSeam g.fid k.toNat { x with need := n, cancel := false })
/-- The state word of a seam (R260). -/
def Seam.word (x : Seam) : W32 :=
  BitVec.ofNat 32 (x.need % 2 ^ 11 + x.signers.length % 2 ^ 11 * 2 ^ 11 + x.gen.toNat * 2 ^ 22 + boolBit x.cancel * 2 ^ 30)
/-! ## Spools (R263 to R266) -/

/-- A spool's descriptor (R263), its wait-list heads left out. -/
structure Spool where
  cap : Nat
  head : Nat
  tail : Nat
  count : Nat
  nprod : Nat
  err : Nat
  ring : Nat
  allow : List Nat
  deriving DecidableEq, Repr
def Spool.ofNat (n : Nat) : Spool :=
  ⟨bitsOf n 15 0, bitsOf n 31 16, bitsOf n 47 32, bitsOf n 63 48, bitsOf n 69 64, bitsOf n 76 72, bitsOf n 210 192,
   (List.range 32).map fun i => bitsOf n (263 + 8 * i) (256 + 8 * i)⟩
def Spool.toNat (p : Spool) : Nat :=
  p.cap % 2 ^ 16 + p.head % 2 ^ 16 * 2 ^ 16 + p.tail % 2 ^ 16 * 2 ^ 32 + p.count % 2 ^ 16 * 2 ^ 48 + p.nprod % 64 * 2 ^ 64 +
  p.err % 32 * 2 ^ 72 + p.ring % 2 ^ 19 * 2 ^ 192 + natOf (p.allow.map (BitVec.ofNat 8)) * 2 ^ 256
def Spool.allowOf (p : Spool) (i : Nat) : Nat := (p.allow[i]?).getD 0
def State.spool (s : State) (fid off : Nat) : Spool := Spool.ofNat (s.objRead fid off 64)
def State.setSpool (s : State) (fid off : Nat) (p : Spool) : State := s.scrWrite fid off (bytesOf 64 p.toNat)
/-- The value that is no entry. -/
def noEntry : W64 := BitVec.allOnes 64
/-- Enters an entry: allowance, ring, tail and count (R264). -/
def State.pushEntry (s : State) (fid off : Nat) (i : Nat) (e : W64) : State :=
  let p := s.spool fid off
  let s := s.scrWrite fid (p.ring + 8 * p.tail) (bytesOf 8 e.toNat)
  s.setSpool fid off { p with tail := (p.tail + 1) % p.cap, count := p.count + 1, allow := p.allow.set i (p.allowOf i - 1) }
/-- Takes the head entry. -/
def State.popEntry (s : State) (fid off : Nat) : W64 × State :=
  let p := s.spool fid off
  let e := BitVec.ofNat 64 (natOf (s.scrRead fid (p.ring + 8 * p.head) 8))
  (e, s.setSpool fid off { p with head := (p.head + 1) % p.cap, count := p.count - 1 })
/-- The waiting push that is served next: the oldest whose producer holds allowance, when a slot is free. -/
def State.servablePush (s : State) (fid off : Nat) : Option (Waiter × W64 × Nat) :=
  let p := s.spool fid off
  if p.cap ≤ p.count then none
  else (s.waitersAt fid (off + 16)).findSome? fun w =>
    match s.thread? w.gid w.lane with
    | some t => (match t.wait with | some (.spush _ _ e i) => if p.allowOf i = 0 then none else some (w, e, i) | _ => none)
    | none => none
/-- Serves the waiters of a spool while one can be served: pops first, each with the head entry. -/
def State.serveSpool (fid off : Nat) : Nat → State → State
  | 0, s => s
  | n + 1, s =>
    match (s.waitersAt fid (off + 10)), decide ((s.spool fid off).count = 0) with
    | w :: _, false =>
      let r := (s.dropWaiter fid w).popEntry fid off
      let d := match s.thread? w.gid w.lane with
        | some t => (match t.wait with | some (.spop _ _ d) => d | _ => 0)
        | none => 0
      State.serveSpool fid off n (r.2.releaseWaiter w.gid w.lane 4 off r.1 (fun v => wr2 d v) true)
    | _, _ =>
      match s.servablePush fid off with
      | some (w, e, i) => State.serveSpool fid off n (((s.dropWaiter fid w).pushEntry fid off i e).wake w.gid [(w.lane, [])])
      | none => s
/-- Serves every waiter that can be. -/
def State.settleSpool (s : State) (fid off : Nat) : State :=
  State.serveSpool fid off (2 * ((s.waitersAt fid (off + 10)).length + (s.waitersAt fid (off + 16)).length) + 1) s
/-- An operation examines what stores have left in a spool since its last one: waiters that can be served are served first (R254).
[DEDUCED: log entry 39] -/
def State.reexamineSpool (s : State) (fid off : Nat) : State := if (s.spool fid off).cap = 0 then s else s.settleSpool fid off
/-- The aux of cause 0x24 (R265): the descriptor's offset is the operand's. [DESIGN CHOICE: log entry 74] -/
def spoolAux (reason off : Nat) : W64 := BitVec.ofNat 64 (reason + off % 2 ^ 32 * 2 ^ 32)
/-- An operation on a spool that its state or its operands refuse: the sticky bit and the reason. -/
def State.spoolTrap (s : State) (fid a : Nat) (bit reason off : Nat) : StepRes :=
  let p := s.spool fid a
  .trap (s.setSpool fid a { p with err := p.err ||| 2 ^ (bit - 72) }) 0x24 (spoolAux reason off) 0 0
/-- `sinit` of one lane; a ring past the flock's scratchpad is refused like one past the handle. [DESIGN CHOICE: log entry 74] -/
def State.spoolInit (s : State) (g : Group) (t : Thread) (b c : Fld) : StepRes :=
  let off := (rd t b).toNat
  let h := s.fatPtr g t b
  match s.objPlace g h off 64 with
  | .error e => .trap s e.1 e.2 0 0
  | .ok (fid, a) =>
    let s := s.reexamineSpool fid a
    let cap := (rd t c).toNat
    let np := (rd t (c + 1)).toNat
    let ring := (rd t (c + 2)).toNat
    let al := (rd t (c + 3)).toNat
    let len := match s.flock? fid with | some f => f.scrLen | none => 0
    let bad := cap = 0 ∨ 4096 < cap ∨ np = 0 ∨ 32 < np ∨ 255 < al ∨ ring % 8 ≠ 0 ∨ ring < heBase h.ent ∨
      heBase h.ent + heLen h.ent < ring + 8 * cap ∨ len < ring + 8 * cap
    if bad ∨ s.waitersAt fid (a + 10) ≠ [] ∨ s.waitersAt fid (a + 16) ≠ [] then .trap s 0x24 (spoolAux 4 off) 0 0
    else .ok (s.setSpool fid a ⟨cap, 0, 0, 0, np, 0, ring, List.replicate 32 al⟩)
/-- `spush` of one lane, and `spush.try` when it has a status register. -/
def State.spoolPush (s : State) (iss : Issue) (g : Group) (t : Thread) (d b c : Fld) (st : Option Fld) : StepRes :=
  let off := (rd t b).toNat
  match s.objPlace g (s.fatPtr g t b) off 64 with
  | .error e => .trap s e.1 e.2 0 0
  | .ok (fid, a) =>
    let s := s.reexamineSpool fid a
    let p := s.spool fid a
    let i := (rd t c).toNat
    let e := rd2 t d
    if p.cap = 0 then s.spoolTrap fid a 75 3 off
    else if p.nprod ≤ i then s.spoolTrap fid a 72 0 off
    else if e = noEntry then s.spoolTrap fid a 74 2 off
    else
      let status : W64 := if p.allowOf i = 0 then 1 else if p.cap ≤ p.count then 2 else 0
      match st with
      | none =>
        if status = 0 then .ok ((s.pushEntry fid a i e).settleSpool fid a)
        else
          .ok (((s.addWaiter fid ⟨a, a + 16, g.gid, t.lane⟩).updT g.gid t.lane fun t => t.block (.spush fid a e i) iss []).settleSpool fid a)
      | some r =>
        let l := s.logged g.gid t.lane 4 (BitVec.ofNat 64 off) status []
        let s := l.2.2.updT g.gid t.lane fun t => t.await (Result.known t.nextRes [.g r (l.1.setWidth 32)] 0 false)
        .ok ((if l.1 = 0 then s.pushEntry fid a i e else s).settleSpool fid a)
/-- `spop` of one lane, or `spop.try`. -/
def State.spoolPop (s : State) (iss : Issue) (g : Group) (t : Thread) (d b : Fld) (try_ : Bool) : StepRes :=
  let off := (rd t b).toNat
  match s.objPlace g (s.fatPtr g t b) off 64 with
  | .error e => .trap s e.1 e.2 0 0
  | .ok (fid, a) =>
    let s := s.reexamineSpool fid a
    let p := s.spool fid a
    if p.cap = 0 then s.spoolTrap fid a 75 3 off
    else if p.count = 0 then
      if try_ then
        let l := s.logged g.gid t.lane 4 (BitVec.ofNat 64 off) noEntry []
        .ok ((l.2.2.updT g.gid t.lane fun t => t.await (Result.known t.nextRes (wr2 d l.1) 0 false)).settleSpool fid a)
      else
        .ok (((s.addWaiter fid ⟨a, a + 10, g.gid, t.lane⟩).updT g.gid t.lane fun t =>
          t.block (.spop fid a d) iss (destsOf (wr2 d 0))).settleSpool fid a)
    else
      let r := s.popEntry fid a
      let l := r.2.logged g.gid t.lane 4 (BitVec.ofNat 64 off) r.1 []
      let s := l.2.2.updT g.gid t.lane fun t => t.await (Result.known t.nextRes (wr2 d l.1) 0 false)
      .ok ((s.settleSpool fid a).acquireCore g.pcore)
/-- `sallow` of one lane. -/
def State.spoolAllow (s : State) (g : Group) (t : Thread) (b c : Fld) : StepRes :=
  let off := (rd t b).toNat
  match s.objPlace g (s.fatPtr g t b) off 64 with
  | .error e => .trap s e.1 e.2 0 0
  | .ok (fid, a) =>
    let s := s.reexamineSpool fid a
    let p := s.spool fid a
    let i := (rd t c).toNat
    let m := (rd t (c + 1)).toNat
    if p.cap = 0 then s.spoolTrap fid a 75 3 off
    else if p.nprod ≤ i then s.spoolTrap fid a 72 0 off
    else if 255 < p.allowOf i + m then s.spoolTrap fid a 73 1 off
    else .ok ((s.setSpool fid a { p with allow := p.allow.set i (p.allowOf i + m) }).settleSpool fid a)

/-! ## Timed gates (R268, R269) -/

def State.gate (s : State) (fid k : Nat) : Gate := (((s.flock? fid).bind fun f => f.gates[k]?)).getD .idle
def State.setGate (s : State) (fid k : Nat) (x : Gate) : State :=
  s.updFlock fid fun f => { f with gates := f.gates.setIfInBounds k x }
/-- Releases the waiters of a gate; with status 0 a herd that is not resident gets status 3 (R268). -/
def State.releaseGate (s : State) (fid k : Nat) (status : W64) : State :=
  s.threads.foldl (fun s t =>
    match t.wait with
    | some (.gate j d) =>
      let g := s.group t.gid
      if j = k && g.fid = fid then
        s.releaseWaiter t.gid t.lane 5 k (if status = 0 && !s.onCore g then 3 else status) (fun v => [.g d (v.setWidth 32)]) false
      else s
    | _ => s) s
/-- A gate whose time has come fires, ahead of any other event of it (R13, R268). -/
def State.fireDue (s : State) (fid k : Nat) : State :=
  match s.gate fid k with
  | .armed t => if t ≤ s.ptime then (s.setGate fid k (.fired t)).releaseGate fid k 0 else s
  | _ => s
/-- The gate that a thread waits at fires when its time has come, ahead of a signal to the thread (R13, R152). -/
def State.fireWait (s : State) (t : Thread) : State :=
  match t.wait with
  | some (.gate k _) => s.fireDue (s.group t.gid).fid k
  | _ => s
/-- `tgate` of one lane. -/
def State.setTime (s : State) (fid k : Nat) (t : W64) : State :=
  let s := s.fireDue fid k
  if t = 0 then (s.setGate fid k .idle).releaseGate fid k 2
  else if s.ptime < t then s.setGate fid k (.armed t)
  else (s.setGate fid k (.fired t)).releaseGate fid k 0
/-- `twait` of one lane. -/
def State.gateWait (s : State) (iss : Issue) (g : Group) (t : Thread) (d k : Fld) : State :=
  let s := s.fireDue g.fid k.toNat
  let now := fun (v : W64) =>
    let r := s.logged g.gid t.lane 5 (BitVec.ofNat 64 k.toNat) v []
    r.2.2.updT g.gid t.lane fun t => t.await (Result.known t.nextRes [.g d (r.1.setWidth 32)] 0 false)
  match s.gate g.fid k.toNat with
  | .idle => now 2
  | .fired _ => now 1
  | .armed _ => s.updT g.gid t.lane fun t => t.block (.gate k.toNat d) iss [.g d]

/-! ## The words -/

/-- R258. Initialises a credit barrier with N arrivals per phase. -/
def execBarInit (_cs : CS) (b r : BitVec 6) (s : State) : Out :=
  .next (s.laneFold fun iss s t => s.barInit (s.group iss.gid) t b r)

/-- R258. Arrives at a barrier as a release and returns the phase token. -/
def execBarChk (_cs : CS) (a b : BitVec 6) (s : State) : Out :=
  .next (s.laneFold fun iss s t => s.barArrive (s.group iss.gid) t a b none)

/-- R259. Arrives at a barrier and adds sectors still owed by engines. -/
def execBarOwe (_cs : CS) (a b r : BitVec 6) (s : State) : Out :=
  .next (s.laneFold fun iss s t => s.barArrive (s.group iss.gid) t a b (some (rd t r)))

/-- R264. Initialises a spool's capacity, producers, ring and allowances. -/
def execSinit (_cs : CS) (b r : BitVec 6) (s : State) : Out :=
  .next (s.laneFold fun iss s t => s.spoolInit (s.group iss.gid) t b r)

/-- R264. Pushes an entry under the producer's allowance, blocking while none is available. -/
def execSpush (_cs : CS) (a b r : BitVec 6) (s : State) : Out :=
  .next (s.laneFold fun iss s t => s.spoolPush iss (s.group iss.gid) t a b r none)

/-- R264. Pops an entry, blocking while the spool is empty. -/
def execSpop (_cs : CS) (a b : BitVec 6) (s : State) : Out :=
  .next (s.laneFold fun iss s t => s.spoolPop iss (s.group iss.gid) t a b false)

/-- R264. Raises a producer's allowance and re-examines its waiting pushes. -/
def execSallow (_cs : CS) (b r : BitVec 6) (s : State) : Out :=
  .next (s.laneFold fun iss s t => s.spoolAllow (s.group iss.gid) t b r)

/-- R264. Pushes an entry if it can, and otherwise returns a status. -/
def execSpushTry (_cs : CS) (a b r : BitVec 6) (s : State) : Out :=
  .next (s.laneFold fun iss s t => s.spoolPush iss (s.group iss.gid) t a b r (some (r + 1)))

/-- R264. Pops an entry if one is present, and otherwise returns the reserved entry. -/
def execSpopTry (_cs : CS) (a b : BitVec 6) (s : State) : Out :=
  .next (s.laneFold fun iss s t => s.spoolPop iss (s.group iss.gid) t a b true)

/-- R261. Arms a seam with the number of signatures per round. -/
def execSmInit (_cs : CS) (k r : BitVec 6) (s : State) : Out :=
  .next (s.laneFold fun iss s t => s.seamInit (s.group iss.gid) t k r)

/-- R262. Reads a seam's state word. -/
def execSmRd (_cs : CS) (a k : BitVec 6) (s : State) : Out :=
  .next (s.laneFold fun iss s t =>
    let v : W32 := match s.seam? (s.group iss.gid).fid k.toNat with | some x => x.word | none => 0
    .ok (s.updT t.gid t.lane fun t => t.await (Result.known t.nextRes [.g a v] 0 false)))

/-- R268. Arms, fires or clears a timed gate with a pod time. -/
def execTgate (_cs : CS) (k r : BitVec 6) (s : State) : Out :=
  .next (s.laneFold fun iss s t => .ok (s.setTime (s.group iss.gid).fid k.toNat (rd2 t r)))

/-- R268. Waits on a timed gate and returns its status. -/
def execTwait (_cs : CS) (a k : BitVec 6) (s : State) : Out :=
  .next (s.laneFold fun iss s t => .ok (s.gateWait iss (s.group iss.gid) t a k))

/-- R268. %ptime reaches an armed gate's time, and its waiters are released. -/
def execGateFire (fid gate : Nat) (s : State) : Out :=
  .next (s.fireDue fid gate)

end Sys2Proof.Machine
end

