-- ==== Sys2Proof/Machine/Zstd.lean ====
section
/-! DEFINITION. Zstandard decoding for the copy engine (R283): the frames of RFC 8878, which the spec cites, parsed into blocks
of literals and matches. Everything here is a function of the compressed bytes. [PRESUMED: log entry 35] -/
namespace Sys2Proof.Machine

/-! ## Bit streams -/

/-- A bit stream that is read from its last bit down: the bits left, as a number, and how many they are. -/
structure BackBits where
  v : Nat
  n : Nat
  deriving DecidableEq, Repr
/-- The stream of some bytes: the highest set bit of the last byte marks the end and is no part of it. -/
def BackBits.ofBytes (bs : List Byte) : Option BackBits :=
  match bs.getLast? with
  | none => none
  | some b => if b = 0 then none else let n := natOf bs; some ⟨n - 2 ^ n.log2, n.log2⟩
/-- The next k bits; none when fewer are left. -/
def BackBits.read (b : BackBits) (k : Nat) : Option (Nat × BackBits) :=
  if b.n < k then none else some (b.v >>> (b.n - k), ⟨b.v % 2 ^ (b.n - k), b.n - k⟩)
/-- The next k bits without taking them, zeros after the end. -/
def BackBits.peek (b : BackBits) (k : Nat) : Nat := if b.n < k then b.v <<< (k - b.n) else b.v >>> (b.n - k)
/-- Takes k bits. -/
def BackBits.skip (b : BackBits) (k : Nat) : Option BackBits := (b.read k).map Prod.snd

/-! ## FSE tables -/

/-- A decoding table: its accuracy, and for each state its symbol, the bits that follow and the base of the next state. -/
structure FseTab where
  al : Nat
  cells : List (Nat × Nat × Nat)
  deriving DecidableEq, Repr
def FseTab.cell (t : FseTab) (st : Nat) : Nat × Nat × Nat := (t.cells[st]?).getD (0, 0, 0)
/-- The table of a single symbol. -/
def FseTab.single (sym : Nat) : FseTab := ⟨0, [(sym, 0, 0)]⟩
/-- Sets so many places of a table, a step apart, skipping those from a limit on; gives the next place too. -/
def fseSpread (size step high sym : Nat) : Nat → List Nat × Nat → List Nat × Nat
  | 0, x => x
  | n + 1, (l, pos) =>
    let next := fun (p : Nat) => (p + step) % size
    -- places at and above the limit hold the symbols of less than one: at most so many in a row are passed over
    let l := l.set pos sym
    let nx := (List.range size).foldl (fun (p : Nat) _ => if high ≤ p then next p else p) (next pos)
    fseSpread size step high sym n (l, nx)
/-- The cells of the states in order, each symbol's states numbered from its probability on. -/
def fseCells (al : Nat) : List Nat → List Nat → List (Nat × Nat × Nat)
  | [], _ => []
  | s :: l, nx =>
    let x := (nx[s]?).getD 1
    let nb := al - x.log2
    (s, nb, x * 2 ^ nb - 2 ^ al) :: fseCells al l (nx.set s (x + 1))
/-- The table of a distribution: a probability of -1 is less than one. -/
def fseBuild (al : Nat) (probs : List Int) : FseTab :=
  let size := 2 ^ al
  let lows := (probs.zipIdx.filter fun x => x.1 = -1).map Prod.snd
  let base := List.replicate (size - lows.length) 0 ++ lows.reverse
  let high := size - lows.length
  let step := size / 2 + size / 8 + 3
  let l := (probs.zipIdx.foldl (fun r x => fseSpread size step high x.2 x.1.toNat r) (base, 0)).1
  ⟨al, fseCells al l (probs.map fun p => if p = -1 then 1 else p.toNat)⟩
/-- Two-bit flags that say how many further symbols have no probability; gives the bits they take. -/
def fseZeros (v : Nat) : Nat → Nat → Nat → Nat × Nat
  | 0, pos, n => (n, pos)
  | f + 1, pos, n =>
    let k := v >>> pos % 4
    if k = 3 then fseZeros v f (pos + 2) (n + 3) else (n + k, pos + 2)
/-- The probabilities of a table description from a bit on, with so much still to give; gives the bit after them. -/
def fseProbs (v maxSym : Nat) : Nat → Nat → Nat → List Int → Option (List Int × Nat)
  | 0, _, _, _ => none
  | f + 1, pos, left, acc =>
    if left = 0 then (if acc.length ≤ maxSym + 1 then some (acc, pos) else none)
    else if maxSym < acc.length then none
    else
      -- a value from 0 to left + 1: the lower ones take a bit less
      let bits := (left + 1).log2 + 1
      let thr := 2 ^ bits - 1 - (left + 1)
      let low := v >>> pos % 2 ^ (bits - 1)
      let full := v >>> pos % 2 ^ bits
      let r : Nat × Nat := if low < thr then (low, bits - 1) else if full < 2 ^ (bits - 1) then (full, bits) else (full - thr, bits)
      let p : Int := (r.1 : Int) - 1
      let left' := left - p.natAbs
      if p = 0 then
        let z := fseZeros v (maxSym + 2) (pos + r.2) 0
        fseProbs v maxSym f z.2 left' (acc ++ 0 :: List.replicate z.1 0)
      else fseProbs v maxSym f (pos + r.2) left' (acc ++ [p])
/-- A table description: the table, and the bytes after it. [PRESUMED: log entry 35] -/
def fseTable (maxAl maxSym : Nat) (bs : List Byte) : Option (FseTab × List Byte) :=
  let v := natOf (bs.take 512)
  let al := v % 16 + 5
  if bs = [] ∨ maxAl < al then none
  else match fseProbs v maxSym (maxSym + 2) 4 (2 ^ al) [] with
    | none => none
    | some (ps, pos) =>
      let n := (pos + 7) / 8
      if bs.length < n then none else some (fseBuild al ps, bs.drop n)

/-! ## Huffman tables -/

/-- A code: the longest code's length, and for each so many bits the symbol and its code's length. -/
structure HufTab where
  bits : Nat
  cells : List (Nat × Nat)
  deriving DecidableEq, Repr
/-- The weights that two states take turns to give, until one has too few bits to go on. -/
def hufFse (t : FseTab) : Nat → Nat → Nat → BackBits → List Nat → Option (List Nat)
  | 0, _, _, _, _ => none
  | f + 1, a, b, bits, acc =>
    let c := t.cell a
    let acc := acc ++ [c.1]
    match bits.read c.2.1 with
    | none => some (acc ++ [(t.cell b).1])
    | some (x, bits) => hufFse t f b (c.2.2 + x) bits acc
/-- The code of some weights, the last symbol's left out. -/
def hufOfWeights (ws : List Nat) : Option HufTab :=
  let sum := (ws.map fun w => if w = 0 then 0 else 2 ^ (w - 1)).sum
  if sum = 0 ∨ 255 < ws.length ∨ (ws.any fun w => 11 < w) then none
  else
    let m := sum.log2 + 1
    let rest := 2 ^ m - sum
    if 11 < m ∨ 2 ^ rest.log2 ≠ rest then none
    else
      let all := (ws ++ [rest.log2 + 1]).zipIdx
      some ⟨m, (List.range m).flatMap fun i => (all.filter fun x => x.1 = i + 1).flatMap fun x => List.replicate (2 ^ i) (x.2, m - i)⟩
/-- A tree description: the code, and the bytes after it. [PRESUMED: log entry 35] -/
def hufTable (bs : List Byte) : Option (HufTab × List Byte) :=
  match bs with
  | [] => none
  | h :: rest =>
    let n := h.toNat
    if n < 128 then
      if rest.length < n then none
      else match fseTable 6 255 (rest.take n) with
        | none => none
        | some (t, body) =>
          match (BackBits.ofBytes body).bind fun b => b.read t.al with
          | none => none
          | some (a, b) =>
            match b.read t.al with
            | none => none
            | some (b2, b) => ((hufFse t 256 a b2 b []).bind hufOfWeights).map fun x => (x, rest.drop n)
    else
      let k := n - 127
      let len := (k + 1) / 2
      if rest.length < len then none
      else
        let ws := ((rest.take len).flatMap fun x => [x.toNat / 16, x.toNat % 16]).take k
        (hufOfWeights ws).map fun x => (x, rest.drop len)
/-- So many symbols of a stream, which they must use up. -/
def hufSyms (t : HufTab) : Nat → BackBits → List Byte → Option (List Byte)
  | 0, b, acc => if b.n = 0 then some acc.reverse else none
  | f + 1, b, acc =>
    let c := (t.cells[b.peek t.bits]?).getD (0, 0)
    match b.skip c.2 with
    | none => none
    | some b => hufSyms t f b (BitVec.ofNat 8 c.1 :: acc)
/-- One stream. -/
def hufStream (t : HufTab) (n : Nat) (bs : List Byte) : Option (List Byte) := (BackBits.ofBytes bs).bind fun b => hufSyms t n b []
/-- Four streams behind a table of the first three's lengths. -/
def hufFour (t : HufTab) (n : Nat) (bs : List Byte) : Option (List Byte) :=
  let at_ := fun (i : Nat) => natOf ((bs.drop (2 * i)).take 2)
  let q := (n + 3) / 4
  let body := bs.drop 6
  let a := at_ 0
  let b := at_ 1
  let c := at_ 2
  if bs.length < 6 ∨ body.length < a + b + c ∨ n < 3 * q then none
  else
    match hufStream t q (body.take a), hufStream t q ((body.drop a).take b), hufStream t q ((body.drop (a + b)).take c),
        hufStream t (n - 3 * q) (body.drop (a + b + c)) with
    | some w, some x, some y, some z => some (w ++ x ++ y ++ z)
    | _, _, _, _ => none

/-! ## Blocks -/

/-- What a frame's blocks hand on: the tables last used, and the three offsets last used. -/
structure ZCtx where
  huf : Option HufTab
  ll : Option FseTab
  off : Option FseTab
  ml : Option FseTab
  reps : Nat × Nat × Nat
  deriving DecidableEq, Repr
def ZCtx.start : ZCtx := ⟨none, none, none, none, (1, 4, 8)⟩
/-- A piece of a block's output: bytes as they are, or a match at a distance. -/
inductive ZCmd where
  | lit (bs : List Byte)
  | copy (dist len : Nat)
  deriving DecidableEq, Repr
def ZCmd.len : ZCmd → Nat
  | .lit bs => bs.length
  | .copy _ n => n
/-- The literals of a block: the bytes, the tables then known, and the rest of the block. -/
def zLiterals (c : ZCtx) (bs : List Byte) : Option (List Byte × ZCtx × List Byte) :=
  let v := natOf (bs.take 5)
  let ty := v % 4
  let sf := v / 4 % 4
  if bs = [] then none
  else if ty < 2 then
    let h : Nat × Nat := if sf % 2 = 0 then (1, v / 8 % 32) else if sf = 1 then (2, v / 16 % 4096) else (3, v / 16 % 2 ^ 20)
    let body := bs.drop h.1
    if bs.length < h.1 then none
    else if ty = 0 then (if body.length < h.2 then none else some (body.take h.2, c, body.drop h.2))
    else match body with
      | [] => none
      | b :: rest => some (List.replicate h.2 b, c, rest)
  else
    let w := if sf < 2 then 10 else if sf = 2 then 14 else 18
    let hl := if sf < 2 then 3 else if sf = 2 then 4 else 5
    let n := v / 16 % 2 ^ w
    let k := v / 2 ^ (4 + w) % 2 ^ w
    let body := (bs.drop hl).take k
    let rest := bs.drop (hl + k)
    if bs.length < hl + k then none
    else
      let tree := if ty = 2 then hufTable body else c.huf.map fun t => (t, body)
      match tree with
      | none => none
      | some (t, data) => (if sf = 0 then hufStream t n data else hufFour t n data).map fun l => (l, { c with huf := some t }, rest)
/-- Codes of lengths: the base and the further bits of each. -/
def llCode (k : Nat) : Nat × Nat :=
  if k < 16 then (k, 0) else
  (([(16, 1), (18, 1), (20, 1), (22, 1), (24, 2), (28, 2), (32, 3), (40, 3), (48, 4), (64, 6), (128, 7), (256, 8), (512, 9), (1024, 10),
     (2048, 11), (4096, 12), (8192, 13), (16384, 14), (32768, 15), (65536, 16)] : List (Nat × Nat))[k - 16]?).getD (0, 0)
def mlCode (k : Nat) : Nat × Nat :=
  if k < 32 then (k + 3, 0) else
  (([(35, 1), (37, 1), (39, 1), (41, 1), (43, 2), (47, 2), (51, 3), (59, 3), (67, 4), (83, 4), (99, 5), (131, 7), (259, 8), (515, 9),
     (1027, 10), (2051, 11), (4099, 12), (8195, 13), (16387, 14), (32771, 15), (65539, 16)] : List (Nat × Nat))[k - 32]?).getD (0, 0)
/-- The predefined distributions. -/
def llDefault : FseTab := fseBuild 6 ([4, 3] ++ List.replicate 11 2 ++ [1, 1, 1] ++ List.replicate 9 2 ++ [3, 2, 1, 1, 1, 1, 1, -1, -1, -1, -1])
def mlDefault : FseTab := fseBuild 6 ([1, 4, 3, 2, 2, 2, 2, 2, 2] ++ List.replicate 37 1 ++ List.replicate 7 (-1))
def ofDefault : FseTab := fseBuild 5 ([1, 1, 1, 1, 1, 1, 2, 2, 2] ++ List.replicate 15 1 ++ List.replicate 5 (-1))
/-- The table that a mode names: predefined, one symbol, described here, or the one last used. -/
def zTable (mode : Nat) (dflt : FseTab) (maxAl maxSym : Nat) (last : Option FseTab) (bs : List Byte) : Option (FseTab × List Byte) :=
  match mode with
  | 0 => some (dflt, bs)
  | 1 => (match bs with | b :: rest => if b.toNat ≤ maxSym then some (FseTab.single b.toNat, rest) else none | [] => none)
  | 2 => fseTable maxAl maxSym bs
  | _ => last.map fun t => (t, bs)
/-- The distance that an offset value names, and the offsets then last used; 0 is none. -/
def zOffset (r : Nat × Nat × Nat) (v ll : Nat) : Nat × (Nat × Nat × Nat) :=
  let (a, b, c) := r
  if 3 < v then (v - 3, (v - 3, a, b))
  else match (if ll = 0 then v + 1 else v) with
    | 1 => (a, r)
    | 2 => (b, (b, a, c))
    | 3 => (c, (c, a, b))
    | _ => (a - 1, (a - 1, a, b))
/-- The sequences of a block: literals and matches, then the literals that are left. `made` bytes of the frame stand before.
[PRESUMED: log entry 35] -/
def zSeqs (tl tt tm : FseTab) (window : Nat) : Nat → Nat → Nat → Nat → BackBits → Nat → List Byte → Nat × Nat × Nat → List ZCmd →
    Option (List ZCmd × (Nat × Nat × Nat))
  | 0, _, _, _, _, _, _, _, _ => none
  | f + 1, sl, so, sm, bits, made, lits, reps, acc =>
    let cl := tl.cell sl
    let co := tt.cell so
    let cm := tm.cell sm
    match bits.read co.1 with
    | none => none
    | some (xo, bits) =>
    match bits.read (mlCode cm.1).2 with
    | none => none
    | some (xm, bits) =>
    match bits.read (llCode cl.1).2 with
    | none => none
    | some (xl, bits) =>
      let ll := (llCode cl.1).1 + xl
      let ml := (mlCode cm.1).1 + xm
      let r := zOffset reps (2 ^ co.1 + xo) ll
      let made := made + ll
      if lits.length < ll ∨ r.1 = 0 ∨ made < r.1 ∨ window < r.1 then none
      else
        let acc := acc ++ [.lit (lits.take ll), .copy r.1 ml]
        let lits := lits.drop ll
        if f = 0 then (if bits.n = 0 then some (acc ++ [.lit lits], r.2) else none)
        else
          match bits.read cl.2.1 with
          | none => none
          | some (yl, bits) =>
          match bits.read cm.2.1 with
          | none => none
          | some (ym, bits) =>
          match bits.read co.2.1 with
          | none => none
          | some (yo, bits) =>
            zSeqs tl tt tm window f (cl.2.2 + yl) (co.2.2 + yo) (cm.2.2 + ym) bits (made + ml) lits r.2 acc
/-- A compressed block's output. [PRESUMED: log entry 35] -/
def zBlock (c : ZCtx) (window made : Nat) (bs : List Byte) : Option (List ZCmd × ZCtx) :=
  match zLiterals c bs with
  | none => none
  | some (lits, c, rest) =>
    let b := fun (i : Nat) => ((rest[i]?).getD 0).toNat
    let hd : Nat × Nat :=
      if b 0 < 128 then (b 0, 1) else if b 0 < 255 then ((b 0 - 128) * 256 + b 1, 2) else (b 1 + b 2 * 256 + 0x7F00, 3)
    if rest.length < hd.2 then none
    else if hd.1 = 0 then (if rest.length = hd.2 then some ([.lit lits], c) else none)
    else
      match rest.drop hd.2 with
      | [] => none
      | m :: rest =>
        let md := m.toNat
        if md % 4 ≠ 0 then none else
        match zTable (md / 64) llDefault 9 35 c.ll rest with
        | none => none
        | some (tl, rest) =>
        match zTable (md / 16 % 4) ofDefault 8 31 c.off rest with
        | none => none
        | some (tt, rest) =>
        match zTable (md / 4 % 4) mlDefault 9 52 c.ml rest with
        | none => none
        | some (tm, rest) =>
          let c := { c with ll := some tl, off := some tt, ml := some tm }
          match (BackBits.ofBytes rest).bind fun x => x.read tl.al with
          | none => none
          | some (sl, x) =>
          match x.read tt.al with
          | none => none
          | some (so, x) =>
          match x.read tm.al with
          | none => none
          | some (sm, x) =>
            (zSeqs tl tt tm window hd.1 sl so sm x made lits c.reps []).map fun r => (r.1, { c with reps := r.2 })

/-! ## Output -/

/-- Copies a match, byte by byte, onto output that is held last byte first. -/
def zCopy : Nat → Nat → List Byte → List Byte
  | 0, _, o => o
  | n + 1, d, o => zCopy n d ((o[d - 1]?).getD 0 :: o)
/-- Applies a block's commands to output held last byte first. -/
def zRun (l : List ZCmd) (o : List Byte) : List Byte :=
  l.foldl (fun o c => match c with | .lit bs => bs.reverse ++ o | .copy d n => zCopy n d o) o

/-! ## The content checksum -/

def xxP1 : W64 := 0x9E3779B185EBCA87
def xxP2 : W64 := 0xC2B2AE3D27D4EB4F
def xxP3 : W64 := 0x165667B19E3779F9
def xxP4 : W64 := 0x85EBCA77C2B2AE63
def xxP5 : W64 := 0x27D4EB2F165667C5
def xxRound (acc x : W64) : W64 := (acc + x * xxP2).rotateLeft 31 * xxP1
def xxMerge (acc v : W64) : W64 := (acc ^^^ xxRound 0 v) * xxP1 + xxP4
def xxWord (bs : List Byte) (i n : Nat) : W64 := BitVec.ofNat 64 (natOf ((bs.drop i).take n))
/-- The four lanes over whole stripes of 32 bytes; gives what is left. -/
def xxStripes : Nat → List Byte → W64 × W64 × W64 × W64 → (W64 × W64 × W64 × W64) × List Byte
  | 0, bs, v => (v, bs)
  | f + 1, bs, (a, b, c, d) =>
    xxStripes f (bs.drop 32) (xxRound a (xxWord bs 0 8), xxRound b (xxWord bs 8 8), xxRound c (xxWord bs 16 8), xxRound d (xxWord bs 24 8))
/-- The last bytes, fewer than 32. -/
def xxTail : Nat → List Byte → W64 → W64
  | 0, _, h => h
  | f + 1, bs, h =>
    if 8 ≤ bs.length then xxTail f (bs.drop 8) ((h ^^^ xxRound 0 (xxWord bs 0 8)).rotateLeft 27 * xxP1 + xxP4)
    else if 4 ≤ bs.length then xxTail f (bs.drop 4) ((h ^^^ (xxWord bs 0 4 * xxP1)).rotateLeft 23 * xxP2 + xxP3)
    else match bs with
      | [] => h
      | b :: rest => xxTail f rest ((h ^^^ (b.setWidth 64 * xxP5)).rotateLeft 11 * xxP1)
/-- XXH64 with seed 0. -/
def xxh64 (bs : List Byte) : W64 :=
  let n := bs.length
  let r := xxStripes (n / 32) bs (xxP1 + xxP2, xxP2, 0, 0 - xxP1)
  let h :=
    if n < 32 then xxP5
    else
      let (a, b, c, d) := r.1
      let h := a.rotateLeft 1 + b.rotateLeft 7 + c.rotateLeft 12 + d.rotateLeft 18
      xxMerge (xxMerge (xxMerge (xxMerge h a) b) c) d
  let h := xxTail 32 r.2 (h + BitVec.ofNat 64 n)
  let h := (h ^^^ (h >>> 33)) * xxP2
  let h := (h ^^^ (h >>> 29)) * xxP3
  h ^^^ (h >>> 32)

/-! ## Frames -/

/-- A frame's header: its window, the length of its content where it is given, whether a checksum follows, and the bytes after it. -/
structure ZHead where
  window : Nat
  content : Option Nat
  check : Bool
  len : Nat
  deriving DecidableEq, Repr
/-- The header behind a frame's magic number; a window above 8 MiB and a dictionary are refused (R283). -/
def zHeader (bs : List Byte) : Option ZHead :=
  match bs with
  | [] => none
  | h :: _ =>
    let d := h.toNat
    let one := h.getLsbD 5
    let wl := if one then 0 else 1
    let dl := match d % 4 with | 0 => 0 | 1 => 1 | 2 => 2 | _ => 4
    let fl := match d / 64 with | 0 => (if one then 1 else 0) | 1 => 2 | 2 => 4 | _ => 8
    let len := 1 + wl + dl + fl
    let wd := ((bs[1]?).getD 0).toNat
    let dict := natOf ((bs.drop (1 + wl)).take dl)
    let fcs := natOf ((bs.drop (1 + wl + dl)).take fl) + (if d / 64 = 1 then 256 else 0)
    let window := if one then fcs else 2 ^ (10 + wd / 8) + 2 ^ (10 + wd / 8) / 8 * (wd % 8)
    if bs.length < len ∨ h.getLsbD 3 ∨ dict ≠ 0 ∨ 2 ^ 23 < window then none
    else some ⟨window, if fl = 0 then none else some fcs, h.getLsbD 2, len⟩
/-- A decoded block: where its header stands in the source, how far its frame's bytes go before it, and its output. -/
structure ZBlk where
  src : Nat
  dst : Nat
  cmds : List ZCmd
  deriving DecidableEq, Repr
/-- A failure that no block's start is near enough to: the last restart boundary is the start of the last block, if there was one.
[PRESUMED: log entry 35] -/
def zBack (acc : List ZBlk) : List ZBlk × Nat × Nat × Bool :=
  match acc.getLast? with
  | some b => (acc.dropLast, b.src, b.dst, false)
  | none => ([], 0, 0, false)
/-- The blocks of a stream. Where it is malformed, or would decode to more than `cap` bytes, the list ends and the answer is
false; the fault is then at the last restart boundary: the start of the block that could not be decoded, or of the last one of a
frame whose end is wrong. `out` is the frame's content, last byte first; a frame is open while `hd` is some.
[PRESUMED: log entry 35] -/
def zStream (cap : Nat) : Nat → List Byte → Nat → Nat → Option ZHead → ZCtx → List Byte → List ZBlk → List ZBlk × Nat × Nat × Bool
  | 0, _, _, _, _, _, _, acc => zBack acc
  | f + 1, bs, pos, made, none, _, _, acc =>
    -- between frames
    if bs = [] then (acc, pos, made, true)
    else
      let magic := natOf (bs.take 4)
      let n := natOf ((bs.drop 4).take 4)
      let fail := zBack acc
      if bs.length < 4 then fail
      else if magic / 16 = 0x184D2A5 then
        if bs.length < 8 + n then fail else zStream cap f (bs.drop (8 + n)) (pos + 8 + n) made none ZCtx.start [] acc
      else if magic ≠ 0xFD2FB528 then fail
      else match zHeader (bs.drop 4) with
        | none => fail
        | some h => zStream cap f (bs.drop (4 + h.len)) (pos + 4 + h.len) made (some h) ZCtx.start [] acc
  | f + 1, bs, pos, made, some h, c, out, acc =>
    let w := natOf (bs.take 3)
    let ty := w / 2 % 4
    let n := w / 8
    let body := bs.drop 3
    let most := min h.window 131072
    let clen := if ty = 1 then 1 else n
    let fail := (acc, pos, made, false)
    if bs.length < 3 then zBack acc
    else if ty = 3 ∨ most < n ∨ body.length < clen then fail
    else
      let r : Option (List ZCmd × ZCtx) := match ty with
        | 0 => some ([.lit (body.take n)], c)
        | 1 => some ([.lit (List.replicate n ((body[0]?).getD 0))], c)
        | _ => zBlock c h.window out.length (body.take n)
      match r with
      | none => fail
      | some (cmds, c) =>
        let k := (cmds.map ZCmd.len).sum
        if most < k ∨ cap < made + k then fail
        else
          let out := zRun cmds out
          let acc := acc ++ [⟨pos, made, cmds⟩]
          let rest := body.drop clen
          let pos' := pos + 3 + clen
          if w % 2 = 0 then zStream cap f rest pos' (made + k) (some h) c out acc
          else
            let bad := (match h.content with | some x => x ≠ out.length | none => false) ||
              (h.check && (decide (rest.length < 4) || natOf (rest.take 4) ≠ (xxh64 out.reverse).toNat % 2 ^ 32))
            if bad then (acc.dropLast, pos, made, false)
            else
              let e := if h.check then 4 else 0
              zStream cap f (rest.drop e) (pos' + e) (made + k) none ZCtx.start [] acc
/-- The blocks of a whole source, the last restart boundary, and whether it is well formed and decodes to exactly `cap` bytes
(R283). Skippable frames are skipped. [PRESUMED: log entry 35] -/
def zstd (cap : Nat) (bs : List Byte) : List ZBlk × Nat × Nat × Bool :=
  let r := zStream cap (bs.length + 1) bs 0 0 none ZCtx.start [] []
  if r.2.2.2 && r.2.2.1 ≠ cap then zBack r.1 else r

/-- How far back before a block its commands reach, with so many bytes of it made. -/
def zReach : List ZCmd → Nat → Nat
  | [], _ => 0
  | .lit bs :: l, k => zReach l (k + bs.length)
  | .copy d n :: l, k => max (d - k) (zReach l (k + n))
/-- A block's length. -/
def ZBlk.len (b : ZBlk) : Nat := (b.cmds.map ZCmd.len).sum
/-- The block at a restart boundary of the source, and the boundary after it: the next block's start, or the source's end. Offset 0
stands for the first block. [PRESUMED: log entry 35] -/
def zAt (e src : Nat) : List ZBlk → Option (ZBlk × Nat)
  | [] => none
  | b :: l => if src = 0 ∨ b.src = src then some (b, match l with | c :: _ => c.src | [] => e) else zAt e src l

end Sys2Proof.Machine
end

