-- ==== Sys2Proof/Machine/Engine.lean ====
section
/-! DEFINITION. Copies, gathers, multicast, chains and collectives (R270 to R287), the life of an engine operation and its
deferred faults (R274 to R277, R295), and the waits that cover one. -/
namespace Sys2Proof.Machine

/-! ## Counters and recognition (R274, R295) -/

def Cls.ofBits (b : BitVec 2) : Cls := match b.toNat with | 0 => .copy | 1 => .tile | 2 => .gather | _ => .coll
def Group.counter (g : Group) : Cls → Nat
  | .copy => g.copyN | .tile => g.tileN | .gather => g.gatherN | .coll => g.collN
def Group.setCounter (g : Group) (c : Cls) (n : Nat) : Group :=
  match c with
  | .copy => { g with copyN := n } | .tile => { g with tileN := n } | .gather => { g with gatherN := n } | .coll => { g with collN := n }
/-- The record of a group among those that count an operation. -/
def Op.grp? (o : Op) (gid : Nat) : Option OpGrp := o.groups.find? fun x => x.gid = gid
/-- Whether a group counts an operation of a class that it has not recognised. -/
def Op.countsFor (o : Op) (gid : Nat) (c : Cls) : Bool :=
  o.cls = some c && (match o.grp? gid with | some x => !x.recog | none => false)
/-- The place of an operation in a group's issue order. -/
def Op.keyFor (o : Op) (gid : Nat) : Nat := match o.grp? gid with | some x => x.key | none => o.id
/-- The operations that a group's counter of a class counts. -/
def State.counted (s : State) (gid : Nat) (c : Cls) : List Op := s.ops.filter fun o => o.countsFor gid c
/-- The places of the open rounds that a group has signed. -/
def State.roundKeys (s : State) (g : Group) : List Nat :=
  match s.flock? g.fid with
  | some f => f.seams.toList.filterMap fun x => (x.signers.find? fun y => y.gid = g.gid).map Signer.key
  | none => []
/-- The places of everything that a group's counter of a class counts. -/
def State.placesOf (s : State) (g : Group) (c : Cls) : List Nat :=
  (s.counted g.gid c).map (fun o => o.keyFor g.gid) ++ (if c = Cls.tile then s.roundKeys g else [])
/-- Operations are recognised when they and every older one of their class are DONE. -/
def State.recognise (s : State) (gid : Nat) (c : Cls) : State :=
  let g := s.group gid
  let open_ := ((s.counted gid c).filter fun o => o.st ≠ OpSt.done).map (fun o => o.keyFor gid) ++
    (if c = Cls.tile then s.roundKeys g else [])
  let hit := fun (o : Op) => o.countsFor gid c && o.st = OpSt.done && open_.all fun k => decide (o.keyFor gid < k)
  let mark := fun (x : OpGrp) => if x.gid = gid then { x with recog := true } else x
  { s with ops := s.ops.map fun (o : Op) => if hit o then { o with groups := o.groups.map mark } else o }.updGroup gid fun g =>
    g.setCounter c (g.counter c - (s.ops.filter hit).length)
/-- Drops the operations that nothing names any more: DONE, recognised by every group, tagged by no tile. -/
def State.dropDone (s : State) : State :=
  let gone : Op → Bool := fun o => o.st = .done && o.groups.all fun x => (x.recog || o.cls.isNone) && x.tile.isNone
  let keeps : Nat → Bool := fun i => match s.op? i with | some o => decide (o.st ≠ .done) | none => false
  { s with ops := s.ops.filter (fun o => !gone o), tileOrder := s.tileOrder.filter keeps }

/-- The channel that an operation belongs to: a record's transfer, or the channel's own accesses to its records (R286). -/
def Op.chan? (o : Op) : Option Nat := match o.kind with | .record _ ch | .walk ch => some ch | _ => none
/-- Where the tile that a `tret` closes was opened, in its group's issue order: behind the `tret`s of the same identifier that are
still to write (R308). -/
def State.tileFrom (s : State) (gid tile before : Nat) : Nat :=
  s.ops.foldl (fun m x =>
    match x.kind with
    | .tret _ k => if x.gid = gid && k = tile && x.st ≠ OpSt.done && decide (x.id < before) then max m x.id else m
    | _ => m) 0
/-- Whether an operation is tagged by a group with a tile, between two places in the group's issue order (R306). -/
def Op.tagged (o : Op) (gid tile low before : Nat) : Bool :=
  o.groups.any fun x => x.gid = gid && x.tile = some tile && decide (low < x.key) && decide (x.key < before)
/-- A `tret` that ends takes its tile with it: nothing stays tagged for a later tile of the same identifier (R306, R308).
[DEDUCED: log entry 36] -/
def State.untag (s : State) (o : Op) : State :=
  match o.kind with
  | .tret _ k =>
    let low := s.tileFrom o.gid k o.id
    let gone : Nat → Nat → Option Nat → Bool := fun gid key tile => gid = o.gid && tile = some k && decide (low < key) && decide (key < o.id)
    let grp := fun (x : OpGrp) => if gone x.gid x.key x.tile then { x with tile := none } else x
    let sig := fun (z : Signer) => if gone z.gid z.key z.tile then { z with tile := none } else z
    { s with ops := s.ops.map fun (x : Op) => { x with groups := x.groups.map grp } }.updFlock o.fid fun f =>
      { f with seams := f.seams.map fun (x : Seam) => { x with signers := x.signers.map sig } }
  | _ => s

/-! ## The end of an operation (R276, R257, R297) -/

/-- The bytes that a descriptor transfers (R271, R283). -/
def CD.total (d : CD) : Nat := if d.codec ≠ 0 then d.row else d.row * d.rows * d.planes
/-- The lowest byte and the end of what the positions from `start` touch on one side: its offset and its strides (R272). -/
def CD.span (d : CD) (off : Nat) (str ps : Int) : Int × Int :=
  let z0 := d.start / d.row / d.rows
  let r0 := d.start / d.row % d.rows
  let at_ : Nat → Nat → Int := fun z r => off + z * ps + r * str
  let later := (if r0 + 1 < d.rows then [at_ z0 (r0 + 1), at_ z0 (d.rows - 1)] else []) ++
    (if z0 + 1 < d.planes then
      [at_ (z0 + 1) 0, at_ (z0 + 1) (d.rows - 1), at_ (d.planes - 1) 0, at_ (d.planes - 1) (d.rows - 1)] else [])
  (later.foldl min (at_ z0 r0 + d.start % d.row), (later.foldl max (at_ z0 r0)) + d.row)
/-- What a descriptor touches at its destination. -/
def CD.dstSpan (d : CD) : Int × Int := if d.codec ≠ 0 then (d.doff, d.doff + d.row) else d.span d.doff d.dstr d.dps
/-- The B-store slots that a `bld` fills (R279, R290). -/
def Op.fills (o : Op) : List Nat :=
  match o.kind with
  | .bld d =>
    let sp := d.dstSpan
    let lo := (heBase o.dh.ent + sp.1).toNat / 1024
    (List.range (((heBase o.dh.ent + sp.2).toNat + 1023) / 1024 - lo)).map (lo + ·)
  | _ => []
/-- The B-store slots that a matrix operation reads. -/
def Op.readsSlots (o : Op) : List Nat := match o.kind with | .mma a => a.gens.map Prod.fst | _ => []
/-- A B-store slot's state and generation. -/
def Flock.slotOf (f : Flock) (n : Nat) : BSlot := (f.slots.find? fun x => x.slot = n).getD ⟨n, .ready, 0⟩
def State.setSlots (s : State) (fid : Nat) (l : List Nat) (f : BSlot → BSlot) : State :=
  s.updFlock fid fun k => { k with slots := l.map (fun n => f (k.slotOf n)) ++ k.slots.filter fun x => !l.contains x.slot }
/-- Whether an operation stands before another in the tile order (R296). [DEDUCED: log entry 36] -/
def State.tileBefore (s : State) (a b : Nat) : Bool :=
  s.tileOrder.contains a && (!s.tileOrder.contains b || decide (s.tileOrder.idxOf a < s.tileOrder.idxOf b))
/-- The end of a `bld`: its slots that it still fills are READY, or, when it was aborted, all its slots are BAD, but for those that a
later `bld` fills; a matrix operation that waits for an aborted fill will find it BAD (R297). -/
def State.endFill (s : State) (o : Op) (ok : Bool) : State :=
  let later := fun (n : Nat) => s.ops.any fun x =>
    x.fid = o.fid && x.id ≠ o.id && x.st ≠ OpSt.done && x.fills.contains n && s.tileBefore o.id x.id
  let filling := fun (n : Nat) => match s.flock? o.fid with | some f => (f.slotOf n).st = .filling | none => false
  let s := s.setSlots o.fid (o.fills.filter fun n => (filling n || !ok) && !later n) fun x => { x with st := if ok then .ready else .bad }
  if ok then s else
    let spoil := fun (x : Op) =>
      match x.kind with
      | .mma a =>
        let hit := (o.fills.filter fun n => x.readsSlots.contains n && !(s.ops.any fun y =>
          y.fid = o.fid && y.id ≠ o.id && y.fills.contains n && s.tileBefore o.id y.id && s.tileBefore y.id x.id)).head?
        if x.fid = o.fid && x.st ≠ OpSt.done && s.tileBefore o.id x.id && hit.isSome && a.bad.isNone then
          { x with kind := .mma { a with bad := hit } }
        else x
      | _ => x
    { s with ops := s.ops.map spoil }
/-- The holding slots that an operation's end concerns (R281): a drain that is done clears its position's bit; an aborted
sender's slot is discarded. -/
def State.endHold (s : State) (o : Op) (ok : Bool) : State :=
  match o.kind with
  | .drn _ _ =>
    let pos := (s.group o.gid).flk
    let clr := fun (h : HoldSlot) =>
      if h.drains.contains o.id then
        { h with drains := h.drains.erase o.id, mask := if ok then h.mask &&& ~~~(BitVec.ofNat 8 (2 ^ pos)) else h.mask }
      else h
    { s with holds := (s.holds.map clr).filter fun h => !(h.st = HoldSt.held && h.mask = 0) }
  | .cpm _ _ _ => if ok then s else { s with holds := s.holds.filter fun h => !(h.op = o.id && h.st = HoldSt.filling) }
  | _ => s
/-- An operation becomes DONE: its grains are released, and when it is aborted its barrier gets its remaining sectors with
ABT (R257, R276). What an aborted one has under way at a home or on another device stays so until it is answered (R360). -/
def State.endOp (s : State) (id : Nat) (ok : Bool) : State :=
  match s.op? id with
  | none => s
  | some o =>
    if o.st = .done then s else
    let s := s.updOp id fun o => { o with st := .done, t1 := if o.t0 = 0 then 0 else s.ptime, secs := 0, out := [], got := [] }
    let s := { s with grains := s.grains.filter fun g => g.op ≠ id,
                      reqs := s.reqs.filter fun r => r.eng ≠ some id || r.dev.isSome || s.inFlight r }
    let s := s.untag o
    let s := if o.fills = [] then s else s.endFill o ok
    let s := s.endHold o ok
    match o.bar with
    | some (fid, off, _) => if ok then (if o.secs = 0 then s else s.creditBar fid off o.secs false) else s.creditBar fid off o.secs true
    | none => s

/-! ## Deferred faults (R277, R294) -/

/-- The aux of a deferred engine fault: destination and source bytes complete. -/
def Op.aux (o : Op) : W64 :=
  match o.kind with
  | .walk _ => 0
  | _ => BitVec.ofNat 64 (o.off % 2 ^ 32 + o.soffDone % 2 ^ 32 * 2 ^ 32)
/-- Whether an operation holds a fault that nobody has taken; the fault of a FAILED record goes into the record (R286). -/
def Op.pending (o : Op) : Bool := (o.st = .stopped || (o.st = .failed && o.chan?.isNone)) && !o.delivered
/-- The trap record of a deferred fault at a waiting word. -/
def Deferred.trapRec (d : Deferred) (pkt : W32) (slot : BitVec 2) : TrapRec := ⟨pkt, slot, d.cause, d.aux, d.word, d.pkt, d.slot⟩
def Op.fault (o : Op) : Deferred := ⟨o.cause, o.aux, o.word, o.pkt, o.slot⟩
/-- The operations that a `waitc cls, n` covers: their recognition is needed before it can complete. -/
def State.coveredBy (s : State) (g : Group) (c : Cls) (n : Nat) : List Op :=
  let ps := s.placesOf g c
  (s.counted g.gid c).filter fun o =>
    decide ((ps.filter fun k => decide (k < o.keyFor g.gid)).length + n < ps.length)
/-- The operations that credit a barrier in a phase, as a wait of a thread covers them: of its group, and the records of its
flock's channels (R277, R286). -/
def State.coverBar (s : State) (g : Group) (fid off phase : Nat) : List Op :=
  s.ops.filter fun o =>
    o.bar = some (fid, off, BitVec.ofNat 8 phase) && o.st ≠ OpSt.done &&
    (o.gid = g.gid || (o.chan?.isSome && o.fid = g.fid))
/-- What a blocked thread's word covers. -/
def State.coveredByWait (s : State) (t : Thread) : List Op :=
  match t.wait with
  | some (.waitc c n) => s.coveredBy (s.group t.gid) c n
  | some (.bar fid off _) => s.coverBar (s.group t.gid) fid off (s.bar fid off).phase
  | _ => []
/-- The oldest of a list of operations. -/
def oldest : List Op → Option Op
  | [] => none
  | o :: l => match oldest l with | some x => if x.id < o.id then some x else some o | none => some o
/-- Marks a fault delivered; a FAILED operation is then aborted (R276). -/
def State.markDelivered (s : State) (o : Op) : State :=
  let s := s.updOp o.id fun o => { o with delivered := true }
  if o.st = .failed then s.endOp o.id false else s
/-- Posts an orphan entry to a core's shepherd (R276, R347). -/
def State.orphan (s : State) (g : Group) (lane : Nat) (cause : Byte) : State :=
  s.pushShep g.pcore { kind := 4, idx := 0xFF, ctx := g.ctx, g2 := cause.setWidth 32, g3 := 0, tgt := tgtOf g lane }
/-- Whether every thread of a group has exited. -/
def State.allExited (s : State) (gid : Nat) : Bool := s.threads.all fun t => t.gid ≠ gid || t.st = .exited
/-- Whether a fault of an operation finds no thread left: of its group, or of its flock for a channel's record (R276, R286). -/
def State.opAlone (s : State) (o : Op) : Bool :=
  if o.chan?.isSome then s.groups.all fun g => g.fid ≠ o.fid || g.shep || s.allExited g.gid else s.allExited o.gid
/-- The threads of a group that wait in a word covering an operation. -/
def State.waitersOn (s : State) (o : Op) : List Thread :=
  s.threads.filter fun t => t.st = .blocked && (s.coveredByWait t).any fun x => x.id = o.id
/-- A stopped or failed operation's fault goes to the threads that wait in a covering word, together one delivery, or to an
orphan entry when no thread of its group is left (R276, R277). -/
def State.handOver (s : State) (o : Op) : State :=
  if !o.pending then s else
  let ws := s.waitersOn o
  if ws ≠ [] then
    let lf := fun (t : Thread) => (((⟨t.lane, o.cause, o.aux, 1, o.fkind⟩ : LTrap), o.fault.trapRec t.pkt t.slot) : LTrap × TrapRec)
    let gids := (ws.map Thread.gid).dedup
    let s := ws.foldl (fun s t => s.withdraw t.gid t.lane) s
    let s := gids.foldl (fun s gid =>
      s.parkWaiting gid ((ws.filter fun t => t.gid = gid).map lf) (if o.cause = 0x10 then some o.fva else none)) s
    s.markDelivered o
  else if s.opAlone o then
    (s.orphan (s.group o.gid) 0 o.cause).endOp o.id false
  else s
/-- Completes the `waitc`s of a group that its counter allows; each is an acquire (R275). -/
def State.wakeWaitc (s : State) (gid : Nat) (c : Cls) : State :=
  let n := (s.group gid).counter c
  let ended : Thread → Bool := fun t =>
    t.gid = gid && (match t.wait with | some (.waitc d k) => d = c && decide (n ≤ k) | _ => false)
  let ws := s.threads.filter ended
  if ws = [] then s else (s.wake gid (ws.map fun t => (t.lane, []))).acquireCore (s.group gid).pcore
/-- Recognition, and what follows from it: waits that complete, faults that a wait now meets, until nothing changes. -/
def State.settleCls (gid : Nat) (c : Cls) : Nat → State → State
  | 0, s => s
  | n + 1, s =>
    let s := (s.recognise gid c).wakeWaitc gid c
    match oldest ((s.threads.filter fun t => t.gid = gid && t.st = .blocked).flatMap fun t =>
        (s.coveredByWait t).filter Op.pending) with
    | some o => State.settleCls gid c n (s.handOver o)
    | none => s
/-- Every counter of the groups that an operation counts in is brought up to date. -/
def State.settleOp (s : State) (o : Op) : State :=
  let s := o.groups.foldl (fun s x =>
    match o.cls with
    | some c => State.settleCls x.gid c (s.ops.length + 1) s
    | none => s) s
  s.dropDone
/-- An operation is DONE: it ends, and its counters recognise it. -/
def State.finishOp (s : State) (id : Nat) (ok : Bool) : State :=
  match s.op? id with
  | none => s
  | some o => (s.endOp id ok).settleOp o
/-- How far an operation's writes have been answered: its destination and source offsets (R277). [DEDUCED: log entry 31] -/
def State.landed (s : State) (o : Op) : Nat × Nat :=
  s.reqs.foldl (fun (p : Nat × Nat) (r : Req) => if r.eng = some o.id && r.off < p.1 then (r.off, r.rid.getD p.2) else p) (o.off, o.soffDone)
/-- A fault of a running or queued operation: STOPPED for a missing page or a grain conflict, else FAILED (R276). A record of
a channel that fails is consumed with the cause as its status, so it keeps FAILED until then (R286); a channel whose own access to its
record fails for good is IDLE. The restart offset goes back to the first byte whose write is not yet answered (R277).
[DEDUCED: log entry 31; DESIGN CHOICE: log entry 73] -/
def State.opFault (s : State) (id : Nat) (cause : Byte) (kind va : Nat) : State :=
  match s.op? id with
  | none => s
  | some o =>
    if o.st ≠ .running && o.st ≠ .queued then s else
    let st : OpSt := if cause = 0x10 || cause = 0x16 then .stopped else .failed
    let far := s.landed o
    let s := s.updOp id fun o => { o with st := st, cause := cause, delivered := false, fkind := kind, fva := va, off := far.1, soffDone := far.2, got := [] }
    let s := { s with grains := s.grains.filter fun g => g.op ≠ id }
    match o.chan? with
    | some ch =>
      let walk := match o.kind with | .walk _ => true | _ => false
      let next : Chan → ChanSt := fun c => if st = .stopped then .stopped else if walk then .idle else c.st
      let mark := fun (c : Chan) => { c with st := next c, delivered := false }
      let s := s.updFlock o.fid fun f => { f with chans := f.chans.mapIdx fun i c => if i = ch then mark c else c }
      if st = .stopped then (match s.op? id with | some o => s.handOver o | none => s)
      else if walk then (s.endOp id false).dropDone else s
    | none =>
      match s.op? id with
      | some o => (s.handOver o).settleOp o
      | none => s
/-- A tile fault pending in a signer: taken at once in a `waitc tile`, kept for the thread's next one, or an orphan entry when
the thread has exited (R294). -/
def State.tileFault (s : State) (gid lane : Nat) (d : Deferred) : State :=
  match s.thread? gid lane with
  | none => s
  | some t =>
    if t.st = .exited then s.orphan (s.group gid) lane d.cause
    else match t.wait with
      | some (.waitc .tile _) =>
        (s.withdraw gid lane).parkWaiting gid [(⟨lane, d.cause, d.aux, 0, 0⟩, d.trapRec t.pkt t.slot)] none
      | _ => s.updT gid lane fun t => { t with tileErr := t.tileErr ++ [d] }
/-- An operation record: everything but what its kind says is as at issue. -/
def Op.fresh (id : Nat) (cls : Option Cls) (kind : OpKind) (g : Group) (lane : Nat) (iss : Issue) : Op :=
  { id, cls, kind, st := .queued, gid := g.gid, lane, ctx := g.ctx, kid := g.kid, herd := g.herd, fid := g.fid, core := g.pcore,
    sh := HReg.reset, dh := HReg.reset, off := 0, soffDone := 0, out := [], got := [], bar := none, secs := 0, cause := 0, delivered := false,
    left := .queued, at_ := none, groups := [⟨g.gid, g.cur, id, false⟩], fva := 0, fkind := 0, word := iss.word, pkt := iss.pkt,
    slot := iss.slot, t0 := 0, t1 := 0, t2 := 0, t3 := 0, stalled := false, after := [] }
/-- The accesses of lanes that are under way. -/
def State.underWay (s : State) (gid : Nat) (m : Mask) : List Nat := (s.reqs.filter fun r => r.ofLanes gid m).map Req.id
/-- Whether the accesses that an operation's release waits for are complete (R221). -/
def State.released (s : State) (after : List Nat) : Bool := s.reqs.all fun r => !after.contains r.id
/-- Issues an operation (R273): it is queued, behind its thread's accesses or those of its fetch set (R221, R302), and its group's
counter rises. -/
def State.issueOp (s : State) (g : Group) (o : Op) : State :=
  let m := match s.issue with | some i => if o.cls = some .tile then i.lanes else laneBit o.lane | none => laneBit o.lane
  let s := { s with ops := s.ops ++ [{ o with after := s.underWay g.gid m }], nextId := s.nextId + 1 }
  match o.cls with
  | some c => s.updGroup g.gid fun g => g.setCounter c (g.counter c + 1)
  | none => s
/-- A round whose signers are too few is cancelled when a thread exits: its place in the groups' order is that of an operation
already DONE, and its signers get a tile fault (R261, R295). -/
def State.cancelSeams (s : State) (fid : Nat) : State :=
  (List.range 16).foldl (fun s n =>
    match s.seam? fid n with
    | none => s
    | some x =>
      let got := x.signers.length
      let free := (s.liveOf fid).filter fun t => !(x.signers.any fun g => g.gid = t.gid && g.lane = t.lane)
      match x.signers.head? with
      | none => s
      | some y =>
        if x.need - got ≤ free.length then s
        else
          let gr := fun (z : Signer) => (⟨z.gid, none, z.key, false⟩ : OpGrp)
          let firsts := (x.signers.map Signer.gid).dedup.filterMap fun i => x.signers.find? fun z => z.gid = i
          let iss : Issue :=
            { gid := y.gid, lanes := 0, pkt := y.pkt, first := y.slot, slot := y.slot, word := y.word, firstWord := y.word, imm := none,
              xfer := [], sw := false, fin := none, subs := [], rest := [], all := 0, conts := [], step := false }
          let o := { Op.fresh s.nextId (some .tile) (.tret 0 64) (s.group y.gid) y.lane iss with st := .done, groups := firsts.map gr }
          let s := { s.setSeam fid n { x with signers := [], cancel := true } with nextId := s.nextId + 1 }
          let s := { s with ops := s.ops ++ [o] }
          let s := x.signers.foldl (fun s z => s.tileFault z.gid z.lane ⟨0x21, seamAux n got, z.word, z.pkt, z.slot⟩) s
          s.settleOp o) s

/-! ## Suspension and abortion (R276) -/

/-- Whether an operation belongs to a herd. -/
def Op.ofHerd (o : Op) (ctx kid herd : Nat) : Bool := o.ctx = ctx && o.kid = kid && o.herd = herd
/-- A herd is swapped out: its operations stop at their restart offsets, behind which nothing is unanswered, and release their grains;
a matrix operation that has fired is saved QUEUED, its place in the tile order kept (R276, R299). -/
def State.suspendOps (s : State) (ctx kid herd : Nat) : State :=
  let mine : Op → Bool := fun o => o.ofHerd ctx kid herd && o.st ≠ OpSt.done && o.st ≠ OpSt.failed && o.st ≠ OpSt.suspended
  let ids := (s.ops.filter mine).map Op.id
  let go := fun (o : Op) =>
    if !mine o then o else
    match o.kind with
    | .mma _ => { o with st := .suspended, left := .queued, t1 := if o.st = .waiting then s.ptime else o.t1 }
    | _ => let far := s.landed o
           { o with st := .suspended, left := o.st, stalled := false, off := far.1, soffDone := far.2, got := [] }
  { s with ops := s.ops.map go, grains := s.grains.filter (fun g => !ids.contains g.op),
           reqs := s.reqs.filter fun r => match r.eng with | some i => !ids.contains i || s.inFlight r | none => true }
/-- The QUEUED operations of a core (R274), those that a herd brings with it while it is LOADING among them. -/
def State.queuedOn (s : State) (core : Nat) : Nat :=
  (s.ops.filter fun o =>
    (o.st = .queued && o.core = core) ||
    (o.st = .suspended && o.left = .queued && (s.group o.gid).pcore = core &&
      (match s.herd? o.ctx o.kid o.herd with | some h => h.st = .loading | none => false))).length
/-- The herd is back on cores: its operations go on in the states they left; its fires and issues enter the new core's tile order
in the order they had, with the generations read afresh (R276, R299). -/
def State.resumeOps (s : State) (ctx kid herd : Nat) : State :=
  let mine : Op → Bool := fun o => o.ofHerd ctx kid herd && o.st ≠ OpSt.done
  let ids := (s.ops.filter mine).map Op.id
  let go := fun (o : Op) =>
    if !mine o then o else
    let core := (s.group o.gid).pcore
    let k := match o.kind, s.flock? o.fid with
      | .mma a, some f => OpKind.mma { a with gens := a.gens.map fun x => (x.1, (f.slotOf x.1).gen) }
      | k, _ => k
    if o.st = .suspended then { o with st := o.left, core := core, kind := k, got := [] } else { o with core := core }
  { s with ops := s.ops.map go,
           tileOrder := (s.tileOrder.filter fun i => !ids.contains i) ++ s.tileOrder.filter fun i => ids.contains i }
/-- Aborts every operation that a predicate names, as a kill does (R276). -/
def State.abortOps (s : State) (p : Op → Bool) : State :=
  let ids := (s.ops.filter fun o => p o && o.st ≠ OpSt.done).map Op.id
  ids.foldl (fun s i => s.finishOp i false) s
/-- The last thread of a group has exited: its stopped and failed operations are aborted, each with an orphan entry (R276); the record
at which a channel has stopped is aborted with the last thread of its flock, and the channel is IDLE. [DEDUCED: log entry 36] -/
def State.orphanOps (s : State) (gid : Nat) : State :=
  let fid := (s.group gid).fid
  let lost := s.ops.filter fun o => (o.st = .stopped || o.st = .failed) && s.opAlone o &&
    (if o.chan?.isSome then o.fid = fid && o.st = .stopped else o.gid = gid)
  lost.foldl (fun s o =>
    let s := (s.orphan (s.group gid) o.lane o.cause).finishOp o.id false
    match o.chan? with
    | some ch => s.updFlock fid fun f => { f with chans := f.chans.mapIdx fun i c => if i = ch then { c with st := .idle, op := none } else c }
    | none => s) s
/-- A thread exits with tile faults pending (R294). -/
def State.orphanTile (s : State) (t : Thread) : State :=
  let s := t.tileErr.foldl (fun s d => s.orphan (s.group t.gid) t.lane d.cause) s
  s.updT t.gid t.lane fun t => { t with tileErr := [] }

/-! ## Covering words (R275, R277) -/

/-- One lane of the open chain takes an operation's fault at the issuing word. The sub-group's entry carries the address that its
lowest lane met (R240). -/
def State.trapOp (s : State) (lane : Nat) (o : Op) : State :=
  match s.issue with
  | none => s
  | some iss =>
    let s := s.takeTrap iss ⟨lane, o.cause, o.aux, 1, o.fkind⟩ (o.fault.trapRec iss.pkt iss.restartSlot)
    let subs := match s.issue with | some i => i.subs | none => []
    if o.cause = 0x10 then
      { s with subs := s.subs.map fun (b : SubGroup) =>
          if subs.contains b.id && b.cause = 0x10 && hasLane b.lanes lane && lowestLane b.lanes = lane then { b with eng := some o.fva } else b }
    else s
/-- A covering word of delivered STOPPED operations makes them run again, from their restart offsets (R276). -/
def State.restartOps (s : State) (l : List Op) : State :=
  let go := fun (o : Op) =>
    if l.any (fun x => x.id = o.id) && o.st = OpSt.stopped && o.delivered then
      { o with st := (match o.kind with | .coll _ => if o.out = [] then .queued else .running | _ => .running), cause := 0,
               delivered := false, stalled := false }
    else o
  let chs := l.filterMap fun o => o.chan?.bind fun ch => if o.st = .stopped && o.delivered then some (o.fid, ch) else none
  let s := { s with ops := s.ops.map go }
  chs.foldl (fun s c =>
    s.updFlock c.1 fun f => { f with chans := f.chans.mapIdx fun i k => if i = c.2 then { k with st := .walking, delivered := false } else k }) s
/-- Each lane executes a word that may cover operations: those delivered resume; a lane whose word covers an undelivered fault
takes the oldest; the other lanes act by the word's own rules. The lanes of one word are one delivery. -/
def coverWord (s : State) (cov : State → Thread → List Op) (f : Issue → State → Thread → StepRes) : Out :=
  match s.issue with
  | none => .next s
  | some iss =>
    let ts := s.issuing iss
    let hits := ts.filterMap fun t => (oldest ((cov s t).filter Op.pending)).map fun o => (t.lane, o)
    let s := s.restartOps (ts.flatMap fun t => cov s t)
    let s := s.laneFold fun i s t => match hits.lookup t.lane with | some _ => .ok s | none => f i s t
    let s := hits.foldl (fun s x => s.trapOp x.1 x.2) s
    let os := ((hits.map fun x => x.2).map Op.id).dedup
    .next (os.foldl (fun s i => match s.op? i with | some o => (s.markDelivered o).settleOp o | none => s) s)
/-- What a lane's `bar.wait` or `bar.try` covers, when its token names the present phase. -/
def State.coverBarLane (s : State) (t : Thread) (b c : Fld) : List Op :=
  let g := s.group t.gid
  match s.objPlace g (s.fatPtr g t b) (rd t b).toNat 16 with
  | .error _ => []
  | .ok (fid, a) =>
    let x := s.bar fid a
    if x.expect ≠ 0 && rd t c = s.token fid a x.phase then s.coverBar g fid a x.phase else []
/-- `waitc` of one lane that covers no fault: a pending tile fault first, one per execution. -/
def State.laneWaitc (s : State) (iss : Issue) (t : Thread) (c : Cls) (n : Nat) : StepRes :=
  match (if c = Cls.tile then t.tileErr else []) with
  | d :: rest =>
    let s := s.updT t.gid t.lane fun t => { t with tileErr := rest }
    (match s.issue with
     | some i => .ok (s.takeTrap i ⟨t.lane, d.cause, d.aux, 0, 0⟩ (d.trapRec iss.pkt iss.restartSlot))
     | none => .ok s)
  | [] =>
    if (s.group iss.gid).counter c ≤ n then .ok (s.acquireCore (s.group iss.gid).pcore)
    else .ok (s.updT t.gid t.lane fun t => t.block (.waitc c n) iss [])

/-! ## Descriptors and the checks of issue (R270, R272) -/

/-- A copy descriptor from its 256 bits. -/
def CD.ofNat (n : Nat) (sps dps : Int) : CD :=
  { soff := bitsOf n 31 0, doff := bitsOf n 63 32, sh := bitsOf n 75 64, dh := bitsOf n 87 76, dims := bitsOf n 89 88,
    bar := n.testBit 90, codec := bitsOf n 95 92, row := bitsOf n 119 96, rows := bitsOf n 143 128, planes := bitsOf n 159 144,
    slen := bitsOf n 159 128, sstr := (BitVec.ofNat 32 (n >>> 160)).toInt, dstr := (BitVec.ofNat 32 (n >>> 192)).toInt,
    start := bitsOf n 255 224, sps, dps }
/-- The 256 bits of a register octet. -/
def octNat (t : Thread) (a : Fld) : Nat := (octet t a).toNat
/-- Check 1 of R272: the reason that refuses a descriptor, 0 for none. `dims` is the highest code that the form takes.
[DEDUCED: log entry 33] -/
def CD.reason (d : CD) (raw dims : Nat) (codec bar : Bool) : Nat :=
  if d.dims = 3 ∨ dims < d.dims then 1
  else if d.codec ≠ 0 ∧ (3 < d.codec ∨ !codec ∨ d.dims ≠ 0 ∨ d.start ≠ 0) then 2
  else if d.codec ≠ 0 ∧ (d.row = 0 ∨ d.slen = 0) then 3
  else if d.codec = 0 ∧ (d.row = 0 ∨ d.rows = 0 ∨ d.planes = 0 ∨ (d.dims = 0 ∧ d.rows ≠ 1) ∨ (d.dims < 2 ∧ d.planes ≠ 1) ∨
      d.total ≤ d.start) then 3
  else if raw.testBit 91 ∨ bitsOf raw 127 120 ≠ 0 then 4
  else if d.bar ∧ !bar then 5
  else 0
/-- A table entry as an engine captures it (R169). -/
def State.engHandle (s : State) (g : Group) (idx : Nat) : HReg :=
  match s.tableEntry g.ctx idx with
  | some e => ⟨true, BitVec.ofNat 12 idx, e, false⟩
  | none => ⟨false, BitVec.ofNat 12 idx, 0, false⟩
/-- The bytes that an entry bounds: its length, and the flock's allocation in the on-chip spaces (R170). [DEDUCED: log entry 33] -/
def State.bound (s : State) (g : Group) (h : HReg) : Int :=
  let l : Int := heLen h.ent
  match heSpace h.ent with
  | .scratch | .peer => (match s.spaceFlock g h.ent with | some f => min l ((f.scrLen : Int) - heBase h.ent) | none => 0)
  | .bstore => (match s.flock? g.fid with | some f => min l ((f.bstLen : Int) - heBase h.ent) | none => 0)
  | _ => l
/-- The first check that fails, in order; each is a cause and an aux. -/
def firstFail : List (Option (Byte × W64)) → Option (Byte × W64)
  | [] => none
  | some x :: _ => some x
  | none :: l => firstFail l
def failIf (b : Bool) (cause : Byte) (aux : Nat) : Option (Byte × W64) := if b then some (cause, BitVec.ofNat 64 aux) else none
/-- Spaces that an engine reads, and writes but for `bld` (R272). -/
def engSpace (h : HReg) : Bool := [Space.global, .near, .pod, .scratch, .peer].contains (heSpace h.ent)
/-- Check 2: the handle is usable. -/
def State.chkUsable (s : State) (g : Group) (h : HReg) : Option (Byte × W64) := failIf (!s.usable g h) 0x12 h.idx.toNat
/-- Check 3: its space and its rights. -/
def chkSpace (h : HReg) (ok : Bool) (right : Nat) : Option (Byte × W64) :=
  failIf (!(ok && heRight h.ent right && heRight h.ent 4)) 0x11 h.idx.toNat
/-- Check 4: what is touched lies within the bound; the aux is the lowest byte below it, else the highest byte.
[DEDUCED: log entry 33] -/
def State.chkSpan (s : State) (g : Group) (h : HReg) (sp : Int × Int) : Option (Byte × W64) :=
  if sp.1 < 0 then some (0x13, BitVec.ofInt 64 sp.1)
  else if s.bound g h < sp.2 then some (0x13, BitVec.ofInt 64 (sp.2 - 1))
  else none
/-- What a descriptor touches at its source. -/
def CD.srcSpan (d : CD) : Int × Int := if d.codec ≠ 0 then (d.soff, d.soff + d.slen) else d.span d.soff d.sstr d.sps
/-- Whether the destination's row starts and its rows are whole sectors. -/
def CD.sectored (d : CD) (base : Nat) : Bool :=
  (base + d.doff) % 32 = 0 && d.row % 32 = 0 &&
  (d.codec ≠ 0 || ((d.rows = 1 || d.dstr % 32 = 0) && (d.planes = 1 || d.dps % 32 = 0)))
/-- The barrier operand of an engine command (R250, R257): flock, offset and present phase. -/
def State.barOperand (s : State) (g : Group) (h : HReg) (off : Nat) : Except (Byte × W64) (Nat × Nat × Byte) :=
  match s.objPlace g h off 16 with
  | .error e => .error e
  | .ok (fid, a) => .ok (fid, a, BitVec.ofNat 8 (s.bar fid a).phase)
/-- Check 5: the barrier. -/
def chkBar (on sectored : Bool) (b : Except (Byte × W64) (Nat × Nat × Byte)) : Option (Byte × W64) :=
  if !on then none else if !sectored then some (0x28, 5) else match b with | .error e => some e | .ok _ => none
/-- The barrier that an operation credits. -/
def barOf (on : Bool) (b : Except (Byte × W64) (Nat × Nat × Byte)) : Option (Nat × Nat × Byte) :=
  if !on then none else match b with | .ok x => some x | .error _ => none
/-- The checks of a copy, a `bld` or a chain record, and the operation they allow. [DEDUCED: log entry 33] -/
def State.copyChecks (s : State) (g : Group) (d : CD) (raw dims : Nat) (codec bst : Bool) (b : Except (Byte × W64) (Nat × Nat × Byte)) :
    Option (Byte × W64) :=
  let sh := s.engHandle g d.sh
  let dh := s.engHandle g d.dh
  let why := d.reason raw dims codec true
  firstFail [failIf (why ≠ 0) 0x28 why, s.chkUsable g sh, s.chkUsable g dh, chkSpace sh (engSpace sh) 0,
    chkSpace dh (if bst then heSpace dh.ent = .bstore else engSpace dh) 1, s.chkSpan g sh d.srcSpan, s.chkSpan g dh d.dstSpan,
    chkBar d.bar (d.sectored (heBase dh.ent)) b]
/-- A copy's operation. -/
def State.copyOp (s : State) (iss : Issue) (g : Group) (lane : Nat) (d : CD) (cls : Option Cls) (kind : OpKind)
    (b : Except (Byte × W64) (Nat × Nat × Byte)) : Op :=
  { Op.fresh s.nextId cls kind g lane iss with
    sh := s.engHandle g d.sh, dh := s.engHandle g d.dh, off := d.start, soffDone := d.start, bar := barOf d.bar b,
    secs := d.total / 32 - d.start / 32 }
/-- The barrier operand in a pair of registers. -/
def State.barRegs (s : State) (g : Group) (t : Thread) (c : Fld) : Except (Byte × W64) (Nat × Nat × Byte) :=
  s.barOperand g (s.fatPtr g t c) (rd t c).toNat
/-- `cpy` and `cpy.at` of one lane. -/
def State.laneCpy (s : State) (iss : Issue) (t : Thread) (a b c : Fld) (timed : Bool) : StepRes :=
  let g := s.group iss.gid
  let raw := octNat t a
  let three := bitsOf raw 89 88 = 2
  let st := fun (r : Fld) => if three && !timed then (rd t r).toInt else 0
  let d := CD.ofNat raw (st b) (st (b + 1))
  let bar := s.barRegs g t c
  match s.copyChecks g d raw (if timed then 1 else 2) (!timed) false bar with
  | some (cause, x) => .trap s cause x 0 0
  | none => .ok (s.issueOp g { s.copyOp iss g t.lane d (some .copy) (.copy d) bar with at_ := if timed then some (rd2 t b) else none })
/-- `bld` of one lane: its slots fill from now on (R279, R297). -/
def State.laneBld (s : State) (iss : Issue) (t : Thread) (a c : Fld) : StepRes :=
  let g := s.group iss.gid
  let raw := octNat t a
  let d := CD.ofNat raw 0 0
  let bar := s.barRegs g t c
  match s.copyChecks g d raw 1 true true bar with
  | some (cause, x) => .trap s cause x 0 0
  | none =>
    let o := s.copyOp iss g t.lane d (some .copy) (.bld d) bar
    let s := s.issueOp g o
    .ok ({ s with tileOrder := s.tileOrder ++ [o.id] }.setSlots g.fid o.fills fun x => { x with st := .filling, gen := x.gen + 1 })
/-- `cpm` of one lane (R281). -/
def State.laneCpm (s : State) (iss : Issue) (t : Thread) (a b c : Fld) : StepRes :=
  let g := s.group iss.gid
  let raw := octNat t a
  let d := CD.ofNat raw 0 0
  let why := d.reason raw 1 false false
  let mask := (rd t b).toNat
  let tag := (rd t c).toNat
  let sh := s.engHandle g d.sh
  match firstFail [failIf (why ≠ 0) 0x28 why, failIf (16384 < d.total) 0x28 3, failIf (255 < mask ∨ 65535 < tag) 0x28 4,
      s.chkUsable g sh, chkSpace sh (engSpace sh) 0, s.chkSpan g sh d.srcSpan,
      failIf (mask = 0 ∨ 2 ^ (s.herdFlocks g).length ≤ mask) 0x25 mask] with
  | some (cause, x) => .trap s cause x 0 0
  | none =>
    .ok (s.issueOp g { Op.fresh s.nextId (some .copy) (.cpm d (BitVec.ofNat 8 mask) (BitVec.ofNat 16 tag)) g t.lane iss with
      sh := sh, off := d.start, soffDone := d.start })
/-- `drn` of one lane (R281). [DEDUCED: log entry 37] -/
def State.laneDrn (s : State) (iss : Issue) (t : Thread) (a b c : Fld) : StepRes :=
  let g := s.group iss.gid
  let off := (rd t a).toNat
  let w := (rd t b).toNat
  let on := w.testBit 16
  let dh := s.fatPtr g t a
  let bar := s.barRegs g t c
  match firstFail [failIf (2 ^ 17 ≤ w) 0x28 4, s.chkUsable g dh, chkSpace dh (heSpace dh.ent = .scratch) 1,
      s.chkSpan g dh (off, (off : Int) + 1), chkBar on ((heBase dh.ent + off) % 32 = 0) bar] with
  | some (cause, x) => .trap s cause x 0 0
  | none =>
    .ok (s.issueOp g { Op.fresh s.nextId (some .copy) (.drn off (BitVec.ofNat 16 w)) g t.lane iss with dh := dh, bar := barOf on bar })
/-- The element width of a gather's index list. -/
def CD.idxBytes (d : CD) : Nat := if d.planes % 2 = 1 then 8 else 4
/-- `gath` of one lane (R282). -/
def State.laneGath (s : State) (iss : Issue) (t : Thread) (a c : Fld) : StepRes :=
  let g := s.group iss.gid
  let raw := octNat t a
  let d := CD.ofNat raw 0 0
  let ix := bitsOf raw 191 160
  let tot := d.row * d.rows
  let pow := (List.range 13).any fun k => d.row = 2 ^ k
  let sh := s.engHandle g d.sh
  let dh := s.engHandle g d.dh
  let ih := s.engHandle g (ix % 4096)
  let why : Nat :=
    if d.dims ≠ 0 then 1 else if d.codec ≠ 0 then 2 else if !pow ∨ d.rows = 0 ∨ tot ≤ d.start then 3
    else if raw.testBit 91 ∨ bitsOf raw 127 120 ≠ 0 ∨ 1 < d.planes ∨ 4096 ≤ ix ∨ d.dstr ≠ 0 then 4 else 0
  let first := d.start / d.row
  let bar := s.barRegs g t c
  match firstFail [failIf (why ≠ 0) 0x28 why, s.chkUsable g sh, s.chkUsable g dh, s.chkUsable g ih, chkSpace sh (engSpace sh) 0,
      chkSpace dh (engSpace dh) 1, chkSpace ih (engSpace ih) 0,
      s.chkSpan g ih (d.soff + d.idxBytes * first, d.soff + d.idxBytes * d.rows), s.chkSpan g dh (d.doff + d.row * first, d.doff + tot),
      chkBar d.bar ((heBase dh.ent + d.doff) % 32 = 0 && d.row % 32 = 0) bar] with
  | some (cause, x) => .trap s cause x 0 0
  | none =>
    .ok (s.issueOp g { Op.fresh s.nextId (some .gather) (.gath d ih) g t.lane iss with
      sh := sh, dh := dh, off := d.row * first, soffDone := d.row * first, bar := barOf d.bar bar,
      secs := tot / 32 - d.row * first / 32 })

/-! ## Where an operation reads and writes -/

/-- One side of a transfer. -/
inductive Side where
  | hnd (h : HReg) (off : Nat)
  | scr (fid a : Nat)
  | buf (bs : List Byte)
  | hold (op : Nat)
  | bad (cause : Byte) (kind va : Nat)
  | wait
  deriving DecidableEq, Repr
/-- A place on the engine's way, or why it is not reached. -/
inductive EngAt where
  | scr (fid a : Nat) | bst (fid a : Nat) | mem (pa : Nat) | pod (dev va : Nat) | bounce (va : Nat) | hold (op : Nat)
  | wait
  | bad (cause : Byte) (kind va : Nat)
  deriving DecidableEq, Repr
/-- An operation's access of n bytes through a handle, checked again at every burst (R169); a write registers its grain (R187),
conflicts with other cores' (R188), and goes to the bounce buffer where the page is missing (R244). A POD handle of this device
reaches the issuing context, and fails as a remote access does; one of a device that the pod does not have fails so too (R199, R417). -/
def State.engPlace (s : State) (o : Op) (h : HReg) (off n : Nat) (wr : Bool) : EngAt × State :=
  let g := s.group o.gid
  let va := heBase h.ent + off
  let acc : Acc := if wr then .write else .read
  if !s.usable g h then (.bad 0x28 0 va, s)
  else if s.bound g h < off + n then (.bad 0x13 0 va, s)
  else
    let mem := fun (r : XlRes × State) =>
      match r with
      | (.ok pa, s) =>
        if decide (hostBase ≤ pa) && !s.plat.hostUp then (EngAt.bad 0x31 0 va, s)
        else if wr && s.grains.any (fun x => x.addr = pa / 512 * 512 && x.core ≠ o.core) then (.bad 0x16 0 va, s)
        else (.mem pa, s)
      | (.zero _ _ _, s) => (if wr then .bounce va else .bad 0x10 1 va, s)
      | (.fault c k, s) => (if c = 0x10 && wr && k ≠ 2 then .bounce va else .bad c k va, s)
    match heSpace h.ent with
    | .scratch | .peer => (match s.spaceFlock g h.ent with | some f => (.scr f.fid va, s) | none => (.bad 0x28 0 va, s))
    | .bstore => (.bst o.fid va, s)
    | .pod =>
      if !s.inPod (heDev h.ent) then (.bad 0x31 0 va, s)
      else if heDev h.ent ≠ s.fab.dev then (.pod (heDev h.ent) va, s)
      else match mem (s.translate o.core o.ctx va acc) with
        | (.bounce va, s) => (.bad 0x31 0 va, s)
        | (.bad c k va, s) => (if c = 0x10 || c = 0x11 then .bad 0x31 0 va else .bad c k va, s)
        | r => r
    | _ => mem (s.translate o.core o.ctx va acc)
/-- Bytes that a side gives, n of them: known, awaited from outside, or a fault. -/
inductive EngRd where
  | ok (bs : List Byte)
  | wait
  | bad (cause : Byte) (kind va : Nat)
  deriving DecidableEq, Repr
/-- Whether a request of an operation is under way. [DEDUCED: log entry 36] -/
def State.engBusy (s : State) (o : Op) : Bool := s.reqs.any fun r => r.eng = some o.id
/-- Sends an operation's access to another device. -/
def State.engSend (s : State) (o : Op) (dev va n : Nat) (kind : ReqKind) (data : List Byte) : State :=
  { s with nextId := s.nextId + 1,
           reqs := s.reqs ++ [{ Req.outsider s.nextId engineAgent o.ctx kind (podKey dev va) n data with
                                va := va, dev := some dev, eng := some o.id, rid := some o.soffDone, off := o.off, word := o.word, pkt := o.pkt, slot := o.slot }] }
/-- The pieces of n bytes that lie in one 64-byte line each. -/
def linePieces : Nat → Nat → Nat → List (Nat × Nat)
  | 0, _, _ => []
  | f + 1, a, n =>
    if n = 0 then [] else
    let k := min n (64 - a % 64)
    (a, k) :: linePieces f (a + k) (n - k)
/-- Sends an operation's access to host memory to the proxy home, line by line (R186). -/
def State.engHost (s : State) (o : Op) (va pa n : Nat) (kind : List Byte → ReqKind) (data : List Byte) : State :=
  (linePieces (n / 64 + 2) pa n).foldl (fun s p =>
    let bs := (data.drop (p.1 - pa)).take p.2
    { s with nextId := s.nextId + 1,
             reqs := s.reqs ++ [{ Req.outsider s.nextId engineAgent o.ctx (kind bs) p.1 p.2 bs with
                                  va := va + (p.1 - pa), eng := some o.id, rid := some o.soffDone, off := o.off, word := o.word, pkt := o.pkt, slot := o.slot }] }) s
/-- What the proxy home has answered to an operation's read, if all of it is there. -/
def Op.hostGot (o : Op) (pa n : Nat) : Option (List Byte) :=
  (linePieces (n / 64 + 2) pa n).foldl (fun l p =>
    match l, o.got.find? fun x => x.1 = p.1 && x.2.length = p.2 with
    | some l, some x => some (l ++ x.2)
    | _, _ => none) (some [])
/-- Reads n bytes of a side. -/
def State.engRead (s : State) (o : Op) (side : Side) (n : Nat) : EngRd × State :=
  match side with
  | .buf bs => (.ok (takeBytes n bs), s)
  | .scr fid a => (.ok (s.scrRead fid a n), s)
  | .bad c k va => (.bad c k va, s)
  | .hold _ | .wait => (.wait, s)
  | .hnd h off =>
    match s.engPlace o h off n false with
    | (.scr fid a, s) => (.ok (s.scrRead fid a n), s)
    | (.bst fid a, s) => (.ok (s.bstRead fid a n), s)
    | (.mem pa, s) =>
      if pa < hostBase then (.ok (s.cohRead pa n), s)
      else (match o.hostGot pa n with
        | some bs => (.ok bs, s)
        | none => if s.engBusy o then (.wait, s) else (.wait, s.engHost o (heBase h.ent + off) pa n (fun _ => .read false) []))
    | (.pod dev va, s) =>
      (match o.got.find? fun x => x.1 = podKey dev va && x.2.length = n with
       | some x => (.ok x.2, s)
       | none => if s.engBusy o then (.wait, s) else (.wait, s.engSend o dev va n (.read false) []))
    | (.bad c k va, s) => (.bad c k va, s)
    | (_, s) => (.wait, s)
/-- The pieces of n bytes at an address, cut at multiples of a size. -/
def grainPieces (size : Nat) : Nat → Nat → Nat → List (Nat × Nat)
  | 0, _, _ => []
  | f + 1, a, n =>
    if n = 0 then [] else
    let k := min n (size - a % size)
    (a, k) :: grainPieces size f (a + k) (n - k)
/-- The most bytes of one engine access: those of a grain, and on another device in UALink mode 256 (R370). -/
def State.engCap (s : State) (h : HReg) : Nat :=
  if heSpace h.ent = .pod && heDev h.ent ≠ s.fab.dev && !s.fab.mesh then 256 else 512
def State.sideCap (s : State) : Side → Nat
  | .hnd h _ => s.engCap h
  | _ => 512
/-- Reads n bytes through a handle, across grains. -/
def State.engReadAll (s : State) (o : Op) (h : HReg) (off n : Nat) : EngRd × State :=
  let b := heBase h.ent
  (grainPieces (s.engCap h) (n / 256 + 2) (b + off) n).foldl (fun r p =>
    match r.1 with
    | .ok l => (match r.2.engRead o (.hnd h (p.1 - b)) p.2 with | (.ok bs, s) => (.ok (l ++ bs), s) | x => x)
    | _ => r) (.ok [], s)
/-- The records that a context's bounce buffer holds (R244). [DEDUCED: log entry 54] -/
def State.bounceRoom (s : State) (ctx : Nat) : Nat :=
  let mb : Nat := match s.ctx? ctx with | some c => if c.bbsz = 0 then 4 else c.bbsz | none => 4
  mb * 2048
/-- Posts an engine's entry of a kind for a page, merged with one of its core's slot (R239, R240). -/
def State.postEngine (s : State) (o : Op) (kind : BitVec 4) (page : Nat) (byPage : Bool) : State :=
  let g := s.group o.gid
  let p := pastureOf o.core
  let same : FaultEnt → Bool := fun e => e.sub.isNone && e.ctx = o.ctx && e.pcore = o.core && e.kind = kind && (!byPage || e.va = page)
  if (match s.fq[p]? with | some q => q.entries.any same | none => false) then s
  else s.pushFault p { sub := none, va := page, ctx := o.ctx, kind := kind, acc := 2, eng := true, pcore := o.core, pen := g.pen,
                       grp := g.hslot, lanes := 0, seq := 0, time := s.ptime }
/-- Writes bytes of one grain to the bounce buffer; none when it is full. The page of an entry is the 4 KiB page, whatever size the
missing page would have. [DEDUCED: log entry 54; DEDUCED: log entry 73] -/
def State.bounceWrite (s : State) (o : Op) (va : Nat) (bs : List Byte) : Option State :=
  let base := va / 512 * 512
  let at_ := (List.range bs.length).map fun i => va - base + i
  let add := fun (b : Bounce) =>
    { b with bytes := memWrite b.bytes (va - base) bs, written := (b.written ++ at_).dedup }
  if s.bounce.any fun b => b.ctx = o.ctx && b.va = base then
    some { s with bounce := s.bounce.map fun (b : Bounce) => if b.ctx = o.ctx && b.va = base then add b else b }
  else if s.bounceRoom o.ctx ≤ (s.bounce.filter fun b => b.ctx = o.ctx).length then none
  else some ({ s with bounce := s.bounce ++ [add ⟨o.ctx, base, [], []⟩] }.postEngine o 3 (va / 4096 * 4096) true)
/-- Whether a `bld` must wait: an earlier matrix operation has still to read the slot (R297). [DEDUCED: log entry 36] -/
def State.slotBusy (s : State) (o : Op) (a n : Nat) : Bool :=
  s.ops.any fun x => x.fid = o.fid && x.st ≠ OpSt.done && s.tileBefore x.id o.id &&
    x.readsSlots.any fun k => decide (1024 * k < a + n) && decide (a < 1024 * (k + 1))
/-- What a write came to. -/
inductive EngWr where
  | ok (s : State)
  | wait (s : State)
  | stall (s : State)
  | bad (s : State) (cause : Byte) (kind va : Nat)
/-- Registers a grain for an operation. -/
def State.register (s : State) (o : Op) (pa : Nat) : State :=
  let g : Grain := ⟨pa / 512 * 512, o.id, o.core⟩
  if s.grains.contains g then s else { s with grains := g :: s.grains }
/-- Writes bytes of one grain to a side. -/
def State.engWrite (s : State) (o : Op) (side : Side) (bs : List Byte) : EngWr :=
  match side with
  | .scr fid a => .ok (s.scrWrite fid a bs)
  | .hold op => .ok { s with holds := s.holds.map fun (h : HoldSlot) => if h.op = op then { h with data := h.data ++ bs } else h }
  | .bad c k va => .bad s c k va
  | .buf _ | .wait => .wait s
  | .hnd h off =>
    match s.engPlace o h off bs.length true with
    | (.scr fid a, s) => .ok (s.scrWrite fid a bs)
    | (.bst fid a, s) => if s.slotBusy o a bs.length then .wait s else .ok (s.bstWrite fid a bs)
    | (.mem pa, s) =>
      if pa < hostBase then .ok ((s.register o pa).cohWrite o.ctx pa bs)
      else .ok ((s.register o pa).engHost o (heBase h.ent + off) pa bs.length (fun _ => .write false) bs)
    | (.pod dev va, s) => .ok (s.engSend o dev va bs.length (.write false) bs)
    | (.bounce va, s) =>
      (match s.bounceWrite o va bs with
       | some s => .ok s
       | none => .stall (s.postEngine o 4 (va / 4096 * 4096) false))
    | (.bad c k va, s) => .bad s c k va
    | (.hold _, s) | (.wait, s) => .wait s
/-- The holding slot that a drain is matched with. -/
def State.drainSlot (s : State) (o : Op) : Option HoldSlot := s.holds.find? fun h => h.drains.contains o.id
/-- Bytes per element of a collective. -/
def CollOp.bytes : CollOp → Nat
  | .bcast | .addF32 | .addI32 | .minF32 | .maxF32 => 4
  | _ => 8
/-- What an operation transfers in all. -/
def State.opBytes (s : State) (o : Op) : Nat :=
  match o.kind with
  | .copy d | .bld d | .cpm d _ _ | .record d _ => d.total
  | .gath d _ => d.row * d.rows
  | .drn _ _ => match s.drainSlot o with | some h => h.data.length | none => 0
  | .coll a => a.count * a.op.bytes
  | .mst _ _ _ rb rows => rb * rows
  | .rput _ _ n | .rget _ _ n => n
  | .tret _ _ => 64
  | .walk _ | .mma _ | .mmz _ _ _ _ | .mmcvt _ _ _ _ _ | .ratm _ _ _ _ => 1
/-- How far an operation has to come to be complete: its bytes, and one more while a Zstandard source has something left, which
may be blocks and frames that decode to nothing (R283). [PRESUMED: log entry 35] -/
def State.opTotal (s : State) (o : Op) : Nat :=
  s.opBytes o + (match o.kind with
    | .copy d | .bld d | .record d _ => if d.codec = 2 ∧ o.soffDone < d.slen then 1 else 0
    | _ => 0)
/-- The source and the destination of an operation at a linear position, and the bytes left in its row (R271, R282, R304). -/
def State.sides (s : State) (o : Op) (l : Nat) : Side × Side × Nat × State :=
  let rows := fun (d : CD) =>
    let x := l % d.row
    let r := l / d.row % d.rows
    let z := l / (d.row * d.rows)
    let so : Int := d.soff + z * d.sps + r * d.sstr + x
    let dO : Int := d.doff + z * d.dps + r * d.dstr + x
    (so.toNat, dO.toNat, d.row - x)
  match o.kind with
  | .copy d | .bld d | .record d _ => let p := rows d; (.hnd o.sh p.1, .hnd o.dh p.2.1, p.2.2, s)
  | .cpm d _ _ => let p := rows d; (.hnd o.sh p.1, .hold o.id, p.2.2, s)
  | .gath d ih =>
    let i := l / d.row
    let x := l % d.row
    (match s.engReadAll o ih (d.soff + d.idxBytes * i) d.idxBytes with
     | (.ok bs, s) => (.hnd o.sh (natOf bs * d.row + x), .hnd o.dh (d.doff + l), d.row - x, s)
     | (.wait, s) => (.wait, .wait, 1, s)
     | (.bad c k va, s) => (.bad c k va, .wait, 1, s))
  | .drn off _ =>
    (match s.drainSlot o with
     | some h => (.buf (h.data.drop l), .hnd o.dh (off + l), h.data.length - l, s)
     | none => (.wait, .wait, 1, s))
  | .coll a => (.buf (o.out.drop l), .hnd o.dh (a.roff + l), s.opTotal o - l, s)
  | .mst so dO st rb _ =>
    let d : Int := dO + (l / rb : Nat) * st + (l % rb : Nat)
    (.scr o.fid (so + l), .hnd o.dh d.toNat, rb - l % rb, s)
  | .rput lo ro n => (.hnd o.sh (lo + l), .hnd o.dh (ro + l), n - l, s)
  | .rget lo ro n => (.hnd o.sh (ro + l), .hnd o.dh (lo + l), n - l, s)
  | _ => (.wait, .wait, 1, s)
/-- The address that a side's grains count from. -/
def Side.addr : Side → Nat
  | .hnd h off => heBase h.ent + off
  | _ => 0

/-! ## Inline decompression (R283, R284) -/

/-- An LZ4 length that goes on in bytes of 255. [PRESUMED: log entry 35] -/
def lz4Len : Nat → List Byte → Nat → Option (Nat × List Byte)
  | 0, _, _ => none
  | _ + 1, [], _ => none
  | f + 1, b :: l, n => if b = 255 then lz4Len f l (n + 255) else some (n + b.toNat, l)
/-- Appends a match, byte by byte, as it may overlap itself. [PRESUMED: log entry 35] -/
def lz4Copy : Nat → Nat → List Byte → List Byte
  | 0, _, o => o
  | n + 1, dist, o => lz4Copy n dist (o ++ [(o[o.length - dist]?).getD 0])
/-- One block of the LZ4 block format, exactly; `none` when it is malformed or its output would pass `cap`. The last sequence
holds literals only, of at least 5 bytes, and the last match begins at least 12 bytes before the end. [PRESUMED: log entry 35] -/
def lz4 (cap : Nat) : Nat → List Byte → List Byte → Option Nat → Option (List Byte)
  | 0, _, _, _ => none
  | _ + 1, [], _, _ => none
  | f + 1, tok :: l, out, lastMatch =>
    let lit := tok.toNat / 16
    match (if lit = 15 then lz4Len l.length l 15 else some (lit, l)) with
    | none => none
    | some (n, l) =>
      if l.length < n ∨ cap < out.length + n then none else
      let out := out ++ l.take n
      match l.drop n with
      | [] =>
        (match lastMatch with
         | none => some out
         | some m => if n < 5 ∨ out.length < m + 12 then none else some out)
      | [_] => none
      | d0 :: d1 :: l =>
        let dist := d0.toNat + 256 * d1.toNat
        let ml := tok.toNat % 16
        match (if ml = 15 then lz4Len l.length l 15 else some (ml, l)) with
        | none => none
        | some (m, l) =>
          if dist = 0 ∨ out.length < dist ∨ cap < out.length + m + 4 then none
          else lz4 cap f l (lz4Copy (m + 4) dist out) (some out.length)
/-- An unsigned LEB128 value of at most 10 bytes and below 2^64. -/
def leb : Nat → List Byte → Nat → Nat → Option (Nat × List Byte)
  | 0, _, _, _ => none
  | _ + 1, [], _, _ => none
  | f + 1, b :: l, sh, v =>
    let v := v + b.toNat % 128 * 2 ^ sh
    if b.toNat < 128 then (if v < 2 ^ 64 then some (v, l) else none) else leb f l (sh + 7) v
/-- The values of one DZ64 group: exactly so many varints fill the body. [PRESUMED: log entry 35] -/
def dzVals : Nat → List Byte → Option (List W64)
  | 0, [] => some []
  | 0, _ :: _ => none
  | n + 1, l =>
    match leb 10 l 0 0 with
    | none => none
    | some (u, l) => (dzVals n l).map fun r => ((BitVec.ofNat 64 (u / 2)) ^^^ (0 - BitVec.ofNat 64 (u % 2))) :: r
/-- The keys that a group's deltas of deltas give, from the key and the delta before it. [PRESUMED: log entry 35] -/
def dzKeys : W64 → W64 → List W64 → List W64
  | _, _, [] => []
  | k, dl, d :: r => (k + (dl + d)) :: dzKeys (k + (dl + d)) (dl + d) r
/-- The last key and the one before it, after so many further keys of whole groups. [PRESUMED: log entry 35] -/
def dzLast : Nat → Nat → List Byte → W64 → W64 → W64 × W64
  | 0, _, _, k, dl => (k, k - dl)
  | f + 1, n, bs, k, dl =>
    if n = 0 then (k, k - dl)
    else
      let m := min 32 n
      let len := natOf (bs.take 2)
      let vs := (dzVals m ((bs.drop 2).take len)).getD []
      let dl' := dl + vs.sum
      let k' := (dzKeys k dl vs).getLast?.getD k
      dzLast f (n - m) (bs.drop (2 + len)) k' dl'

/-! ## Bursts -/

/-- What one stretch of a transfer came to. -/
inductive Moved where
  | ok (s : State) (n : Nat)
  | wait (s : State)
  | bad (s : State) (cause : Byte) (kind va : Nat)
/-- Counts the bytes that a core's engine has read and written (R401). -/
def State.countBytes (s : State) (core rd wr : Nat) : State :=
  s.updCore core fun c => { c with rdBytes := c.rdBytes + rd, wrBytes := c.wrBytes + wr }
/-- Stamps an operation's first read (R307). [DEDUCED: log entry 36] -/
def State.stampRead (s : State) (id : Nat) : State := s.updOp id fun o => { o with t0 := if o.t0 = 0 then s.ptime else o.t0 }
/-- Stamps it when the read is under way on another device or in the host. -/
def State.stampSent (s : State) (o : Op) : State := if s.engBusy o then s.stampRead o.id else s
/-- Moves at most n bytes at the operation's offset, within one row and one grain on each side. -/
def State.moveChunk (s : State) (o : Op) (n : Nat) : Moved :=
  match s.sides o o.off with
  | (src, dst, left, s) =>
    let cs := s.sideCap src
    let cd := s.sideCap dst
    let k := min (min n left) (min (cs - src.addr % cs) (cd - dst.addr % cd))
    match s.engRead o src k with
    | (.wait, s) => .wait (s.stampSent o)
    | (.bad c q va, s) => .bad s c q va
    | (.ok bs, s) =>
      match (s.stampRead o.id).engWrite o dst bs with
      | .ok s => .ok ((s.countBytes o.core bs.length bs.length).updOp o.id fun o =>
          { o with off := o.off + bs.length, soffDone := o.off + bs.length, got := [] }) bs.length
      | .wait s => .wait s
      | .stall s => .wait (s.updOp o.id fun o => { o with stalled := true })
      | .bad s c q va => .bad s c q va
/-- Writes bytes through a destination handle, grain by grain. -/
def State.engWriteAll (s : State) (o : Op) (h : HReg) (off : Nat) (bs : List Byte) : EngWr :=
  let b := heBase h.ent
  (grainPieces (s.engCap h) (bs.length / 256 + 2) (b + off) bs.length).foldl (fun r p =>
    match r with
    | .ok s => s.engWrite o (.hnd h (p.1 - b)) ((bs.drop (p.1 - b - off)).take p.2)
    | r => r) (.ok s)
/-- One burst of a codec operation: a whole block, or a DZ64 group. [PRESUMED: log entry 35] -/
def State.codecChunk (s : State) (o : Op) (d : CD) : Moved :=
  let total := fun (bs : List Byte) (src dst : Nat) (s : State) =>
    match s.engWriteAll o o.dh (d.doff + o.off) bs with
    | .ok s => Moved.ok ((s.countBytes o.core (src - o.soffDone) bs.length).updOp o.id fun o =>
        { o with off := dst, soffDone := src, got := [] }) bs.length
    | .wait s => .wait s
    | .stall s => .wait (s.updOp o.id fun o => { o with stalled := true })
    | .bad s c q va => .bad s c q va
  let skip := if d.codec = 2 then 0 else o.soffDone
  match s.engReadAll o o.sh (d.soff + skip) (d.slen - skip) with
  | (.wait, s) => .wait (s.stampSent o)
  | (.bad c q va, s) => .bad s c q va
  | (.ok src, s) =>
    let s := s.stampRead o.id
    if d.codec = 1 then
      (match lz4 d.row (src.length + 1) src [] none with
       | some bs => if bs.length = d.row then total bs d.slen d.row s else .bad s 0x29 0 0
       | none => .bad s 0x29 0 0)
    else if d.codec = 2 then
      let r := zstd d.row src
      (match zAt (if r.2.2.2 then d.slen else r.2.1) o.soffDone r.1 with
       | none => .bad s 0x29 0 0
       | some (b, next) =>
         let write := fun (h : List Byte) (s : State) =>
           let bs := ((zRun b.cmds h).take b.len).reverse
           if d.row < o.off + b.len then .bad s 0x29 0 0 else total bs next (o.off + b.len) s
         let far := zReach b.cmds 0
         if far = 0 then write [] s
         else match s.engReadAll o o.dh (d.doff + o.off - far) far with
           | (.ok h, s) => write h.reverse s
           | (.wait, s) => .wait s
           | (.bad _ _ _, s) => write ((r.1.takeWhile fun x => decide (x.src < b.src)).foldl (fun h x => zRun x.cmds h) []) s)
    else
      -- a stream begins with its header and first key, which go with the first group
      match s.engReadAll o o.sh d.soff (min 8 d.slen) with
      | (.wait, s) => .wait s
      | (.bad c q va, s) => .bad s c q va
      | (.ok top, s) =>
      let n := natOf (top.drop 4)
      let k0 : W64 := BitVec.ofNat 64 (natOf ((src.drop 8).take 8))
      let hdr := o.soffDone = 0
      if hdr && (src.length < 16 ∨ natOf (src.take 4) ≠ 0x34365A44 ∨ n = 0) then .bad s 0x29 0 0
      else
        let done := if hdr then 1 else o.off / 8
        let body := if hdr then src.drop 16 else src
        let used := if hdr then 16 else 0
        let go := fun (k k2 : W64) (s : State) =>
          let dl : W64 := if hdr ∨ done < 2 then 0 else k - k2
          let head := if hdr then bytesOf 8 k0.toNat else []
          let m := min 32 (n - done)
          if m = 0 then (if hdr && body = [] && d.row = 8 then total head d.slen d.row s else .bad s 0x29 0 0)
          else
            let len := natOf (body.take 2)
            let rest := (body.drop 2).drop len
            if body.length < 2 + len then .bad s 0x29 0 0
            else match dzVals m ((body.drop 2).take len) with
              | none => .bad s 0x29 0 0
              | some vs =>
                if d.row < 8 * (done + m) ∨ (done + m = n ∧ (rest ≠ [] ∨ d.row ≠ 8 * n)) then .bad s 0x29 0 0
                else
                  let bs := head ++ (dzKeys k dl vs).flatMap fun x => bytesOf 8 x.toNat
                  total bs (o.soffDone + used + 2 + len) (8 * (done + m)) s
        if hdr then go k0 0 s
        else
          -- the last two keys are read back, or decoded again where the destination cannot be read
          let want := min done 2
          match s.engReadAll o o.dh (d.doff + o.off - 8 * want) (8 * want) with
          | (.wait, s) => .wait s
          | (.ok h, s) => go (BitVec.ofNat 64 (natOf (h.drop (8 * (want - 1))))) (BitVec.ofNat 64 (natOf (h.take (8 * (want - 1))))) s
          | (.bad _ _ _, s) =>
            match s.engReadAll o o.sh d.soff d.slen with
            | (.wait, s) => .wait s
            | (.bad c q va, s) => .bad s c q va
            | (.ok w, s) =>
              let l := dzLast (done / 32 + 1) (done - 1) (w.drop 16) (BitVec.ofNat 64 (natOf ((w.drop 8).take 8))) 0
              go l.1 l.2 s
/-- The copy descriptor of an operation that a codec may serve. -/
def Op.codec? (o : Op) : Option CD :=
  match o.kind with
  | .copy d | .bld d | .record d _ => if d.codec ≠ 0 then some d else none
  | _ => none
/-- The next stretch of a running operation. [DEDUCED: log entry 36] -/
def State.nextChunk (s : State) (o : Op) (n : Nat) : Moved :=
  match o.codec? with
  | some d => s.codecChunk o d
  | none => s.moveChunk o n
/-- A burst of at most n bytes: stretch after stretch, until a fault or a wait stops it (R271). A fault that the first stretch
meets is taken (R276); one further on is left for the next burst. A transfer that a `chain` makes go on waits for the accesses before
that word (R221). [DEDUCED: log entry 36] -/
def State.burst (id : Nat) : Nat → Nat → Bool → State → State
  | 0, _, _, s => s
  | f + 1, n, first, s =>
    match s.op? id with
    | none => s
    | some o =>
      if o.st ≠ .running || o.stalled || n = 0 || s.opTotal o ≤ o.off || !s.released o.after then s else
      match s.nextChunk o n with
      | .ok s' k => State.burst id f (n - k) false s'
      | .wait s' => s'
      | .bad s' c q va => if first then s'.opFault id c q va else s
/-- Kinds whose bytes move by bursts. -/
def Op.bursts (o : Op) : Bool :=
  match o.kind with
  | .mma _ | .tret _ _ | .mmz _ _ _ _ | .mmcvt _ _ _ _ _ | .ratm _ _ _ _ | .walk _ => false
  | _ => true
/-- Registers the grains that an operation will write, up to the first that another core's transfer holds (R187). -/
def State.registerAhead (s : State) (o : Op) : State :=
  let tot := s.opTotal o
  let go := fun (s : State) (d : CD) =>
    (List.range (d.rows * d.planes)).foldl (fun s i =>
      let a : Int := heBase o.dh.ent + d.doff + (i / d.rows : Nat) * d.dps + (i % d.rows : Nat) * d.dstr
      (grainPieces 512 (d.row / 512 + 2) a.toNat d.row).foldl (fun s p =>
        match s.peek o.ctx p.1 .write with
        | some pa => if s.grains.any (fun x => x.addr = pa / 512 * 512 && x.core ≠ o.core) then s else s.register o pa
        | none => s) s) s
  let flat := fun (n off : Nat) => go s ⟨0, off, 0, 0, 0, false, 0, n, 1, 1, 0, 0, 0, 0, 0, 0⟩
  if heSpace o.dh.ent ≠ .global && heSpace o.dh.ent ≠ .near then s else
  match o.kind with
  | .copy d | .record d _ => if d.codec ≠ 0 then flat d.row d.doff else go s d
  | .gath d _ => flat tot d.doff
  | .coll a => flat tot a.roff
  | .mst _ dO st rb rows => go s ⟨0, dO, 0, 0, 1, false, 0, rb, rows, 1, 0, 0, st, 0, 0, 0⟩
  | .rget lo _ n => flat n lo
  | _ => s

/-! ## Collectives (R287) -/

/-- The job identifier of a context. -/
def State.jobOf (s : State) (ctx : Nat) : Option W32 := (s.ctx? ctx).map Context.job
/-- The waiting members of an operation's instance: context (in the pod domain, one job), domain and tag, in the order of
arrival; a member that was swapped out with its herd while it waited has arrived. [DEDUCED: log entry 38] -/
def State.members (s : State) (o : Op) (a : CollArg) : List Op :=
  s.ops.filter fun x =>
    match x.kind with
    | .coll b => (x.ctx = o.ctx || (a.dom = 3 && s.jobOf x.ctx = s.jobOf o.ctx)) && b.dom = a.dom && b.tag = a.tag &&
        (x.st = OpSt.queued || (x.st = .suspended && x.left = .queued)) && s.released x.after
    | _ => false
def Op.coll? (o : Op) : Option CollArg := match o.kind with | .coll a => some a | _ => none
/-- Whether the members of an instance agree, stand where their domain says, and are each one member.
[DESIGN CHOICE: log entry 38] -/
def agreeing (l : List (Op × CollArg)) : Bool :=
  match l with
  | [] => true
  | (o, a) :: _ =>
    l.all (fun x => x.2.op = a.op && x.2.count = a.count && x.2.n = a.n &&
      (a.dom ≠ 0 || (x.1.kid = o.kid && x.1.herd = o.herd)) && (a.dom ≠ 1 || x.1.core / 8 = o.core / 8)) &&
    decide ((l.map fun x => x.2.member).dedup.length = l.length)
/-- One node of a collective reduction on element patterns. -/
def collNode (op : CollOp) (x y : Nat) : Nat :=
  let sg := fun (v : Nat) => (BitVec.ofNat 64 v).toInt
  match op with
  | .bcast => x
  | .addF32 => (redNode .add f32 x y).bits
  | .minF32 => (redNode .min f32 x y).bits
  | .maxF32 => (redNode .max f32 x y).bits
  | .addF64 => (redNode .add f64 x y).bits
  | .minF64 => (redNode .min f64 x y).bits
  | .maxF64 => (redNode .max f64 x y).bits
  | .addI32 => (x + y) % 2 ^ 32
  | .addI64 => (x + y) % 2 ^ 64
  | .minI64 => if sg y < sg x then y else x
  | .maxI64 => if sg x < sg y then y else x
  | .minN64 => min x y
  | .maxN64 => max x y
/-- The result of an instance: member 0's buffer, or the tree of R105 element by element. [DESIGN CHOICE: log entry 38] -/
def collResult (op : CollOp) (n count : Nat) (bufs : List (Nat × List Byte)) : List Byte :=
  let buf := fun (i : Nat) => (bufs.lookup i).getD []
  if op = .bcast then takeBytes (4 * count) (buf 0)
  else
    let k := op.bytes
    (List.range count).flatMap fun e =>
      let xs := (List.range n).map fun i => (bufs.lookup i).map fun b => natOf ((b.drop (k * e)).take k)
      bytesOf k ((treeRoot (collNode op) (Nat.clog 2 n) xs).getD 0)
/-- How many members of an instance arrive here: all of them, but in the pod domain those of other devices, whose number is open.
[DESIGN CHOICE: log entry 38] -/
def State.membersHere (s : State) (o : Op) (a : CollArg) : Nat :=
  if a.dom = 3 then a.n - Config.podMembers ((s.jobOf o.ctx).getD 0) a.tag a.n else a.n
/-- The send buffers of an instance: those read here, and for the members on other devices open bytes. [DESIGN CHOICE: log entry 38] -/
def State.allBuffers (s : State) (n len : Nat) (bufs : List (Nat × List Byte)) : List (Nat × List Byte) × State :=
  ((List.range n).filter fun i => (bufs.lookup i).isNone).foldl (fun r i =>
    let v := r.2.openBytes len
    (r.1 ++ [(i, v.1)], v.2)) (bufs, s)
/-- Starts a collective whose members have all arrived: they agree and every send buffer is read, or each fails (R287). A member whose
herd is out makes it runnable, and the others wait for it. Whether the members on other devices have arrived yet, and agree, is open.
[DESIGN CHOICE: log entry 38] -/
def State.startColl (s : State) (o : Op) (a : CollArg) : State :=
  let ms := (s.members o a).filterMap fun x => (x.coll?).map fun b => (x, b)
  let want := s.membersHere o a
  let here := ms.take want
  let far := decide (want < a.n)
  let v := if far then s.takeFree else (0, s)
  let s := v.2
  if here.length < want || (far && v.1.getLsbD 0) then s
  else if here.any fun x => x.1.st = .suspended then
    here.foldl (fun s x => if x.1.st = .suspended then s.recordRelease (s.group x.1.gid) else s) s
  else if !agreeing here || (far && v.1.getLsbD 1) then here.foldl (fun s x => s.opFault x.1.id 0x28 0 0) s
  else
    let r := here.foldl (fun (r : (Option (List (Nat × List Byte))) × State) x =>
      match r.1 with
      | none => r
      | some l =>
        (match r.2.engReadAll x.1 x.1.sh x.2.soff (x.2.count * x.2.op.bytes) with
         | (.ok bs, s) => (some (l ++ [(x.2.member, bs)]), s.stampRead x.1.id)
         | (.wait, s) => (none, s.stampSent x.1)
         | (.bad c q va, s) => (none, s.opFault x.1.id c q va))) (some [], s)
    match r with
    | (none, s) => s
    | (some bufs, s) =>
      let all := if far then s.allBuffers a.n (a.count * a.op.bytes) bufs else (bufs, s)
      here.foldl (fun s x =>
        (s.updOp x.1.id fun o => { o with st := .running, out := collResult a.op a.n a.count all.1, got := [] }).registerAhead x.1) all.2
/-- `coll` of one lane. -/
def collWord (op : CollOp) (a b c : Fld) (dom : BitVec 2) (s : State) : Out :=
  .next (s.laneFold fun iss s t =>
    let g := s.group iss.gid
    let soff := (rd t a).toNat
    let roff := (rd t (a + 1)).toNat
    let hs := (rd t (a + 2)).toNat
    let count := (rd t (a + 3)).toNat
    let mem := (rd t b).toNat % 65536
    let n := (rd t b).toNat / 65536
    let on := hs.testBit 24
    let sh := s.engHandle g (hs % 4096)
    let dh := s.engHandle g (hs / 4096 % 4096)
    let bar := s.barRegs g t c
    let len : Nat := count * op.bytes
    match firstFail [failIf (count = 0 ∨ 2 ^ 24 ≤ count ∨ n = 0) 0x28 3, failIf (2 ^ 25 ≤ hs) 0x28 4, failIf (n ≤ mem) 0x13 mem,
        s.chkUsable g sh, s.chkUsable g dh, chkSpace sh (engSpace sh) 0, chkSpace dh (engSpace dh) 1,
        s.chkSpan g sh (soff, (soff : Int) + len), s.chkSpan g dh (roff, (roff : Int) + len),
        chkBar on ((heBase dh.ent + roff) % 32 = 0 && len % 32 = 0) bar] with
    | some (cause, x) => .trap s cause x 0 0
    | none =>
      .ok (s.issueOp g { Op.fresh s.nextId (some .coll) (.coll ⟨op, dom, soff, roff, count, mem, n, rd t (b + 1)⟩) g t.lane iss with
        sh := sh, dh := dh, bar := barOf on bar, secs := len / 32 }))

/-! ## Holding slots (R281) -/

def foldOf (core : Nat) : Nat := core / 8
/-- The positions of a mask whose flocks have not all exited. -/
def State.livePositions (s : State) (o : Op) (mask : Byte) : Byte :=
  let gone := fun (i : Nat) =>
    s.flocks.all fun f => !(f.ctx = o.ctx && f.kid = o.kid && f.herd = o.herd && f.flk = i) || (s.liveOf f.fid).isEmpty
  (List.range 8).foldl (fun m i => if gone i then m &&& ~~~(BitVec.ofNat 8 (2 ^ i)) else m) mask
/-- A `cpm` takes a free holding slot of its fold, if there is one. What the slot holds below the start of its transfer is open.
[DESIGN CHOICE: log entry 5] -/
def State.takeHold (s : State) (o : Op) (mask : Byte) (tag : BitVec 16) : Option State :=
  let f := foldOf o.core
  let here := fun (h : HoldSlot) =>
    h.fold = f && (match s.herd? h.ctx h.kid h.herd with | some x => x.st.inPens | none => true)
  if 16 ≤ (s.holds.filter here).length then none
  else
    let b := s.openBytes o.off
    some { b.2 with holds := s.holds ++ [⟨f, o.ctx, o.kid, o.herd, .filling, s.livePositions o mask, tag, o.id, b.1, []⟩] }
/-- A `drn` is matched with the oldest slot of its herd that has its tag, its position pending, and no drain of that
position yet; older drains of its position come first. -/
def State.matchDrain (s : State) (o : Op) (tag : BitVec 16) : State :=
  let pos := (s.group o.gid).flk
  if (s.drainSlot o).isSome then s
  else if s.ops.any fun x =>
      (match x.kind with | .drn _ t => t = tag && x.ofHerd o.ctx o.kid o.herd && (s.group x.gid).flk = pos && decide (x.id < o.id) &&
          x.st = OpSt.queued && (s.drainSlot x).isNone | _ => false) then s
  else
    let same : Nat → Bool := fun i => match s.op? i with | some x => (s.group x.gid).flk = pos | none => false
    let fits : HoldSlot → Bool := fun h =>
      h.ctx = o.ctx && h.kid = o.kid && h.herd = o.herd && h.tag = tag && h.mask.getLsbD pos && !h.drains.any same
    match s.holds.find? fits with
    | none => s
    | some h => { s with holds := s.holds.map fun (x : HoldSlot) => if x.op = h.op then { x with drains := x.drains ++ [o.id] } else x }
/-- A flock at a herd position has exited: its bit clears in the herd's slots, as if drained. -/
def State.flockGone (s : State) (ctx kid herd flk : Nat) : State :=
  let clr := fun (h : HoldSlot) =>
    if h.ctx = ctx && h.kid = kid && h.herd = herd then { h with mask := h.mask &&& ~~~(BitVec.ofNat 8 (2 ^ flk)) } else h
  { s with holds := (s.holds.map clr).filter fun h => !(h.st = HoldSt.held && h.mask = 0) }

/-! ## The life of an operation (R276) -/

/-- Whether a flock has an open round that a group first signed with a tile between two places in its issue order. -/
def State.openTagged (s : State) (fid gid tile low before : Nat) : Bool :=
  match s.flock? fid with
  | some f => f.seams.toList.any fun x => x.signers.any fun z =>
      z.gid = gid && z.tile = some tile && decide (low < z.key) && decide (z.key < before)
  | none => false
/-- Whether a `tret` waits for an operation that stands behind it in tile order, or is yet to enter it: it then holds nothing
back (R308). [DEDUCED: log entry 36] -/
def State.tretYields (s : State) (x : Op) : Bool :=
  match x.kind with
  | .tret _ k =>
    let low := s.tileFrom x.gid k x.id
    s.openTagged x.fid x.gid k low x.id ||
    s.ops.any fun y => y.st ≠ OpSt.done && y.tagged x.gid k low x.id && s.tileBefore x.id y.id
  | _ => false
/-- Whether a herd is out of its core, its operations saved with it. [DEDUCED: log entry 36] -/
def State.opAway (s : State) (o : Op) : Bool :=
  o.st = .suspended || (match s.herd? o.ctx o.kid o.herd with | some h => !h.st.inPens | none => false)
/-- Whether a TILE-class operation's turn has come in its core's tile order (R296); operations saved with their herd stand in no
core's order (R299). [DEDUCED: log entry 36] -/
def State.tileTurn (s : State) (o : Op) : Bool :=
  s.ops.all fun x => !(x.core = o.core && x.id ≠ o.id && x.st ≠ OpSt.done && x.cls = some Cls.tile && s.tileBefore x.id o.id &&
    !s.opAway x && !s.tretYields x)
/-- The engine takes a queued operation: for `cpy.at`, at its time; for a `cpm`, into a free slot; for a `drn`, when its slot is
held; for a collective, when its members have arrived; for the tile unit, in tile order. It waits for the release of R221 first. -/
def State.takeOp (s : State) (id : Nat) : State :=
  match s.op? id with
  | none => s
  | some o =>
    let run := fun (s : State) => (s.updOp id fun o => { o with st := .running }).registerAhead o
    if o.st ≠ .queued || !s.released o.after then s else
    match o.kind with
    | .mma _ => s
    | .coll a => s.startColl o a
    | .cpm _ m t => (match s.takeHold o m t with | some s => run s | none => s)
    | .drn _ t =>
      let s := s.matchDrain o t
      (match s.drainSlot o with
       | some h =>
         if h.st = .held then
           run (s.updOp id fun o => { o with secs := (h.data.length + 31) / 32 })
         else s
       | none => s)
    | .mst _ _ _ _ _ | .mmz _ _ _ _ | .mmcvt _ _ _ _ _ | .tret _ _ => if s.tileTurn o then run s else s
    | _ =>
      match o.at_ with
      | some t => if s.ptime < t then s else run s
      | none => run s
/-- Sectors that an operation has written, visibly to all, and not yet credited (R257). [DEDUCED: log entry 37] -/
def State.owed (s : State) (o : Op) : Nat :=
  let tot := (s.opBytes o + 31) / 32
  let off := (s.landed o).1
  o.secs - (tot - (if s.opTotal o ≤ off then tot else off / 32))

/-! ## Chains (R285, R286) -/

/-- A channel of a flock. -/
def State.chan (s : State) (fid ch : Nat) : Chan := (((s.flock? fid).bind fun f => f.chans[ch]?)).getD Chan.reset
def State.setChan (s : State) (fid ch : Nat) (c : Chan) : State :=
  s.updFlock fid fun f => { f with chans := f.chans.setIfInBounds ch c }
/-- The `chain` word that a channel runs for, as its operations name it (R277). -/
def Chan.issue (c : Chan) : Issue :=
  { gid := c.gid, lanes := 0, pkt := c.pkt, first := c.slot, slot := c.slot, word := c.word, firstWord := c.word, imm := none, xfer := [],
    sw := false, fin := none, subs := [], rest := [], all := 0, conts := [], step := false }
/-- The operation of a channel's own accesses to its record, while one is under way or has stopped: a read, or the writes that consume
it, of which it counts the stages in `off`. -/
def State.walker? (s : State) (fid ch : Nat) : Option Op :=
  s.ops.find? fun o => o.fid = fid && o.kind = .walk ch && o.st ≠ OpSt.done
def State.withWalker (s : State) (fid ch : Nat) : Op × State :=
  match s.walker? fid ch with
  | some o => (o, s)
  | none =>
    let c := s.chan fid ch
    let o := { Op.fresh s.nextId none (.walk ch) (s.group c.gid) c.lane c.issue with fid := fid, st := .running, groups := [] }
    (o, { s with ops := s.ops ++ [o], nextId := s.nextId + 1 })
def State.endWalker (s : State) (fid ch : Nat) : State :=
  match s.walker? fid ch with
  | some o => (s.endOp o.id true).dropDone
  | none => s
/-- The channel meets a fault at its record: it stops where the fault can be mended, and is IDLE otherwise.
[DESIGN CHOICE: log entry 74] -/
def State.chanFault (s : State) (fid ch : Nat) (cause : Byte) (kind va : Nat) : State :=
  if cause = 0x10 || cause = 0x16 then
    (match s.walker? fid ch with
     | some o => s.opFault o.id cause kind va
     | none => s)
  else (s.setChan fid ch { s.chan fid ch with st := .idle, op := none, delivered := false }).endWalker fid ch
/-- Consumes a record: status and offsets, then `tr.own` is cleared by a release (R285), for which it waits until those writes are
complete; the channel then goes on to the next record, or is IDLE. Whether that is done. [DESIGN CHOICE: log entry 73] -/
def State.consume (fid ch raw : Nat) (status : Byte) (dst src : Nat) : Nat → State → Bool × State
  | 0, s => (false, s)
  | n + 1, s =>
    let c := s.chan fid ch
    let w := s.withWalker fid ch
    let o := w.1
    let s := w.2
    let put := fun (r : EngWr) (off : Nat) (bs : List Byte) =>
      match r with | .ok s => s.engWrite o (.hnd c.h (c.off + off)) bs | r => r
    if s.engBusy o then (false, s)
    else if 2 ≤ o.off then
      let next := { c with h := s.engHandle (s.group c.gid) (bitsOf raw 299 288), off := bitsOf raw 287 256, op := none, st := .walking,
                           delivered := false }
      let idle := { c with st := .idle, op := none, delivered := false }
      (true, (s.setChan fid ch (if raw.testBit 300 then idle else next)).endWalker fid ch)
    else
      let r := if o.off = 0 then put (put (.ok s) 38 [status]) 56 (bytesOf 4 dst ++ bytesOf 4 src)
               else put (.ok s) 37 [BitVec.ofNat 8 (bitsOf raw 303 296) &&& 0xDF]
      match r with
      | .ok s => State.consume fid ch raw status dst src n (s.updOp o.id fun o => { o with off := o.off + 1, cause := status })
      | .bad s cause k va => (decide (cause ≠ 0x10 ∧ cause ≠ 0x16), s.chanFault fid ch cause k va)
      | .wait _ | .stall _ => (false, s)
/-- The checks of a record's address (R285, R286): the handle usable, its space and rights, alignment, and bounds. -/
def State.chkRecord (s : State) (g : Group) (h : HReg) (off : Nat) : Option (Byte × W64) :=
  let sp := [Space.global, .near, .scratch].contains (heSpace h.ent)
  firstFail [s.chkUsable g h, chkSpace h (sp && heRight h.ent 1) 0,
    failIf ((heBase h.ent + off) % 64 ≠ 0) 0x15 (heBase h.ent + off), s.chkSpan g h (off, (off : Int) + 64)]
/-- The record at a channel's position. -/
def State.readRecord (s : State) (fid ch : Nat) : EngRd × State :=
  let c := s.chan fid ch
  match s.chkRecord (s.group c.gid) c.h c.off with
  | some (cause, x) => (.bad cause 0 x.toNat, s)
  | none => let w := s.withWalker fid ch; w.2.engReadAll w.1 c.h c.off 64
/-- Whether a channel may go on to its record: its herd is on its cores, the release of its `chain` is complete, and its core's queue
has room (R221, R274, R286). -/
def State.chanMay (s : State) (fid : Nat) (c : Chan) : Bool :=
  c.st = .walking && c.op.isNone && s.released c.after &&
  (match s.flock? fid with | some f => (match s.herd? f.ctx f.kid f.herd with | some h => h.st.inPens | none => true) | none => false) &&
  decide (s.queuedOn (s.group c.gid).pcore < 256)
/-- A channel reads the record at its position: it waits when the engine does not own it, consumes it when a check fails, which
credits no barrier, and starts its transfer otherwise; the record's reserved bits are ignored (R7, R285, R286).
[DESIGN CHOICE: log entry 74] -/
def State.chanRead (s : State) (fid ch : Nat) : State :=
  let c := s.chan fid ch
  if !s.chanMay fid c then s else
  match s.readRecord fid ch with
  | (.wait, s) => s
  | (.bad cause k va, s) => s.chanFault fid ch cause k va
  | (.ok bs, s) =>
    let raw := natOf bs
    let g := s.group c.gid
    match (s.walker? fid ch).filter fun o => 0 < o.off with
    | some o => (State.consume fid ch raw o.cause 0 0 3 s).2
    | none =>
      if !raw.testBit 301 then (s.setChan fid ch { c with st := .waiting }).endWalker fid ch
      else
        let d := CD.ofNat raw (BitVec.ofNat 32 (raw >>> 384)).toInt (BitVec.ofNat 32 (raw >>> 416)).toInt
        let d := if d.dims = 2 then d else { d with sps := 0, dps := 0 }
        let bar := s.barOperand g (s.engHandle g (bitsOf raw 363 352)) (bitsOf raw 351 320)
        match s.copyChecks g d raw 2 true false bar with
        | some (cause, _) => (State.consume fid ch raw cause 0 0 3 s).2
        | none =>
          let used := [d.sh, d.dh] ++ (if d.bar then [bitsOf raw 363 352] else [])
          let s := (used.foldl (fun s i => s.touchEntry g.ctx i) s).endWalker fid ch
          let o := { s.copyOp c.issue g c.lane d none (.record d ch) bar with groups := [⟨c.gid, none, s.nextId, true⟩] }
          { s with ops := s.ops ++ [o], nextId := s.nextId + 1 }.setChan fid ch { c with op := some o.id }
/-- A channel's transfer is complete or has failed: the record is consumed (R286). -/
def State.chanDone (s : State) (fid ch : Nat) : State :=
  let c := s.chan fid ch
  match c.op with
  | none => s
  | some id =>
    match s.op? id with
    | none => s.setChan fid ch { c with op := none }
    | some o =>
      let fin := fun (s : State) (status : Byte) (ok : Bool) =>
        let r := match s.readRecord fid ch with
          | (.ok bs, s) => State.consume fid ch (natOf bs) status o.off o.soffDone 3 s
          | (.bad cause k va, s) => (decide (cause ≠ 0x10 ∧ cause ≠ 0x16), s.chanFault fid ch cause k va)
          | (.wait, s) => (false, s)
        if r.1 then (r.2.endOp id ok).dropDone else r.2
      if c.st ≠ .walking then s
      else if o.st = .failed then fin s o.cause false
      else if o.st = .running && decide (s.opTotal o ≤ o.off) && !s.engBusy o then fin s 0 true
      else s
/-- `chain` of one lane whose channel holds no fault: starts an idle channel at a record, or rings its doorbell. The engine goes on
behind the thread's accesses (R221). -/
def State.laneChain (s : State) (iss : Issue) (t : Thread) (a b : Fld) : StepRes :=
  let g := s.group iss.gid
  let ch := (rd t b).toNat
  if 3 < ch then .trap s 0x28 6 0 0
  else
    let c := s.chan g.fid ch
    match c.st with
    | .idle =>
      let h := s.fatPtr g t a
      let off := (rd t a).toNat
      (match s.chkRecord g h off with
       | some (cause, x) => .trap s cause x 0 0
       | none =>
         .ok (s.setChan g.fid ch ⟨.walking, h, off, none, g.gid, t.lane, false, iss.word, iss.pkt, iss.slot, s.underWay g.gid (laneBit t.lane)⟩))
    | .waiting => .ok (s.setChan g.fid ch { c with st := .walking, after := s.underWay g.gid (laneBit t.lane) })
    | _ =>
      let more := s.underWay g.gid (laneBit t.lane)
      let mine := fun (o : Op) => o.fid = g.fid && o.chan? = some ch
      .ok ({ s with ops := s.ops.map fun o => if mine o then { o with after := o.after ++ more } else o }.setChan g.fid ch
        { c with after := c.after ++ more })
/-- The operations of a stopped channel that a `chain` of a lane covers. -/
def State.coverChain (s : State) (t : Thread) (b : Fld) : List Op :=
  let fid := (s.group t.gid).fid
  if (rd t b).toNat ≤ 3 && (s.chan fid (rd t b).toNat).st = .stopped then
    s.ops.filter fun o => o.fid = fid && o.chan? = some (rd t b).toNat && o.st = OpSt.stopped
  else []

/-! ## The words and events -/

/-- R278. Issues an asynchronous copy from a descriptor, as a release. -/
def execCpy (_cs : CS) (a b r : BitVec 6) (s : State) : Out :=
  .next (s.laneFold fun iss s t => s.laneCpy iss t a b r false)

/-- R280. Issues a copy that starts at a given pod time. -/
def execCpyAt (_cs : CS) (a b r : BitVec 6) (s : State) : Out :=
  .next (s.laneFold fun iss s t => s.laneCpy iss t a b r true)

/-- R281. Multicasts a tile into a holding slot of the fold for the masked herd positions. -/
def execCpm (_cs : CS) (a b r : BitVec 6) (s : State) : Out :=
  .next (s.laneFold fun iss s t => s.laneCpm iss t a b r)

/-- R281. Drains the oldest matching holding slot into the drainer's scratchpad. -/
def execDrn (_cs : CS) (a b r : BitVec 6) (s : State) : Out :=
  .next (s.laneFold fun iss s t => s.laneDrn iss t a b r)

/-- R279. Copies into B-store and marks the slots it covers as filling under a new fill generation. -/
def execBld (_cs : CS) (a r : BitVec 6) (s : State) : Out :=
  .next (s.laneFold fun iss s t => s.laneBld iss t a r)

/-- R282. Gathers elements by an index list into a destination. -/
def execGath (_cs : CS) (a r : BitVec 6) (s : State) : Out :=
  .next (s.laneFold fun iss s t => s.laneGath iss t a r)

/-- R286. Starts a copy channel walking a record list, or rings its doorbell. -/
def execChain (_cs : CS) (a b : BitVec 6) (s : State) : Out :=
  coverWord s (fun s t => s.coverChain t b) fun iss s t => s.laneChain iss t a b

/-- R275. Blocks until the group's counter for a class is at most n, then acts as an acquire. -/
def execWaitc (_cs : CS) (n : BitVec 6) (l : BitVec 2) (s : State) : Out :=
  let c := Cls.ofBits l
  coverWord s (fun s t => if c = Cls.tile && t.tileErr ≠ [] then [] else s.coveredBy (s.group t.gid) c n.toNat) fun iss s t => s.laneWaitc iss t c n.toNat

/-- R258. Blocks until the phase of a token has ended, then acts as an acquire. -/
def execBarWait (_cs : CS) (b r : BitVec 6) (s : State) : Out :=
  coverWord s (fun s t => s.coverBarLane t b r) fun iss s t => s.barWait iss (s.group iss.gid) t b r none

/-- R258. Tests whether the phase of a token has ended, without waiting. -/
def execBarTry (_cs : CS) (a b r : BitVec 6) (s : State) : Out :=
  coverWord s (fun s t => s.coverBarLane t b r) fun iss s t => s.barWait iss (s.group iss.gid) t b r (some a)

/-- R287. Joins a broadcast collective of member 0's send buffer. -/
def execCollBcast (_cs : CS) (a b r : BitVec 6) (m : BitVec 2) (s : State) : Out :=
  collWord .bcast a b r m s

/-- R287. Joins an f32 sum collective. -/
def execCollRedAddF32 (_cs : CS) (a b r : BitVec 6) (m : BitVec 2) (s : State) : Out :=
  collWord .addF32 a b r m s

/-- R287. Joins an f64 sum collective. -/
def execCollRedAddF64 (_cs : CS) (a b r : BitVec 6) (m : BitVec 2) (s : State) : Out :=
  collWord .addF64 a b r m s

/-- R287. Joins a 32-bit integer sum collective. -/
def execCollRedAddI32 (_cs : CS) (a b r : BitVec 6) (m : BitVec 2) (s : State) : Out :=
  collWord .addI32 a b r m s

/-- R287. Joins a 64-bit integer sum collective. -/
def execCollRedAddI64 (_cs : CS) (a b r : BitVec 6) (m : BitVec 2) (s : State) : Out :=
  collWord .addI64 a b r m s

/-- R287. Joins an f32 minimum collective. -/
def execCollRedMinF32 (_cs : CS) (a b r : BitVec 6) (m : BitVec 2) (s : State) : Out :=
  collWord .minF32 a b r m s

/-- R287. Joins an f32 maximum collective. -/
def execCollRedMaxF32 (_cs : CS) (a b r : BitVec 6) (m : BitVec 2) (s : State) : Out :=
  collWord .maxF32 a b r m s

/-- R287. Joins an f64 minimum collective. -/
def execCollRedMinF64 (_cs : CS) (a b r : BitVec 6) (m : BitVec 2) (s : State) : Out :=
  collWord .minF64 a b r m s

/-- R287. Joins an f64 maximum collective. -/
def execCollRedMaxF64 (_cs : CS) (a b r : BitVec 6) (m : BitVec 2) (s : State) : Out :=
  collWord .maxF64 a b r m s

/-- R287. Joins a signed 64-bit minimum collective. -/
def execCollRedMinI64 (_cs : CS) (a b r : BitVec 6) (m : BitVec 2) (s : State) : Out :=
  collWord .minI64 a b r m s

/-- R287. Joins a signed 64-bit maximum collective. -/
def execCollRedMaxI64 (_cs : CS) (a b r : BitVec 6) (m : BitVec 2) (s : State) : Out :=
  collWord .maxI64 a b r m s

/-- R287. Joins an unsigned 64-bit minimum collective. -/
def execCollRedMinN64 (_cs : CS) (a b r : BitVec 6) (m : BitVec 2) (s : State) : Out :=
  collWord .minN64 a b r m s

/-- R287. Joins an unsigned 64-bit maximum collective. -/
def execCollRedMaxN64 (_cs : CS) (a b r : BitVec 6) (m : BitVec 2) (s : State) : Out :=
  collWord .maxN64 a b r m s

/-- R257. An engine credits a barrier with the sectors it has written once they are visible. -/
def execBarrierSectorCredit (op n : Nat) (s : State) : Out :=
  match s.op? op with
  | some o =>
    (match o.bar with
     | some (fid, off, _) =>
       let k := min n (s.owed o)
       if o.st = .done || k = 0 then .next s
       else .next ((s.updOp op fun o => { o with secs := o.secs - k }).creditBar fid off k false)
     | none => .next s)
  | none => .next s

/-- R276. The engine takes a queued operation after its release, registers its grains and starts it running. -/
def execEngineTake (op : Nat) (s : State) : Out :=
  .next (s.takeOp op)

/-- R276. A running operation meets a fault and becomes STOPPED or FAILED at its restart offset. -/
def execEngineFault (op : Nat) (cause : Byte) (s : State) : Out :=
  match s.op? op with
  | some o =>
    if o.st ≠ .running || o.stalled || !o.bursts || decide (s.opTotal o ≤ o.off) || !s.released o.after then .next s else
    match s.nextChunk o 512 with
    | .bad s' c q va => .next (if c = cause then s'.opFault op c q va else s)
    | _ => .next s
  | none => .next s

/-- R280. %ptime reaches a timed copy's time, and the copy leaves QUEUED. -/
def execCpyAtStart (op : Nat) (s : State) : Out :=
  match s.op? op with
  | some o => .next (if o.at_.isSome then s.takeOp op else s)
  | none => .next s

/-- R281. A holding slot finishes filling and becomes HELD, and the sender's cpm completes. -/
def execCpmFillDone (op : Nat) (s : State) : Out :=
  match s.op? op with
  | some o =>
    (match o.kind with
     | .cpm _ _ _ =>
       if o.st = .running && decide (s.opTotal o ≤ o.off) then
         let held := fun (h : HoldSlot) => if h.op = op && h.st = HoldSt.filling then { h with st := .held } else h
         .next ({ s with holds := (s.holds.map held).filter fun h => !(h.st = HoldSt.held && h.mask = 0) }.finishOp op true)
       else .next s
     | _ => .next s)
  | none => .next s

/-- R286. A channel reads the record at its position and runs it, or goes WAITING when tr.own is 0. -/
def execChainRecordRead (fid ch : Nat) (s : State) : Out :=
  .next (s.chanRead fid ch)

/-- R285. A channel consumes a completed record, writing tr.status and tr.done and clearing tr.own. -/
def execChainRecordComplete (fid ch : Nat) (s : State) : Out :=
  .next (s.chanDone fid ch)

/-- R287. A member's receive buffer is written, and its COLL operation completes. -/
def execCollDeliveryDone (op : Nat) (s : State) : Out :=
  match s.op? op with
  | some o =>
    (match o.kind with
     | .coll _ => .next (if o.st = .running && decide (s.opTotal o ≤ o.off) && !s.engBusy o then s.finishOp op true else s)
     | _ => .next s)
  | none => .next s

/-- R244. An engine that stalled on a full bounce buffer resumes when a drain frees a record. -/
def execBounceStallEnd (op : Nat) (s : State) : Out :=
  match s.op? op with
  | some o =>
    .next (if (s.bounce.filter fun b => b.ctx = o.ctx).length < s.bounceRoom o.ctx then s.updOp op fun o => { o with stalled := false } else s)
  | none => .next s

/-- R199. A failed POD access comes back; a load or atomic lane parks with cause 0x31, and a failed store is noted for the thread's next acquire, release, fence or exit.
[DEDUCED: log entry 31] -/
def execRemoteErrorResponse (req : Nat) (s : State) : Out :=
  match s.req? req with
  | some r =>
    (match r.eng with
     | some op => .next ((s.opFault op 0x31 0 r.va).dropReq req)
     | none => .next (if r.dev.isSome then s.reqFailed r else s))
  | none => .next s

end Sys2Proof.Machine
end

