-- ==== Sys2Proof/Machine/Tile.lean ====
section
/-! DEFINITION. Tiles and the matrix array: signing, the format vote, fill generations, matrix operations, TILE forms and stamp
records (R289 to R308), with the format word and the sums of R96 to R102. -/
namespace Sys2Proof.Machine

/-! ## Format words (R96 to R98) -/

/-- The format of a code; none for f64, which no field may name. -/
def fmtOf (code : Nat) : Option Fmt :=
  match code with
  | 0 => some (.int true 4) | 1 => some (.int false 4) | 2 => some (.int true 8) | 3 => some (.int false 8)
  | 4 => some .e4m3 | 5 => some e5m2 | 6 => some .td8 | 7 => some .e2m1 | 8 => some f16 | 9 => some bf16 | 10 => some f32
  | 11 => some (.int true 16) | 12 => some (.int true 32) | 13 => some (.int true 64) | 15 => some (.int false 1)
  | _ => none
/-- The width in bits of a code's elements. -/
def fmtBits (code : Nat) : Nat :=
  match code with
  | 0 | 1 | 7 => 4
  | 2 | 3 | 4 | 5 | 6 => 8
  | 8 | 9 | 11 => 16
  | 10 | 12 => 32
  | 13 | 14 => 64
  | _ => 1
def fwA (fw : W32) : Nat := (fw.extractLsb' 0 4).toNat
def fwB (fw : W32) : Nat := (fw.extractLsb' 4 4).toNat
def fwC (fw : W32) : Nat := (fw.extractLsb' 8 4).toNat
def fwAScl (fw : W32) : Nat := (fw.extractLsb' 12 4).toNat
def fwBScl (fw : W32) : Nat := (fw.extractLsb' 16 4).toNat
def fwRnd (fw : W32) : Nat := (fw.extractLsb' 20 3).toNat
def fwBias (fw : W32) : Int := (fw.extractLsb' 24 8).toInt
/-- The direction that a rounding field names where 000b means RN (R97, R305). -/
def rndDir (k : Nat) : Dir5 := match k with | 2 => .rz | 3 => .ru | 4 => .rd | 5 => .rna | _ => .rn
/-- Whether a format word matches a row of R98 for a semiring. -/
def fwLegal (fw : W32) (sr : Semiring) : Bool :=
  let a := fwA fw
  let b := fwB fw
  let c := fwC fw
  let within := fun (l : List Nat) => l.contains a && l.contains b
  let noScl := fwAScl fw = 0 && fwBScl fw = 0
  let anyScl := decide (fwAScl fw ≤ 2) && [0, 1, 3].contains (fwBScl fw)
  let vecScl := (fwAScl fw = 0 || fwAScl fw = 2) && (fwBScl fw = 0 || fwBScl fw = 3)
  let bias0 := fwBias fw = 0
  let pt := sr = Semiring.plusTimes
  let plus := sr = Semiring.plusTimes || sr = Semiring.minPlus || sr = Semiring.maxPlus
  let arith := plus || sr = Semiring.maxTimes
  let row :=
    (within [0, 1] && c = 12 && pt && noScl && bias0) ||
    (within [0, 1] && c = 10 && pt && anyScl) ||
    (within [2, 3] && c = 12 && pt && noScl && bias0) ||
    (within [2, 3] && c = 10 && pt && anyScl) ||
    (within [4, 5, 6] && c = 10 && pt && anyScl && bias0) ||
    (within [7] && c = 10 && pt && anyScl && bias0) ||
    ((within [8, 9] || within [10]) && c = 10 && bias0 && ((pt && vecScl) || (arith && noScl))) ||
    (within [11] && c = 12 && plus && noScl && bias0) ||
    (within [11] && c = 10 && pt && vecScl) ||
    (within [12] && c = 13 && plus && noScl && bias0) ||
    (within [13] && c = 13 && arith && noScl && bias0) ||
    (within [15] && c = 15 && sr = Semiring.orAnd && noScl && bias0) ||
    (within [15] && c = 12 && pt && noScl && bias0)
  row && decide (fwRnd fw ≤ 5) && !fw.getLsbD 23 && (c = 10 || fwRnd fw = 0)

/-! ## Regions (R289 to R292) -/

/-- K of R289. -/
def depthOf (fw : W32) : Nat := 512 / fmtBits (fwA fw)
/-- Bytes of a C tile of a format. -/
def cBytes (code m n : Nat) : Nat := (m * n * fmtBits code + 7) / 8
/-- Bytes of A with its scales. -/
def aBytes (fw : W32) (m : Nat) : Nat :=
  64 * m + (match fwAScl fw with | 1 => depthOf fw / 32 * m | 2 => 4 * m | _ => 0)
/-- Slots of a B tile with its scales. -/
def bSlots (fw : W32) (n : Nat) : Nat :=
  (64 * n + (match fwBScl fw with | 1 => depthOf fw / 32 * n | 3 => 4 * n | _ => 0) + 1023) / 1024
/-- Check 3 of R294: the first offending offset. -/
def State.mmaRegions (s : State) (fid : Nat) (fw : W32) (m n ao sl co : Nat) : Option Nat :=
  let f := s.flock? fid
  let scr : Nat := match f with | some f => f.scrLen | none => 0
  let bst : Nat := match f with | some f => f.bstLen | none => 0
  if ao % 64 ≠ 0 ∨ scr < ao + aBytes fw m then some ao
  else if co % 64 ≠ 0 ∨ scr < co + cBytes (fwC fw) m n then some co
  else if bst < 1024 * (sl + bSlots fw n) then some sl
  else none

/-! ## The product (R100, R101) -/

/-- Element k of a 64-byte run. -/
def runElem (code : Nat) (run k : Nat) : FVal :=
  match fmtOf code with
  | some f => valueOf f (run >>> (k * fmtBits code) % 2 ^ fmtBits code)
  | none => .nan false
/-- An E8M0 scale (R91). -/
def e8m0 (b : Nat) : FVal := if b = 255 then .nan false else .fin false (pow2 ((b : Int) - 127))
/-- The exact sum of terms, an infinity or a NaN (R100). -/
def sumTerms (l : List FVal) : FVal :=
  if l.any FVal.isNan then .nan false
  else if l.any (· = .inf false) then (if l.any (· = .inf true) then .nan false else .inf false)
  else if l.any (· = .inf true) then .inf true
  else
    let x : Rat := (l.map FVal.rat).foldl (· + ·) 0
    ofRat (l.all fun v => v = .fin true 0) x
/-- Multiplies a finite value by a power of two. -/
def scaleBy (e : Int) : FVal → FVal
  | .fin s x => .fin s (x * pow2 e)
  | v => v
/-- A value written into C (R100): rounded, wrapped or saturated. -/
def intoC (code : Nat) (dir : Dir5) (sat : Bool) (v : FVal) : Nat :=
  if code = 10 then (roundTo f32 dir false v).bits
  else
    let n := fmtBits code
    let x : Int := v.rat.floor
    if sat then wrapNat (satInt x (intMin true n) (intMax true n)) n else wrapNat x n
/-- A term of a tropical semiring (R101): a signalling NaN among its operands stays one, for the choice to see.
[DEDUCED: log entry 16] -/
def tropTerm (sr : Semiring) (dir : Dir5) (x y : FVal) : FVal :=
  if x.isSig || y.isSig then .nan true
  else if sr = .maxTimes then (fMul x y).1 else (fAdd dir x y).1
/-- The choice of R83 over all terms at once: quiet NaNs are passed over, a signalling one makes the result the canonical NaN.
[DEDUCED: log entry 16] -/
def tropPick (mx : Bool) (l : List FVal) : FVal :=
  if l.any FVal.isSig then .nan false
  else l.tail.foldl (fun v w => (fMinMax mx v w).1) (l.headD (.nan false))
/-- One element of C, from its terms' factors with their scales and the value before, if that takes part. A product of a zero and a
negative integer counts as -0. [DEDUCED: log entry 16; DESIGN CHOICE: log entry 74] -/
def mmaElem (sr : Semiring) (fw : W32) (sat : Bool) (terms : List (FVal × FVal × FVal × FVal)) (c0 : Option FVal) (zero : FVal) : Nat :=
  let code := fwC fw
  let dir := rndDir (fwRnd fw)
  match sr with
  | .plusTimes =>
    let ps := terms.map fun x => (fMul (fMul x.1 x.2.1).1 (fMul x.2.2.1 x.2.2.2).1).1
    let ps := if fwBias fw = 0 then ps else ps.map (scaleBy (fwBias fw))
    intoC code dir sat (sumTerms (c0.getD zero :: ps))
  | .orAnd =>
    let one := terms.any fun x => x.2.1.rat = 1 && x.2.2.2.rat = 1
    boolBit (one || (match c0 with | some v => v.rat = 1 | none => false))
  | _ => intoC code dir sat (tropPick (sr ≠ .minPlus) (c0.toList ++ terms.map fun x => tropTerm sr dir x.2.1 x.2.2.2))
/-- Packs elements of a width into bytes (R90). -/
def packBits (w : Nat) (l : List Nat) : List Byte :=
  let n := l.zipIdx.foldl (fun acc x => acc + x.1 % 2 ^ w * 2 ^ (w * x.2)) 0
  bytesOf ((l.length * w + 7) / 8) n
/-- The C tile that a matrix operation computes from the operands as they stand. -/
def State.mmaTile (s : State) (fid : Nat) (a : MmaArg) : List Byte :=
  let fw := a.fw
  let k := depthOf fw
  let scr := fun (o n : Nat) => natOf (s.scrRead fid o n)
  let bst := fun (o n : Nat) => natOf (s.bstRead fid o n)
  let q := k / 32
  let rowsA := (List.range a.m).map fun i => scr (a.ao + 64 * i) 64
  let colsB := (List.range a.n).map fun j => bst (1024 * a.s + 64 * j) 64
  let one : FVal := .fin false 1
  let sa := fun (i x : Nat) =>
    match fwAScl fw with
    | 1 => e8m0 (scr (a.ao + 64 * a.m + q * i + x / 32) 1)
    | 2 => valueOf f32 (scr (a.ao + 64 * a.m + 4 * i) 4)
    | _ => one
  let sb := fun (j x : Nat) =>
    match fwBScl fw with
    | 1 => e8m0 (bst (1024 * a.s + 64 * a.n + q * j + x / 32) 1)
    | 3 => valueOf f32 (bst (1024 * a.s + 64 * a.n + 4 * j) 4)
    | _ => one
  let cw := fmtBits (fwC fw)
  let cs := if a.init then 0 else scr a.co (cBytes (fwC fw) a.m a.n)
  let c0 := fun (e : Nat) =>
    if a.init then none else (fmtOf (fwC fw)).map fun f => valueOf f (cs >>> (cw * e) % 2 ^ cw)
  let elem := fun (i j ra cb : Nat) =>
    mmaElem a.sr fw a.sat ((List.range k).map fun x => (sa i x, runElem (fwA fw) ra x, sb j x, runElem (fwB fw) cb x))
      (c0 (i * a.n + j)) (.fin false 0)
  packBits cw (rowsA.zipIdx.flatMap fun r => colsB.zipIdx.map fun c => elem r.2 c.2 r.1 c.1)

/-! ## Signing (R261, R293, R294) -/

/-- The aux of cause 0x20 for a signer: the quad registers that differ, whether the words differ, and its own value. -/
def voteAux (l : List Signer) (x : Signer) : W64 :=
  match l.head? with
  | none => 0
  | some y =>
    let diff := (List.range 4).filter fun i => l.any fun z => z.quad[i]? ≠ y.quad[i]?
    let words := l.any fun z => z.word ≠ y.word
    let own : W32 := match diff.head? with | some i => (x.quad[i]?).getD 0 | none => x.word
    BitVec.ofNat 64 ((diff.map (2 ^ ·)).sum + boolBit words * 16 + own.toNat * 2 ^ 32)
/-- The groups that a round's signers belong to, each with its first signature's place and tile. -/
def signerGroups (l : List Signer) : List OpGrp :=
  (l.map Signer.gid).dedup.filterMap fun i => (l.find? fun z => z.gid = i).map fun z => ⟨z.gid, z.tile, z.key, false⟩
/-- A tile fault for each signer. -/
def State.faultSigners (s : State) (l : List Signer) (cause : Byte) (aux : Signer → W64) : State :=
  l.foldl (fun s z => s.tileFault z.gid z.lane ⟨cause, aux z, z.word, z.pkt, z.slot⟩) s
/-- A round fires (R294, R299): refused at its first failing check, else queued in tile order. -/
def State.fireRound (s : State) (iss : Issue) (g : Group) (sr : Semiring) (m n : Nat) (sat init : Bool) (l : List Signer) : State :=
  let q := (l.head?.map Signer.quad).getD []
  let fw := (q[0]?).getD 0
  let ao : Nat := ((q[1]?).getD 0).toNat
  let sl : Nat := ((q[2]?).getD 0).toNat
  let co : Nat := ((q[3]?).getD 0).toNat
  let differ := l.any fun z => z.quad ≠ q || some z.word ≠ l.head?.map Signer.word
  let gens := match s.flock? g.fid with
    | some f => (List.range (bSlots fw n)).map fun i => (sl + i, (f.slotOf (sl + i)).gen)
    | none => []
  let spoilt := match s.flock? g.fid with | some f => (gens.find? fun x => (f.slotOf x.1).st = .bad).map Prod.fst | none => none
  let base := Op.fresh s.nextId (some .tile) (.mma ⟨sr, m, n, sat, init, fw, ao, sl, co, l, gens, spoilt⟩) g iss.slot.toNat iss
  let o := { base with groups := signerGroups l, after := l.flatMap Signer.after }
  let s := { s with nextId := s.nextId + 1 }
  let refuse := fun (cause : Byte) (aux : Signer → W64) =>
    ({ s with ops := s.ops ++ [{ o with st := .done }] }.faultSigners l cause aux).settleOp o
  if differ then refuse 0x20 (voteAux l)
  else if !fwLegal fw sr || (sat && fwC fw ≠ 12 && fwC fw ≠ 13) then refuse 0x01 fun _ => fw.setWidth 64
  else match s.mmaRegions g.fid fw m n ao sl co with
    | some x => refuse 0x13 fun _ => BitVec.ofNat 64 x
    | none => { s with ops := s.ops ++ [o], tileOrder := s.tileOrder ++ [o.id] }
/-- One lane signs a seam; the signature that completes a round fires it. -/
def State.sign (s : State) (iss : Issue) (t : Thread) (sr : Semiring) (q : BitVec 4) (m n : Nat) (sat init : Bool) (f : Fld) : StepRes :=
  let g := s.group iss.gid
  let k := q.toNat
  match s.seam? g.fid k with
  | none => .ok s
  | some x =>
    if x.need = 0 then .trap s 0x21 (seamAux k 0) 0 0
    else if x.signers.any fun z => z.gid = t.gid && z.lane = t.lane then .trap s 0x21 (seamAux k x.signers.length) 0 0
    else
      let first := x.signers.find? fun z => z.gid = t.gid
      let y : Signer :=
        { gid := t.gid, lane := t.lane, word := iss.word, pkt := iss.pkt, slot := iss.slot,
          quad := [rd t f, rd t (f + 1), rd t (f + 2), rd t (f + 3)],
          key := match first with | some z => z.key | none => s.nextId,
          tile := (match first with | some z => z.tile | none => g.cur), after := s.underWay t.gid (laneBit t.lane) }
      let s := if first.isSome then s else { s with nextId := s.nextId + 1 }.updGroup g.gid fun g => { g with tileN := g.tileN + 1 }
      let l := x.signers ++ [y]
      if l.length < x.need then .ok (s.setSeam g.fid k { x with signers := l })
      else .ok ((s.setSeam g.fid k { x with signers := [], gen := x.gen + 1 }).fireRound iss g sr m n sat init l)
/-- An `mma` word (R300). -/
def mmaWord (sr : Semiring) (q : BitVec 4) (m : BitVec 2) (n : BitVec 6) (t : BitVec 1) (y : BitVec 2) (f : BitVec 4) (s : State) : Out :=
  .next (s.laneFold fun iss s th =>
    s.sign iss th sr q (16 * 2 ^ m.toNat) (16 * (n.toNat + 1)) (t = 1) (y = 1) (f.setWidth 6 <<< 2))

/-! ## The life of a matrix operation (R297, R299) -/

/-- Whether a fill ahead of it in tile order still fills one of its slots. -/
def State.operandWait (s : State) (o : Op) : Bool :=
  s.ops.any fun x => x.fid = o.fid && x.st ≠ OpSt.done && s.tileBefore x.id o.id && x.fills.any fun n => o.readsSlots.contains n
/-- A slot of it whose fill was aborted. -/
def State.badSlot (s : State) (o : Op) (a : MmaArg) : Option Nat :=
  match a.bad, s.flock? o.fid with
  | some n, _ => some n
  | none, some f => (a.gens.find? fun x => (f.slotOf x.1).st = .bad && (f.slotOf x.1).gen = x.2).map Prod.fst
  | none, none => none
/-- A queued or waiting matrix operation whose turn has come: it fails on a BAD slot, waits for a filling one, or computes from
the operands as they stand. -/
def State.reachArray (s : State) (id : Nat) : State :=
  match s.op? id with
  | none => s
  | some o =>
    match o.kind with
    | .mma a =>
      if (o.st ≠ .queued && o.st ≠ .waiting) || !s.tileTurn o || !s.released o.after then s
      else match s.badSlot o a with
        | some n =>
          let s := s.faultSigners a.signers 0x28 fun _ => BitVec.ofNat 64 (7 + n % 65536 * 65536)
          let s := s.updOp id fun o => { o with t0 := 0, t1 := 0, t2 := 0, t3 := 0, st := .done }
          s.settleOp o
        | none =>
          if s.operandWait o then
            s.updOp id fun o => { o with st := .waiting, t0 := if o.t0 = 0 then s.ptime else o.t0 }
          else
            s.updOp id fun o => { o with st := .computing, out := s.mmaTile o.fid a, t1 := if o.st = .waiting then s.ptime else o.t1,
                                         t2 := s.ptime }
    | _ => s
/-- The matrix operations that wait for an operand go on when it is there (R299). -/
def State.endOperandWaits (s : State) : State :=
  (s.ops.filter fun o => o.st = .waiting).foldl (fun s o => if s.operandWait o then s else s.reachArray o.id) s
/-- The last element of C is written: the operation is DONE. -/
def State.computeDone (s : State) (id : Nat) : State :=
  match s.op? id with
  | none => s
  | some o =>
    match o.kind with
    | .mma a =>
      if o.st ≠ .computing then s
      else
        let s := s.scrWrite o.fid a.co o.out
        let s := s.updOp id fun o => { o with st := .done, out := [], t3 := s.ptime }
        s.settleOp o
    | _ => s

/-! ## TILE forms (R302 to R305) -/

/-- A TILE word acts once for its fetch set, with the registers of its lowest lane; a check that fails traps every lane. -/
def tileWord (s : State) (f : Issue → State → Thread → StepRes) : Out :=
  match s.issue with
  | none => .next s
  | some iss =>
    match s.thread? iss.gid (lowestLane iss.lanes) with
    | none => .next s
    | some t =>
      match f iss s t with
      | .ok s => .next s
      | .trap s c a acc k => .next (s.trapLanes ((lanesOf iss.lanes).map fun l => ⟨l, c, a, acc, k⟩))
/-- M and N of a shape word (R303). -/
def shapeM (w : W32) : Nat := (w.extractLsb' 0 7).toNat
def shapeN (w : W32) : Nat := (w.extractLsb' 16 11).toNat
/-- Check 1 of R303 on a shape word. -/
def chkShape (w : W32) : List (Option (Byte × W64)) :=
  [failIf (shapeM w = 0 ∨ 64 < shapeM w ∨ shapeN w = 0 ∨ 1024 < shapeN w) 0x28 3,
   failIf (w.extractLsb' 7 9 ≠ 0 ∨ w.extractLsb' 27 5 ≠ 0) 0x28 4]
/-- A scratchpad region: 64-byte aligned, which is looked at first, and within the flock's allocation.
[DEDUCED: log entry 33; DESIGN CHOICE: log entry 74] -/
def State.chkRegion (s : State) (g : Group) (off n : Nat) : Option (Byte × W64) :=
  let len : Nat := match s.flock? g.fid with | some f => f.scrLen | none => 0
  if off % 64 ≠ 0 then some (0x15, BitVec.ofNat 64 off)
  else if len < off + n then some (0x13, BitVec.ofNat 64 (off + n - 1)) else none
/-- Issues a TILE-class operation, which takes its place in tile order (R296). -/
def State.issueTile (s : State) (g : Group) (o : Op) (tagged : Bool) : State :=
  let o := if tagged then o else { o with groups := o.groups.map fun x => { x with tile := none } }
  let s := s.issueOp g o
  { s with tileOrder := s.tileOrder ++ [o.id] }
/-- `mmz` (R304). -/
def State.tileMmz (s : State) (iss : Issue) (t : Thread) (a b c : Fld) : StepRes :=
  let g := s.group iss.gid
  let sh := rd t b
  let fmt := fwC (rd t c)
  let off := (rd t a).toNat
  match firstFail (chkShape sh ++ [failIf (!([10, 12, 13, 15].contains fmt)) 0x28 8, s.chkRegion g off (cBytes fmt (shapeM sh) (shapeN sh))]) with
  | some (cause, x) => .trap s cause x 0 0
  | none => .ok (s.issueTile g (Op.fresh s.nextId (some .tile) (.mmz off (shapeM sh) (shapeN sh) fmt) g t.lane iss) false)
/-- `mmcvt` (R304, R305). -/
def State.tileMmcvt (s : State) (iss : Issue) (t : Thread) (a b c : Fld) : StepRes :=
  let g := s.group iss.gid
  let sh := rd t b
  let cw := rd t c
  let src := (cw.extractLsb' 0 4).toNat
  let dst := (cw.extractLsb' 4 4).toNat
  let so := (rd t a).toNat
  let dO := (rd t (a + 1)).toNat
  let bad := (src ≠ 10 ∧ src ≠ 12) ∨ 10 < dst ∨ 5 < (cw.extractLsb' 8 3).toNat ∨ (cw.getLsbD 11 ∧ dst ≠ 4 ∧ dst ≠ 5 ∧ dst ≠ 6)
  match firstFail (chkShape sh ++ [failIf (cw.extractLsb' 20 12 ≠ 0) 0x28 4, failIf bad 0x28 8,
      s.chkRegion g so (cBytes src (shapeM sh) (shapeN sh)), s.chkRegion g dO (cBytes dst (shapeM sh) (shapeN sh))]) with
  | some (cause, x) => .trap s cause x 0 0
  | none => .ok (s.issueTile g (Op.fresh s.nextId (some .tile) (.mmcvt so dO (shapeM sh) (shapeN sh) cw) g t.lane iss) false)
/-- The span of the rows of an `mst` at its destination. -/
def mstSpan (dO : Nat) (stride : Int) (rb rows : Nat) : Int × Int :=
  let last : Int := dO + (rows - 1 : Nat) * stride
  (min (dO : Int) last, max (dO : Int) last + rb)
/-- `mst` (R304). -/
def State.tileMst (s : State) (iss : Issue) (t : Thread) (a b : Fld) : StepRes :=
  let g := s.group iss.gid
  let so := (rd t a).toNat
  let dO := (rd t (a + 1)).toNat
  let hs := (rd t (a + 2)).toNat
  let stride := (rd t (a + 3)).toInt
  let rb := (rd t b).toNat
  let rows := (rd t (b + 1)).toNat
  let dh := s.engHandle g (hs % 4096)
  match firstFail [failIf (rb = 0 ∨ 65536 < rb ∨ rows = 0 ∨ 4096 < rows) 0x28 3, failIf (4096 ≤ hs) 0x28 4,
      s.chkUsable g dh, chkSpace dh ([Space.global, .near, .pod].contains (heSpace dh.ent)) 1,
      s.chkRegion g so (rb * rows), s.chkSpan g dh (mstSpan dO stride rb rows)] with
  | some (cause, x) => .trap s cause x 0 0
  | none => .ok (s.issueTile g { Op.fresh s.nextId (some .tile) (.mst so dO stride rb rows) g t.lane iss with dh := dh } true)
/-- `tstamp`: opens a tile, or makes an open one current (R306). -/
def State.tileStamp (s : State) (iss : Issue) (k : Nat) : StepRes :=
  let g := s.group iss.gid
  if g.tiles.contains k then .ok (s.updGroup g.gid fun g => { g with cur := some k })
  else if 8 ≤ g.tiles.length then .trap s 0x13 (BitVec.ofNat 64 k) 0 0
  else .ok (s.updGroup g.gid fun g => { g with tiles := g.tiles ++ [k], cur := some k })
/-- `tret`: closes a tile and issues the operation that writes its record (R308). [DESIGN CHOICE: log entry 74] -/
def State.tileRet (s : State) (iss : Issue) (t : Thread) (a : Fld) (k : Nat) : StepRes :=
  let g := s.group iss.gid
  let off := (rd t a).toNat
  let hs := (rd t (a + 1)).toNat
  let dh := s.engHandle g (hs % 4096)
  match firstFail [failIf (4096 ≤ hs) 0x28 4, s.chkUsable g dh,
      chkSpace dh ([Space.global, .near, .scratch].contains (heSpace dh.ent)) 1,
      failIf ((heBase dh.ent + off) % 64 ≠ 0) 0x15 off, s.chkSpan g dh (off, (off : Int) + 64), failIf (!g.tiles.contains k) 0x13 k] with
  | some (cause, x) => .trap s cause x 0 0
  | none =>
    let s := s.issueTile g { Op.fresh s.nextId (some .tile) (.tret off k) g t.lane iss with dh := dh } false
    .ok (s.updGroup g.gid fun g => { g with tiles := g.tiles.erase k, cur := (g.tiles.erase k).getLast? })
/-- Writes packed elements over a region, other bits of its last byte kept. -/
def State.scrPack (s : State) (fid off w : Nat) (l : List Nat) : State :=
  let n := (l.length * w + 7) / 8
  let bits := l.length * w
  let old := natOf (s.scrRead fid off n)
  s.scrWrite fid off (bytesOf n (natOf (packBits w l) + old / 2 ^ bits * 2 ^ bits))
/-- The effect of `mmz` or `mmcvt` on the scratchpad (R304). [DEDUCED: log entry 37] -/
def State.tileEffect (s : State) (o : Op) : State :=
  match o.kind with
  | .mmz off m n fmt => s.scrPack o.fid off (fmtBits fmt) (List.replicate (m * n) 0)
  | .mmcvt so dO m n cw =>
    let src := (cw.extractLsb' 0 4).toNat
    let dst := (cw.extractLsb' 4 4).toNat
    let sc := (cw.extractLsb' 12 8).toNat
    let all := natOf (s.scrRead o.fid so (cBytes src m n))
    let one := fun (e : Nat) =>
      let v := valueOf (if src = 10 then f32 else .int true 32) (all >>> (32 * e) % 2 ^ 32)
      let v := if sc = 255 then .nan false else scaleBy (127 - (sc : Int)) v
      match fmtOf dst with
      | some f => (roundTo f (rndDir (cw.extractLsb' 8 3).toNat) (cw.getLsbD 11) v).bits
      | none => 0
    s.scrPack o.fid dO (fmtBits dst) ((List.range (m * n)).map one)
  | _ => s

/-! ## Stamp records (R307, R308) -/

/-- The earliest and the latest of stamps that are set. -/
def firstStamp (l : List W64) : W64 :=
  match l.filter (· ≠ 0) with
  | [] => 0
  | x :: r => r.foldl (fun m y => if y < m then y else m) x
def lastStamp (l : List W64) : W64 := l.foldl (fun m y => if m < y then y else m) 0
/-- The space that an operation writes. -/
def Op.dstSpace (o : Op) : Space :=
  match o.kind with
  | .bld _ => .bstore
  | .drn _ _ | .cpm _ _ _ => .scratch
  | .ratm _ _ _ _ => .pod
  | _ => heSpace o.dh.ent
/-- Copy-in and copy-out of R307. -/
def Op.copyIn (o : Op) : Bool :=
  (o.cls = some .copy || o.cls = some .gather || o.cls = some .coll) && [Space.scratch, .peer, .bstore].contains o.dstSpace
def Op.copyOut (o : Op) : Bool :=
  (o.cls = some .copy && [Space.global, .near, .pod].contains o.dstSpace) ||
  (match o.kind with | .mst _ _ _ _ _ => true | _ => false)
def Op.isMma (o : Op) : Bool := match o.kind with | .mma _ => true | _ => false
/-- The 64 bytes of a stamp record. -/
def stampBytes (l : List Op) : List Byte :=
  let ins := l.filter Op.copyIn
  let outs := l.filter Op.copyOut
  let ms := l.filter Op.isMma
  [firstStamp (ins.map Op.t0), lastStamp (ins.map Op.t1), firstStamp (ms.map Op.t0), lastStamp (ms.map Op.t1),
   firstStamp (ms.map Op.t2), lastStamp (ms.map Op.t3), firstStamp (outs.map Op.t0), lastStamp (outs.map Op.t1)].flatMap
    fun x => bytesOf 8 x.toNat
/-- A `tret` whose tagged operations are all DONE writes its record, and is DONE when the record is visible (R222); its operand wait adds
to the kernel's total (R308, R336). -/
def State.writeStamps (s : State) (id : Nat) : State :=
  match s.op? id with
  | none => s
  | some o =>
    match o.kind with
    | .tret off k =>
      let low := s.tileFrom o.gid k id
      let mine := s.ops.filter fun x => x.tagged o.gid k low id
      let ended := fun (s : State) =>
        let ms := mine.filter Op.isMma
        let w := lastStamp (ms.map Op.t1) - firstStamp (ms.map Op.t0)
        (s.updKernel o.ctx o.kid fun k => { k with opWait := k.opWait + w }).finishOp id true
      if o.st ≠ .running || o.stalled || s.engBusy o || s.openTagged o.fid o.gid k low id || mine.any (fun x => x.st ≠ OpSt.done) then s
      else if o.off = 64 then ended s
      else
        match s.engWriteAll o o.dh off (stampBytes mine) with
        | .ok s =>
          let s := s.updOp id fun o => { o with off := 64 }
          if s.engBusy o then s else ended s
        | .wait s => s
        | .stall s => s.updOp id fun o => { o with stalled := true }
        | .bad s c q va => s.opFault id c q va
    | _ => s

/-! ## The words and events -/

/-- R300. Signs a seam for a plus-times matrix operation. -/
def execMmaPt (_cs : CS) (q : BitVec 4) (m : BitVec 2) (n : BitVec 6) (t : BitVec 1) (y : BitVec 2) (f : BitVec 4) (s : State) : Out :=
  mmaWord .plusTimes q m n t y f s

/-- R300. Signs a seam for a min-plus matrix operation. -/
def execMmaMinp (_cs : CS) (q : BitVec 4) (m : BitVec 2) (n : BitVec 6) (t : BitVec 1) (y : BitVec 2) (f : BitVec 4) (s : State) : Out :=
  mmaWord .minPlus q m n t y f s

/-- R300. Signs a seam for a max-plus matrix operation. -/
def execMmaMaxp (_cs : CS) (q : BitVec 4) (m : BitVec 2) (n : BitVec 6) (t : BitVec 1) (y : BitVec 2) (f : BitVec 4) (s : State) : Out :=
  mmaWord .maxPlus q m n t y f s

/-- R300. Signs a seam for a max-times matrix operation. -/
def execMmaMaxt (_cs : CS) (q : BitVec 4) (m : BitVec 2) (n : BitVec 6) (t : BitVec 1) (y : BitVec 2) (f : BitVec 4) (s : State) : Out :=
  mmaWord .maxTimes q m n t y f s

/-- R300. Signs a seam for an or-and matrix operation. -/
def execMmaOrand (_cs : CS) (q : BitVec 4) (m : BitVec 2) (n : BitVec 6) (t : BitVec 1) (y : BitVec 2) (f : BitVec 4) (s : State) : Out :=
  mmaWord .orAnd q m n t y f s

/-- R304. Zeroes a C tile in scratchpad, as one TILE-class operation for the fetch set. -/
def execMmz (_cs : CS) (a b r : BitVec 6) (s : State) : Out :=
  tileWord s fun iss s t => s.tileMmz iss t a b r

/-- R304. Converts a scratchpad tile element by element under a conversion word. -/
def execMmcvt (_cs : CS) (a b r : BitVec 6) (s : State) : Out :=
  tileWord s fun iss s t => s.tileMmcvt iss t a b r

/-- R304. Stores a scratchpad tile to memory as a TILE-class engine operation. -/
def execMst (_cs : CS) (a b : BitVec 6) (s : State) : Out :=
  tileWord s fun iss s t => s.tileMst iss t a b

/-- R306. Opens a tile id for stamp accounting and makes it current. -/
def execTstamp (_cs : CS) (k : BitVec 6) (s : State) : Out :=
  tileWord s fun iss s _ => s.tileStamp iss k.toNat

/-- R308. Closes a tile and writes its stamp record once the operations tagged with it are done. -/
def execTret (_cs : CS) (a k : BitVec 6) (s : State) : Out :=
  tileWord s fun iss s t => s.tileRet iss t a k.toNat

/-- R299. A queued mma reaches the array; it computes, waits for filling slots, or fails on a BAD slot. -/
def execMmaReachArray (op : Nat) (s : State) : Out :=
  .next (s.reachArray op)

/-- R299. The last C element is written, and the mma becomes DONE. -/
def execMmaComputeDone (op : Nat) (s : State) : Out :=
  .next (s.computeDone op).endOperandWaits

/-- R308. After its tagged operations are done, tret writes the stamp record and completes. -/
def execTretRecordWrite (op : Nat) (s : State) : Out :=
  .next (s.writeStamps op)

end Sys2Proof.Machine
end

