-- ==== Sys2Proof/Machine/Fabric.lean ====
section
/-! DEFINITION. Links and the ordered class: ports, flits, watermarks, release, recovery, and the FAB words (R363 to R391). -/
namespace Sys2Proof.Machine

/-! ## The torus (R364, R371, R378, R379) -/

/-- A device's coordinate in a dimension. -/
def coordOf (dev k : Nat) : Nat := dev / 8 ^ k % 8
def Fabric.size (f : Fabric) (k : Nat) : Nat := match k with | 0 => f.sx | 1 => f.sy | _ => f.sz
/-- Whether a device belongs to the pod. -/
def Fabric.inPod (f : Fabric) (dev : Nat) : Bool := decide (dev < 512) && (List.range 3).all fun k => decide (coordOf dev k < f.size k)
/-- Every device of the pod. -/
def Fabric.pod (f : Fabric) : List Nat := (List.range 512).filter f.inPod
/-- The neighbour of a device in a direction. -/
def Fabric.neighbour (f : Fabric) (dev d : Nat) : Nat :=
  let k := d / 2
  let c := coordOf dev k
  let n := f.size k
  let c' := if d % 2 = 0 then (c + 1) % n else (c + n - 1) % n
  dev - c * 8 ^ k + c' * 8 ^ k
def Fabric.port (f : Fabric) (i : Nat) : Port := (f.ports[i]?).getD Port.reset
def Fabric.setPort (f : Fabric) (i : Nat) (p : Port) : Fabric := { f with ports := f.ports.setIfInBounds i p }
def State.port (s : State) (i : Nat) : Port := s.fab.port i
def State.updPort (s : State) (i : Nat) (g : Port → Port) : State := { s with fab := s.fab.setPort i (g (s.fab.port i)) }
/-- Whether a port carries ordered packets onward. -/
def Port.usable (p : Port) : Bool := p.routed && (p.st = .up || p.st = .retry)
/-- The port of a direction from an index on, skipping those that are not usable. -/
def Fabric.portIn (f : Fabric) (d j : Nat) : Option Nat :=
  ((List.range 4).map fun i => 4 * d + (j + i) % 4).find? fun i => (f.port i).usable
/-- The far end of a device's port: the neighbour's port that it faces (R364). -/
def Fabric.faces (f : Fabric) (dev port : Nat) : Nat × Nat := (f.neighbour dev (port / 4), 4 * ((port / 4) ^^^ 1) + port % 4)
/-- Whether neither end of a port's link is left out of the routes. -/
def Fabric.linkOpen (f : Fabric) (dev port : Nat) : Bool := !(f.lost.contains (dev, port) || f.lost.contains (f.faces dev port))
/-- The index at which a packet leaves a device in a direction, from an index on: for this device, of its usable ports; for another, of
those that no stall has named. [DESIGN CHOICE: log entry 57] -/
def Fabric.indexAt (f : Fabric) (dev d j : Nat) : Option Nat :=
  ((List.range 4).map fun i => (j + i) % 4).find? fun i => if dev = f.dev then (f.port (4 * d + i)).usable else f.linkOpen dev (4 * d + i)
/-- How many hops, of at most n, a packet can make from a device in a direction. -/
def Fabric.run (f : Fabric) (d : Nat) : Nat → Nat → Nat
  | 0, _ => 0
  | n + 1, cur => if (f.indexAt cur d 0).isSome then f.run d n (f.neighbour cur d) + 1 else 0
/-- The direction of the next hop from a device: dimension by dimension, the shorter way, half a ring in the + direction; the other
way when all four ports of a direction are lost on it (R383). -/
def Fabric.nextDir (f : Fabric) (dev dst : Nat) : Option Nat :=
  ((List.range 3).find? fun k => coordOf dev k ≠ coordOf dst k).map fun k =>
    let n := f.size k
    let plus := (coordOf dst k + n - coordOf dev k) % n
    let way := fun (d : Nat) => let h := if d % 2 = 0 then plus else n - plus; decide (f.run d h dev = h)
    let d := if plus ≤ n - plus then 2 * k else 2 * k + 1
    if !way d && way (d ^^^ 1) then d ^^^ 1 else d
/-- The outbound port of an ordered packet here. -/
def Fabric.route (f : Fabric) (src dst : Nat) : Option Nat :=
  (f.nextDir f.dev dst).bind fun d => f.portIn d ((src + dst) % 4)
/-- Whether the route from a device to another goes through a port of some device, in or out (R383). [DESIGN CHOICE: log entry 57] -/
def Fabric.crosses (f : Fabric) (src dst dev port : Nat) : Nat → Nat → Bool
  | 0, _ => false
  | n + 1, cur =>
    match f.nextDir cur dst with
    | none => false
    | some d =>
      (match f.indexAt cur d ((src + dst) % 4) with
       | some i => decide ((cur, 4 * d + i) = (dev, port)) || decide (f.faces cur (4 * d + i) = (dev, port))
       | none => false) || f.crosses src dst dev port n (f.neighbour cur d)
/-- How many hops a broadcast copy makes in a direction from the device where it entered its dimension (R379); where one way round is
broken, the other takes what it leaves (R383). -/
def Fabric.reach (f : Fabric) (dev d : Nat) : Nat :=
  let n := f.size (d / 2)
  let half := fun (d : Nat) => if d % 2 = 0 then n / 2 else (n + 1) / 2 - 1
  let run := fun (d : Nat) => f.run d (n - 1) dev
  if run d < half d then run d else if run (d ^^^ 1) < half (d ^^^ 1) then min (run d) (n - 1 - run (d ^^^ 1)) else half d
/-- The directions in which a broadcast is sent on from here in the dimensions from k on. -/
def Fabric.treeDirs (f : Fabric) (k : Nat) : List Nat :=
  (List.range 6).filter fun d => decide (k ≤ d / 2) && decide (0 < f.reach f.dev d)
/-- Where a broadcast that travels here in a dimension entered that dimension: at its source's coordinate. -/
def Fabric.entered (f : Fabric) (src k : Nat) : Nat := f.dev - coordOf f.dev k * 8 ^ k + coordOf src k * 8 ^ k

/-! ## Sending (R372, R378) -/

/-- A port sends a flit, and keeps it for replay (R372). -/
def Port.send (p : Port) (b : FlitBody) : Port :=
  { p with unacked := p.unacked ++ [(⟨p.outSeq, p.inSeq - 1, b⟩ : Flit)], outSeq := p.outSeq + 1, sent := p.sent + 1 }
/-- Whether a class's flits may leave a port now: the far end does not hold the class back (R371), a STALLED port carries no ordered
packet (R373), and a port's first beacon goes before its first ordered packet (R380). -/
def Port.sends (p : Port) (c : LinkClass) : Bool :=
  !p.paused.contains c && (p.st = .up && (c ≠ .ord || p.greeted) || p.st = .stalled && c ≠ .ord)
/-- The ordered packets that wait at a port become flits while the port may send them and fewer than 512 are unacknowledged (R372). -/
def State.flushOrd (s : State) (i : Nat) : State :=
  let p := s.port i
  if !p.sends .ord then s else
  ((s.fab.out.filter fun o => o.port = i).take (512 - p.unacked.length)).foldl (fun s o =>
    let s := s.updPort i fun p => p.send (.ord o.pkt)
    { s with fab := { s.fab with out := s.fab.out.erase o } }) s
/-- Everything that waits at a port becomes flits, class by class as far as the far end lets it (R371). -/
def State.flush (s : State) (i : Nat) : State :=
  let s := s.flushOrd i
  let p := s.port i
  ((s.fab.fwd.filter fun o => o.port = i && p.sends o.cls).take (512 - p.unacked.length)).foldl (fun s o =>
    let s := s.updPort i fun p => p.send (.other o.cls o.dst o.bytes)
    { s with fab := { s.fab with fwd := s.fab.fwd.erase o } }) s
/-- The outbound port of a MEM, BLK or MGT flit: dimension-ordered and minimal over UP ports (R372), a STALLED port carrying these classes on
(R373); with none in its dimension it waits. [DESIGN CHOICE: log entry 57] -/
def Fabric.otherPort (f : Fabric) (dst : Nat) : Option Nat :=
  (f.nextDir f.dev dst).bind fun d =>
    ([d, d ^^^ 1].flatMap fun d => (List.range 4).map fun i => 4 * d + (dst + i) % 4).find? fun i => (f.port i).st = .up || (f.port i).st = .stalled
/-- The router takes a flit of another class: one for this device has arrived, and acts by the event that it is; another goes on. -/
def State.forward (s : State) (cls : LinkClass) (dst : BitVec 12) (bs : List Byte) : State :=
  if dst.toNat = s.fab.dev then s else
  let i := (s.fab.otherPort dst.toNat).getD 24
  { s with fab := { s.fab with fwd := s.fab.fwd ++ [Transit.mk i cls dst bs] } }.flush i
/-- Puts a packet at an outbound port. -/
def State.sendPort (s : State) (i : Nat) (p : OrdPkt) (stage : Nat) : State :=
  { s with fab := { s.fab with out := s.fab.out ++ [OutPkt.mk i { p with stage := BitVec.ofNat 3 stage }] } }.flush i

/-! ## Stamps and the reorder buffer (R376, R381) -/

/-- Stamp order: T, then the source, then its sequence. -/
def ordBefore (a b : OrdPkt) : Bool :=
  a.t < b.t || (a.t = b.t && (a.src < b.src || (a.src = b.src && a.seq < b.seq)))
/-- Inserts a packet in stamp order. -/
def insertPkt (p : OrdPkt) : List OrdPkt → List OrdPkt
  | [] => [p]
  | q :: l => if ordBefore p q then p :: q :: l else q :: insertPkt p l
def reorderSize : Nat := 65536
/-- Whether a packet is held here already or has been released (R383). -/
def Fabric.duplicate (f : Fabric) (p : OrdPkt) : Bool :=
  f.reorder.any (fun q => q.src = p.src && q.seq = p.seq) ||
  (match f.released.lookup p.src.toNat with | some l => decide ((l - p.seq).toNat < 2 ^ 19) | none => false)
/-- The last sequence released of a packet's source once it is released too: a packet that waited for its queue may follow a later one
of its source, and leaves that one the last (R381, R383). -/
def Fabric.lastReleased (f : Fabric) (p : OrdPkt) : BitVec 20 :=
  match f.released.lookup p.src.toNat with
  | some l => if (l - p.seq).toNat < 2 ^ 19 then l else p.seq
  | none => p.seq
/-- Takes a packet into the reorder buffer. -/
def State.hold (s : State) (p : OrdPkt) : State :=
  if s.fab.duplicate p then s else { s with fab := { s.fab with reorder := insertPkt p s.fab.reorder } }
/-- A packet that has arrived travelling in a direction: kept here, forwarded, or both (R378, R379). -/
def State.arrived (s : State) (dir : Nat) (p : OrdPkt) : State :=
  let f := s.fab
  let k := dir / 2
  if p.dst = 0xFFF then
    let s := s.hold p
    let onward := if p.stage.toNat < f.reach (f.entered p.src.toNat k) dir then [(dir, p.stage.toNat + 1)] else []
    let turns := (f.treeDirs (k + 1)).map fun d => (d, 1)
    (onward ++ turns).foldl (fun s x =>
      match s.fab.portIn x.1 (p.src.toNat % 4) with
      | some i => s.sendPort i p x.2
      | none => s) s
  else if p.dst.toNat = f.dev then s.hold p
  else
    match f.route p.src.toNat p.dst.toNat with
    | some i => s.sendPort i p (if i / 4 / 2 = k then p.stage.toNat + 1 else 1)
    | none => s
/-- Injects a packet of this device: its own copy, and those for its routes. -/
def State.inject (s : State) (p : OrdPkt) : State :=
  let f := s.fab
  if p.dst = 0xFFF then
    (f.treeDirs 0).foldl (fun s d =>
      match s.fab.portIn d (p.src.toNat % 4) with
      | some i => s.sendPort i p 1
      | none => s) (s.hold p)
  else if p.dst.toNat = f.dev then s.hold p
  else match f.route p.src.toNat p.dst.toNat with
    | some i => s.sendPort i p 1
    | none => s
/-- The least of a list of times, 2^64 - 1 for none. [DESIGN CHOICE: log entry 57] -/
def minTime (l : List W64) : W64 := l.foldl (fun m x => if x < m then x else m) (BitVec.allOnes 64)
/-- What an inbound port announces: 0 before its first beacon. -/
def Port.announced (p : Port) : List W64 := if p.beacon then p.w else [0]
/-- D, the delivery watermark (R381). -/
def State.watermark (s : State) : W64 :=
  let ins := s.fab.ports.toList.flatMap fun p => if p.usable then p.announced else []
  let fro := s.fab.ports.toList.filterMap Port.frozen
  minTime (s.ptime :: ins ++ fro)
/-- W[1] to W[7] of an outbound port, never below what it announced before (R378). [DESIGN CHOICE: log entry 57] -/
def State.outMarks (s : State) (i : Nat) : List W64 :=
  let f := s.fab
  let d := i / 4
  let q := fun (h : Nat) => (f.out.filter fun o => o.port = i && o.pkt.stage.toNat = h).map fun o => o.pkt.t
  let ports := (List.range 24).map fun j => (j, f.port j)
  let lower := ports.flatMap fun x => if x.2.usable && decide (x.1 / 4 / 2 < d / 2) then x.2.announced else []
  let same := fun (h : Nat) => ports.flatMap fun x =>
    if x.2.usable && x.1 / 4 = (d ^^^ 1) then [if x.2.beacon then (x.2.w[h - 2]?).getD 0 else 0] else []
  let now := (List.range 7).map fun h =>
    if h = 0 then minTime (s.ptime :: q 1 ++ lower)
    else let l := q (h + 1) ++ same (h + 1); if l = [] then s.ptime else minTime l
  now.zipIdx.map fun x => let old := (((f.port i).wOut)[x.2]?).getD 0; if x.1 < old then old else x.1
/-- Whether the reorder buffer is full, so that this device applies ORD backpressure on every inbound port (R381). -/
def State.ordFull (s : State) : Bool := decide (reorderSize ≤ s.fab.reorder.length)
/-- The held flag of an outbound port's beacon (R380): its packets are held back by the far end, or a watermark that its own depend on
(R378) is, by this device's backpressure or by what its sender has flagged. [DESIGN CHOICE: log entry 57] -/
def State.heldDown (s : State) (i : Nat) : Bool :=
  let f := s.fab
  let d := i / 4
  ((f.port i).paused.contains .ord && f.out.any fun o => o.port = i) ||
  (List.range 24).any fun j =>
    (f.port j).usable && (decide (j / 4 / 2 < d / 2) || j / 4 = (d ^^^ 1)) && (s.ordFull || (f.port j).held)

/-! ## Queues (R386) -/

def State.ocEnt (s : State) (ctx : Nat) : OcEnt := (s.fab.oc.find? fun e => e.ctx = ctx).getD ⟨ctx, false, 0, 0, 0, 0⟩
def State.setOc (s : State) (e : OcEnt) : State :=
  { s with fab := { s.fab with oc := e :: s.fab.oc.filter fun x => x.ctx ≠ e.ctx } }
/-- Counts a packet discarded at release, saturating. [DESIGN CHOICE: log entry 57] -/
def State.countDrop (s : State) (ctx : Nat) : State :=
  let e := s.ocEnt ctx
  s.setOc { e with drop := if e.drop = BitVec.allOnes 32 then e.drop else e.drop + 1 }
def State.oqEnt? (s : State) (ctx q : Nat) : Option OqEnt := s.fab.oq.find? fun e => e.ctx = ctx && e.q = q
def State.updOq (s : State) (ctx q : Nat) (f : OqEnt → OqEnt) : State :=
  { s with fab := { s.fab with oq := s.fab.oq.map fun e => if e.ctx = ctx && e.q = q then f e else e } }
def OqEnt.on (e : OqEnt) : Bool := e.en && decide (4 ≤ e.lg.toNat) && decide (e.lg.toNat ≤ 12)
def OqEnt.size (e : OqEnt) : Nat := 2 ^ (e.lg.toNat + 4)
def OqEnt.count (e : OqEnt) : Nat := (e.tail - e.head).toNat
/-- The 64-byte record of a packet. -/
def recordBytes (p : OrdPkt) : List Byte :=
  bytesOf 32 (p.t.toNat + p.src.toNat * 2 ^ 64 + p.q.toNat * 2 ^ 76 + p.seq.toNat * 2 ^ 80) ++
  takeBytes 32 (p.payload.flatMap fun w => bytesOf 4 w.toNat)
/-- What `orecv` writes for a record. -/
def recordWrites (a b : Fld) (r : List Byte) : List Wr :=
  let w := fun (i : Nat) => BitVec.ofNat 32 (natOf ((r.drop (4 * i)).take 4))
  let lo := natOf (r.take 32)
  wrs32 a ((List.range 8).map fun i => w (8 + i)) ++
  wrs32 b [w 0, w 1, BitVec.ofNat 32 (bitsOf lo 75 64 + bitsOf lo 79 76 * 4096), BitVec.ofNat 32 (bitsOf lo 99 80)]
/-- Takes the record at a queue's head; what it reads as on a page that is no longer there is open. [DESIGN CHOICE: log entry 57] -/
def State.popRecord (s : State) (e : OqEnt) : List Byte × State :=
  let va := e.base + 64 * (e.head.toNat % e.size)
  let s := s.touchRead e.ctx va 64
  let r := match s.vaRead e.ctx va 64 with | some bs => (bs, s) | none => s.openBytes 64
  (r.1, r.2.updOq e.ctx e.q fun e => { e with head := e.head + 1 })
/-- Serves the threads that wait for a queue's records, oldest first; each pop is an acquire (R389). -/
def State.serveOrecv (ctx q : Nat) : Nat → State → State
  | 0, s => s
  | n + 1, s =>
    match s.oqEnt? ctx q with
    | none => s
    | some e =>
      match e.waiters with
      | [] => s
      | (gid, lane) :: rest =>
        if e.count = 0 then s else
        let r := s.popRecord e
        let s := r.2.updOq ctx q fun e => { e with waiters := rest }
        match s.thread? gid lane with
        | some t =>
          (match t.wait with
           | some (.orecv _ a b) =>
             let l := s.logged gid lane 6 (BitVec.ofNat 64 q) 0 r.1
             State.serveOrecv ctx q n ((l.2.2.wake gid [(lane, recordWrites a b l.2.1)]).acquireCore (s.group gid).pcore)
           | _ => State.serveOrecv ctx q n s)
        | none => State.serveOrecv ctx q n s
/-- The context that a packet's job selects, with its queue. -/
def State.queueFor (s : State) (p : OrdPkt) : Option OqEnt :=
  match s.jobCtx p.job with
  | some c => if (s.ocEnt c.id).en then (s.oqEnt? c.id p.q.toNat).bind fun e => if e.on then some e else none else none
  | none => none
/-- Whether a packet's queue has room, or it will be discarded. -/
def State.roomFor (s : State) (p : OrdPkt) : Bool := match s.queueFor p with | some e => decide (e.count < e.size) | none => true
/-- Releases the first packet in stamp order that may go (R381). [DESIGN CHOICE: log entry 57] -/
def State.releaseOrd (s : State) : State :=
  let d := s.watermark
  match s.fab.reorder.find? fun p => p.t < d && s.roomFor p with
  | none => s
  | some p =>
    let full := s.ordFull
    let f := { s.fab with reorder := s.fab.reorder.erase p,
                          released := (p.src.toNat, s.fab.lastReleased p) :: s.fab.released.filter fun x => x.1 ≠ p.src.toNat }
    -- stall counting pauses while this device applies backpressure
    let f := if full then { f with ports := f.ports.map fun q => { q with since := s.ptime } } else f
    let s := { s with fab := f }
    match s.queueFor p with
    | none => s.countDrop 0
    | some e =>
      match s.vaWrite e.ctx (e.base + 64 * (e.tail.toNat % e.size)) (recordBytes p) with
      | none => s.countDrop e.ctx
      | some s =>
        let s := s.updOq e.ctx e.q fun e => { e with tail := e.tail + 1 }
        State.serveOrecv e.ctx e.q (e.waiters.length + 1) s

/-! ## Ports, flits and beacons (R372, R373, R380) -/

/-- A training attempt starts at reset for a port whose `ps.en` is 1 (R373): only after a reset does an enabled port stand DOWN. -/
def State.startTraining (s : State) : State :=
  { s with fab := { s.fab with ports := s.fab.ports.map fun p => if p.st = .down && p.en then { p with st := .training } else p } }
/-- A port goes DOWN or FAILED: held flits are discarded, routes will be recomputed; a frozen value stays until its recovery is over
(R383). With no port left in the pod the device has left it (R374). [DESIGN CHOICE: log entry 58] -/
def State.portLost (s : State) (i : Nat) (st : PortSt) (en : Bool) : State :=
  let z := List.replicate 7 (0 : W64)
  let s := s.updPort i fun p =>
    { p with st := st, en := en, w := z, wOut := z, fails := 0, fromStall := false, beacon := false, routed := false, greeted := false, held := false,
             unacked := [], paused := [], asked := false, inSeq := 0, outSeq := 0 }
  let here := s.fab.ports.toList.any fun p => p.st = .up || p.st = .retry || p.st = .stalled
  { s with fab := { s.fab with out := s.fab.out.filter (fun o => o.port ≠ i), fwd := s.fab.fwd.filter (fun o => o.port ≠ i),
                               routePending := true, locked := s.fab.locked && here } }
/-- A write of `ps.en` (R373): 0 takes the port DOWN, 1 starts the training of one that is DOWN. -/
def State.setEnable (s : State) (i : Nat) (on : Bool) : State :=
  if on then s.updPort i fun p => if p.st = .down then { p with st := .training, en := true, fails := 0 } else { p with en := true }
  else s.portLost i .down false
/-- An error on a port that accepts flits sends it into RETRY, with a replay request (R372, R373). [DESIGN CHOICE: log entry 58] -/
def State.flitError (s : State) (i : Nat) : State :=
  let p := s.port i
  if p.st = .up || p.st = .stalled then
    s.updPort i fun p => { p with st := .retry, asked := true, fromStall := p.st = .stalled, fails := 0,
                                  retry := if p.retry = BitVec.allOnes 16 then p.retry else p.retry + 1 }
  else s
/-- The signed order of announced values: whether any has fallen. -/
def fallen (old new : List W64) : Bool := (old.zip new).any fun x => x.2 < x.1
/-- An inbound beacon (R378, R380, R382). [DESIGN CHOICE: log entry 58] -/
def State.takeBeacon (s : State) (i : Nat) (w : List W64) (held : Bool) : State :=
  let p := s.port i
  if p.st ≠ .up && p.st ≠ .stalled then s
  else if p.beacon && fallen p.w w then s.flitError i
  else
    let w := (w ++ List.replicate 7 0).take 7
    let q := { p with w := w, beacon := true, held := held }
    let adv := !p.beacon || held || p.wm < q.wm || p.st ≠ .up || s.ordFull
    s.updPort i fun _ => { q with since := if adv then s.ptime else p.since }
/-- An ordered packet from a port; with the reorder buffer full the link holds it back (R381). -/
def State.takeOrd (s : State) (i : Nat) (p : OrdPkt) : State :=
  let st := (s.port i).st
  if (st ≠ .up && st ≠ .stalled && st ≠ .retry) || s.ordFull then s
  else s.arrived ((i / 4) ^^^ 1) p
/-- Flits up to an acknowledged one need no replay. [DESIGN CHOICE: log entry 58] -/
def ackFlits (ack : BitVec 10) (l : List Flit) : List Flit :=
  if l.any fun x => x.seq = ack then (l.dropWhile fun x => x.seq ≠ ack).tail else l
/-- A replay request of the far end: the port sends again from the first unacknowledged flit on, in the original order (R372). -/
def State.replayFlits (s : State) (i : Nat) (ack : BitVec 10) : State :=
  s.updPort i fun p => let l := ackFlits ack p.unacked; { p with unacked := l, sent := p.sent + l.length }
/-- A flit from the wire: accepted in sequence, else an error (R372). With the reorder buffer full, ORD backpressure keeps an
ordered packet's flit on the link (R381). A replay request is link control and has no place in the sequence. [DESIGN CHOICE: log entry 58] -/
def State.takeFlit (s : State) (i : Nat) (x : Flit) : State :=
  let p := s.port i
  let full := s.ordFull && (match x.body with | .ord _ => true | _ => false)
  if x.body = .replay then (if p.st = .up || p.st = .stalled || p.st = .retry then (s.replayFlits i x.ack).flush i else s)
  else if (p.st ≠ .up && p.st ≠ .stalled) || full then s
  else if x.seq ≠ p.inSeq then s.flitError i
  else
    let s := s.updPort i fun p => { p with inSeq := p.inSeq + 1, recv := p.recv + 1, unacked := ackFlits x.ack p.unacked }
    let s := s.flush i
    match x.body with
    | .ord q => s.takeOrd i q
    | .beacon w h => s.takeBeacon i w h
    | .other cls dst bs => s.forward cls dst bs
    | .pause cls on =>
      (s.updPort i fun p => { p with paused := if on then cls :: p.paused.filter (fun c => c ≠ cls) else p.paused.filter (fun c => c ≠ cls) }).flush i
    | .replay => s
/-- A port sends a beacon (R380). -/
def State.sendBeacon (s : State) (i : Nat) : State :=
  let p := s.port i
  if p.st ≠ .up || decide (512 ≤ p.unacked.length) then s
  else
    let w := s.outMarks i
    (s.updPort i fun p => { p.send (.beacon w (s.heldDown i)) with wOut := w, greeted := p.routed }).flush i

/-! ## Stalls and routes (R382, R383, R385) -/

/-- The aux of cause 0x30. -/
def ordAux (reason x : Nat) : W64 := BitVec.ofNat 64 (reason + 256 * x)
/-- Recovery begins on this device: an ordered-stall event, and every thread of an affected context that waits in `orecv` takes
a trap. -/
def State.beginRecovery (s : State) (port : Nat) (f : W64) (dev : Nat) : State :=
  let hit : Thread → Bool := fun t =>
    (match t.wait with | some (.orecv _ _ _) => true | _ => false) && (s.ocEnt (s.group t.gid).ctx).en
  let ts := s.threads.filter hit
  let s := { s with fab := { s.fab with recovering := some port, markersSent := false, routePending := true } }
  let s := s.post 15 port 0 [f, BitVec.ofNat 64 dev]
  ts.foldl (fun s t =>
    (s.withdraw t.gid t.lane).parkWaiting t.gid [(⟨t.lane, 0x30, ordAux 1 port, 0, 0⟩, waitRec t 0x30 (ordAux 1 port))] none) s
/-- A port is declared stalled after eight beacon intervals, 512 ns, without an advance (R382). -/
def State.declareStall (s : State) (i : Nat) : State :=
  let p := s.port i
  if p.st ≠ .up || !p.routed || p.held || (s.ptime - p.since).toNat < 512 * 256 || s.ptime < p.since || s.ordFull then s
  else
    let f := minTime p.announced
    let s := s.updPort i fun p => { p with st := .stalled, frozen := some f, routed := false }
    ({ s with fab := { s.fab with markers := [], told := s.fab.told ++ [(s.fab.dev, i)] } }).beginRecovery i f
      (s.fab.neighbour s.fab.dev (i / 4))
/-- Whether a retained packet's route crossed the port that recovery names: through this device's own port, or on the way.
[DESIGN CHOICE: log entry 57] -/
def Fabric.mustResend (f : Fabric) (r : Retained) (dev port : Nat) : Bool :=
  (f.dev = dev && r.port = port) || (r.pkt.dst = 0xFFF) ||
  f.crosses r.pkt.src.toNat r.pkt.dst.toNat dev port 24 f.dev
/-- Sends a packet again on the present routes, keeping its place in retention. -/
def State.resend (s : State) (r : Retained) : State :=
  let i := if r.pkt.dst = 0xFFF then 24 else (s.fab.route r.pkt.src.toNat r.pkt.dst.toNat).getD r.port
  let upd := fun (x : Retained) => if x = r then { x with port := i } else x
  { s with fab := { s.fab with retained := s.fab.retained.map upd } }.inject r.pkt
/-- Recovery ends here once the markers are sent and no frozen value is left. -/
def State.endRecovery (s : State) : State :=
  if s.fab.markersSent && s.fab.ports.toList.all fun p => p.frozen.isNone then
    { s with fab := { s.fab with recovering := none } }
  else s
/-- The links that a route computation leaves out: those left out before and those named since, each until its port has trained again
(R373, R383). [DESIGN CHOICE: log entry 57] -/
def Fabric.relost (f : Fabric) : List (Nat × Nat) := (f.lost ++ f.told).dedup
/-- A recomputed route table is installed, for the pod as configured by then (R385): ports that are UP and not lost join, others leave; what
crossed a lost port is sent again (R373), in a recovery followed by end markers (R383), and what waits for a route takes its own. -/
def State.installRoutes (s : State) : State :=
  if !s.fab.routePending then s else
  let c := s.fab.cfg
  let s := { s with fab := { s.fab with lost := s.fab.relost, told := [], sx := c.sx, sy := c.sy, sz := c.sz, dev := c.dev } }
  let join := fun (x : Port × Nat) =>
    let p := x.1
    let on := (p.st = .up || p.st = .retry) && decide (1 < s.fab.size (x.2 / 4 / 2)) && s.fab.linkOpen s.fab.dev x.2
    if on && !p.routed then { p with routed := true, beacon := false, greeted := false, since := s.ptime } else { p with routed := on }
  let ports := Vector.ofFn fun i => join (s.fab.ports[i], i.val)
  let s := { s with fab := { s.fab with ports := ports, routePending := false } }
  let lone := s.fab.fwd.filter fun o => o.port = 24
  let s := lone.foldl (fun s o => s.forward o.cls o.dst o.bytes) { s with fab := { s.fab with fwd := s.fab.fwd.filter fun o => o.port ≠ 24 } }
  match s.fab.recovering with
  | none => s.fab.retained.foldl (fun s r => if (s.fab.port r.port).usable || r.pkt.dst.toNat = s.fab.dev then s else s.resend r) s
  | some port =>
    let s := (s.fab.retained.filter fun r => s.fab.mustResend r s.fab.dev port || !(s.fab.port r.port).usable).foldl State.resend s
    { s with fab := { s.fab with markersSent := true } }.endRecovery
/-- A notice about a link of another device (R373, R383, R385): a stall begins recovery here; a lost or stalled link leaves the routes, and
what crossed it is sent again once they are computed anew; one that is back may join them. [DESIGN CHOICE: log entry 57] -/
def State.takeNotice (s : State) (dev : Nat) (n : LinkNotice) : State :=
  let link := (dev, n.port)
  match n.news with
  | .back =>
    let out := fun (l : List (Nat × Nat)) => l.filter fun x => x ≠ link && x ≠ s.fab.faces dev n.port
    { s with fab := { s.fab with lost := out s.fab.lost, told := out s.fab.told, routePending := true } }
  | news =>
    let cut := s.fab.retained.map fun r => if s.fab.mustResend r dev n.port then { r with port := 24 } else r
    let s := { s with fab := { s.fab with told := s.fab.told ++ [link], routePending := true, retained := cut } }
    if news = .stalled then s.beginRecovery n.port 0 dev else s
/-- Whether end markers have come from every other device of the pod. -/
def Fabric.allMarkers (f : Fabric) : Bool := f.pod.all fun d => d = f.dev || f.markers.contains d
/-- An end marker arrives (R383). -/
def State.takeMarker (s : State) (src : Nat) : State :=
  let f := { s.fab with markers := if s.fab.markers.contains src then s.fab.markers else s.fab.markers ++ [src] }
  let f := if f.allMarkers then { f with ports := f.ports.map fun p => { p with frozen := none }, markers := [] } else f
  { s with fab := f }.endRecovery

/-! ## Retention (R387) -/

/-- The sequence up to which everything from a source has been released here: behind it stand the packets still held (R381, R387). -/
def Fabric.ackSeq (f : Fabric) (src : Nat) : Option (BitVec 20) :=
  (f.released.lookup src).map fun q =>
    (f.reorder.filter fun p => p.src.toNat = src && decide ((q - p.seq).toNat < 2 ^ 19)).foldl (fun m p =>
      if (q - m).toNat ≤ (q - p.seq).toNat then p.seq - 1 else m) q
/-- A destination acknowledges the release of everything up to a sequence. [DESIGN CHOICE: log entry 58] -/
def State.takeAck (s : State) (dst : Nat) (seq : BitVec 20) : State :=
  let upd := fun (r : Retained) =>
    if (seq - r.pkt.seq).toNat < 2 ^ 19 then { r with waiting := r.waiting.erase dst } else r
  { s with fab := { s.fab with retained := (s.fab.retained.map upd).filter fun r => r.waiting ≠ [] } }

/-! ## FAB words (R388 to R391) -/

/-- From 2^64 - 2^48 on, `osend` returns status 3 (R375). -/
def sendEnd : W64 := BitVec.ofNat 64 (2 ^ 64 - 2 ^ 48)
/-- `osend` of one lane (R389). -/
def State.laneOsend (s : State) (t : Thread) (a b c : Fld) : StepRes :=
  let g := s.group t.gid
  let e := s.ocEnt g.ctx
  let w := rd t c
  let dst : BitVec 12 := w.extractLsb' 0 12
  let ret := fun (s : State) (v : W32) => StepRes.ok (s.updT t.gid t.lane fun t => t.await (Result.known t.nextRes [.g a v] 0 false))
  if !s.fab.mesh || !e.en || sendEnd ≤ s.ptime then ret s 3
  else if w.extractLsb' 16 16 ≠ 0 || (dst ≠ 0xFFF && !s.fab.inPod dst.toNat) then ret s 4
  else match s.fab.recovering with
    | some p => .trap s 0x30 (ordAux 1 p) 0 0
    | none =>
      if e.tokens = 0 then ret s 1
      else if 16384 ≤ s.fab.retained.length then ret s 2
      else
        let q := s.fab.seq
        let job : W32 := match s.ctx? g.ctx with | some c => c.job | none => 0
        let p : OrdPkt :=
          { t := s.ptime, src := BitVec.ofNat 12 s.fab.dev, seq := q, dst := dst, q := w.extractLsb' 12 4, job := job, stage := 1,
            payload := (List.range 8).map fun i => rd t (b + BitVec.ofNat 6 i) }
        let keep : Retained :=
          ⟨p, if dst = 0xFFF then s.fab.pod else [dst.toNat], if dst = 0xFFF then 24 else (s.fab.route s.fab.dev dst.toNat).getD 24⟩
        let s := s.setOc { e with tokens := e.tokens - 1 }
        -- no stamp time is used again with a lower sequence (R376)
        let late := if q = BitVec.allOnes 20 then s.ptime + 1 else s.ptime
        let s := { s with ptime := late, fab := { s.fab with seq := q + 1, retained := s.fab.retained ++ [keep] } }
        ret (s.inject p) (q.setWidth 32 <<< 12)
/-- `orecv` of one lane, or `orecv.try`. -/
def State.laneOrecv (s : State) (iss : Issue) (t : Thread) (a b : Fld) (k : Nat) (try_ : Bool) : StepRes :=
  let g := s.group t.gid
  match s.oqEnt? g.ctx k with
  | none => .trap s 0x30 (ordAux 2 k) 0 0
  | some e =>
    if !s.fab.mesh || !(s.ocEnt g.ctx).en || !e.on then .trap s 0x30 (ordAux 2 k) 0 0
    else if (s.nextRec g t.lane).any fun x => x.kind = 6 then
      -- in a re-execution the record comes from the log
      let l := s.logged t.gid t.lane 6 (BitVec.ofNat 64 k) 0 []
      .ok ((l.2.2.updT t.gid t.lane fun t => t.await (Result.known t.nextRes (recordWrites a b l.2.1) 0 false)).acquireCore g.pcore)
    else if e.count = 0 || (!try_ && e.waiters ≠ []) then
      match (if e.count = 0 then s.fab.recovering else none) with
      | some p => .trap s 0x30 (ordAux 1 p) 0 0
      | none =>
        if try_ then
          let l := s.logged t.gid t.lane 4 (BitVec.ofNat 64 k) (BitVec.ofNat 64 (2 ^ 31)) []
          let ws := wrs32 a (List.replicate 8 0) ++ wrs32 b [0, 0, 0x80000000, 0]
          .ok (l.2.2.updT t.gid t.lane fun t => t.await (Result.known t.nextRes ws 0 false))
        else
          .ok ((s.updOq g.ctx k fun e => { e with waiters := e.waiters ++ [(t.gid, t.lane)] }).updT t.gid t.lane fun t =>
            t.block (.orecv k a b) iss (destsOf (recordWrites a b [])))
    else
      let r := s.popRecord e
      let l := r.2.logged t.gid t.lane 6 (BitVec.ofNat 64 k) 0 r.1
      .ok ((l.2.2.updT t.gid t.lane fun t => t.await (Result.known t.nextRes (recordWrites a b l.2.1) 0 false)).acquireCore g.pcore)
/-- `rput` and `rget` of one lane (R390). -/
def State.laneRemote (s : State) (iss : Issue) (t : Thread) (a b : Fld) (put : Bool) : StepRes :=
  let g := s.group iss.gid
  let lo := (rd t a).toNat
  let ro := (rd t (a + 1)).toNat
  let hs := (rd t (a + 2)).toNat
  let n := (rd t (a + 3)).toNat
  let on := hs.testBit 24
  let lh := s.engHandle g (hs % 4096)
  let ph := s.engHandle g (hs / 4096 % 4096)
  let bar := s.barRegs g t b
  let base := if put then heBase ph.ent + ro else heBase lh.ent + lo
  let pod := heSpace ph.ent = .pod
  match firstFail [failIf (n = 0 ∨ 2 ^ 24 < n) 0x28 3, failIf (2 ^ 25 ≤ hs) 0x28 4, s.chkUsable g lh, s.chkUsable g ph,
      chkSpace lh (engSpace lh) (if put then 0 else 1), chkSpace ph pod (if put then 1 else 0),
      s.chkSpan g lh (lo, (lo : Int) + n), s.chkSpan g ph (ro, (ro : Int) + n), chkBar on (base % 32 = 0 && n % 32 = 0) bar] with
  | some (cause, x) => .trap s cause x 0 0
  | none =>
    .ok (s.issueOp g { Op.fresh s.nextId (some .copy) (if put then .rput lo ro n else .rget lo ro n) g t.lane iss with
      sh := if put then lh else ph, dh := if put then ph else lh, bar := barOf on bar, secs := n / 32 })
/-- The operation that `ratm` names. -/
def ratmOp (k : Nat) : RmwOp :=
  match k with
  | 0 => .add 64 | 1 => .andB 64 | 2 => .orB 64 | 3 => .xorB 64 | 4 => .xchg 64 | 5 => .minN 64 | 6 => .maxN 64 | _ => .add 32
/-- `ratm` of one lane (R390). [DEDUCED: log entry 37] -/
def State.laneRatm (s : State) (iss : Issue) (t : Thread) (a b : Fld) (k : Nat) : StepRes :=
  let g := s.group iss.gid
  let op := ratmOp k
  let n := rmwBytes op
  let ro := (rd t a).toNat
  let ph := s.engHandle g ((rd t (a + 1)).toNat % 4096)
  let res := (rd t b).toNat
  let rw := rd t (b + 1)
  let want := !rw.getLsbD 31
  let rh := s.engHandle g (rw.toNat % 4096)
  let pod := heSpace ph.ent = .pod
  let ifRes := fun (x : Option (Byte × W64)) => if want then x else none
  match firstFail [s.chkUsable g ph, ifRes (s.chkUsable g rh), chkSpace ph pod 3, ifRes (chkSpace rh (engSpace rh) 1),
      failIf ((heBase ph.ent + ro) % n ≠ 0) 0x15 (heBase ph.ent + ro), s.chkSpan g ph (ro, (ro : Int) + n),
      ifRes (s.chkSpan g rh (res, (res : Int) + n))] with
  | some (cause, x) => .trap s cause x 0 0
  | none =>
    .ok (s.issueOp g { Op.fresh s.nextId (some .copy) (.ratm ro op (rd2 t (a + 2)) (if want then some res else none)) g t.lane iss with
      sh := ph, dh := rh })
/-- A running `ratm`: sent to its device, or performed here when the handle names this one; then its prior value is written. -/
def State.ratmStep (s : State) (o : Op) (ro : Nat) (op : RmwOp) (b : W64) (res : Option Nat) : State :=
  let n := rmwBytes op
  let fin := fun (s : State) (old : List Byte) =>
    match res with
    | none => s.updOp o.id fun o => { o with off := 1, soffDone := 1, out := [], got := [] }
    | some at_ =>
      match s.engWriteAll o o.dh at_ (takeBytes n old) with
      | .ok s => s.updOp o.id fun o => { o with off := 1, soffDone := 1, out := [], got := [] }
      | .wait s => s.updOp o.id fun o => { o with out := old }
      | .stall s => s.updOp o.id fun o => { o with out := old, stalled := true }
      | .bad s c q va => s.opFault o.id c q va
  let held := if o.out ≠ [] then o.out else (match o.got with | x :: _ => x.2 | [] => [])
  if held ≠ [] then fin s held
  else if s.engBusy o then s
  else match s.engPlace o o.sh ro n true with
    | (.pod dev va, s) => s.engSend o dev va n (.rmw op b 0) []
    | (.mem pa, s) =>
      let lg := s.logged o.gid o.lane 1 (BitVec.ofNat 64 (heBase o.sh.ent + ro)) (logVal (s.cohRead pa n)) []
      let old := bytesOf n lg.1.toNat
      fin (lg.2.2.cohWrite o.ctx pa (bytesOf n (rmwApply op (natOf old) (b.toNat % 2 ^ (8 * n)) 0).bits)) old
    | (.bad c q va, s) => s.opFault o.id (if c = 0x10 || c = 0x11 then 0x31 else c) q va
    | (.bounce va, s) => s.opFault o.id 0x31 0 va
    | (_, s) => s
/-- One burst of a running operation of any kind. -/
def State.opBurst (s : State) (id n : Nat) : State :=
  match s.op? id with
  | none => s
  | some o =>
    match o.kind with
    | .mmz _ _ _ _ | .mmcvt _ _ _ _ _ =>
      if o.st = .running && o.off = 0 then (s.tileEffect o).updOp id fun o => { o with off := 1, soffDone := 1 } else s
    | .ratm ro op b res => if o.st = .running && o.off = 0 && !o.stalled then s.ratmStep o ro op b res else s
    | _ => if o.bursts then State.burst id (n + 1) n true s else s
/-- The value of a `wmrd` selector (R391). -/
def State.wmValue (s : State) (k : Nat) : W64 :=
  if !s.fab.mesh then 0
  else if k = 24 then s.watermark
  else if k = 25 then s.ptime
  else
    let p := s.port k
    if p.st = .up || p.st = .retry || p.st = .stalled then minTime p.w else 0

/-! ## The words and events -/

/-- R389. Stamps and injects an ordered packet, or returns a refusal status. -/
def execOsend (_cs : CS) (a b r : BitVec 6) (s : State) : Out :=
  .next (s.laneFold fun _ s t => s.laneOsend t a b r)

/-- R389. Pops the next ordered record of a queue, blocking while the queue is empty. -/
def execOrecv (_cs : CS) (a b k : BitVec 6) (s : State) : Out :=
  .next (s.laneFold fun iss s t => s.laneOrecv iss t a b k.toNat false)

/-- R389. Pops an ordered record if one is present, and otherwise returns zeros and an empty flag. -/
def execOrecvTry (_cs : CS) (a b k : BitVec 6) (s : State) : Out :=
  .next (s.laneFold fun iss s t => s.laneOrecv iss t a b k.toNat true)

/-- R390. Copies local bytes to a remote device as a COPY-class operation. -/
def execRput (_cs : CS) (a b : BitVec 6) (s : State) : Out :=
  .next (s.laneFold fun iss s t => s.laneRemote iss t a b true)

/-- R390. Copies remote bytes to local memory as a COPY-class operation. -/
def execRget (_cs : CS) (a b : BitVec 6) (s : State) : Out :=
  .next (s.laneFold fun iss s t => s.laneRemote iss t a b false)

/-- R390. Performs a remote strong read-modify-write and writes back the prior value. -/
def execRatm (_cs : CS) (a b k : BitVec 6) (s : State) : Out :=
  .next (s.laneFold fun iss s t => s.laneRatm iss t a b k.toNat)

/-- R391. Reads an ordered-class watermark, D or C. -/
def execWmrd (_cs : CS) (a k : BitVec 6) (s : State) : Out :=
  .next (s.laneFold fun _ s t => .ok (s.updT t.gid t.lane fun t => t.await (Result.known t.nextRes (wr2 a (s.wmValue k.toNat)) 0 false)))

/-- R271. A running engine operation reads and writes one burst of its transfer. -/
def execEngineWriteBurst (op n : Nat) (s : State) : Out :=
  .next (s.opBurst op n)

/-- R276. The operation's last write becomes visible, it becomes DONE, and counters recognise it in order. -/
def execEngineDone (op : Nat) (s : State) : Out :=
  match s.op? op with
  | some o =>
    (match o.kind with
     | .cpm _ _ _ | .coll _ | .record _ _ | .mma _ | .tret _ _ => .next s
     | _ =>
       if o.st = .running && decide (s.opTotal o ≤ o.off) && !s.engBusy o then .next (s.finishOp op true).endOperandWaits else .next s)
  | none => .next s

/-- R366. The host link trains, and submission windows become reachable. -/
def execHostLinkTrained  (s : State) : Out :=
  .next { s with plat := { s.plat with hostUp := true } }

/-- R368. The host link is lost; device accesses to host memory fail with cause 0x31. -/
def execHostLinkDown  (s : State) : Out :=
  let s := { s with plat := { s.plat with hostUp := false } }
  .next ((s.reqs.filter fun r => decide (hostBase ≤ r.pa) && r.dev.isNone && !r.ft && !r.outside).foldl (fun s r =>
    match r.eng with
    | some op => (s.opFault op 0x31 0 r.va).dropReq r.id
    | none => s.reqFailed r) s)

/-- R373. Writing ps.en to 0 takes a fabric port DOWN and recomputes the routes. -/
def execPortDisable (port : Nat) (s : State) : Out :=
  .next (s.setEnable port false)

/-- R373. Writing ps.en to 1 starts training a DOWN port. -/
def execPortEnable (port : Nat) (s : State) : Out :=
  .next (s.setEnable port true)

/-- R373. A training attempt succeeds, and the port goes UP. -/
def execPortTrained (port : Nat) (s : State) : Out :=
  if (s.port port).st = .training then
    let s := s.updPort port fun p => { p with st := .up, fails := 0, since := s.ptime }
    let again := fun (x : Nat × Nat) => x = (s.fab.dev, port) || x = s.fab.faces s.fab.dev port
    .next { s with fab := { s.fab with routePending := true, lost := s.fab.lost.filter fun x => !again x } }
  else .next s

/-- R373. A training attempt fails; a new attempt starts, or after the third failure the port becomes FAILED. -/
def execPortTrainingFailed (port : Nat) (s : State) : Out :=
  let p := s.port port
  if p.st ≠ .training then .next s
  else if p.fails + 1 < 3 then .next (s.updPort port fun p => { p with st := .training, fails := p.fails + 1 })
  else .next ((s.updPort port fun p => { p with st := .failed, fails := 0 }).post 13 port 0 [1])

/-- R372. A flit is accepted in sequence, acknowledged and taken by the router. -/
def execFlitReceive (port : Nat) (flit : Flit) (s : State) : Out :=
  .next (s.takeFlit port flit)

/-- R372. A CRC error or a sequence gap sends the port into RETRY with a replay request. -/
def execFlitError (port : Nat) (s : State) : Out :=
  .next (s.flitError port)

/-- R373. A replay is accepted, and the port returns to UP or STALLED. -/
def execReplayAccepted (port : Nat) (s : State) : Out :=
  .next ((s.updPort port fun p =>
    if p.st = .retry then { p with st := if p.fromStall then .stalled else .up, fails := 0, asked := false, fromStall := false, since := s.ptime } else p).flush port)

/-- R373. The eighth consecutive failed replay makes the port FAILED. -/
def execReplayFailed (port : Nat) (s : State) : Out :=
  let p := s.port port
  if p.st ≠ .retry then .next s
  else if p.fails + 1 < 8 then
    .next (s.updPort port fun p => { p with fails := p.fails + 1, retry := if p.retry = BitVec.allOnes 16 then p.retry else p.retry + 1 })
  else .next ((s.portLost port .failed p.en).post 13 port 0 [2])

/-- R380. A port sends a beacon carrying its watermarks and held flag, at least every 64 ns. -/
def execBeaconSend (port : Nat) (s : State) : Out :=
  .next (s.sendBeacon port)

/-- R380. An inbound beacon updates the port's watermarks and the delivery watermark. -/
def execBeaconReceive (port : Nat) (w : List W64) (held : Bool) (s : State) : Out :=
  .next (s.takeBeacon port w held)

/-- R381. An ordered packet is taken into the reorder buffer, or forwarded. -/
def execOrdPacketReceive (port : Nat) (pkt : OrdPkt) (s : State) : Out :=
  .next (s.takeOrd port pkt)

/-- R381. A held packet is released in stamp order into its receive queue once D exceeds its stamp time. -/
def execOrdRelease  (s : State) : Out :=
  .next s.releaseOrd

/-- R382. An inbound watermark has not advanced for eight beacon intervals, so the port is declared stalled and recovery begins. -/
def execOrdStallDeclared (port : Nat) (s : State) : Out :=
  .next (s.declareStall port)

/-- R383. A device receives a stall notice, recomputes its routes, resends retained packets and sends end markers. -/
def execStallNotice (dev : Nat) (port : LinkNotice) (s : State) : Out :=
  .next (if dev = s.fab.dev then s else s.takeNotice dev port)

/-- R383. An end marker arrives; when markers from every device have arrived, the frozen value is withdrawn. -/
def execEndMarker (src : Nat) (s : State) : Out :=
  .next (s.takeMarker src)

/-- R367. A write of the route trigger in the pod configuration starts a route recomputation. -/
def execRouteTrigger  (s : State) : Out :=
  .next { s with fab := { s.fab with routePending := true } }

/-- R385. A recomputed route table is installed at the announced pod time. -/
def execRouteInstall  (s : State) : Out :=
  .next s.installRoutes

/-- R387. A receiver sends cumulative release acknowledgements per source, at least every 1 µs. -/
def execOrdAckSend (src : Nat) (s : State) : Out :=
  match s.fab.ackSeq src with
  | some q => .next (if src = s.fab.dev then s.takeAck s.fab.dev q else s)
  | none => .next s

/-- R387. A source takes an acknowledgement and frees retained places. -/
def execOrdAck (dst : Nat) (seq : BitVec 20) (s : State) : Out :=
  .next (s.takeAck dst seq)

/-- R389. Each context's token bucket gains oc.rate tokens per µs, up to its depth. -/
def execOcTokenRefill (us : Nat) (s : State) : Out :=
  let go := fun (e : OcEnt) => { e with tokens := min (max 1 e.burst.toNat) (e.tokens + e.rate.toNat * us) }
  .next { s with fab := { s.fab with oc := s.fab.oc.map go } }

/-- R374. Every 1 µs a link measures its one-way delay, and the clock is steered toward the master. -/
def execPtimeDelayMeasure (port : Nat) (delay : W32) (master : Master) (err : W64) (s : State) : Out :=
  let p := s.port port
  if p.st ≠ .up && p.st ≠ .stalled then .next s
  else
    let s := s.updPort port fun p => { p with delay := delay }
    -- a device that joins a pod steps forward to the master's time, unless it is the master; later it only slews (R374)
    let s := if s.fab.locked || !s.fab.mesh then s else
      { s with ptime := if master.dev ≠ s.fab.dev && s.ptime < master.time then master.time else s.ptime, fab := { s.fab with locked := true } }
    let s := { s with fab := { s.fab with err := err } }
    .next (if 5120 < err.toNat then s.post 14 0xFFFF 0 [err] else s)

/-- R375. %ptime reaches 2^64 − 2^56, and a ptime-horizon event is posted. -/
def execPtimeHorizon  (s : State) : Out :=
  if s.fab.horizon || decide (s.ptime.toNat < 2 ^ 64 - 2 ^ 56) then .next s
  else .next ({ s with fab := { s.fab with horizon := true } }.post 18 0xFFFF 0 [s.ptime])

/-- R375. A Precision Time Measurement exchange with the host disciplines the device's pod time in UALink mode or when no fabric port is UP. -/
def execPrecisionTimeMeasurement (t : W64) (s : State) : Out :=
  if s.fab.mesh && s.fab.ports.toList.any (fun p => p.st = .up) then .next s
  else .next { s with fab := { s.fab with err := if s.ptime < t then t - s.ptime else s.ptime - t } }

end Sys2Proof.Machine
end

