-- ==== Sys2Proof/Machine/Sched.lean ====
section
/-! DEFINITION. Launch records and their checks (R309 to R317), kernel states and completion words (R316, R318), admission and
reservations (R327, R328), placement and pre-emption (R314, R330 to R333), pens and swapping (R341 to R346), and the end of a
herd, a kernel and a context (R315, R360, R362). -/
namespace Sys2Proof.Machine

/-! ## The launch record (R309 to R312) -/

/-- A launch record from its 2048 bits. -/
def LRec.ofNat (n : Nat) : LRec :=
  { entry := BitVec.ofNat 32 n, codeh := bitsOf n 43 32, nlvl := bitsOf n 47 44, regs := bitsOf n 54 48, groups := bitsOf n 61 56,
    herd := bitsOf n 67 64, prio := bitsOf n 70 68, dclass := bitsOf n 73 72, podix := bitsOf n 127 96, htab := bitsOf n 191 128,
    hpre := bitsOf n 255 192, scr := bitsOf n 287 256, bst := bitsOf n 319 288, start := BitVec.ofNat 64 (n >>> 320),
    dl := BitVec.ofNat 64 (n >>> 384), budget := bitsOf n 479 448, bw := bitsOf n 487 480, ctab := bitsOf n 575 512,
    ncont := bitsOf n 583 576, cwait := bitsOf n 599 584, clg := bitsOf n 607 600, cring := bitsOf n 703 640,
    cpl := bitsOf n 767 704,
    lvl := (List.range 8).map fun i =>
      (bitsOf n (1027 + 64 * i) (1024 + 64 * i), bitsOf n (1031 + 64 * i) (1028 + 64 * i), bitsOf n (1087 + 64 * i) (1056 + 64 * i)),
    arg := (List.range 8).map fun i => BitVec.ofNat 32 (n >>> (1536 + 32 * i)) }
/-- Reason 8: a reserved field, or a bit above a virtual address, is not zero. -/
def lrReserved (n : Nat) : Bool :=
  [(55, 55), (63, 62), (71, 71), (95, 74), (511, 488), (639, 608), (1023, 768), (2047, 1792), (191, 185), (255, 249), (575, 569),
   (703, 697), (767, 761)].any fun x => decide (bitsOf n x.1 x.2 ≠ 0)
/-- The levels in use, and t_i of each (R311). -/
def LRec.levels (r : LRec) : List (Nat × Nat × Nat) := r.lvl.take r.nlvl
def sizesFrom : Nat → List (Nat × Nat × Nat) → List Nat
  | _, [] => []
  | t, l :: ls => t :: sizesFrom (t * l.2.2) ls
def LRec.sizes (r : LRec) : List Nat := sizesFrom 1 r.levels
/-- Whether the top level is POD. -/
def LRec.pod (r : LRec) : Bool := match r.levels.getLast? with | some l => l.1 = 7 | none => false
/-- The threads of the kernel on this device (R311). -/
def LRec.threads (r : LRec) : Nat :=
  match r.levels.getLast?, r.sizes.getLast? with
  | some l, some t => if r.pod then t else t * l.2.2
  | _, _ => 0
/-- The threads of a herd. -/
def LRec.unit (r : LRec) : Nat := 32 * r.groups * r.herd
/-- The herd count H. -/
def LRec.herds (r : LRec) : Nat := r.threads / r.unit
/-- Whether the domains strictly ascend. -/
def ascends : List Nat → Bool
  | a :: b :: l => decide (a < b) && ascends (b :: l)
  | _ => true
/-- R310 and R311 for the level at an index. -/
def LRec.levelOk (r : LRec) (x : ((Nat × Nat × Nat) × Nat) × Nat) : Bool :=
  let dom := x.1.1.1
  let md := x.1.1.2.1
  let e := x.1.1.2.2
  let t := x.1.2
  let u := r.unit
  decide (dom ≤ 7) && decide (md ≤ 6) && decide (dom - 1 ≤ md) && decide (1 ≤ e) && decide (e ≤ 2 ^ 24) &&
  (x.2 ≠ 0 || (dom = 0 && e = 32)) && (x.2 ≠ 1 || dom = 1) &&
  (dom ≠ 2 || t = 32 * r.groups) && (dom ≠ 3 || t = u) &&
  (dom ≠ 4 || (t % u = 0 && t ≠ 0 && decide (t / u * r.herd ≤ 8))) &&
  (dom ≠ 5 || (t % u = 0 && t ≠ 0 && decide (t / u * r.herd ≤ 512))) &&
  (dom ≠ 6 || e = 1) && (dom ≠ 7 || (x.2 + 1 = r.nlvl && decide (e ≤ 1024) && decide (r.podix < e)))
/-- Whether the level table is valid (R310, R311). -/
def LRec.levelsOk (r : LRec) (n : Nat) : Bool :=
  decide (2 ≤ r.nlvl) && decide (r.nlvl ≤ 8) &&
  ((List.range 8).all fun i => if i < r.nlvl then bitsOf n (1055 + 64 * i) (1032 + 64 * i) = 0 else bitsOf n (1087 + 64 * i) (1024 + 64 * i) = 0) &&
  ((r.levels.zip r.sizes).zipIdx.all r.levelOk) && ascends (r.levels.map Prod.fst) && (r.pod || r.podix = 0) &&
  r.threads % r.unit = 0 && decide (1 ≤ r.herds) && decide (r.herds ≤ 2 ^ 24)
/-- The level indices of the group whose lane 0 has a linear index (R312); `%lvl0` is the lane. -/
def LRec.lvlOf (r : LRec) (l : Nat) : List W32 :=
  (List.range 8).map fun i =>
    match r.levels[i]?, r.sizes[i]? with
    | some x, some t =>
      BitVec.ofNat 32 (if i + 1 = r.nlvl then (if r.pod then r.podix else l / t) else l / t % x.2.2)
    | _, _ => 0
/-- FOLD and PASTURE units: the herds of one, and the cores of one such domain (R312). -/
def LRec.units (r : LRec) : List (Nat × Nat) :=
  (r.levels.zip r.sizes).filterMap fun x =>
    if x.1.1 = 4 then some (x.2 / r.unit, 8) else if x.1.1 = 5 then some (x.2 / r.unit, 512) else none
/-- A preload table's entries. -/
def preTable (bs : List Byte) : List (BitVec 16) := (List.range 32).map fun k => BitVec.ofNat 16 (natOf ((bs.drop (2 * k)).take 2))
/-- A continuation entry table's entries, with whether their upper halves are zero. -/
def contTable (n : Nat) (bs : List Byte) : List (W32 × Bool) :=
  (List.range n).map fun i => (BitVec.ofNat 32 (natOf ((bs.drop (8 * i)).take 4)), natOf ((bs.drop (8 * i + 4)).take 4) = 0)
/-- THE CHECK OF A RECORD (R317): the lowest-numbered reason that applies, or 0. [DEDUCED: log entry 34] -/
def State.launchReason (s : State) (c : Context) (n : Nat) : Nat :=
  let r := LRec.ofNat n
  let tab := if r.ncont = 0 ∨ 64 < r.ncont then some [] else (s.vaRead c.id r.ctab (8 * r.ncont)).map (contTable r.ncont)
  let pre := if r.hpre = 0 then some [] else if r.hpre % 64 ≠ 0 then none else (s.vaRead c.id r.hpre 64).map preTable
  let code := s.tableEntry c.id r.codeh
  let checks : List (Nat × Bool) :=
    [(1, r.regs < 16 || 64 < r.regs || r.regs % 8 ≠ 0),
     (2, r.groups = 0 || 32 < r.groups || !([1, 2, 4, 8].contains r.herd)),
     (3, !r.levelsOk n),
     (4, r.scr % 64 ≠ 0 || 524288 < r.scr || r.bst % 1024 ≠ 0 || 524288 < r.bst),
     (5, (r.dclass = 0 && r.dl = 0) || (r.bw ≠ 0 && r.dclass ≠ 0) || 32 < r.bw),
     (6, r.htab ≠ c.htab),
     (7, 64 < r.ncont || (r.ncont = 0 && r.clg ≠ 0) || r.ctab % 8 ≠ 0 ||
         (r.ncont ≠ 0 && (r.cwait = 0 || r.clg < 5 || 20 < r.clg || r.ctab = 0 || r.cring % (64 * 2 ^ r.clg) ≠ 0)) ||
         (match tab with | some l => l.any fun x => !x.2 | none => true)),
     (8, lrReserved n || (match pre with | some l => l.any fun e => e.extractLsb' 12 3 ≠ 0 | none => false)),
     (9, match code with
        | some e => !heValid e || heSpace e ≠ .code || !heRight e 2 || heLen e < 12 * r.entry.toNat + 12
        | none => true),
     (10, pre.isNone)]
  ((checks.find? fun x => x.2).map Prod.fst).getD 0

/-! ## Completion words (R316) -/

/-- Where a device store to a context's address goes: a frame, the bounce buffer for a page that is not PRESENT (R244), or
nowhere. -/
inductive StoreAt where
  | mem (pa : Nat) | bounce | lost
  deriving DecidableEq, Repr
def State.storeAt (s : State) (ctx va : Nat) : StoreAt :=
  match s.walk ctx va with
  | .malformed => .lost
  | .absent | .zero _ _ _ => if 2 ^ 57 ≤ va then .lost else .bounce
  | .leaf lvl _ e =>
    let pa := leafPa (leafPages lvl e) e va
    if s.bounced ctx va (leafPages lvl e) then .bounce
    else if !pteRight e .write || (decide (hostBase ≤ pa) && !s.plat.hostUp) then .lost else .mem pa
/-- A fault entry for a completion store: its core, pen and group are open, since the record has no issuing group. It merges with an
entry of its kind for the same context and page, whose core is then its own (R239). -/
def State.pushStore (s : State) (ctx va : Nat) (kind : BitVec 4) : State :=
  let same : FaultEnt → Bool := fun e => e.sub.isNone && e.ctx = ctx && e.kind = kind && e.va = va / 4096 * 4096
  if s.fq.any fun q => q.entries.any same then s else
  let f := s.takeFree
  let core := f.1.toNat % 2048
  f.2.pushFault (pastureOf core)
    { sub := none, va := va / 4096 * 4096, ctx, kind, acc := 2, eng := true, pcore := core, pen := f.1.toNat / 2048 % 2,
      grp := f.1.toNat / 4096 % 256, lanes := 0, seq := 0, time := s.ptime }
/-- Writes into a record of the bounce buffer; none when a new record has no room. -/
def State.bounceStore (s : State) (ctx va : Nat) (bs : List Byte) : Option State :=
  let base := va / 512 * 512
  let put := fun (b : Bounce) =>
    { b with bytes := memWrite b.bytes (va - base) bs,
             written := (b.written ++ (List.range bs.length).map fun i => va - base + i).dedup }
  if s.bounce.any fun b => b.ctx = ctx && b.va = base then
    some { s with bounce := s.bounce.map fun (b : Bounce) => if b.ctx = ctx && b.va = base then put b else b }
  else if s.bounceRoom ctx ≤ (s.bounce.filter fun b => b.ctx = ctx).length then none
  else some ({ s with bounce := s.bounce ++ [put ⟨ctx, base, [], []⟩] }.pushStore ctx va 3)
/-- THE COMPLETION WORD: one strong WT store of the submitting context, or the completion-lost event. While the bounce buffer is full it
stalls as an engine does, with a PRESSURE entry (R244). -/
def State.complete (s : State) (ctx kid cpl : Nat) (v : W64) : State :=
  let lost := s.post 19 0xFFFF ctx [BitVec.ofNat 64 kid, v, BitVec.ofNat 64 cpl]
  if cpl = 0 then s
  else if cpl % 8 ≠ 0 then lost
  else match s.storeAt ctx cpl with
    | .mem pa => (s.markUsed ctx cpl .write).cohWrite ctx pa (bytesOf 8 v.toNat)
    | .bounce =>
      (match s.bounceStore ctx cpl (bytesOf 8 v.toNat) with
       | some s => s
       | none =>
         let told := s.fq.any fun q => q.entries.any fun e => e.sub.isNone && e.ctx = ctx && e.kind = 4
         { (if told then s else s.pushStore ctx cpl 4) with cpls := s.cpls ++ [(ctx, cpl, v)] })
    | .lost => lost
/-- Completion words that waited for room in a bounce buffer are tried again (R244). -/
def State.retryCompletions (s : State) : State :=
  s.cpls.foldl (fun (s : State) x =>
    let s := { s with cpls := s.cpls.erase x }
    s.complete x.1 (x.2.2.toNat / 2 ^ 32) x.2.1 x.2.2) s

/-! ## Pens (R341 to R343) -/

def Core.pen (c : Core) (p : Nat) : Pen := if p = 0 then c.pen0 else c.pen1
def Core.setPen (c : Core) (p : Nat) (x : Pen) : Core := if p = 0 then { c with pen0 := x } else { c with pen1 := x }
def State.pen (s : State) (core p : Nat) : Pen := (s.core core).pen p
def State.setPen (s : State) (core p : Nat) (f : Pen → Pen) : State := s.updCore core fun c => c.setPen p (f (c.pen p))
/-- The herd of a flock. -/
def State.herdOfFlock (s : State) (f : Flock) : Option Herd := s.herd? f.ctx f.kid f.herd
/-- The flocks that stand in a pen; a flock of both pens stands in each. -/
def State.penFlocks (s : State) (core p : Nat) : List Flock :=
  s.flocks.filter fun f => f.pcore = core && (f.pen = p || f.both) &&
    (match s.herdOfFlock f with | some h => h.st.inPens | none => false)
/-- Removes a context's SI and WI words from a core's L1, and with `own` writes its owned ones home (R204, R224). -/
def State.flushCore (s : State) (core ctx : Nat) (own : Bool) : State :=
  let s := { s with l1 := s.l1.filter fun l => !(l.core = core && l.ctx = ctx && l.st ≠ .own) }
  if own then ((s.l1.filter fun l => l.core = core && l.ctx = ctx).map L1Word.addr).foldl State.pullWord s else s
/-- The SHADOW pen of a core becomes ACTIVE when no pen is. -/
def State.promotePen (s : State) (core : Nat) : State :=
  let c := s.core core
  if c.pen0.st = .active ∨ c.pen1.st = .active then s
  else if c.pen0.st = .shadow then s.setPen core 0 fun p => { p with st := .active }
  else if c.pen1.st = .shadow then s.setPen core 1 fun p => { p with st := .active }
  else s
/-- Pens that no flock stands in any more become EMPTY; a SAVING pen in which another herd's flocks stay is SHADOW or ACTIVE again.
[DEDUCED: log entry 44] -/
def State.settlePens (s : State) (l : List (Nat × Nat)) : State :=
  l.foldl (fun s x =>
    if (s.pen x.1 x.2).st = .empty then s
    else if s.penFlocks x.1 x.2 ≠ [] then
      (if (s.pen x.1 x.2).st = .saving && (s.penFlocks x.1 x.2).all fun f => !(s.herdOfFlock f).any fun h => h.st = .saving then
        (s.setPen x.1 x.2 fun p => { p with st := .shadow }).promotePen x.1
       else s)
    else
      let ctx := (s.pen x.1 x.2).ctx
      let s := s.setPen x.1 x.2 fun _ => Pen.reset
      let s := if (s.pen x.1 (1 - x.2)).st ≠ .empty ∧ (s.pen x.1 (1 - x.2)).ctx = ctx then s else s.flushCore x.1 ctx false
      s.promotePen x.1) s
/-- The groups of a pen. -/
def State.penGroups (s : State) (core p : Nat) : List Group :=
  s.groups.filter fun g => g.pcore = core && !g.shep && s.onCore g && (g.pen = p || (match s.flock? g.fid with | some f => f.both | none => false))
/-- A thread's outstanding results are collected before it issues again, and its pending set is then empty (R42, R343). -/
def Thread.collect (t : Thread) : Thread := if t.outst = [] then { t with pend := [], coll := false } else { t with coll := true }
/-- A PEN SWITCH (R343): the incoming pen is ACTIVE, the outgoing one SHADOW; its threads collect their results, and its context's SI
and WI words are gone. -/
def State.switchPen (s : State) (core p : Nat) : State :=
  let out := s.pen core (1 - p)
  let gids := (s.penGroups core (1 - p)).map Group.gid
  let s := s.setPen core p fun x => { x with st := .active }
  if out.st = .active then
    let s := { s with threads := s.threads.map fun (t : Thread) => if gids.contains t.gid then t.collect else t }
    (s.setPen core (1 - p) fun x => { x with st := .shadow }).flushCore core out.ctx false
  else s
/-- Whether a context lets its groups issue: not while it is stopping, nor while a checkpoint is being taken (R340, R395). -/
def State.ctxRuns (s : State) (g : Group) : Bool :=
  g.shep || (match s.ctx? g.ctx with | some c => c.st = .live && !c.ck | none => false)
/-- Whether a fetch set's lanes are READY, and none is held by an acquire or by the collection of its results (R42, R334). -/
def State.eligible (s : State) (g : Group) (f : FSet) : Bool :=
  f.lanes ≠ 0 && s.ctxRuns g && s.threads.all fun t => !(t.inMask g.gid f.lanes) || (t.st = .ready && !t.hold && !t.coll)
/-- The deadline class of a group's kernel. -/
def State.classOf (s : State) (g : Group) : Nat := match s.kernel? g.ctx g.kid with | some k => k.r.dclass | none => 3
/-- A system pen: a system context's, on the last core of its pasture (R241). -/
def State.systemPen (s : State) (core p : Nat) : Bool := core % 512 = 511 && (s.pen core p).sys
/-- Whether a pen holds a D0 herd. -/
def State.holdsD0 (s : State) (core p : Nat) : Bool := (s.penFlocks core p).any fun f =>
  match s.kernel? f.ctx f.kid with | some k => k.r.dclass = 0 | none => false

/-! ## Swapping (R344 to R346) -/

def State.herdFlocksOf (s : State) (ctx kid herd : Nat) : List Flock := s.flocks.filter fun f => f.ctx = ctx && f.kid = kid && f.herd = herd
def State.herdGroups (s : State) (ctx kid herd : Nat) : List Group :=
  s.groups.filter fun g => g.ctx = ctx && g.kid = kid && g.herd = herd && !g.shep
def Flock.pens (f : Flock) : List (Nat × Nat) := if f.both then [(f.pcore, 0), (f.pcore, 1)] else [(f.pcore, f.pen)]
/-- The save slots that a context has free: each core of a herd that is out, leaving or coming back holds one (R338).
[DEDUCED: log entry 44] -/
def State.freeSlots (s : State) (ctx : Nat) : Nat :=
  let used := ((s.herds.filter fun h => h.ctx = ctx && (h.due || h.st = .saving || h.st = .saved || h.st = .loading)).map fun h => h.cores.length).sum
  (match s.ctx? ctx with | some c => c.savn | none => 0) - used
/-- Whether every live thread of a herd is in a hardware wait (R332); a parked `sys` caller counts. [DEDUCED: log entry 44] -/
def State.allWaiting (s : State) (h : Herd) : Bool :=
  let gids := (s.herdGroups h.ctx h.kid h.herd).map Group.gid
  let live := s.threads.filter fun t => gids.contains t.gid && t.st ≠ .exited
  live ≠ [] && !(s.recorded.any fun e => gids.contains e.gid) && live.all fun t => t.st = .blocked || t.st = .conv || (t.st = .parked && t.trr.cause = 5)
/-- Class and priority of a kernel, best first (R330). -/
def State.rankOf (s : State) (ctx kid : Nat) : List Nat :=
  match s.kernel? ctx kid with | some k => [k.r.dclass, 7 - k.r.prio] | none => [3, 7]
/-- Whether a pen of one of some cores is SAVING. -/
def State.coresSaving (s : State) (cores : List Nat) : Bool := cores.any fun c => (s.pen c 0).st = .saving || (s.pen c 1).st = .saving
/-- SWAP-OUT COMMITTED: a resident herd's pens become SAVING in one step, and no thread in them issues; a LOADING herd's load stops and
its saved image stands (R341, R344). A core commits its second pen only after its first is EMPTY: a herd on it is due till then (R345).
[DEDUCED: log entry 44] -/
def State.commitSwap (s : State) (h : Herd) (after : Option (Nat × Nat × Nat)) : State :=
  let fs := s.herdFlocksOf h.ctx h.kid h.herd
  let pens := fs.flatMap Flock.pens
  match h.st with
  | .loading => (s.updHerd h.ctx h.kid h.herd fun h => { h with st := .saved, runnable := true, since := s.ptime }).settlePens pens
  | .resident =>
    if s.coresSaving h.cores then s.updHerd h.ctx h.kid h.herd fun h => { h with due := true, after := after }
    else
      let yields := h.expired && !s.allWaiting h && (match after with | some x => s.rankOf x.1 x.2.1 = s.rankOf h.ctx h.kid | none => false)
      let s := s.updHerd h.ctx h.kid h.herd fun h =>
        { h with st := .saving, runnable := false, expired := yields, after := after, due := false }
      let s := pens.foldl (fun s x => s.setPen x.1 x.2 fun p => { p with st := .saving }) s
      (pens.map Prod.fst).dedup.foldl State.promotePen s
  | _ => s
/-- Herds that are due leave, one after the other, as soon as no pen of their cores is SAVING any more (R345). -/
def State.commitDue (s : State) : State :=
  (s.herds.filter Herd.due).foldl (fun s h => match s.herd? h.ctx h.kid h.herd with
    | some x => if x.due && x.st = .resident then s.commitSwap x x.after else s
    | none => s) s
/-- Entries of a core's shepherd queue that name threads of a herd leave it; they are kept until the herd resumes (R346). -/
def State.withdrawEntries (s : State) (h : Herd) : State :=
  let gs := s.herdGroups h.ctx h.kid h.herd
  let find := fun (core : Nat) (e : ShepEntry) =>
    (gs.find? fun g => g.pcore = core && g.pen = (e.tgt.extractLsb' 13 1).toNat && g.hslot = (e.tgt.extractLsb' 5 8).toNat).map fun g =>
      (g.gid, (e.tgt.extractLsb' 0 5).toNat, e)
  let cores := (gs.map Group.pcore).dedup
  let out := s.cores.flatMap fun c => if cores.contains c.id then c.entries.filterMap (find c.id) else []
  let clr := fun (c : Core) => if cores.contains c.id then { c with entries := c.entries.filter fun e => (find c.id e).isNone } else c
  { s with cores := s.cores.map clr }.updHerd h.ctx h.kid h.herd fun h => { h with owed := h.owed ++ out }
/-- Fault entries of a herd's parked sub-groups are withdrawn from the queues and kept (R239). -/
def State.withdrawFaults (s : State) (h : Herd) : State :=
  let gids := (s.herdGroups h.ctx h.kid h.herd).map Group.gid
  let mine : FaultEnt → Bool := fun e => match e.sub with
    | some i => s.subs.any fun b => b.id = i && gids.contains b.gid
    | none => false
  let out := s.fq.toList.flatMap fun q => q.entries.filter mine
  { s with fq := s.fq.map fun (q : FaultQueue) => { q with entries := q.entries.filter fun e => !mine e } }.updHerd h.ctx h.kid h.herd
    fun h => { h with faults := h.faults ++ out }
/-- The generations of a context's handle table (R344). -/
def State.genSnapshot (s : State) (ctx : Nat) : List (Nat × W32) :=
  (List.range 4096).filterMap fun i =>
    match s.tableEntry ctx i with
    | some e => if heGen e = 0 then none else some (i, heGen e)
    | none => none
/-- The handle table is read for a snapshot: `pte.a` of its pages (R232). -/
def State.touchTable (s : State) (ctx : Nat) : State :=
  match s.ctx? ctx with | some c => s.touchRead ctx c.htab 131072 | none => s
/-- A handle register as it is saved: stale when its copy's generation is not the table's. [DESIGN CHOICE: log entry 70] -/
def State.savedH (s : State) (ctx : Nat) (h : HReg) : HReg :=
  if h.loaded then
    { h with stale := h.stale || (match s.tableEntry ctx h.idx.toNat with | some e => decide (heGen e ≠ heGen h.ent) | none => heGen h.ent ≠ 0) }
  else h
/-- A generation that no entry of a context's handle table holds: the highest one. [DESIGN CHOICE: log entry 70] -/
def State.deadGen (s : State) (ctx : Nat) : W32 :=
  let held := (s.genSnapshot ctx).map Prod.snd
  (((List.range 4097).map fun i => BitVec.ofNat 32 (2 ^ 32 - 1 - i)).find? fun v => !held.contains v).getD 0
/-- A handle register as a resumption reads it: the table's entry with the snapshot's generation, or, stale, with one that no entry
holds (R344). [DEDUCED: log entry 69; DESIGN CHOICE: log entry 70] -/
def State.resumedH (s : State) (ctx : Nat) (gens : List (Nat × W32)) (h : HReg) : HReg :=
  if h.loaded then
    { h with ent := heWithGen ((s.tableEntry ctx h.idx.toNat).getD 0) (if h.stale then s.deadGen ctx else (gens.lookup h.idx.toNat).getD 0),
             stale := false }
  else h
/-- Whether a request must be over before its thread is saved: every load, atomic and `mwait` compare; a store that writes through stays
in flight (R204), as does an engine's access, whose operation goes on from what has been answered (R276). -/
def Req.holdsSave (r : Req) : Bool :=
  match r.kind with
  | .rmw _ _ _ => true
  | .write _ => false
  | _ => r.eng.isNone
/-- Whether a save may end: results collected, requests answered, no `mma` computing, no chain open (R42, R204, R299, R344). -/
def State.saveReady (s : State) (h : Herd) : Bool :=
  let gids := (s.herdGroups h.ctx h.kid h.herd).map Group.gid
  (s.threads.all fun t => !(gids.contains t.gid && t.outst ≠ [])) &&
  (s.reqs.all fun r => !(gids.contains r.gid && r.holdsSave)) &&
  (s.ops.all fun o => !(o.ofHerd h.ctx h.kid h.herd && o.st = .computing)) &&
  (match s.issue with | some i => !gids.contains i.gid | none => true)
/-- Windows of a herd that goes out are SUSPENDED, without the updates they had still to apply (R190). -/
def suspendWin (w : Window) : Window := if w.st = .active then { w with st := .suspended, updates := [] } else w
/-- A SUSPENDED window takes a fresh snapshot on resumption, or is DETACHED when its page was unmapped. -/
def resumeWin (w : Window) : Window :=
  if w.st = .suspended then { w with st := if w.detachOnResume then .detached else .loading, detachOnResume := false } else w
/-- Ends the `swp` waits whose herds are all out of their pens (R362). -/
def State.wakeSwps (s : State) : State :=
  s.threads.foldl (fun s t =>
    match t.wait with
    | some (.swp d l) =>
      if l.all fun x => (match s.herd? x.1 x.2.1 x.2.2 with | some h => !h.st.inPens | none => true) then s.wake t.gid [(t.lane, [.g d 0])] else s
    | _ => s) s
/-- A stopping context with no herd left in pens is STOPPED (R340). -/
def State.settleStop (s : State) (ctx : Nat) : State :=
  match s.ctx? ctx with
  | some c =>
    if c.st = .stopping && s.herds.all fun h => !(h.ctx = ctx && h.st.inPens) then s.updCtx ctx fun c => { c with st := .stopped } else s
  | none => s
/-- SAVE DONE (R344): the engine operations stop, owned words go home, the image is written and the pens are EMPTY.
[DESIGN CHOICE: log entry 70] -/
def State.saveDone (s : State) (ctx kid herd : Nat) : State :=
  match s.herd? ctx kid herd with
  | none => s
  | some h =>
    if h.st ≠ .saving ∨ !s.saveReady h then s else
    let fs := s.herdFlocksOf ctx kid herd
    let gids := (s.herdGroups ctx kid herd).map Group.gid
    let s := s.suspendOps ctx kid herd
    let s := fs.foldl (fun s f => s.flushCore f.pcore ctx true) s
    let s := (s.withdrawEntries h).withdrawFaults h
    let save := fun (t : Thread) =>
      if gids.contains t.gid then { t.collect with regs := { t.regs with h := t.regs.h.map (s.savedH ctx) } } else t
    let ready := s.threads.any fun t => gids.contains t.gid && (t.st = .ready || t.st = .switch)
    let s := { s with
      threads := s.threads.map save,
      flocks := s.flocks.map fun (f : Flock) => if f.ctx = ctx && f.kid = kid && f.herd = herd then { f with wins := f.wins.map suspendWin } else f }
    let s := s.touchTable ctx
    let s := s.updHerd ctx kid herd fun h => { h with st := .saved, runnable := h.runnable || ready, gens := s.genSnapshot ctx, since := s.ptime }
    (((s.settlePens (fs.flatMap Flock.pens)).commitDue).wakeSwps).settleStop ctx

/-! ## Room and placement (R312, R314) -/

/-- What a flock of a kernel needs: registers, scratchpad, B-store, group slots. -/
def LRec.need (r : LRec) : List Nat := [128 * r.regs * r.groups, r.scr, r.bst, r.groups]
/-- What a pen holds. -/
def penRoom : List Nat := [3 * 2 ^ 19, 2 ^ 18, 2 ^ 18, 256]
def LRec.both (r : LRec) : Bool := decide (2 ^ 18 < r.scr) || decide (2 ^ 18 < r.bst)
/-- Whether herds that are to leave count as gone from a pen. -/
def gone (l : List (Nat × Nat × Nat)) (f : Flock) : Bool := l.contains (f.ctx, f.kid, f.herd)
/-- Whether a pen is free, once some herds have left. -/
def State.penFree (s : State) (core p : Nat) (l : List (Nat × Nat × Nat)) : Bool :=
  match (s.pen core p).st with
  | .empty => true
  | .active | .shadow => s.penFlocks core p ≠ [] && (s.penFlocks core p).all (gone l)
  | _ => false
/-- The needs of a pen's flocks, summed. -/
def State.penUse (s : State) (core p : Nat) (l : List (Nat × Nat × Nat)) : List Nat :=
  ((s.penFlocks core p).filter fun f => !gone l f).foldl (fun u f =>
    match s.kernel? f.ctx f.kid with | some k => u.zipWith (· + ·) k.r.need | none => u) [0, 0, 0, 0]
/-- The pen of a core on which a flock of a kernel goes: the one its context holds there, or a free one (R314); a saved herd loads only
into EMPTY pens (R341). -/
def State.penFor (s : State) (k : Kernel) (load : Bool) (core : Nat) (l : List (Nat × Nat × Nat)) : Option Nat :=
  if k.r.both then (if s.penFree core 0 l && s.penFree core 1 l then some 0 else none)
  else
    let held : Nat → Bool := fun p =>
      let x := s.pen core p
      (x.st = .active || x.st = .shadow) && x.ctx = k.ctx && !s.penFree core p l && !((s.penFlocks core p).any Flock.both) &&
      (((s.penUse core p l).zipWith (· + ·) k.r.need).zip penRoom).all fun y => decide (y.1 ≤ y.2)
    (if load then none else [0, 1].find? held).orElse fun _ => [0, 1].find? fun p => s.penFree core p l
/-- The live kernel that has reserved a core (R328). -/
def State.reserver (s : State) (core : Nat) : Option Kernel :=
  s.kernels.find? fun k => k.st ≠ .done && k.st ≠ .faulted && k.cores.contains core
/-- Whether what a herd brings with it has room on a block, once some herds have left: its QUEUED operations in the queues of its cores
(R274), its holding slots in its fold's buffer (R281, R288). [DEDUCED: log entry 36] -/
def State.cargoFits (s : State) (k : Kernel) (idx : Nat) (block : List Nat) (l : List (Nat × Nat × Nat)) : Bool :=
  let fold := block.headD 0 / 8
  let own : HoldSlot → Bool := fun h => h.ctx = k.ctx && h.kid = k.kid && h.herd = idx
  let here : HoldSlot → Bool := fun h => h.fold = fold && !own h && !l.contains (h.ctx, h.kid, h.herd) &&
    (match s.herd? h.ctx h.kid h.herd with | some x => x.st.inPens | none => true)
  let mine : Nat → Op → Bool := fun flk o => o.ofHerd k.ctx k.kid idx && o.st = .suspended && o.left = .queued && (s.group o.gid).flk = flk
  let leaving : Nat → Op → Bool := fun core o => o.core = core && o.st = .queued && l.contains (o.ctx, o.kid, o.herd)
  decide ((s.holds.filter own).length + (s.holds.filter here).length ≤ 16) &&
  block.zipIdx.all fun x => decide (s.queuedOn x.1 + (s.ops.filter (mine x.2)).length ≤ 256 + (s.ops.filter (leaving x.1)).length)
/-- Whether a herd may go on a block: the pens, one for each core. -/
def State.fitOn (s : State) (k : Kernel) (idx : Nat) (load : Bool) (block : List Nat) (l : List (Nat × Nat × Nat)) : Option (List Nat) :=
  let free := block.all fun c => !(s.core c).gated &&
    (match s.reserver c with | some q => q.ctx = k.ctx && q.kid = k.kid | none => true)
  let near := k.r.units.all fun u => s.herds.all fun h =>
    !(h.ctx = k.ctx && h.kid = k.kid && h.herd ≠ idx && decide (h.herd < k.h) && decide (idx < k.h) && h.herd / u.1 = idx / u.1 && h.st.inPens &&
      h.cores.headD 0 / u.2 ≠ block.headD 0 / u.2)
  let pens := block.map fun c => s.penFor k load c l
  if free && near && (!load || s.cargoFits k idx block l) && pens.all Option.isSome then some (pens.filterMap id) else none
/-- The aligned blocks of a pasture, folds in rotation from the one after the last used (R314, R330). A system context's herd of
one flock tries the pager's core first. [DEDUCED: log entry 46] -/
def State.blocksOf (s : State) (k : Kernel) (pasture : Nat) : List (List Nat) :=
  let sys := match s.ctx? k.ctx with | some c => c.sys | none => false
  let start := (s.rot[pasture]?).getD 0
  (if sys && k.r.herd = 1 then [[512 * pasture + 511]] else []) ++
  (List.range 64).flatMap fun j => (List.range (8 / k.r.herd)).map fun b =>
    (List.range k.r.herd).map fun i => 512 * pasture + 8 * ((start + j) % 64) + k.r.herd * b + i
/-- Where a herd fits in a pasture. -/
def State.fitIn (s : State) (k : Kernel) (idx : Nat) (load : Bool) (pasture : Nat) : Option (List Nat × List Nat) :=
  (s.blocksOf k pasture).findSome? fun b => (s.fitOn k idx load b []).map fun p => (b, p)

/-! ## Threads and herds come to be (R313, R320) -/

/-- The handle registers that a preload table fills, as `hsel` fills them (R313). -/
def State.preloads (s : State) (k : Kernel) : List Wr :=
  k.pre.zipIdx.filterMap fun x =>
    if x.1.getLsbD 15 then
      some (Wr.h (BitVec.ofNat 5 x.2) ⟨true, x.1.extractLsb' 0 12, (s.tableEntry k.ctx (x.1.extractLsb' 0 12).toNat).getD 0, false⟩)
    else none
/-- A new group of a flock with threads in every lane; those outside a mask are EXITED. -/
def State.newGroup (s : State) (k : Kernel) (f : Flock) (grp hslot : Nat) (lvl : List W32) (entry : W32) (m : Mask) (regs : Nat → List Wr) :
    State :=
  let gid := s.nextId
  let sys := match s.ctx? k.ctx with | some c => c.sys | none => false
  let g : Group :=
    { gid, ctx := k.ctx, kid := k.kid, herd := f.herd, flk := f.flk, grp, fid := f.fid, pcore := f.pcore, pen := f.pen, hslot,
      regsN := k.r.regs, code := k.code, sys, shep := false, step := false, lvl, fsets := [], copyN := 0, tileN := 0, gatherN := 0,
      collN := 0, tiles := [], cur := none }
  let th := fun (lane : Nat) =>
    let t := (Thread.fresh gid lane entry).put (regs lane)
    { t with old := t.regs, st := if hasLane m lane then .ready else .exited }
  { s with nextId := gid + 1, groups := s.groups ++ [g.addSet m s.clock], threads := s.threads ++ (List.range 32).map th }
/-- The group slots of a pen that no group has. -/
def State.freeGroupSlots (s : State) (core p : Nat) : List Nat :=
  let used := (s.penGroups core p).map Group.hslot
  (List.range 256).filter fun i => !used.contains i
/-- A flock of a herd on its core, with its G groups unless it starts empty (R313, R314). -/
def State.newFlock (s : State) (k : Kernel) (idx flk core p : Nat) (cont : Bool) : State :=
  let fid := s.nextId
  let f : Flock :=
    { fid, ctx := k.ctx, kid := k.kid, herd := idx, flk, pcore := core, pen := p, both := k.r.both, scr := [], scrLen := k.r.scr,
      bst := [], bstLen := k.r.bst, slots := [], seams := Vector.replicate 16 Seam.reset, gates := Vector.replicate 8 Gate.idle, tags := [],
      chans := Vector.replicate 4 Chan.reset, wins := Vector.replicate 8 Window.reset, waiters := [] }
  let slots := s.freeGroupSlots core p
  let s := { s with nextId := fid + 1, flocks := s.flocks ++ [f] }
  if cont then s
  else
    let init := wrs32 0 k.r.arg ++ s.preloads k
    (List.range k.r.groups).foldl (fun s g =>
      let l := ((idx * k.r.herd + flk) * k.r.groups + g) * 32
      s.newGroup k f g ((slots[g]?).getD 0) (k.r.lvlOf l) k.r.entry (BitVec.allOnes 32) (fun _ => init)) s
/-- The state of a pen that a context enters. -/
def State.enterPen (s : State) (k : Kernel) (core p : Nat) (st : PenSt) : State :=
  let sys := match s.ctx? k.ctx with | some c => c.sys | none => false
  let ps := if k.r.both then [0, 1] else [p]
  ps.foldl (fun s q => if (s.pen core q).st = .empty then s.setPen core q fun _ => ⟨st, k.ctx, sys⟩ else s) s
/-- The pens of a block enter a state: ACTIVE, or SHADOW beside an ACTIVE pen (R341). -/
def State.enterActive (s : State) (k : Kernel) (core p : Nat) : State :=
  let st : PenSt := if !k.r.both && (s.pen core (1 - p)).st = .active then .shadow else .active
  s.enterPen k core p st
/-- A HERD IS PLACED: on all its cores in one step (R314). Its creation is an acquire of each core (R215). -/
def State.placeHerd (s : State) (k : Kernel) (idx : Nat) (cont : Bool) (block pens : List Nat) : State :=
  let h : Herd :=
    { ctx := k.ctx, kid := k.kid, herd := idx, st := .resident, cores := block, cont, runnable := false, gens := [], since := s.ptime,
      expired := false, issues := 0, budgetEv := false, after := none, due := false, faults := [], owed := [] }
  let s := { s with herds := (s.herds.filter fun x => !x.is k.ctx k.kid idx) ++ [h] }
  (block.zip pens).zipIdx.foldl (fun s x => ((s.newFlock k idx x.2 x.1.1 x.1.2 cont).enterActive k x.1.1 x.1.2).acquireCore x.1.1) s
/-- SWAP-IN STARTED: a saved herd's flocks take their pens, which are LOADING (R341, R346). -/
def State.startLoad (s : State) (k : Kernel) (idx : Nat) (block pens : List Nat) : State :=
  let s := (block.zip pens).zipIdx.foldl (fun s x =>
    let core := x.1.1
    let p := x.1.2
    let slots := s.freeGroupSlots core p
    let mine : Group → Bool := fun g => g.ctx = k.ctx && g.kid = k.kid && g.herd = idx && g.flk = x.2 && !g.shep
    let gids := (s.groups.filter mine).map Group.gid
    let go := fun (g : Group) => if mine g then { g with pcore := core, pen := p, hslot := (slots[gids.idxOf g.gid]?).getD 0 } else g
    let fl := fun (f : Flock) => if f.ctx = k.ctx && f.kid = k.kid && f.herd = idx && f.flk = x.2 then { f with pcore := core, pen := p } else f
    { s with groups := s.groups.map go, flocks := s.flocks.map fl }.enterPen k core p .loading) s
  let clr := fun (h : Herd) => if h.after = some (k.ctx, k.kid, idx) then { h with after := none, expired := false } else h
  let fold := (block.headD 0) / 8
  let mv := fun (h : HoldSlot) => if h.ctx = k.ctx && h.kid = k.kid && h.herd = idx then { h with fold := fold } else h
  { s with herds := s.herds.map clr, holds := s.holds.map mv }.updHerd k.ctx k.kid idx fun h =>
    { h with st := .loading, cores := block, after := none, expired := false }
/-- The parked sub-groups of a herd that is back take entries of their new core's replay queue, in the order they had, and are posted
as they enter it; one whose entry a handler had taken already is not posted again (R150, R239, R346). -/
def State.reAdmit (s : State) (gids : List Nat) (h : Herd) : State :=
  let back := s.subs.filter fun b => gids.contains b.gid && !b.collecting
  let kept := fun (b : SubGroup) =>
    (h.faults.any fun e => e.sub = some b.id) || h.owed.any fun x => x.2.2.kind = 1 && x.1 = b.gid && hasLane b.lanes x.2.1
  let out := fun (b : SubGroup) =>
    if back.any fun x => x.id = b.id then { b with idx := none, taken := b.taken || (b.idx.isSome && !kept b) } else b
  -- those that find no entry wait behind the sub-groups that joined this core's list before them (R150)
  let s := { s with subs := s.subs.filter (fun b => !back.any fun x => x.id = b.id) ++ back.map out }
  back.foldl (fun s b => if (s.freeEntry (s.group b.gid)).isSome then s.admitSub b.id else s) s
/-- LOAD DONE (R341, R344, R346): the pens are SHADOW or ACTIVE; threads keep their states, handle registers take their entries
afresh, what was recorded meanwhile is posted again, and operations register their grains again (R276). A core that a herd comes to
holds no old copies for it (R224). [DESIGN CHOICE: log entry 70] -/
def State.loadDone (s : State) (ctx kid herd : Nat) : State :=
  match s.herd? ctx kid herd, s.kernel? ctx kid with
  | some h, some k =>
    if h.st ≠ .loading then s else
    let fs := s.herdFlocksOf ctx kid herd
    let gs := s.herdGroups ctx kid herd
    let gids := gs.map Group.gid
    let s := s.touchTable ctx
    let inSub : Thread → Bool := fun t => s.subs.any fun b => t.inMask b.gid b.lanes
    let go := fun (t : Thread) =>
      if gids.contains t.gid then
        { t with regs := { t.regs with h := t.regs.h.map (s.resumedH ctx h.gens) }, trr := if inSub t then t.trr else TrapRec.reset }
      else t
    let s := { s with
      threads := s.threads.map go,
      flocks := s.flocks.map fun (f : Flock) => if f.ctx = ctx && f.kid = kid && f.herd = herd then { f with wins := f.wins.map resumeWin } else f }
    let s := s.updHerd ctx kid herd fun h =>
      { h with st := .resident, since := s.ptime, runnable := false, expired := false, gens := [], faults := [], owed := [] }
    -- pens
    let s := fs.foldl (fun s f =>
      let st : PenSt := if !k.r.both && (s.pen f.pcore (1 - f.pen)).st = .active then .shadow else .active
      f.pens.foldl (fun s x => if (s.pen x.1 x.2).st = .loading then s.setPen x.1 x.2 fun p => { p with st := st } else s) s) s
    let s := fs.foldl (fun s f => s.acquireCore f.pcore) (s.resumeOps ctx kid herd)
    let s := (s.ops.filter fun o => o.ofHerd ctx kid herd && o.st = .running).foldl State.registerAhead s
    let s := s.reAdmit gids h
    (h.owed.filter fun x => x.2.2.kind ≠ 1).foldl (fun s x =>
      let g := s.group x.1
      s.pushShep g.pcore { x.2.2 with tgt := tgtOf g x.2.1 }) s
  | _, _ => s

/-! ## The end of herds, kernels and contexts (R315, R318, R360, R362) -/

/-- The budget event of a D0 herd whose issue cycles exceed `lr.budget`, posted once (R336). -/
def State.budgetOver (s : State) (ctx kid herd : Nat) : State :=
  match s.herd? ctx kid herd, s.kernel? ctx kid with
  | some h, some k =>
    if k.r.dclass = 0 && !h.budgetEv && decide (k.r.budget < h.issues) then
      (s.updHerd ctx kid herd fun h => { h with budgetEv := true }).post 9 0xFFFF ctx
        [BitVec.ofNat 64 kid, BitVec.ofNat 64 herd, BitVec.ofNat 64 h.issues]
    else s
  | _, _ => s
/-- The flocks of a herd are freed together, with everything that its groups and flocks held (R315); a `swp` that waited for its pens
goes on (R362). -/
def State.freeHerd (s : State) (ctx kid herd : Nat) : State :=
  let s := s.budgetOver ctx kid herd
  let fs := s.herdFlocksOf ctx kid herd
  let gids := (s.herdGroups ctx kid herd).map Group.gid
  let fids := fs.map Flock.fid
  let pens := match s.herd? ctx kid herd with | some h => if h.st.inPens then fs.flatMap Flock.pens else [] | none => []
  let subIds := (s.subs.filter fun b => gids.contains b.gid).map SubGroup.id
  let keep := fun (e : FaultEnt) => match e.sub with | some i => !subIds.contains i | none => true
  let s := { s with
    flocks := s.flocks.filter fun f => !fids.contains f.fid, groups := s.groups.filter fun g => !gids.contains g.gid,
    insts := s.insts.filter fun i => !gids.contains i.gid, subs := s.subs.filter fun b => !gids.contains b.gid,
    mons := s.mons.filter fun m => !(gids.contains m.gid || (match m.fid with | some f => fids.contains f | none => false)),
    fq := s.fq.map fun (q : FaultQueue) => { q with entries := q.entries.filter keep },
    herds := s.herds.map fun (h : Herd) => if h.is ctx kid herd then { h with st := .retired, due := false, faults := [], owed := [] } else h }
  ((s.settlePens pens).commitDue).wakeSwps
/-- A kernel's place among those waiting (R326). -/
def KSt.waits : KSt → Bool
  | .submitted | .admitted | .placing => true
  | _ => false
def State.kernelCount (s : State) (ctx : Nat) : Nat := (s.kernels.filter fun k => k.ctx = ctx && k.st.waits).length
/-- The overrun event of a D0 or D1 kernel that is not DONE at `lr.dl`, posted once (R336). -/
def State.overrun (s : State) (k : Kernel) : State :=
  if k.r.dclass ≤ 1 && k.r.dl ≠ 0 && k.st ≠ .submitted && k.st ≠ .done && k.st ≠ .faulted && !k.overrun &&
      decide (k.r.dl.toNat ≤ s.ptime.toNat) then
    let s := s.updKernel k.ctx k.kid fun k => { k with overrun := true }
    let d := [BitVec.ofNat 64 k.kid, k.r.dl, k.opWait]
    -- the trigger source 68 is the overrun of a D0 kernel (R400)
    if k.r.dclass = 0 then s.post 8 0xFFFF k.ctx d else s.queueEvent ⟨8, 0xFFFF, k.ctx, s.ptime, d⟩
  else s
/-- A kernel enters DONE or FAULTED: its reservations are freed, and its completion word is written with an outcome (R316,
R318, R328). -/
def State.kernelOver (s : State) (ctx kid : Nat) (st : KSt) (outcome : Option Nat) : State :=
  match s.kernel? ctx kid with
  | none => s
  | some k =>
    let s := (s.overrun k).updKernel ctx kid fun k => { k with st := st, ring := [], flush := [], cores := [], waiters := [] }
    let s := { s with herds := s.herds.filter fun h => !(h.ctx = ctx && h.kid = kid) }
    match outcome with
    | some o => s.complete ctx kid k.r.cpl (BitVec.ofNat 64 (o + kid * 2 ^ 32))
    | none => s
/-- A herd whose threads have all exited, with no access of theirs under way (R316), and whose engine operations are done retires; with its last herd a DRAINING kernel is
DONE (R315, R318). -/
def State.retire (s : State) (ctx kid herd : Nat) : State :=
  match s.herd? ctx kid herd with
  | none => s
  | some h =>
    let gids := (s.herdGroups ctx kid herd).map Group.gid
    let open_ := match s.issue with | some i => gids.contains i.gid | none => false
    if (h.st ≠ .resident && h.st ≠ .saved) || open_ || (s.threads.any fun t => gids.contains t.gid && t.st ≠ .exited) ||
        (s.ops.any fun o => o.ofHerd ctx kid herd && o.st ≠ .done) || (s.reqs.any fun r => gids.contains r.gid) ||
        ((s.herdFlocksOf ctx kid herd).any fun f => f.chans.any fun c => c.st = .walking) || (h.cont && gids = [] && (match s.kernel? ctx kid with | some k => k.ring ≠ [] | none => false)) then s
    else
      let s := s.freeHerd ctx kid herd
      let s := { s with threads := s.threads.filter fun t => !gids.contains t.gid }
      match s.kernel? ctx kid with
      | some k =>
        let live := s.herds.any fun x => x.ctx = ctx && x.kid = kid && x.st ≠ .retired
        if k.st = .draining && !live && k.ring = [] && k.waiters = [] then s.kernelOver ctx kid .done (some 1) else s
      | none => s
/-- Ends the herds of a kernel at once: operations aborted, threads EXITED with cause 0x3F, what they held discarded (R360,
R362). [DEDUCED: log entry 52] -/
def State.endKernelHerds (s : State) (ctx kid : Nat) : State :=
  let s := s.abortOps fun o => o.ctx = ctx && o.kid = kid
  let gs := s.groups.filter fun g => g.ctx = ctx && g.kid = kid && !g.shep
  let gids := gs.map Group.gid
  let s := (s.threads.filter fun t => gids.contains t.gid).foldl (fun s t => s.withdraw t.gid t.lane) s
  let dead := fun (t : Thread) =>
    if gids.contains t.gid && t.st ≠ .exited then
      { t with st := .exited, trr := { t.trr with cause := 0x3F }, outst := [], pend := [], hold := false, podErr := [], tileErr := [] }
    else t
  let hit : Core → ShepEntry → Bool := fun c e => e.kind ≠ 4 &&
    gs.any fun g => g.pcore = c.id && g.pen = (e.tgt.extractLsb' 13 1).toNat && g.hslot = (e.tgt.extractLsb' 5 8).toNat
  let s := { s with
    threads := s.threads.map dead,
    cores := s.cores.map fun (c : Core) => { c with entries := c.entries.filter fun e => !hit c e },
    holds := s.holds.filter fun h => !(h.ctx = ctx && h.kid = kid),
    calls := s.calls.map fun (c : Call) => if c.ctx = ctx && gids.contains c.gid then { c with st := .done } else c,
    issue := match s.issue with | some i => if gids.contains i.gid then none else some i | none => none }
  let s := gs.foldl (fun s g => s.flushCore g.pcore ctx true) s
  (s.herds.filter fun h => h.ctx = ctx && h.kid = kid && h.st ≠ .retired).foldl (fun s h => s.freeHerd ctx kid h.herd) s
/-- Handles revoked as `hrev` revokes them, and every queue disabled: step 1 of a kill (R360). -/
def State.revokeAll (s : State) (c : Context) : State :=
  let s := (List.range 4096).foldl (fun (s : State) i =>
    match s.tableEntry c.id i with
    | some e => if heValid e then (s.putEntry c.id i (heWithGen (e &&& ~~~(1#256 <<< 131)) (heGen e + 1))).getD s else s
    | none => s) s
  (List.range 64).foldl (fun (s : State) q =>
    let s := s.touchRead c.id (c.qtab + 64 * q + 8) 1
    match s.vaRead c.id (c.qtab + 64 * q + 8) 1 with
    | some [b] => if b.getLsbD 5 then (s.vaWrite c.id (c.qtab + 64 * q + 8) [b &&& 0xDF]).getD s else s
    | _ => s) s
/-- The `ckpt`s that wait on a context end when it is killed: in a re-execution with 7, since every thread of the group is then EXITED; the
one of a checkpoint that is abandoned as for a context that is DYING, with 1 (R360, R395, R403). [DEDUCED: log entry 42] -/
def State.endCkpts (s : State) (ctx : Nat) : State :=
  s.threads.foldl (fun s t =>
    match t.wait with
    | some (.ckpt d c) =>
      if c ≠ ctx then s
      else s.wake t.gid [(t.lane, [.g d (if s.replays.any fun r => r.ctx = ctx && r.gid = t.gid && r.lane = t.lane then 7 else 1)])]
    | _ => s) s
/-- A KILL BEGINS (R360): steps 1 and 2; the rest ends with the kill-complete event. [DEDUCED: log entry 52] -/
def State.killCtx (s : State) (c : Context) (reason : Byte) : State :=
  let s := (s.updCtx c.id fun c => { c with st := .dying, reason := reason }).revokeAll c
  let ks := s.kernels.filter fun k => k.ctx = c.id && k.st ≠ .done && k.st ≠ .faulted
  let s := ks.foldl (fun s k => (s.endKernelHerds c.id k.kid).kernelOver c.id k.kid .faulted none) s
  let s := s.endCkpts c.id
  { s with
    bounce := s.bounce.filter fun b => b.ctx ≠ c.id, cpls := s.cpls.filter fun x => x.1 ≠ c.id,
    fq := s.fq.map fun (q : FaultQueue) => { q with entries := q.entries.filter fun e => e.ctx ≠ c.id },
    cores := s.cores.map fun (k : Core) => { k with entries := k.entries.filter fun e => e.ctx ≠ c.id || e.kind = 4 },
    mirrors := s.mirrors.filter fun m => m.ctx ≠ c.id,
    frames := s.frames.map fun (f : Frame) => { f with fna := f.fna.filter fun x => x ≠ c.id },
    ckpts := s.ckpts.filter fun k => k.ctx ≠ c.id,
    replays := s.replays.filter fun r => r.ctx ≠ c.id,
    qeff := s.qeff.filter fun x => x.1 ≠ c.id,
    calls := s.calls.map fun (k : Call) => if k.ctx = c.id then { k with st := .done } else k }

/-! ## Admission (R327, R328) -/

/-- The scheduler control's values as decisions use them (R329). -/
def Sched.quantumUs (c : Sched) : Nat := min 1000000 (max 100 c.quantum.toNat)
def Sched.cores (c : Sched) : Nat := min 2048 c.d0cores.toNat
def Sched.slices (c : Sched) : Nat := min 12 c.d0bw.toNat
/-- `pw.lim` as it acts (R407). -/
def Power.cap (p : Power) : Nat := min 2800 (max 100 p.lim.toNat)
/-- The power share reservable for D0: at most the power limit (R30, R329, R407). -/
def State.watts (s : State) : Nat := min s.pw.cap s.sched.d0pw.toNat
def State.d0Kernels (s : State) : List Kernel := s.kernels.filter fun k => k.cores ≠ [] && k.st ≠ .done && k.st ≠ .faulted
/-- Cores and slices reserved now: `sc.d0used`, `sc.bwused` (R329). -/
def State.d0Used (s : State) : Nat := (s.d0Kernels.map fun k => k.cores.length).sum
def State.bwUsed (s : State) : Nat := (s.d0Kernels.map fun k => k.r.bw).sum
/-- The herds that stand on a set of cores and would have to leave. -/
def State.standing (s : State) (cores : List Nat) : List Herd :=
  s.herds.filter fun h => (h.st = .resident || h.st = .loading) && h.cores.any fun c => cores.contains c
/-- Whether every context has a free save slot for each of its resident herds among some; one that is due has its slot already.
[DEDUCED: log entry 44] -/
def State.slotsFor (s : State) (l : List Herd) : Bool :=
  l.all fun h => decide (((l.filter fun x => x.ctx = h.ctx && x.st = .resident && !x.due).map fun x => x.cores.length).sum ≤ s.freeSlots h.ctx)
/-- Whether a block lies in the fold, or pasture, of the other herds of its FOLD or PASTURE units: `acc` are the cores of the herds
before it (R312). -/
def LRec.unitsMeet (r : LRec) (acc b : List Nat) : Bool :=
  let idx := acc.length / r.herd
  r.units.all fun u => idx % u.1 = 0 || (match acc[idx / u.1 * u.1 * r.herd]? with | some c => c / u.2 = b.headD 0 / u.2 | none => true)
/-- A choice of n blocks, in order, that keeps each unit together and whose displaced herds all have save slots. -/
def State.pickBlocks (s : State) (r : LRec) : List (List Nat) → Nat → List Nat → Option (List Nat)
  | _, 0, acc => some acc
  | [], _ + 1, _ => none
  | b :: bs, n + 1, acc =>
    if r.unitsMeet acc b && s.slotsFor (s.standing (acc ++ b)) then
      match s.pickBlocks r bs n (acc ++ b) with
      | some l => some l
      | none => s.pickBlocks r bs (n + 1) acc
    else s.pickBlocks r bs (n + 1) acc
/-- Blocks that a D0 kernel may reserve. Which of them it gets is open: the search starts at an open place, which splits no fold or
pasture that a unit needs whole (R312, R327). -/
def State.d0Blocks (s : State) (k : Kernel) (start : Nat) : Option (List Nat) :=
  let all := (List.range (2048 / k.r.herd)).map fun i => (List.range k.r.herd).map fun j => i * k.r.herd + j
  let ok := all.filter fun b => b.all fun c => (s.reserver c).isNone && c % 512 ≠ 511 && !(s.core c).gated
  let width := (k.r.units.map Prod.snd).foldl max k.r.herd
  let first := start % (2048 / width) * width
  s.pickBlocks k.r ((ok.filter fun b => first ≤ b.headD 0) ++ ok.filter fun b => b.headD 0 < first) k.h []
/-- The four tests of R327, and the refusal of a recording context's D0 kernel (R394): the cores reserved. -/
def State.d0Admit (s : State) (k : Kernel) (start : Nat) : Option (List Nat) :=
  let c := k.r.herd * k.h
  let t := max s.ptime.toNat k.r.start.toNat
  -- the kernel itself does not end the recording that refuses it (R394)
  let rec_ := { s with kernels := s.kernels.filter fun q => !(q.ctx = k.ctx && q.kid = k.kid) }.recording k.ctx
  let power := ((s.d0Kernels.map fun q => 5 * q.cores.length + 48 * q.r.bw).sum) + 5 * c + 48 * k.r.bw
  if rec_ || s.sched.cores < c + s.d0Used || s.sched.slices < k.r.bw + s.bwUsed || 4 * s.watts < power ||
      21 * k.r.dl.toNat < 21 * (t + 51200000) + 2560 * k.r.budget then none
  else s.d0Blocks k start
/-- ADMISSION decides on a kernel as soon as it is SUBMITTED; a D0 kernel's cores are reserved and their herds swapped out. -/
def State.admitKernel (s : State) (ctx kid : Nat) : State :=
  match s.kernel? ctx kid with
  | none => s
  | some k =>
    if k.st ≠ .submitted then s
    else if k.r.dclass ≠ 0 then s.updKernel ctx kid fun k => { k with st := .admitted }
    else
      let f := s.takeFree
      match s.d0Admit k f.1.toNat with
      | none => s.kernelOver ctx kid .faulted (some 2)
      | some cores =>
        let s := f.2.updKernel ctx kid fun k => { k with st := .admitted, cores := cores }
        (s.standing cores).foldl (fun s h => s.commitSwap h none) s
/-- The least unused identifier from an open starting point on: unique among the context's live kernels (R322).
[DESIGN CHOICE: log entry 47] -/
def State.freshKid (s : State) (ctx start : Nat) : Nat :=
  let used := (s.kernels.filter fun k => k.ctx = ctx && k.st ≠ .done && k.st ≠ .faulted).map Kernel.kid
  (((List.range (used.length + 1)).map fun i => (start + i) % 2 ^ 24).find? fun i => !used.contains i).getD 0
/-- A valid record creates a kernel, which admission decides on at once (R326, R327). -/
def State.newKernel (s : State) (c : Context) (n : Nat) : Nat × State :=
  let r := LRec.ofNat n
  let kid := s.freshKid c.id (Config.kernelId c.id c.launches)
  let pre := if r.hpre = 0 then [] else ((s.vaRead c.id r.hpre 64).map preTable).getD []
  let tab := if r.ncont = 0 then [] else ((s.vaRead c.id r.ctab (8 * r.ncont)).map fun bs => (contTable r.ncont bs).map Prod.fst).getD []
  let k : Kernel :=
    { ctx := c.id, kid, st := .submitted, r, code := s.engHandle { Group.absent 0 with ctx := c.id } r.codeh, pre, ctab := tab, h := r.herds,
      age := s.ptime, ring := [], flush := [], contN := 0, cores := [], opWait := 0, overrun := false, killed := false, waiters := [], ringN := 0 }
  let s := { s with kernels := (s.kernels.filter fun (x : Kernel) => !(x.ctx = c.id && x.kid = kid)) ++ [k] }
  let s := s.updCtx c.id fun c => { c with launches := c.launches + 1 }
  (kid, s.admitKernel c.id kid)
/-- What the check of a record reads: the record, its two tables and its CODE entry; `pte.a` of their pages (R232, R317). -/
def State.touchRecord (s : State) (c : Context) (va : Nat) : State :=
  let s := s.touchRead c.id va 256
  match s.vaRead c.id va 256 with
  | none => s
  | some bs =>
    let r := LRec.ofNat (natOf bs)
    let s := if r.ncont = 0 ∨ 64 < r.ncont then s else s.touchRead c.id r.ctab (8 * r.ncont)
    let s := if r.hpre = 0 ∨ r.hpre % 64 ≠ 0 then s else s.touchRead c.id r.hpre 64
    s.touchEntry c.id r.codeh
/-- `lnch` reads and checks its record: what it returns (R317, R322). -/
def State.launch (s : State) (ctx va : Nat) : W32 × State :=
  match s.ctx? ctx with
  | none => (0x8000000B, s)
  | some c =>
    let s := s.touchRecord c va
    match s.vaRead ctx va 256 with
    | none => (0x8000000B, s)
    | some bs =>
      let why := s.launchReason c (natOf bs)
      if why ≠ 0 then (0x80000000 ||| BitVec.ofNat 32 why, s)
      else
        let r := s.newKernel c (natOf bs)
        (BitVec.ofNat 32 r.1, r.2)
/-- A kernel place has come free: waiting `lnch`es of the context proceed in arrival order (R322). -/
def State.serveLnch (s : State) (ctx : Nat) : State :=
  s.lnchq.foldl (fun (s : State) w =>
    match s.thread? w.1 w.2 with
    | some t =>
      (match t.wait with
       | some (.lnch d va) =>
         if (s.actFor (s.group w.1) t).ctx ≠ ctx || 256 ≤ s.kernelCount ctx then s
         else
           let r := s.launch ctx va
           { r.2 with lnchq := r.2.lnchq.erase w }.wake w.1 [(w.2, [.g d r.1])]
       | _ => s)
    | none => s) s

/-! ## Ranks and pre-emption (R330 to R333) -/

/-- A herd that waits for placement. -/
structure Cand where
  k : Kernel
  idx : Nat
  saved : Bool
  cont : Bool
  after : Option (Nat × Nat × Nat)

/-- Lexicographic order. -/
def keyLt : List Nat → List Nat → Bool
  | [], [] => false
  | [], _ => true
  | _, [] => false
  | a :: l, b :: m => if a < b then true else if b < a then false else keyLt l m
/-- The least of a list by a key. [DEDUCED: log entry 24] -/
def leastBy {α : Type} (key : α → List Nat) : List α → Option α
  | [] => none
  | x :: l => match leastBy key l with | some y => if keyLt (key y) (key x) then some y else some x | none => some x
/-- The rank of R330, lowest first. -/
def Cand.rank (c : Cand) : List Nat := [c.k.r.dclass, 7 - c.k.r.prio, if c.saved then 0 else 1, c.k.age.toNat, c.idx]
def Cand.is (c : Cand) (x : Nat × Nat × Nat) : Bool := c.k.ctx = x.1 && c.k.kid = x.2.1 && c.idx = x.2.2
/-- A herd that yielded its quantum to one of equal rank, which still waits, comes directly after that one, which else could never be
placed before it (R331, R333). [DEDUCED: log entry 46] -/
def rankIn (all : List Cand) (c : Cand) : List Nat :=
  match c.after.bind fun x => all.find? fun y => y.is x with
  | some y => y.rank ++ [1] ++ c.rank
  | none => c.rank ++ [0]
/-- The first of so many numbers from one on that a test admits. -/
def firstIdx (p : Nat → Bool) : Nat → Nat → Option Nat
  | 0, _ => none
  | n + 1, i => if p i then some i else firstIdx p n (i + 1)
/-- Whether a context's herds may be placed. -/
def State.placeable (s : State) (k : Kernel) : Bool :=
  !k.killed && (match s.ctx? k.ctx with | some c => c.st = .live | none => false)
/-- The herds that wait for placement, of kernels that the placer ranks; of each kernel's unplaced herds the first that a test
admits. -/
def State.waiting (s : State) (fits : Kernel → Nat → Bool) : List Cand :=
  (s.herds.filterMap fun h =>
    match s.kernel? h.ctx h.kid with
    | some k =>
      if s.placeable k && ((h.st = .saved && h.runnable) || h.st = .waiting) then
        some ⟨k, h.herd, h.st = .saved, h.cont, if h.expired then h.after else none⟩
      else none
    | none => none) ++
  (s.kernels.filterMap fun k =>
    if s.placeable k && k.r.dclass ≠ 0 && (k.st = .placing || k.st = .running) then
      (firstIdx (fun i => !(s.herds.any fun h => h.is k.ctx k.kid i) && fits k i) k.h 0).map fun i => ⟨k, i, false, false, none⟩
    else none)
/-- The kernel's state after one of its herds has been placed (R318). -/
def State.placed (s : State) (ctx kid : Nat) : State :=
  match s.kernel? ctx kid with
  | none => s
  | some k =>
    let n := (s.herds.filter fun h => h.ctx = ctx && h.kid = kid && !h.cont).length
    if k.st = .placing || k.st = .running then
      (s.updKernel ctx kid fun k => { k with st := if k.h ≤ n then .draining else .running }).serveLnch ctx
    else s
/-- The placer of a pasture places the highest-ranked waiting herd that fits there (R330). [DEDUCED: log entry 46] -/
def State.placeOne (s : State) (pasture : Nat) : State :=
  let all := s.waiting fun k i => (s.fitIn k i false pasture).isSome
  match leastBy (rankIn all) (all.filter fun c => (s.fitIn c.k c.idx c.saved pasture).isSome) with
  | none => s
  | some c =>
    match s.fitIn c.k c.idx c.saved pasture with
    | none => s
    | some (block, pens) =>
      let s := { s with rot := s.rot.setIfInBounds pasture ((block.headD 0 / 8 % 64 + 1) % 64) }
      if c.saved then s.startLoad c.k c.idx block pens
      else (s.placeHerd c.k c.idx c.cont block pens).placed c.k.ctx c.k.kid
/-- Class and priority of a herd's kernel. -/
def State.herdRank (s : State) (h : Herd) : List Nat := s.rankOf h.ctx h.kid
/-- Whether a resident herd has been resident for the quantum while a herd of equal rank waited (R331). -/
def State.quantumRun (s : State) (c : Cand) (h : Herd) : Bool :=
  let from_ := match s.herd? c.k.ctx c.k.kid c.idx with
    | some w => w.since.toNat
    | none => max c.k.age.toNat c.k.r.start.toNat
  [c.k.r.dclass, 7 - c.k.r.prio] = s.herdRank h && !(c.k.ctx = h.ctx && c.k.kid = h.kid) &&
  decide (max h.since.toNat from_ + 256000 * s.sched.quantumUs ≤ s.ptime.toNat)
/-- Whether the quantum has run for some waiting herd. -/
def State.quantumOver (s : State) (h : Herd) : Bool := (s.waiting fun _ _ => true).any fun c => s.quantumRun c h
/-- Whether a resident herd may be pre-empted for a waiting one: never a D0 herd or a system pen's; by rank only for a herd of D1 to D3
of another kernel (R331), but for any herd when all its threads wait (R332, R333). [DEDUCED: log entry 46] -/
def State.mayEvict (s : State) (c : Cand) (h : Herd) : Bool :=
  let r := [c.k.r.dclass, 7 - c.k.r.prio]
  h.st = .resident && !h.due &&
  (match s.kernel? h.ctx h.kid with | some k => k.r.dclass ≠ 0 | none => false) &&
  !((s.herdFlocksOf h.ctx h.kid h.herd).any fun f => s.systemPen f.pcore f.pen) &&
  (s.allWaiting h ||
    (c.k.r.dclass ≠ 0 && !(h.ctx = c.k.ctx && h.kid = c.k.kid) && (keyLt r (s.herdRank h) || (h.expired && s.quantumRun c h))))
/-- The order in which victims are chosen. -/
def State.victimKey (s : State) (h : Herd) : List Nat :=
  [if s.allWaiting h then 0 else 1] ++ (s.herdRank h).map (fun x => 8 - x) ++ [h.since.toNat]
/-- The sublists of a list. -/
def subsOf {α : Type} : List α → List (List α)
  | [] => [[]]
  | x :: l => let r := subsOf l; r ++ r.map (x :: ·)
def Herd.key (h : Herd) : Nat × Nat × Nat := (h.ctx, h.kid, h.herd)
/-- Puts an item in the order of a key. -/
def insertBy {α : Type} (key : α → List Nat) (x : α) : List α → List α
  | [] => [x]
  | y :: l => if keyLt (key y) (key x) then y :: insertBy key x l else x :: y :: l
/-- The fewest herds of a block whose leaving makes room for a waiting herd there, preferred victims first.
[DEDUCED: log entry 46] -/
def State.victims (s : State) (c : Cand) (pasture : Nat) : Option (List Herd) :=
  let sets := (s.blocksOf c.k pasture).flatMap fun b =>
    let cands := (s.herds.filter fun h => h.cores.any (fun x => b.contains x) && s.mayEvict c h).foldl (fun l h => insertBy s.victimKey h l) []
    (subsOf cands).filter fun l => l ≠ [] && s.slotsFor l && (s.fitOn c.k c.idx c.saved b (l.map Herd.key)).isSome
  leastBy (fun l => l.length :: l.flatMap s.victimKey) sets
/-- The placer pre-empts for the highest-ranked waiting herd that fits nowhere, for which no herd is leaving already (R331).
[DEDUCED: log entry 46] -/
def State.preemptOne (s : State) (pasture : Nat) : State :=
  let all := s.waiting fun _ _ => true
  let stuck := all.filter fun c => (List.range 4).all fun p => (s.fitIn c.k c.idx c.saved p).isNone
  let stuck := stuck.filter fun c => !(s.herds.any fun h => (h.st = .saving || h.due) && (match h.after with | some x => c.is x | none => false))
  let stuck := stuck.filter fun c => (s.victims c pasture).isSome
  match leastBy (rankIn all) stuck with
  | none => s
  | some c =>
    match s.victims c pasture with
    | none => s
    | some l => l.foldl (fun s h => s.commitSwap h (some (c.k.ctx, c.k.kid, c.idx))) s

end Sys2Proof.Machine
end

