-- ==== Sys2Proof/Machine/Work.lean ====
section
/-! DEFINITION. Work queues and submission windows (R323 to R326), the WORK words (R321, R322), continuations and the gatherer
(R319, R320), and the events of dispatch and placement (R318, R326 to R336). -/
namespace Sys2Proof.Machine

/-! ## Work queues (R323 to R325) -/

/-- A queue descriptor. -/
structure QDesc where
  base : Nat
  lg : Nat
  en : Bool
  head : Nat
  tail : Nat
  drop : Nat
  deriving DecidableEq, Repr
def QDesc.ofNat (n : Nat) : QDesc := ⟨bitsOf n 56 0, bitsOf n 68 64, n.testBit 69, bitsOf n 96 80, bitsOf n 113 97, bitsOf n 159 128⟩
/-- Whether appends and intake are allowed. -/
def QDesc.on (d : QDesc) : Bool := d.en && decide (4 ≤ d.lg) && decide (d.lg ≤ 16)
def QDesc.count (d : QDesc) : Nat := (d.tail + 2 ^ 17 - d.head) % 2 ^ 17
/-- The address of an entry of the ring. -/
def QDesc.slot (d : QDesc) (i : Nat) : Nat := d.base + 8 * (i % 2 ^ d.lg)
def Context.queue (c : Context) (q : Nat) : Nat := c.qtab + 64 * q
/-- A descriptor's 64 bytes; none where it cannot be read. -/
def State.queueBits (s : State) (c : Context) (q : Nat) : Option Nat := (s.vaRead c.id (c.queue q) 64).map natOf
/-- The descriptor that acts on an operation: while a queue is enabled its base and size are those that the dispatcher's last intake
found, or, before one, those with which it was enabled; a rewrite takes effect at the next intake (R323). [DEDUCED: log entry 67] -/
def State.queueNow (s : State) (ctx q raw : Nat) : QDesc :=
  let d := QDesc.ofNat raw
  match s.qeff.find? fun x => x.1 = ctx && x.2.1 = q with
  | some x => { d with base := x.2.2.1, lg := x.2.2.2, en := true }
  | none => d
/-- The device takes up a descriptor as an enabled queue's, or drops it. -/
def State.takeQueue (s : State) (ctx q : Nat) (d : QDesc) : State :=
  let l := s.qeff.filter fun x => !(x.1 = ctx && x.2.1 = q)
  { s with qeff := if d.on then (ctx, q, d.base, d.lg) :: l else l }
/-- Writes the head and tail word of a descriptor. -/
def State.setEnds (s : State) (c : Context) (q raw head tail : Nat) : Option State :=
  s.vaWrite c.id (c.queue q + 8)
    (bytesOf 8 (bitsOf raw 79 64 + head % 2 ^ 17 * 2 ^ 16 + tail % 2 ^ 17 * 2 ^ 33 + bitsOf raw 127 114 * 2 ^ 50))
/-- Counts an append that was refused. -/
def State.queueDrop (s : State) (c : Context) (q raw : Nat) : Option State :=
  s.vaWrite c.id (c.queue q + 16) (bytesOf 4 (min (2 ^ 32 - 1) (bitsOf raw 159 128 + 1)))
/-- A queue-error event of reason 3, at most one per queue per millisecond. [DEDUCED: log entry 67] -/
def State.queueError3 (s : State) (ctx q : Nat) : State :=
  let last := s.qerr.find? fun x => x.1 = ctx && x.2.1 = q
  let soon := match last with | some x => decide (s.ptime.toNat < x.2.2.toNat + 256000000) | none => false
  if soon then s
  else { s with qerr := (ctx, q, s.ptime) :: s.qerr.filter fun x => !(x.1 = ctx && x.2.1 = q) }.post 10 q ctx [0, 0, 3]
/-- AN APPEND (R324): 0 appended, 1 full, 2 not enabled, 3 unreachable. -/
def State.append (s : State) (c : Context) (q : Nat) (va : Nat) : Nat × State :=
  let s := s.touchRead c.id (c.queue q) 64
  match s.queueBits c q with
  | none => (3, s.queueError3 c.id q)
  | some raw =>
    let d := s.queueNow c.id q raw
    let s := s.takeQueue c.id q d
    if !d.on then (2, s)
    else if d.count = 2 ^ d.lg then
      (match s.queueDrop c q raw with | some s => (1, s) | none => (3, s.queueError3 c.id q))
    else
      match (s.vaWrite c.id (d.slot d.tail) (bytesOf 8 va)).bind fun s => s.setEnds c q raw d.head (d.tail + 1) with
      | some s => (0, s)
      | none => (3, s.queueError3 c.id q)
/-- `sw.free` (R325). -/
def State.swFree (s : State) (c : Context) (q : Nat) : Nat :=
  match s.queueBits c q with
  | some raw => let d := s.queueNow c.id q raw; if d.on then 2 ^ d.lg - d.count else 0
  | none => 0
/-- A host read of a doubleword of a submission window, with what it leaves (R325): `sw.rec` reads zero, `sw.free` its count; an
unreachable queue posts reason 3 (R323). With the host link down no window is reached (R368). -/
def State.windowRead (s : State) (c : Context) (q off : Nat) : W64 × State :=
  if off % 16 < 8 || !s.plat.hostUp then (0, s)
  else (BitVec.ofNat 64 (s.swFree c q), if (s.queueBits c q).isNone then s.queueError3 c.id q else s)
/-- A host write of a size at an offset of a submission window (R325): a single aligned 8-byte write to `sw.rec` appends, one to the
read-only `sw.free` changes nothing (R6), and every other is discarded and counted. [DEDUCED: log entry 67] -/
def State.windowWrite (s : State) (ctx q off size : Nat) (v : W64) : State :=
  match s.ctx? ctx with
  | none => s
  | some c =>
    if !c.alive || !s.plat.hostUp || 63 < q then s else
    let s := s.touchRead ctx (c.queue q) 64
    match s.queueBits c q with
    | none => s.queueError3 ctx q
    | some raw =>
      if !(s.queueNow ctx q raw).on || (size = 8 && off = 8) then s
      else if size ≠ 8 || off ≠ 0 || 2 ^ 57 ≤ v.toNat then
        (match s.queueDrop c q raw with | some s => s | none => s.queueError3 ctx q)
      else (s.append c q v.toNat).2
/-- A descriptor rewritten while its `q.en` is 0 acts: a queue disabled when empty is disabled, and one disabled with entries left
takes the new base and size, while its end waits for the dispatcher's turn (R323). [DEDUCED: log entry 67] -/
def State.followQueues (s : State) : State :=
  { s with qeff := s.qeff.filterMap fun x =>
      match (s.ctx? x.1).bind fun c => s.queueBits c x.2.1 with
      | none => some x
      | some raw =>
        let d := QDesc.ofNat raw
        if d.en then some x else if d.count = 0 then none else some (x.1, x.2.1, d.base, d.lg) }
/-- The queues that the dispatcher has to serve: enabled and not empty, or enabled and out of its reach, of contexts that have room for a
kernel (R323, R326). -/
def State.readyQueues (s : State) : List (Nat × Nat) :=
  s.ctxs.flatMap fun c =>
    if !c.alive || decide (256 ≤ s.kernelCount c.id) then [] else
    (List.range 64).filterMap fun q =>
      match s.queueBits c q with
      | some n => if (s.queueNow c.id q n).on && (QDesc.ofNat n).count ≠ 0 then some (c.id, q) else none
      | none => if s.qeff.any fun x => x.1 = c.id && x.2.1 = q then some (c.id, q) else none
/-- The queue whose turn it is: the first after the one served last, in the order of context and number, and round again (R326).
[DEDUCED: log entry 67] -/
def State.queueTurn (s : State) : Option (Nat × Nat) :=
  let key := fun (x : Nat × Nat) => [x.1, x.2]
  let l := s.readyQueues
  (leastBy key (l.filter fun x => keyLt (key s.qlast) (key x))).orElse fun _ => leastBy key l
/-- The dispatcher's turn at a queue (R326): the head entry, and only that. [DEDUCED: log entry 67] -/
def State.intake (s : State) (ctx q : Nat) : State :=
  match s.ctx? ctx with
  | none => s
  | some c =>
    if s.queueTurn ≠ some (ctx, q) then s else
    let s := { s with qlast := (ctx, q) }.touchRead ctx (c.queue q) 64
    match s.queueBits c q with
    | none => s.queueError3 ctx q
    | some raw =>
      let d := QDesc.ofNat raw
      let s := s.takeQueue ctx q d
      if !d.on || d.count = 0 then s else
      let s := s.touchRead ctx (d.slot d.head) 8
      match s.vaRead ctx (d.slot d.head) 8, s.setEnds c q raw (d.head + 1) d.tail with
      | some bs, some s' =>
        let va := natOf bs
        let bad := fun (s : State) (why : Nat) => s.post 10 q ctx [BitVec.ofNat 64 d.head, BitVec.ofNat 64 va, BitVec.ofNat 64 why]
        if 2 ^ 57 ≤ va then bad s' 1
        else
          let s' := s'.touchRecord c va
          (match s'.vaRead ctx va 256 with
           | none => bad s' 2
           | some rec =>
             let n := natOf rec
             let why := s'.launchReason c n
             if why = 0 then (s'.newKernel c n).2 else s'.complete ctx 0 (bitsOf n 767 704) (BitVec.ofNat 64 (4 + why * 256)))
      | _, _ => s.queueError3 ctx q

/-! ## The WORK words (R322) -/

/-- The address of a launch record that a fat pointer names, or the fault of the first check that fails. [DEDUCED: log entry 34] -/
def State.recordAt (s : State) (g : Group) (t : Thread) (b : Fld) : Except (Byte × W64) Nat :=
  let h := s.fatPtr g t b
  let off := (rd t b).toNat
  let a := heBase h.ent + off
  match firstFail [s.chkUsable g h, failIf (s.bound g h < off + 256) 0x13 off, failIf (!heRight h.ent 0) 0x11 a,
      failIf (!hePol h.ent 2) 0x14 a, failIf (a % 64 ≠ 0) 0x15 a,
      failIf (!(heSpace h.ent = .global || heSpace h.ent = .near)) 0x11 a] with
  | some e => .error e
  | none => .ok a
/-- A result that is known at once (R38). -/
def State.give (s : State) (t : Thread) (d : Fld) (v : W32) : State :=
  s.updT t.gid t.lane fun t => t.await (Result.known t.nextRes [.g d v] 0 false)
/-- `lnch` of one lane. [DEDUCED: log entry 34; DEDUCED: log entry 67] -/
def State.laneLnch (s : State) (iss : Issue) (t : Thread) (a b : Fld) : StepRes :=
  let g := s.actGroup iss t
  match s.recordAt g t b with
  | .error e => .trap s e.1 e.2 0 0
  | .ok va =>
    if 256 ≤ s.kernelCount g.ctx then
      .ok { (s.updT t.gid t.lane fun t => t.block (.lnch a va) iss [.g a]) with lnchq := s.lnchq ++ [(t.gid, t.lane)] }
    else
      let r := s.launch g.ctx va
      .ok (r.2.give t a r.1)
/-- `qput` of one lane. [DEDUCED: log entry 67] -/
def State.laneQput (s : State) (iss : Issue) (t : Thread) (a b c : Fld) : StepRes :=
  let g := s.actGroup iss t
  match s.recordAt g t c with
  | .error e => .trap s e.1 e.2 0 0
  | .ok va =>
    let q := (rd t b).toNat
    if 63 < q then .ok (s.give t a 2)
    else
      match s.ctx? g.ctx with
      | none => .ok (s.give t a 3)
      | some x =>
        let r := s.append x q va
        .ok (r.2.give t a (BitVec.ofNat 32 r.1))

/-! ## Continuations and the gatherer (R319, R320) -/

def Kernel.ringSize (k : Kernel) : Nat := 2 ^ k.r.clg
/-- The place of the next record: the first from the turn on that no record of the ring stands at (R319, R320).
[DEDUCED: log entry 68] -/
def Kernel.ringPlace (k : Kernel) : Nat :=
  let used := k.ring.map fun x => x.2.2.2
  (((List.range (used.length + 1)).map fun i => (k.ringN + i) % k.ringSize).find? fun i => !used.contains i).getD 0
/-- A record enters the ring: at its place there in the context's memory too, where that can be written. -/
def State.contPush (s : State) (k : Kernel) (gid lane : Nat) (entry : W32) (payload : List W32) : State :=
  let pos := k.ringPlace
  let va := k.r.cring + 64 * pos
  let l := s.logged gid lane 7 (BitVec.ofNat 64 va) (BitVec.ofNat 64 pos) []
  let bs := bytesOf 8 entry.toNat ++ payload.flatMap fun w => bytesOf 4 w.toNat
  let s := (l.2.2.vaWrite k.ctx va bs).getD l.2.2
  s.updKernel k.ctx k.kid fun k => { k with ring := k.ring ++ [(entry.toNat, payload, s.ptime, pos)], ringN := k.ringN + 1 }
/-- `cont` of one lane. -/
def State.laneCont (s : State) (iss : Issue) (t : Thread) (a b : Fld) : StepRes :=
  let g := s.group iss.gid
  let e := rd t a
  let payload := (List.range 14).map fun i => rd t (b + BitVec.ofNat 6 i)
  match s.kernel? g.ctx g.kid with
  | none => .trap s 0x13 (e.setWidth 64) 0 0
  | some k =>
    if k.r.ncont ≤ e.toNat then .trap s 0x13 (e.setWidth 64) 0 0
    else if k.ringSize ≤ k.ring.length ∨ k.waiters ≠ [] then
      .ok ((s.updT t.gid t.lane fun t => t.block (.cont e payload) iss []).updKernel g.ctx g.kid fun k =>
        { k with waiters := k.waiters ++ [(t.gid, t.lane)] })
    else .ok (s.contPush k t.gid t.lane e payload)
/-- Ring places have come free: waiting `cont`s proceed in arrival order. -/
def State.serveCont (s : State) (ctx kid : Nat) : State :=
  match s.kernel? ctx kid with
  | none => s
  | some k0 =>
    k0.waiters.foldl (fun (s : State) w =>
      match s.thread? w.1 w.2, s.kernel? ctx kid with
      | some t, some k =>
        (match t.wait with
         | some (.cont e p) =>
           if k.ringSize ≤ k.ring.length then s
           else
             ((s.contPush k w.1 w.2 e p).updKernel ctx kid fun k => { k with waiters := k.waiters.erase w }).wake w.1 [(w.2, [])]
         | _ => s)
      | _, _ => s) s
/-- The ring records of an entry index, oldest first. -/
def Kernel.recordsOf (k : Kernel) (e : Nat) : List (Nat × List W32 × W64 × Nat) := k.ring.filter fun x => x.1 = e
/-- Whether a batch of an entry index is to be launched: it is complete, or a partial one is flushed. -/
def Kernel.batchDue (k : Kernel) (e : Nat) : Bool :=
  let l := k.recordsOf e
  decide (32 ≤ l.length) ||
  (l ≠ [] && (k.flush.contains e || k.st = .draining ||
    (decide (k.ringSize ≤ k.ring.length) && k.ring.all (fun x => decide ((k.recordsOf x.1).length < 32)) &&
      (match k.ring.head? with | some x => x.1 = e | none => false))))
/-- Drops the first n records of an entry index. -/
def dropRecords (e : Nat) : Nat → List (Nat × List W32 × W64 × Nat) → List (Nat × List W32 × W64 × Nat)
  | _, [] => []
  | 0, l => l
  | n + 1, x :: l => if x.1 = e then dropRecords e n l else x :: dropRecords e (n + 1) l
/-- Whether a group's threads have all exited. [DEDUCED: log entry 52] -/
def State.groupDone (s : State) (gid : Nat) : Bool := s.threads.all fun t => !(t.gid = gid && t.st ≠ .exited)
/-- Whether a group holds its group slot: it is live, or has operations or accesses outstanding (R158). -/
def State.holdsSlot (s : State) (gid : Nat) : Bool :=
  !s.groupDone gid || (s.ops.any fun o => o.gid = gid && o.st ≠ .done) || s.reqs.any fun r => r.gid = gid
/-- The group indices of a resident flock that are free for a batch: those whose group slot no group holds (R158, R320).
[DEDUCED: log entry 68] -/
def State.freeGrps (s : State) (k : Kernel) (f : Flock) : List Nat :=
  (List.range k.r.groups).filter fun i => s.groups.all fun g => !(g.fid = f.fid && g.grp = i && s.holdsSlot g.gid)
/-- Makes room at a group index: its exited group goes. -/
def State.clearGrp (s : State) (f : Flock) (i : Nat) : State :=
  let gids := (s.groups.filter fun g => g.fid = f.fid && g.grp = i).map Group.gid
  { s with groups := s.groups.filter fun g => !gids.contains g.gid, threads := s.threads.filter fun t => !gids.contains t.gid }
/-- A batch becomes a group: in an open one of the free group slots of the kernel's resident flocks, or else a continuation herd
is to be placed for it. The new group's creation is an acquire of its core (R215). [DEDUCED: log entry 68] -/
def State.gather (s : State) (ctx kid e : Nat) : State :=
  match s.kernel? ctx kid with
  | none => s
  | some k =>
    if (k.st ≠ .running && k.st ≠ .draining) || k.killed || !k.batchDue e then s else
    let places := (s.flocks.filter fun f => f.ctx = ctx && f.kid = kid &&
        (match s.herdOfFlock f with | some h => h.st = .resident | none => false)).flatMap fun f =>
      (s.freeGrps k f).map fun i => (f, i)
    let fr := s.takeFree
    match places[fr.1.toNat % (max 1 places.length)]? with
    | some (f, i) =>
      let batch := (k.recordsOf e).take 32
      let s := fr.2.clearGrp f i
      let slot := (s.freeGroupSlots f.pcore f.pen).headD 0
      let lvl : List W32 := 0 :: List.replicate 7 (BitVec.allOnes 32)
      let init := s.preloads k
      let regs := fun (j : Nat) => match batch[j]? with | some x => wrs32 0 x.2.1 ++ init | none => []
      let s := s.newGroup k f i slot lvl ((k.ctab[e]?).getD 0) (BitVec.ofNat 32 (2 ^ batch.length - 1)) regs
      (((s.updKernel ctx kid fun k => { k with ring := dropRecords e batch.length k.ring, flush := k.flush.erase e }).acquireCore
        f.pcore).serveCont ctx kid)
    | none =>
      if s.herds.any fun h => h.ctx = ctx && h.kid = kid && h.cont &&
          (h.st = .waiting || (h.st = .resident && s.herdGroups ctx kid h.herd = [])) then s
      else
        let h : Herd :=
          { ctx, kid, herd := k.h + k.contN, st := .waiting, cores := [], cont := true, runnable := false, gens := [], since := s.ptime,
            expired := false, issues := 0, budgetEv := false, after := none, due := false, faults := [], owed := [] }
        { s with herds := s.herds ++ [h] }.updKernel ctx kid fun k => { k with contN := k.contN + 1 }

/-! ## Events of dispatch and placement -/

/-- The herds of an admitted D0 kernel are placed together when its cores are EMPTY (R328, R330). -/
def State.placeD0 (s : State) (ctx kid : Nat) : State :=
  match s.kernel? ctx kid with
  | none => s
  | some k =>
    let empty := k.cores.all fun c => (s.pen c 0).st = .empty && (s.pen c 1).st = .empty
    if k.r.dclass ≠ 0 || k.st ≠ .placing || !s.placeable k || !empty then s else
    let blocks := (List.range k.h).map fun i => (k.cores.drop (k.r.herd * i)).take k.r.herd
    let s := blocks.zipIdx.foldl (fun s b => s.placeHerd k b.2 false b.1 (List.replicate k.r.herd 0)) s
    (s.updKernel ctx kid fun k => { k with st := .draining }).serveLnch ctx

/-- R322. Appends a continuation record to the kernel's ring, blocking while the ring is full. -/
def execCont (_cs : CS) (a b : BitVec 6) (s : State) : Out :=
  .next (s.laneFold fun iss s t => s.laneCont iss t a b)

/-- R322. Reads and checks a launch record and creates a kernel. -/
def execLnch (_cs : CS) (a b : BitVec 6) (s : State) : Out :=
  .next (s.laneFold fun iss s t => s.laneLnch iss t a b)

/-- R322. Appends a launch-record address to a work queue. -/
def execQput (_cs : CS) (a b r : BitVec 6) (s : State) : Out :=
  .next (s.laneFold fun iss s t => s.laneQput iss t a b r)

/-- R325. A host 8-byte write to a submission window appends a work-queue entry, or is discarded. -/
def execSubmissionWindowWrite (ctx q : Nat) (at_ : WindowAt) (v : W64) (s : State) : Out :=
  .next (s.windowWrite ctx q at_.off at_.size v)

/-- R326. The dispatcher takes a queue's head entry, checks the record, and creates a kernel or writes outcome 4. -/
def execDispatcherIntake (ctx q : Nat) (s : State) : Out :=
  .next (s.intake ctx q)

/-- R318. An admitted kernel moves to PLACING once %ptime reaches lr.start. -/
def execKernelDispatch (ctx kid : Nat) (s : State) : Out :=
  match s.kernel? ctx kid with
  | some k =>
    if k.st = .admitted && !k.killed && decide (k.r.start.toNat ≤ s.ptime.toNat) then .next (s.updKernel ctx kid fun k => { k with st := .placing })
    else .next s
  | none => .next s

/-- R330. A pasture's placer places the highest-ranked waiting herd that fits and creates or resumes its threads. -/
def execHerdPlace (pasture : Nat) (s : State) : Out :=
  .next (s.placeOne pasture)

/-- R330. When its reserved cores are empty, all herds of a D0 kernel are placed in one step. -/
def execD0Placement (ctx kid : Nat) (s : State) : Out :=
  .next (s.placeD0 ctx kid)

/-- R331. The placer pre-empts resident herds to make room for a waiting herd. -/
def execPreempt (pasture : Nat) (s : State) : Out :=
  .next (s.preemptOne pasture)

/-- R331. A resident herd's quantum expires while an equal-rank herd waits, so the resident herd becomes pre-emptable. -/
def execQuantumExpiry (ctx kid herd : Nat) (s : State) : Out :=
  match s.herd? ctx kid herd with
  | some h => .next (if h.st = .resident && s.quantumOver h then s.updHerd ctx kid herd fun h => { h with expired := true } else s)
  | none => .next s

/-- R315. A herd whose threads have all exited and whose engine operations are done retires, and its flocks are freed. -/
def execHerdRetire (ctx kid herd : Nat) (s : State) : Out :=
  .next (s.retire ctx kid herd)

/-- R320. The gatherer launches a batch of continuation records as a new group. -/
def execGathererBatchLaunch (ctx kid entry : Nat) (s : State) : Out :=
  .next (s.gather ctx kid entry)

/-- R320. The oldest record has waited lr.cwait µs, so its partial batch is flushed. -/
def execGathererFlushTimeout (ctx kid entry : Nat) (s : State) : Out :=
  match s.kernel? ctx kid with
  | some k =>
    (match (k.recordsOf entry).head? with
     | some x =>
       .next (if decide (x.2.2.1.toNat + 256000 * k.r.cwait ≤ s.ptime.toNat) && !k.flush.contains entry then
         s.updKernel ctx kid fun k => { k with flush := k.flush ++ [entry] } else s)
     | none => .next s)
  | none => .next s

/-- R336. A D0 or D1 kernel not DONE at lr.dl posts an overrun event and runs on. -/
def execD0Overrun (ctx kid : Nat) (s : State) : Out :=
  match s.kernel? ctx kid with
  | some k => .next (s.overrun k)
  | none => .next s

/-- R336. A D0 herd exceeds lr.budget issue cycles and posts a budget event once. -/
def execBudgetExceeded (ctx kid herd : Nat) (s : State) : Out :=
  .next (s.budgetOver ctx kid herd)

/-- R329. A write to the scheduler control register takes effect for later decisions. -/
def execScWrite (hi : Bool) (v : W64) (s : State) : Out :=
  .next (if hi then s else
    { s with sched := ⟨v.extractLsb' 0 32, v.extractLsb' 32 12, v.extractLsb' 44 5, v.extractLsb' 49 15⟩ })

end Sys2Proof.Machine
end

