-- ==== Sys2Proof/Machine/Wait.lean ====
section
/-! DEFINITION. What a chain needs before it issues: the packet that a fetch brings (R33), the chain that begins in a slot (R35), and the
waits that hold it (R21, R150, R211 to R213, R221, R274); with them the class of work that a pen can issue (R342). -/
namespace Sys2Proof.Machine

/-! ## Fetching (R33) -/

/-- The packet that a fetch brings, or the fault that it meets: cause, aux and the kind of a fault entry. -/
inductive Fetched where
  | words (l : List W32)
  | fault (cause : Byte) (aux : W64) (kind : Nat)
  deriving DecidableEq, Repr
/-- The 32-bit words of bytes (R3, R4). -/
def wordsOfBytes : List Byte → List W32
  | a :: b :: c :: d :: l => BitVec.ofNat 32 (natOf [a, b, c, d]) :: wordsOfBytes l
  | _ => []
/-- Translates one byte of code; a ZERO leaf that the first-touch unit serves is served at once (R238), and host memory is out of reach
while the host link is down (R368).
[DESIGN CHOICE: log entry 10] -/
def State.codeByte (s : State) (g : Group) (va : Nat) : XlRes × State :=
  let r := match s.translate g.pcore g.ctx va .fetch with
    | (.zero lvl epa e, s) =>
      if s.ftuServes g.pcore g.ctx va lvl e then (s.serveFirstTouch g.pcore g.ctx va false).translate g.pcore g.ctx va .fetch
      else (.zero lvl epa e, s)
    | r => r
  match r with
  | (.ok pa, s) => if decide (hostBase ≤ pa) && !s.plat.hostUp then (.fault 0x31 0, s) else (.ok pa, s)
  | r => r
/-- The fault of a translation that brought no address: a missing page parks the threads at the packet, a page without execute
right is a protection fault (R33). [DEDUCED: log entry 11] -/
def fetchFault (pkt : W32) (va : Nat) : XlRes → Fetched
  | .fault 0x11 _ => .fault 0x11 (pkt.setWidth 64) 0
  | .fault c k => .fault c (BitVec.ofNat 64 va) k
  | _ => .fault 0x10 (BitVec.ofNat 64 va) 1
/-- FETCH of a packet (R33): twelve bytes of the CODE handle, which may cross a page, as they stand now; the shepherd's from the
firmware image. [DESIGN CHOICE: log entry 10; DEDUCED: log entry 11] -/
def State.fetch (s : State) (g : Group) (pkt : W32) : Fetched × State :=
  let off := 12 * pkt.toNat
  if g.shep then
    let size : Nat := match s.plat.image with | some i => i.size | none => 0
    if size < off + 12 then (.fault 0x13 (pkt.setWidth 64) 0, s) else (.words (wordsOfBytes (memRead s.fw off 12)), s)
  else if !s.usable g g.code then (.fault 0x12 (g.code.idx.setWidth 64) 0, s)
  else if heLen g.code.ent < off + 12 then (.fault 0x13 (pkt.setWidth 64) 0, s)
  else if !heRight g.code.ent 2 then (.fault 0x11 (pkt.setWidth 64) 0, s)
  else
    let va := heBase g.code.ent + off
    match s.codeByte g va with
    | (.ok pa, s) =>
      if va % 4096 ≤ 4084 then (.words (wordsOfBytes (s.cohRead pa 12)), s)
      else
        let k := 4096 - va % 4096
        (match s.codeByte g (va + k) with
         | (.ok pb, s) => (.words (wordsOfBytes (s.cohRead pa k ++ s.cohRead pb (12 - k))), s)
         | (r, s) => (fetchFault pkt (va + k) r, s))
    | (r, s) => (fetchFault pkt va r, s)

/-! ## Chains and pipes (R35, R53) -/

/-- A maximal run of words in which every word but the last has C set. -/
def takeChain : List W32 → List W32
  | [] => []
  | w :: l => if w.getLsbD 31 then w :: takeChain l else [w]
/-- The chain of a packet that begins in a slot. -/
def chainFrom (ws : List W32) (slot : BitVec 2) : List W32 := takeChain (ws.drop slot.toNat)
/-- The pipes that words issue to (R27, R53). -/
inductive Pipe where
  | none | br | sx | vec | mem | eng
  deriving DecidableEq, Repr
/-- The pipe of a word, by its major (R53); a reserved major has none. -/
def pipeOf (w : W32) : Pipe :=
  let m := (majOf w).toNat
  let f := fldF w
  if m = 0 then (if f = 0 then .none else if f = 6 ∨ f = 7 then .sx else .br)
  else if m ≤ 4 then .br
  else if m = 5 then .sx
  else if m = 6 then .none
  else if m = 0x18 ∨ m = 0x1A ∨ m = 0x1B then .sx
  else if m ≤ 0x19 then .vec
  else if 0x20 ≤ m ∧ m ≤ 0x28 then .mem
  else if (0x29 ≤ m ∧ m ≤ 0x33) ∨ (0x38 ≤ m ∧ m ≤ 0x3A) then .eng
  else .none

/-! ## What holds a chain at issue -/

/-- Words that are releases, and engine commands, which are performed as releases (R205, R221). [DEDUCED: log entry 30] -/
def relWord (w : W32) : Bool :=
  let f := (fldF w).toNat
  let o := (w.extractLsb' 0 2).toNat
  match (majOf w).toNat with
  | 0x00 => f = 2 || f = 4
  | 0x21 | 0x23 => o = 2
  | 0x24 | 0x25 => decide (2 ≤ o)
  | 0x26 => f = 0
  | 0x29 => f = 1 || f = 2
  | 0x2A => f = 1 || f = 4
  | 0x2D | 0x2F | 0x30 | 0x33 | 0x38 | 0x3A => true
  | 0x31 => f ≠ 3
  | 0x32 => f = 0 || f = 2 || f = 3 || f = 4
  | 0x39 => f ≠ 0 && f ≠ 5
  | _ => false
/-- Words that are acquires (R205). [DEDUCED: log entry 30] -/
def acqWord (w : W32) : Bool :=
  let f := (fldF w).toNat
  let o := (w.extractLsb' 0 2).toNat
  match (majOf w).toNat with
  | 0x00 => f = 4
  | 0x20 | 0x22 => o = 2
  | 0x24 | 0x25 => o = 1 || o = 3
  | 0x26 => f = 0 || f = 1 || f = 2 || f = 0x0B
  | 0x29 => f = 3 || f = 4
  | 0x2A => f = 2 || f = 5
  | 0x2E => true
  | 0x32 => f = 1 || f = 6
  | 0x39 => f = 5
  | _ => false
/-- Release stores and atomics, which are sent to their homes when the thread's earlier accesses are complete (R211). -/
def relWrite (w : W32) : Bool :=
  match (majOf w).toNat with
  | 0x21 | 0x23 | 0x24 | 0x25 => relWord w
  | _ => false
/-- Engine commands, whose operations wait for the thread's earlier accesses (R221, R276, R298), and `fence`, which waits in SWITCH
(R200). -/
def relLater (w : W32) : Bool :=
  let f := (fldF w).toNat
  match (majOf w).toNat with
  | 0x26 => f = 0
  | 0x2D | 0x2F | 0x30 | 0x31 => true
  | 0x32 => f = 2 || f = 3 || f = 4
  | _ => false
/-- Whether a release write goes to a home of this device, which orders it; others wait for what is ahead of them at issue.
[DESIGN CHOICE: log entry 30] -/
def State.relHome (s : State) (g : Group) (t : Thread) (w : W32) : Bool :=
  let h := if (majOf w).toNat ≤ 0x23 then rdH t ((fldB w).extractLsb' 1 5) else s.fatPtr (s.actFor g t) t (fldA w)
  heSpace h.ent = .global || heSpace h.ent = .near || heSpace h.ent = .pod
/-- The class of an engine command, for the counters of R274. -/
def cmdClass (w : W32) : Option Cls :=
  let f := (fldF w).toNat
  match (majOf w).toNat with
  | 0x2D => if f = 5 then some .gather else if f ≤ 4 then some .copy else none
  | 0x2F => some .coll
  | 0x30 => some .tile
  | 0x31 => if f = 3 then none else some .tile
  | 0x32 => if f = 2 ∨ f = 3 ∨ f = 4 then some .copy else none
  | _ => none
/-- The operations that a command issues: one for each lane, one for a fetch set in a TILE word (R274, R304). -/
def cmdCount (w : W32) (m : Mask) : Nat := if majOf w = 0x31 then 1 else (lanesOf m).length
def Group.classN (g : Group) : Cls → Nat
  | .copy => g.copyN
  | .tile => g.tileN
  | .gather => g.gatherN
  | .coll => g.collN
/-- R274: the group's counter and the core's queue have room for the operations of a command. -/
def State.engineRoom (s : State) (g : Group) (m : Mask) (w : W32) : Bool :=
  match cmdClass w with
  | none => true
  | some c =>
    decide (g.classN c + cmdCount w m ≤ 63) &&
    decide (s.queuedOn g.pcore + cmdCount w m ≤ 256)
/-- Whether an `osend` puts a packet into this device's own reorder buffer: one for itself or for every device (R379). -/
def State.toSelf (s : State) (w : W32) (t : Thread) : Bool :=
  let dst : BitVec 12 := (rd t (fldB w)).extractLsb' 0 12
  dst = 0xFFF || dst.toNat = s.fab.dev
/-- In a re-execution a chain waits for the turn of what its lanes do at a scratchpad or a continuation ring: an atomic until the next record of
its word, and a `cont` until the next of its kernel's ring, is one of its lanes', and an acquire load until the scratchpad holds what its
record does (R397, R398). [DEDUCED: log entry 40] -/
def State.replayWaits (s : State) (g : Group) (lanes : List Thread) (w : W32) : Bool :=
  match s.replays.find? fun p => p.begun && p.ctx = g.ctx with
  | none => false
  | some p =>
    let m := (majOf w).toNat
    let mine := fun (x : LogRec) => lanes.any fun t => x.of g t.lane
    let later := fun (l : Option LogRec) => match l with | some x => !mine x | none => false
    if m = 0x24 ∨ m = 0x25 then
      lanes.any fun t =>
        let h := s.fatPtr (s.actFor g t) t (fldA w)
        heSpace h.ent = .scratch &&
          later (p.log.find? fun x => x.kind = 1 && x.addr = BitVec.ofNat 64 (heBase h.ent + (rd t (fldA w)).toNat))
    else if (m = 0x20 ∨ m = 0x22) && acqWord w then
      lanes.any fun t =>
        heSpace (rdH t ((fldB w).extractLsb' 1 5)).ent = .scratch &&
        (match p.log.find? fun x => x.of g t.lane with
         | some x =>
           let bs := if x.extra = [] then bytesOf 8 x.val.toNat else x.extra
           let n := min bs.length (szBytes ((fldB w).extractLsb' 0 1 ++ (fldF w).extractLsb' 4 2))
           x.kind = 2 && x.rwc = t.rwc && decide (s.scrRead g.fid x.addr.toNat n ≠ bs.take n)
         | none => false)
    else m = 0x33 && fldF w = 0 && later (p.log.find? fun x => x.kind = 7 && x.kid = g.kid)
/-- Whether a word of a chain must wait at issue for its lanes: a release for every earlier access, but where its effect waits
(R211, R213), an acquire or a release write for the acknowledgement of POD stores (R199), an engine command for room (R274), a memory
word for the core's request limit (R21), handle changes for the accesses under way in their context (R169), a shoot-down for one of the
16 places (R247), floating flags for the atomics under way (R110, R193), signal words for the results that a signal collects, and for
a `fence` of the target (R353). An ordered packet for this device waits for room in its reorder buffer (R381). More than 16 shoot-downs
of one word go to their lanes at once when none is in flight. [DEDUCED: log entry 30; DESIGN CHOICE: log entry 57; DESIGN CHOICE: log entry 74] -/
def State.wordWaits (s : State) (g : Group) (m : Mask) (see : Thread → Thread) (w : W32) : Bool :=
  let mine := s.reqs.any fun r => r.ofLanes g.gid m
  let f := (fldF w).toNat
  let lanes := (s.threads.filter fun t => t.inMask g.gid m).map see
  (relWord w && mine && !relLater w && !(relWrite w && lanes.all fun t => s.relHome g t w)) ||
  ((acqWord w || relWrite w) && (majOf w).toNat ≠ 0x26 && s.reqs.any fun r => r.ofLanes g.gid m && r.dev.isSome && r.rid.isNone) ||
  !s.engineRoom g m w ||
  (pipeOf w = .mem && decide (4096 ≤ (s.reqs.filter fun r => r.src = g.pcore).length)) ||
  (majOf w = 0x28 && (f = 2 || f = 3) && lanes.any fun t => s.reqs.any fun r => r.ctx = (s.actFor g t).ctx) ||
  (majOf w = 0x39 && f = 1 && s.sdns ≠ [] && decide (16 < s.sdns.length + lanes.length)) ||
  (majOf w = 0x32 && f = 0 && lanes.any (s.toSelf w) && decide (reorderSize < s.fab.reorder.length + lanes.length)) ||
  (majOf w = 0 && f = 6 && fldB w = 0x12 && s.reqs.any fun r =>
    r.ofLanes g.gid m && (match r.kind with | .rmw _ _ _ => true | _ => false)) ||
  (majOf w = 0 && f = 5 && (mine || lanes.any fun t => t.outst ≠ [])) ||
  (majOf w = 0x38 && f = 1 && lanes.any fun t => match s.target g t with | some x => x.outst ≠ [] || x.wait = some .fence | none => false)
/-- The registers that the next chain of a thread will read. -/
def Thread.atOpen (t : Thread) : Thread :=
  if t.contHere.any Cont.kept then t else { t with old := t.regs, octl := t.fpctl }
/-- Whether a chain of a group waits for a replay-queue entry (R150). -/
def State.noEntry (s : State) (g : Group) : Bool := !g.shep && (s.freeEntry g).isNone
/-- Whether a fetch set's next chain waits at issue. -/
def State.chainWaits (s : State) (g : Group) (f : FSet) : Bool :=
  s.noEntry g ||
  (match s.thread? g.gid (lowestLane f.lanes) with
   | none => true
   | some t =>
     if t.contHere.any Cont.ended then false else
     match (s.fetch g t.pkt).1 with
     | .words ws =>
       let lanes := (s.threads.filter fun t => t.inMask g.gid f.lanes).map Thread.atOpen
       (chainFrom ws t.slot).any fun w => s.wordWaits g f.lanes Thread.atOpen w || s.replayWaits g lanes w
     | .fault _ _ _ => false)
/-- Whether something is recorded for a group of a SHADOW pen: an event, the return of the last result that a parked sub-group
collects, or the end of a `fence`. Its threads may run on or be posted once the pen is ACTIVE, so the pen is worth switching in (R153, R342).
[DEDUCED: log entry 69] -/
def State.hasRecorded (s : State) (g : Group) : Bool :=
  (s.recorded.any fun e => e.gid = g.gid) ||
  (s.subs.any fun b => b.gid = g.gid && b.collecting && s.threads.all fun t => !(t.inMask b.gid b.lanes && t.outst ≠ [])) ||
  (s.threads.any fun t => t.gid = g.gid && t.wait = some .fence && s.drained t)
/-- The highest class of a pen's eligible fetch sets: READY, and held by no wait of R334 (R342). A group of a SHADOW pen for which an
event is recorded counts with its class. [DEDUCED: log entry 69] -/
def State.bestClass (s : State) (core p : Nat) : Option Nat :=
  (s.penGroups core p).foldl (fun b g =>
    if (g.fsets.any fun f => s.eligible g f && !s.chainWaits g f) || (s.shadowed g && s.hasRecorded g) then
      some (match b with | some x => min x (s.classOf g) | none => s.classOf g)
    else b) none

end Sys2Proof.Machine
end

