-- ==== Sys2Proof/Machine/Context.lean ====
section
/-! DEFINITION. Contexts and what system software does to them: creation and release (R337 to R339, R367), pens (R341 to R343),
the shepherd's entries (R347), forwarded system calls (R357, R359), and the SUP words with the ends of a kill and of a `kterm`
(R354, R360 to R362). -/
namespace Sys2Proof.Machine

/-! ## Descriptors (R338, R339) -/

/-- A context from its descriptor's 1024 bits. -/
def Context.ofNat (n pa : Nat) : Context :=
  { id := bitsOf n 31 0, st := .live, sys := n.testBit 36, libos := n.testBit 37, dbg := n.testBit 38, rec_ := n.testBit 39,
    sigh := BitVec.ofNat 5 (n >>> 40), sigsp := BitVec.ofNat 6 (n >>> 45), root := bitsOf n 127 64, htab := bitsOf n 191 128,
    qtab := bitsOf n 255 192, sigtab := bitsOf n 319 256, scq := bitsOf n 383 320, save := bitsOf n 447 384, bbuf := bitsOf n 511 448,
    bbsz := bitsOf n 518 512, scqlg := bitsOf n 531 528, job := BitVec.ofNat 32 (n >>> 544), libent := BitVec.ofNat 32 (n >>> 576),
    libend := BitVec.ofNat 32 (n >>> 608), sctmo := BitVec.ofNat 32 (n >>> 640), savn := bitsOf n 687 672, reason := 0, descPa := pa, ck := false,
    launches := 0, scqN := 0 }
/-- Whether a descriptor is valid: identifier, ranges and alignments of R338; reserved bits are ignored (R7). [DEDUCED: log entry 48] -/
def descOk (n : Nat) : Bool :=
  let c := Context.ofNat n 0
  decide (1 ≤ c.id) && decide (c.id ≤ 4095) &&
  decide (c.root < 2 ^ 39) && c.root % 2 ^ 21 = 0 && ([c.htab, c.qtab, c.sigtab, c.scq, c.save, c.bbuf].all fun v => decide (v < 2 ^ 57)) &&
  decide (c.bbsz ≤ 64) && decide (4 ≤ c.scqlg) && decide (c.scqlg ≤ 12) && c.sigtab % 1024 = 0 && c.scq % (16 * 2 ^ c.scqlg) = 0 &&
  c.save % 65536 = 0
/-- `ctx.cmd` 1: creates a context from the descriptor at `ctx.arg` (R337, R367). [DEDUCED: log entry 48] -/
def State.createCtx (s : State) : State :=
  let pa := s.plat.ctxArg.toNat
  let n := natOf (s.cohRead pa 128)
  let c := Context.ofNat n pa
  let set := fun (s : State) (v : W64) => { s with plat := { s.plat with ctxStat := v } }
  if (s.ctx? c.id).isSome then set s 1
  else if hbmBytes < pa + 128 || !descOk n then set s 2
  else
    let s := { s with ctxs := s.ctxs ++ [c], plat := { s.plat with everDbg := s.plat.everDbg || c.dbg, everRec := s.plat.everRec || c.rec_ } }
    set s 0
/-- `ctx.cmd` 2: releases the identifier of a DEAD context, named by `ctx.sel` (R367). [DEDUCED: log entry 48] -/
def State.releaseCtx (s : State) : State :=
  let id := s.plat.ctxSel.toNat
  let set := fun (s : State) (v : W64) => { s with plat := { s.plat with ctxStat := v } }
  match s.ctx? id with
  | none => set s 0
  | some c =>
    if c.st ≠ .dead then set s 1
    else
      set { s with
        ctxs := s.ctxs.filter fun x => x.id ≠ id, kernels := s.kernels.filter fun k => k.ctx ≠ id, calls := s.calls.filter fun k => k.ctx ≠ id,
        recs := s.recs.filter fun r => r.ctx ≠ id, qerr := s.qerr.filter fun x => x.1 ≠ id,
        fab := { s.fab with oc := s.fab.oc.filter fun e => e.ctx ≠ id, oq := s.fab.oq.filter fun e => e.ctx ≠ id } } 0
/-- The three fields that system software may rewrite take effect at the next trap, checkpoint or call (R338).
[DEDUCED: log entry 49] -/
def State.refreshCtx (s : State) (ctx : Nat) : State :=
  match s.ctx? ctx with
  | none => s
  | some c =>
    let n := natOf (s.cohRead c.descPa 128)
    let dbg := n.testBit 38
    let r := n.testBit 39
    { s.updCtx ctx fun c => { c with dbg := dbg, rec_ := r, sctmo := BitVec.ofNat 32 (n >>> 640) } with
      plat := { s.plat with everDbg := s.plat.everDbg || dbg, everRec := s.plat.everRec || r } }
/-- THE STATE OF A CONTEXT (R339): the first row of the table that holds. -/
def State.cxCode (s : State) (c : Context) : Nat :=
  let pens := s.cores.flatMap fun k => [k.pen0, k.pen1]
  let some_ := fun (st : PenSt) => pens.any fun p => p.st = st && p.ctx = c.id
  let herds := s.herds.filter fun h => h.ctx = c.id && h.st ≠ .retired
  let unplaced := s.kernels.any fun k => k.ctx = c.id && (k.st = .placing || k.st = .running)
  match c.st with
  | .stopped => 7
  | .dying => 8
  | .dead => 9
  | .stopping => 5
  | .live =>
    if some_ .active then 3 else if some_ .shadow then 4 else if some_ .loading then 1 else if some_ .saving then 5
    else if unplaced || herds.any fun h => h.st = .waiting || (h.st = .saved && h.runnable) then 2
    else if herds ≠ [] then 6 else 0
/-- `cx.state` of a context follows its state. -/
def State.followCtx (s : State) (c : Context) : State :=
  let b := s.cohByte (c.descPa + 4)
  let v : Byte := (b &&& 0xF0) ||| BitVec.ofNat 8 (s.cxCode c)
  if b = v then s else s.cohWrite 0 (c.descPa + 4) [v]
/-- Every `cx.state` follows; a DEAD context's was written when it died (R339, R405). -/
def State.followCtxs (s : State) : State := (s.ctxs.filter fun c => c.st ≠ .dead).foldl State.followCtx s

/-! ## Pen switches (R342) -/

/-- The SHADOW pen that a core may switch to, with the ACTIVE one. -/
def State.shadowOf (s : State) (core : Nat) : Option (Nat × Nat) :=
  if (s.pen core 0).st = .active && (s.pen core 1).st = .shadow then some (1, 0)
  else if (s.pen core 1).st = .active && (s.pen core 0).st = .shadow then some (0, 1)
  else none
/-- Whether the ACTIVE pen keeps its place: it holds a D0 herd, or a pager thread of a system pen is eligible (R241). -/
def State.penHeld (s : State) (core p : Nat) : Bool :=
  s.holdsD0 core p || (s.systemPen core p && (s.bestClass core p).isSome)
/-- Whether the SHADOW pen is to be switched in: for a higher class, or for a pager thread. -/
def State.penDue (s : State) (core p out : Nat) : Bool :=
  match s.bestClass core p with
  | none => false
  | some x => s.systemPen core p || (match s.bestClass core out with | some y => decide (x < y) | none => false)

/-! ## The shepherd (R347) -/

/-- A core's shepherd group. -/
def State.shepherd? (s : State) (core : Nat) : Option Group := s.groups.find? fun g => g.shep && g.pcore = core
/-- The shepherd group of a core and its idle threads come to be. [DEDUCED: log entry 51] -/
def State.withShepherd (s : State) (core : Nat) : State :=
  match s.shepherd? core with
  | some _ => s
  | none =>
    let gid := s.nextId
    let g : Group := { Group.absent gid with pcore := core, shep := true, regsN := 64 }
    let th := fun (lane : Nat) => { Thread.fresh gid lane 0 with st := .exited }
    { s with nextId := gid + 1, groups := s.groups ++ [g], threads := s.threads ++ (List.range 32).map th }
/-- The debugger event of a breakpoint or step trap, which the firmware's shepherd raises when `cx.dbg` = 1 (R399). -/
def State.debugEvent (s : State) (core : Nat) (e : ShepEntry) : State :=
  match s.tgtGroup core e.tgt with
  | none => s
  | some g =>
    let lane := (e.tgt.extractLsb' 0 5).toNat
    let dbg := match s.ctx? g.ctx with | some c => c.dbg | none => false
    match s.thread? g.gid lane, s.subs.find? fun b => b.gid = g.gid && hasLane b.lanes lane with
    | some t, some b =>
      if e.kind = 1 && (b.cause = 3 || b.cause = 4) && dbg then
        let seq := match s.recs.find? fun r => r.ctx = g.ctx with | some r => r.ckseq | none => 0
        s.post 3 core g.ctx [seq.setWidth 64, groupIdent g lane, t.rwc, b.cause.setWidth 64, b.lanes.setWidth 64]
      else s
    | _, _ => s
/-- AN ENTRY IS TAKEN: an idle shepherd thread starts at the shepherd entry with the entry in g0 to g3 and `%tgt`.
[DEDUCED: log entry 51] -/
def State.takeEntry (s : State) (core : Nat) : State :=
  let c := s.core core
  match c.entries, (List.range 32).find? fun l => !c.handling.contains l with
  | e :: rest, some lane =>
    if c.stopped then s else
    let s := (s.refreshCtx e.ctx).debugEvent core e
    let s := s.withShepherd core
    match s.shepherd? core with
    | none => s
    | some g =>
      let ws := wrs32 0 [BitVec.ofNat 32 (e.kind % 256 + (if e.kind = 1 then e.idx % 256 else 0xFF) * 256), BitVec.ofNat 32 e.ctx, e.g2, e.g3]
      let go := fun (t : Thread) =>
        let t := { t.put ws with st := .ready, pkt := Config.shepherdEntry, slot := 0, tgt := e.tgt, pend := [], wait := none }
        { t with old := t.regs }
      ((s.updCore core fun c => { c with entries := rest, handling := c.handling ++ [lane] }).updT g.gid lane go).enset g.gid (laneBit lane)
  | _, _ => s

/-! ## Forwarded system calls (R357, R359) -/

/-- The fat pointer of the call block that a parked caller's trap holds: the handle and the offset (R355, R356). -/
def State.callBlock (s : State) (g : Group) (t : Thread) : HReg × Nat :=
  (s.engHandle g ((t.trr.aux.extractLsb' 32 32).toNat % 4096), (t.trr.aux.extractLsb' 0 32).toNat)
/-- Posts a CALL done entry to the caller's core, or keeps it for the resumption of its herd (R346, R357). -/
def State.callDone (s : State) (c : Call) (lost : Bool) : State :=
  let g := s.group c.gid
  let e : ShepEntry := { kind := 3, idx := 0xFF, ctx := c.ctx, g2 := BitVec.ofNat 32 c.seq, g3 := if lost then 1 else 0, tgt := tgtOf g c.lane }
  if (s.group? c.gid).isNone then s
  else if s.onCore g then s.pushShep g.pcore e
  else (s.updHerd g.ctx g.kid g.herd fun h => { h with owed := h.owed ++ [(c.gid, c.lane, e)] }).recordRelease g
/-- Marks a call DONE and writes its block: the return value when the host gave one, the error and the sequence.
[DEDUCED: log entry 50] -/
def State.endCall (s : State) (c : Call) (ret : Option W64) (err : W32) : Bool × State :=
  let g := s.group c.gid
  let mark := fun (x : Call) => if x.seq = c.seq then { x with st := .done } else x
  let s := { s with calls := s.calls.map mark }
  let tail := bytesOf 4 err.toNat ++ bytesOf 4 c.seq
  let va := heBase c.h.ent + c.off
  let w := match ret with
    | some r => s.vaWrite c.ctx (va + 48) (bytesOf 8 r.toNat ++ tail)
    | none => s.vaWrite c.ctx (va + 56) tail
  if !s.usable g c.h then (false, s)
  else match w with
    | some s' =>
      let bs := (s'.vaRead c.ctx va 64).getD []
      (true, s'.logEvent c.gid c.lane 8 (BitVec.ofNat 64 va) (ret.getD 0) bs)
    | none => (false, s)
/-- The place of the entry that a service core takes next from a context's system-call queue. [DEDUCED: log entry 50] -/
def Context.scqPlace (c : Context) : Nat := c.scq + 16 * (c.scqN % 2 ^ c.scqlg)
/-- The entry that stands there: the call block's address and the thread. The shepherd's code writes it, and a service core clears the
place as it takes it: an entry of zeros is none (R357). [DEDUCED: log entry 50] -/
def State.nextCall (s : State) (c : Context) : Option (Nat × W64) :=
  match s.vaRead c.id c.scqPlace 16 with
  | some bs => if natOf bs = 0 then none else some (natOf (bs.take 8), BitVec.ofNat 64 (natOf (bs.drop 8)))
  | none => none
/-- The parked caller that an entry names. [DEDUCED: log entry 50] -/
def State.callerOf (s : State) (ctx : Nat) (who : W64) : Option Thread :=
  let lane := (who.extractLsb' 56 5).toNat
  (s.groups.find? fun g => g.ctx = ctx && !g.shep && groupIdent g lane = who).bind fun g =>
    if s.subs.any fun b => b.gid = g.gid && b.cause = 5 && hasLane b.lanes lane then s.thread? g.gid lane else none
/-- A caller's call is journalled and forwarded; in a re-execution it is answered from the log (R397). [DEDUCED: log entry 50] -/
def State.forwardCall (s : State) (t : Thread) (va : Nat) : State :=
  let g := s.group t.gid
  let s := s.touchRead g.ctx va 64
  let b := s.callBlock g t
  let seq := s.callSeq + 1
  let idem := match s.vaRead g.ctx va 64 with | some bs => (natOf bs).testBit 32 | none => false
  let c : Call := { seq, ctx := g.ctx, gid := t.gid, lane := t.lane, h := b.1, off := b.2, idem, st := if s.plat.hostUp then .sent else .logged }
  let s := { s with callSeq := seq, calls := s.calls ++ [c] }
  if s.replaying g.ctx then
    let l := s.logged t.gid t.lane 8 (BitVec.ofNat 64 va) 0 []
    let mark := fun (x : Call) => if x.seq = seq then { x with st := .done } else x
    (({ l.2.2 with calls := l.2.2.calls.map mark }.vaWrite g.ctx va (takeBytes 64 l.2.1)).getD l.2.2).callDone c false
  else s
/-- A service core takes the next entry of a context's system-call queue and forwards its call; calls journalled while the host link was
down are sent now. An entry that names no parked caller is dropped. [DEDUCED: log entry 50] -/
def State.forwardCalls (s : State) (ctx : Nat) : State :=
  let s := s.refreshCtx ctx
  let send := fun (c : Call) => if c.ctx = ctx && c.st = .logged then { c with st := .sent } else c
  let s := if s.plat.hostUp then { s with calls := s.calls.map send } else s
  match s.ctx? ctx with
  | none => s
  | some c =>
    match s.nextCall c with
    | none => s
    | some (va, who) =>
      let s := (s.touchRead ctx c.scqPlace 16).updCtx ctx fun c => { c with scqN := c.scqN + 1 }
      let s := (s.vaWrite ctx c.scqPlace (List.replicate 16 0)).getD s
      match s.callerOf ctx who with
      | some t => s.forwardCall t va
      | none => s
/-- A caller's lane leaves its sub-group and takes the watchdog cause instead of resuming (R357). [DEDUCED: log entry 50] -/
def State.watchdogTrap (s : State) (gid lane : Nat) : State :=
  match s.subs.find? fun b => b.gid = gid && hasLane b.lanes lane && b.cause = 5 with
  | none => s
  | some b =>
    let id := s.nextId
    let left := b.lanes &&& ~~~laneBit lane
    let subs := if left = 0 then s.subs.filter fun x => x.id ≠ b.id
      else s.subs.map fun (x : SubGroup) => if x.id = b.id then { x with lanes := left } else x
    let nb : SubGroup := { b with id, lanes := laneBit lane, cause := 0x38, idx := none, taken := false, collecting := false }
    let s := { s with nextId := id + 1, subs := subs ++ [nb] }
    let s := s.updT gid lane fun t => { t with trr := { t.trr with cause := 0x38 } }
    if s.onCore (s.group gid) then s.admitSub id else s.recordRelease (s.group gid)
/-- A restarted service core recovers a call of its journal (R359). [DEDUCED: log entry 50] -/
def State.recoverCall (s : State) (c : Call) : State :=
  match c.st with
  | .logged =>
    let mark := fun (x : Call) => if x.seq = c.seq then { x with st := if s.plat.hostUp then .sent else .logged } else x
    { s with calls := s.calls.map mark }
  | .sent =>
    if c.idem then s
    else
      let r := s.endCall c none 0xFFFF0001
      r.2.callDone c (!r.1)
  | .acked | .done => s

/-! ## The SUP words (R354, R362) -/

/-- The parked sub-group in an entry of a core's replay queue. -/
def State.entryAt (s : State) (core i : Nat) : Option SubGroup := (s.coreSubs core).find? fun b => b.idx = some i
/-- `repl`: the status, and the state after it. -/
def State.repl (s : State) (core i : Nat) : W32 × State :=
  match (if 63 < i then none else s.entryAt core i) with
  | none => (1, s)
  | some b =>
    if b.cause = 0x10 then (2, s)
    else
      let s := s.releaseSub b.id
      (0, if b.cause = 5 then s.acquireCore core else s)
/-- `penx`. -/
def State.penx (s : State) (core p : Nat) : W32 × State :=
  if 1 < p then (3, s)
  else if (s.pen core p).st = .active then (0, s)
  else if (s.pen core p).st ≠ .shadow then (1, s)
  else if (s.pen core (1 - p)).st = .active && s.penHeld core (1 - p) then (2, s)
  else (0, s.switchPen core p)
/-- `sigdl` of one lane. -/
def State.laneSigdl (s : State) (iss : Issue) (t : Thread) (a b c : Fld) : StepRes :=
  let n := (rd t b).toNat
  if n = 0 ∨ 63 < n then .ok (s.give t a 4)
  else
    match s.target (s.group iss.gid) t with
    | none => .ok (s.give t a 1)
    | some x =>
      if x.st = .exited then .ok (s.give t a 1)
      else
        let s := (s.fireWait x).takeOwn x.gid x.lane
        let x := (s.thread? x.gid x.lane).getD x
        let r := (s.leaveChain x.gid (if x.st = .parked then 0 else laneBit x.lane)).deliverSignal x n (rd2 t c)
        .ok (r.2.give t a r.1)
/-- Whether a herd is one that no swap takes out: a D0 kernel's, or a system pen's (R241, R362). [DEDUCED: log entry 45] -/
def State.fixedHerd (s : State) (h : Herd) : Bool :=
  h.st.inPens && ((match s.kernel? h.ctx h.kid with | some k => k.r.dclass = 0 | none => false) ||
    (s.herdFlocksOf h.ctx h.kid h.herd).any fun f => s.systemPen f.pcore f.pen)
/-- Whether a kernel has a herd of an index: placed and not retired, or still to be placed. [DEDUCED: log entry 45] -/
def State.hasHerd (s : State) (ctx kid herd : Nat) : Bool :=
  match s.kernel? ctx kid with
  | none => false
  | some k =>
    k.st ≠ .done && k.st ≠ .faulted &&
    (match s.herd? ctx kid herd with | some h => h.st ≠ .retired | none => decide (herd < k.h))
/-- Swaps out a list of herds for a thread, which waits until they are out of their pens. [DEDUCED: log entry 45] -/
def State.swapFor (s : State) (iss : Issue) (t : Thread) (a : Fld) (l : List Herd) : State :=
  let s := l.foldl (fun s h => s.commitSwap h none) s
  let wait := l.filter fun h => match s.herd? h.ctx h.kid h.herd with | some x => x.st.inPens | none => false
  if wait = [] then s.give t a 0 else s.updT t.gid t.lane fun t => t.block (.swp a (wait.map Herd.key)) iss [.g a]
/-- `swp` of one lane. [DEDUCED: log entry 45] -/
def State.laneSwp (s : State) (iss : Issue) (t : Thread) (a b c : Fld) : StepRes :=
  let op := (rd t b).toNat
  let x := (rd t c).toNat
  let k := (rd t (c + 1)).toNat
  let h := (rd t (c + 2)).toNat
  let say := fun (v : W32) => StepRes.ok (s.give t a v)
  if 3 < op then say 3
  else match s.ctx? x with
    | none => say 1
    | some cx =>
      if cx.st = .dying then say 5
      else if cx.st = .dead ∨ (op = 0 ∧ !s.hasHerd x k h) then say 1
      else if op = 3 then
        .ok ((if cx.st = .stopped then s.updCtx x fun c => { c with st := .live } else s).give t a 0)
      else if op = 2 && cx.st = .stopped then say 0
      else
        let l := s.herds.filter fun y => y.ctx = x && y.st.inPens && (op ≠ 0 || (y.kid = k && y.herd = h))
        let d0 := s.kernels.any fun y => y.ctx = x && y.r.dclass = 0 && y.st ≠ .done && y.st ≠ .faulted && (op ≠ 0 || y.kid = k)
        if d0 || l.any s.fixedHerd then say 2
        else if !s.slotsFor l then say 4
        else if op = 2 then
          .ok (((s.updCtx x fun c => { c with st := .stopping }).swapFor iss t a l).settleStop x)
        else .ok (s.swapFor iss t a l)
/-- Whether a thread belongs to a context: a shepherd's belongs to none. -/
def Group.ownCtx (g : Group) : Option Nat := if g.shep then none else some g.ctx
/-- `kill` of one lane. -/
def State.laneKill (s : State) (iss : Issue) (t : Thread) (a b c : Fld) : StepRes :=
  let x := (rd t b).toNat
  if (s.group iss.gid).ownCtx = some x then .ok (s.give t a 3)
  else match s.ctx? x with
    | none => .ok (s.give t a 2)
    | some cx =>
      if cx.st = .dead then .ok (s.give t a 2)
      else if cx.st = .dying then .ok (s.give t a 1)
      else .ok ((s.killCtx cx ((rd t c).setWidth 8)).give t a 0)
/-- `kterm` of one lane. -/
def State.laneKterm (s : State) (iss : Issue) (t : Thread) (a b c : Fld) : StepRes :=
  let x := (rd t b).toNat
  let kid := (rd t c).toNat
  let g := s.group iss.gid
  match s.ctx? x with
  | none => .ok (s.give t a 2)
  | some cx =>
    if !cx.alive then .ok (s.give t a 2)
    else match s.kernel? x kid with
      | none => .ok (s.give t a 1)
      | some k =>
        if k.st = .done ∨ k.st = .faulted then .ok (s.give t a 1)
        else if g.ownCtx = some x ∧ g.kid = kid then .ok (s.give t a 3)
        else if k.killed then .ok (s.give t a 0)
        else
          let s := (s.endKernelHerds x kid).updKernel x kid fun k => { k with killed := true, ring := [], flush := [], waiters := [], cores := [] }
          .ok (s.give t a 0)
/-- Whether no write of a kernel that was ended, or of a dying context, is still on its way (R360, R362). -/
def State.quiet (s : State) (ctx : Nat) (all : Bool) : Bool :=
  s.reqs.all fun r => !(r.ctx = ctx && (all || ((s.group? r.gid).isNone && r.gid ≠ 0) ||
    (match r.eng with | some i => (s.op? i).isNone | none => false)))

/-- R362. Releases a parked sub-group of the replay queue. -/
def execRepl (_cs : CS) (a b : BitVec 6) (s : State) : Out :=
  priv s fun s => .next (s.laneFold fun iss s t =>
    let r := s.repl (s.group iss.gid).pcore (rd t b).toNat
    .ok (r.2.give t a r.1))

/-- R354. Delivers a signal to the target thread by writing a frame and redirecting the thread to the handler. -/
def execSigdl (_cs : CS) (a b r : BitVec 6) (s : State) : Out :=
  priv s fun s => .next (s.laneFold fun iss s t => s.laneSigdl iss t a b r)

/-- R362. Forces a switch to the shadow pen. -/
def execPenx (_cs : CS) (a b : BitVec 6) (s : State) : Out :=
  priv s fun s => .next (s.laneFold fun iss s t =>
    let r := s.penx (s.group iss.gid).pcore (rd t b).toNat
    .ok (r.2.give t a r.1))

/-- R362. Swaps out a herd or a context, stops a context, or continues it. -/
def execSwp (_cs : CS) (a b r : BitVec 6) (s : State) : Out :=
  priv s fun s => .next (s.laneFold fun iss s t => s.laneSwp iss t a b r)

/-- R362. Begins the kill sequence of a context. -/
def execKill (_cs : CS) (a b r : BitVec 6) (s : State) : Out :=
  priv s fun s => .next (s.laneFold fun iss s t => s.laneKill iss t a b r)

/-- R362. Terminates one kernel of a context. -/
def execKterm (_cs : CS) (a b r : BitVec 6) (s : State) : Out :=
  priv s fun s => .next (s.laneFold fun iss s t => s.laneKterm iss t a b r)

/-- R367. A ctx.cmd write of 1 creates a context from the descriptor at ctx.arg. -/
def execCtxCreate  (s : State) : Out :=
  .next s.createCtx

/-- R367. A ctx.cmd write of 2 releases the identifier of a DEAD context. -/
def execCtxRelease  (s : State) : Out :=
  .next s.releaseCtx

/-- R342. The core switches to its shadow pen for a higher class or for a pager thread. -/
def execPenSwitch (core : Nat) (s : State) : Out :=
  match s.shadowOf core with
  | some (p, out) => .next (if s.penDue core p out && !s.penHeld core out then s.switchPen core p else s)
  | none => .next s

/-- R342. The active pen has had no eligible fetch set for 32 cycles, so the core switches to the shadow pen. -/
def execPenIdleSwitch (core : Nat) (s : State) : Out :=
  match s.shadowOf core with
  | some (p, out) =>
    .next (if (s.bestClass core out).isNone && (s.bestClass core p).isSome && !s.holdsD0 core out then s.switchPen core p else s)
  | none => .next s

/-- R341. A SAVING pen's image is written, and the pen becomes EMPTY. -/
def execSwapSaveDone (ctx kid herd : Nat) (s : State) : Out :=
  .next (s.saveDone ctx kid herd)

/-- R341. A LOADING pen's image has arrived, the pen becomes SHADOW or ACTIVE, and recorded events are taken. -/
def execSwapLoadDone (ctx kid herd : Nat) (s : State) : Out :=
  .next (s.loadDone ctx kid herd)

/-- R347. An idle shepherd thread takes the oldest entry of the core and starts at the shepherd entry. -/
def execShepherdEntryTake (core : Nat) (s : State) : Out :=
  .next (s.takeEntry core)

/-- R357. A service core takes a system-call queue entry, journals it and forwards it to the host. -/
def execSyscallForward (ctx : Nat) (s : State) : Out :=
  .next (s.forwardCalls ctx)

/-- R357. The host's reply is written to the call block and a CALL done entry is posted to the caller's core. -/
def execSyscallReply (seq : Nat) (ret : W64) (err : W32) (s : State) : Out :=
  match s.calls.find? fun c => c.seq = seq with
  | some c =>
    if c.st = .sent ∨ c.st = .acked then
      let r := s.endCall c (some ret) err
      .next (r.2.callDone c (!r.1))
    else .next s
  | none => .next s

/-- R357. A call outlives cx.sctmo, is marked timed out, and its thread takes cause 0x38. -/
def execSyscallTimeout (seq : Nat) (s : State) : Out :=
  match s.calls.find? fun c => c.seq = seq with
  | some c =>
    let on := match s.ctx? c.ctx with | some x => x.sctmo ≠ 0 | none => false
    .next (if c.st = .done || !on then s else (s.endCall c none 0xFFFF0002).2.watchdogTrap c.gid c.lane)
  | none => .next s

/-- R359. The host acknowledges receipt of a forwarded system call, and the journal moves the call from SENT to ACKED. -/
def execSyscallReceiptAck (seq : Nat) (s : State) : Out :=
  let mark := fun (c : Call) => if c.seq = seq && c.st = .sent then { c with st := .acked } else c
  .next { s with calls := s.calls.map mark }

/-- R359. A service core misses its watchdog, is restarted, and recovers its journal. -/
def execServiceCoreWatchdog  (s : State) : Out :=
  .next (s.calls.foldl State.recoverCall s)

/-- R360. The four kill steps have finished, the context becomes DEAD, and the kill-complete event is posted. -/
def execKillComplete (ctx : Nat) (s : State) : Out :=
  match s.ctx? ctx with
  | some c =>
    if c.st = .dying && s.quiet ctx true then
      -- what cores still own for the context goes home, and nothing of it stays in a core (R360)
      let s := ((s.l1.filter fun l => l.ctx = ctx && l.st = .own).map L1Word.addr).foldl State.pullWord s
      let s := { s with tlb := s.tlb.filter fun t => t.ctx ≠ ctx, l1 := s.l1.filter fun l => l.ctx ≠ ctx }
      let s := s.updCtx ctx fun c => { c with st := .dead }
      .next ((s.followCtx { c with st := .dead }).post 11 0xFFFF ctx [BitVec.ofNat 64 c.root, c.reason.setWidth 64])
    else .next s
  | none => .next s

/-- R362. Once the homes confirm that no write of the kernel is in flight, the terminated kernel becomes FAULTED with outcome 3. -/
def execKtermComplete (ctx kid : Nat) (s : State) : Out :=
  match s.kernel? ctx kid with
  | some k =>
    if k.killed && k.st ≠ .done && k.st ≠ .faulted && s.quiet ctx false then
      .next ((s.kernelOver ctx kid .faulted (some 3)).serveLnch ctx)
    else .next s
  | none => .next s

end Sys2Proof.Machine
end

