-- ==== Sys2Proof/Machine/Digest.lean ====
section
/-! DEFINITION. The SHA-384 digest of the running image (R404, R406), which the spec names and does not define: FIPS 180-4.
[PRESUMED: log entry 64] -/
namespace Sys2Proof.Machine

/-- The greatest number of so many bits whose k-th power is at most n: its bits from the highest down. -/
def rootFrom (k n : Nat) : Nat → Nat → Nat
  | 0, r => r
  | b + 1, r => rootFrom k n b (if (r + 2 ^ b) ^ k ≤ n then r + 2 ^ b else r)
/-- The first 64 bits of the fractional part of the k-th root of a number. -/
def fracRoot (k p : Nat) : W64 := BitVec.ofNat 64 (rootFrom k (p * 2 ^ (64 * k)) 70 0)
/-- The first 80 prime numbers. -/
def shaPrimes : List Nat :=
  ((List.range 410).filter fun n => decide (2 ≤ n) && (List.range 21).all fun d => decide (d < 2) || decide (n ≤ d) || n % d ≠ 0).take 80
/-- The 80 round constants: of the cube roots of the first 80 primes. -/
def shaK : List W64 := shaPrimes.map (fracRoot 3)
/-- The initial hash value: of the square roots of the ninth to the sixteenth prime. -/
def shaInit : List W64 := ((shaPrimes.drop 8).take 8).map (fracRoot 2)
/-- The message schedule: each word from sixteen before it. -/
def shaSchedule : Nat → List W64 → List W64
  | 0, l => l
  | n + 1, l =>
    let w := fun (i : Nat) => (l[l.length - i]?).getD 0
    let s0 := (w 15).rotateRight 1 ^^^ (w 15).rotateRight 8 ^^^ ((w 15) >>> 7)
    let s1 := (w 2).rotateRight 19 ^^^ (w 2).rotateRight 61 ^^^ ((w 2) >>> 6)
    shaSchedule n (l ++ [w 16 + s0 + w 7 + s1])
/-- One round on the eight working variables. -/
def shaRound (v : List W64) (x : W64 × W64) : List W64 :=
  match v with
  | [a, b, c, d, e, f, g, h] =>
    let s1 := e.rotateRight 14 ^^^ e.rotateRight 18 ^^^ e.rotateRight 41
    let t1 := h + s1 + ((e &&& f) ^^^ (~~~e &&& g)) + x.1 + x.2
    let s0 := a.rotateRight 28 ^^^ a.rotateRight 34 ^^^ a.rotateRight 39
    let t2 := s0 + ((a &&& b) ^^^ (a &&& c) ^^^ (b &&& c))
    [t1 + t2, a, b, c, d + t1, e, f, g]
  | _ => v
/-- The hash value after a block of 16 words. -/
def shaBlock (h block : List W64) : List W64 := h.zipWith (· + ·) ((shaK.zip (shaSchedule 64 block)).foldl shaRound h)
/-- The first n words of bytes, the highest byte first. -/
def shaWords : Nat → List Byte → List W64
  | 0, _ => []
  | n + 1, l => BitVec.ofNat 64 ((takeBytes 8 l).foldl (fun v b => v * 256 + b.toNat) 0) :: shaWords n (l.drop 8)
/-- Hashes n blocks of 128 bytes. -/
def shaBlocks : Nat → List Byte → List W64 → List W64
  | 0, _, h => h
  | n + 1, l, h => shaBlocks n (l.drop 128) (shaBlock h (shaWords 16 l))
/-- SHA-384 of a message: padded to whole blocks with its length in bits at the end; the first six words of the last hash value.
[PRESUMED: log entry 64] -/
def sha384 (m : List Byte) : Nat :=
  let blocks := (m.length + 17 + 127) / 128
  let len := (List.range 16).map fun i => BitVec.ofNat 8 (8 * m.length / 256 ^ (15 - i))
  let padded := m ++ [0x80] ++ List.replicate (128 * blocks - 17 - m.length) 0 ++ len
  ((shaBlocks blocks padded shaInit).take 6).foldl (fun v w => v * 2 ^ 64 + w.toNat) 0

end Sys2Proof.Machine
end

