-- ==== Sys2Proof/Machine/Page.lean ====
section
/-! DEFINITION. The PAGE words (R248, R249) and the events of pages: the first-touch unit (R237, R238), tiers and migration
(R245, R246) and shoot-downs (R247). -/
namespace Sys2Proof.Machine

/-! ## Frames and tiers (R245, R246) -/

/-- A 64 KiB frame unpinned in HBM. -/
def Frame.reset (frame : Nat) : Frame := ⟨frame, .hbm, 0, 0, 0, [], [], [], 0, false, false, false, 0, 0, 0⟩
def State.frame (s : State) (n : Nat) : Frame := (s.frames.find? fun f => f.frame = n).getD (Frame.reset n)
/-- Changes a frame; one that is as reset leaves it is not listed. -/
def State.updFrame (s : State) (n : Nat) (f : Frame → Frame) : State :=
  let x := f (s.frame n)
  let rest := s.frames.filter fun y => y.frame ≠ n
  { s with frames := if x = Frame.reset n then rest else x :: rest }
/-- No tier pin and no near pin. -/
def Frame.unpinned (f : Frame) : Bool := f.tierPins = 0 && f.nearPins = 0
/-- The near tier's frames: 2 GiB (R22). -/
def nearFrames : Nat := 32768
/-- Whether a frame occupies the near tier. -/
def TierSt.near? : TierSt → Bool
  | .hbm => false
  | _ => true
/-- The coldest unpinned near frame. [DEDUCED: log entry 53] -/
def State.coldest (s : State) : Option Frame :=
  (s.frames.filter fun f => f.st = .near && f.unpinned).foldl (fun (b : Option Frame) f =>
    match b with
    | some x => if f.hot < x.hot ∨ (f.hot = x.hot ∧ f.frame < x.frame) then some f else b
    | none => some f) none
/-- An evict request taken by a frame: in NEAR unpinned the copy back begins, pinned it is dropped; during a promotion it is
held. For one that meets a demotion the table of R245 has no row: it is merged with the demotion. [DEDUCED: log entry 53] -/
def State.takeEvict (s : State) (n : Nat) : State :=
  let f := s.frame n
  match f.st with
  | .near => s.updFrame n fun f => { f with st := if f.unpinned then .demoting else .near, heldEvict := false }
  | .promoting => s.updFrame n fun f => { f with heldEvict := true }
  | .hbm | .demoting => s.updFrame n fun f => { f with heldEvict := false }
/-- The near-tier banks with room for a frame: a bank of 32 MiB holds 512 (R19). -/
def State.roomyBanks (s : State) : List Nat :=
  (List.range 64).filter fun b => decide ((s.frames.filter fun f => f.st.near? && f.bank % 64 = b).length < 512)
/-- A promote request taken by a frame: with the near tier full it waits for the demotion of the coldest unpinned near frame, one for
each promotion that waits. Which bank with room gets it is open. [DEDUCED: log entry 53] -/
def State.takePromote (s : State) (n : Nat) : State :=
  let f := s.frame n
  match f.st with
  | .hbm =>
    if (s.frames.filter fun f => f.st.near?).length < nearFrames then
      let b := s.takeFree
      let room := s.roomyBanks
      b.2.updFrame n fun f => { f with st := .promoting, bank := (room[b.1.toNat % room.length]?).getD 0, heldPromote := false, waiting := false }
    else
      let s := s.updFrame n fun f => { f with heldPromote := true }
      let wait := (s.frames.filter fun f => f.st = .hbm && f.heldPromote).length
      if wait ≤ (s.frames.filter fun f => f.st = .demoting).length then s
      else (match s.coldest with | some c => s.takeEvict c.frame | none => s)
  | .demoting => s.updFrame n fun f => { f with heldPromote := true }
  | .promoting | .near => s.updFrame n fun f => { f with heldPromote := false }
/-- A promotion ends: the frame's home is its near bank; an eviction held meanwhile is taken when no pin remains.
[DEDUCED: log entry 53] -/
def State.endPromotion (s : State) (n : Nat) : State :=
  let s := s.updFrame n fun f => { f with st := .near, waiting := false }
  let f := s.frame n
  if f.heldEvict && f.unpinned then s.takeEvict n else s
/-- Whether a frame's word of an index stands at a stable point, where its home may switch (R173, R177). -/
def State.wordStable (s : State) (n i : Nat) : Bool := !(s.dirOf (65536 * n + 4 * i)).transient
/-- The words of a frame. -/
def frameWords : Nat := 16384
/-- A move whose copy is done goes on (R245): a promotion waits for the frame's L2 pins; then the home switches word by word, the next word
as it stands at a stable point, and with the last word the move ends. [DEDUCED: log entry 53] -/
def State.copyDone (s : State) (n : Nat) : State :=
  let f := s.frame n
  let k := f.moved + f.mid
  match f.st with
  | .hbm | .near => s
  | st =>
    if st = .promoting && k = 0 && f.l2Pins ≠ 0 then s.updFrame n fun f => { f with waiting := true }
    else if k < frameWords then
      s.updFrame n fun f => { f with waiting := false, moved := k, mid := if s.wordStable n k then 1 else 0 }
    else
      let s := s.updFrame n fun f => { f with moved := 0, mid := 0 }
      if st = .promoting then s.endPromotion n else s.updFrame n fun f => { f with st := .hbm, bank := 0, heldEvict := false }
/-- The wait for L2 pins is over: they turn into fault-on-next-access. -/
def State.pinTimeout (s : State) (n : Nat) : State :=
  let f := s.frame n
  if f.st = .promoting && f.waiting then
    (s.updFrame n fun f => { f with fna := (f.fna ++ f.l2Ctx).dedup, l2Ctx := [], l2Pins := 0 }).copyDone n
  else s

/-! ## Fault entries and `fqdone` (R240, R249) -/

/-- A fault entry as `fqpop` delivers it. -/
def FaultEnt.words (e : FaultEnt) : List W32 :=
  let at_ := e.kind.toNat + e.acc.toNat * 16 + boolBit e.eng * 128 + e.pcore % 2048 * 256 + e.pen % 2 * 2 ^ 19 + e.grp % 256 * 2 ^ 20
  [BitVec.ofNat 32 e.va, BitVec.ofNat 32 (e.va / 2 ^ 32), BitVec.ofNat 32 e.ctx, BitVec.ofNat 32 at_, e.lanes, e.seq,
   e.time.extractLsb' 0 32, e.time.extractLsb' 32 32]
/-- What a `fqpop.try` of an empty queue delivers: EMPTY. -/
def emptyEntry : List W32 := [0, 0, 0, 0xF, 0, 0, 0, 0]
/-- The second doubleword of an entry: its context, kind, rights and place. -/
def entryTag (ws : List W32) : W64 := (ws[3]?).getD 0 ++ (ws[2]?).getD 0
/-- An entry with another second doubleword. -/
def withTag (ws : List W32) (v : W64) : List W32 := ws.take 2 ++ [v.extractLsb' 0 32, v.extractLsb' 32 32] ++ ws.drop 4
/-- Takes the head entry of a pasture's queue. -/
def State.popFault (s : State) (p : Nat) : Option (FaultEnt × State) :=
  match s.fq[p]? with
  | some q =>
    (match q.entries with
     | e :: rest => some (e, { s with fq := s.fq.setIfInBounds p { q with entries := rest } })
     | [] => none)
  | none => none
/-- `fqpop` of one lane: an acquire (R248). [DEDUCED: log entry 40] -/
def State.laneFqpop (s : State) (iss : Issue) (t : Thread) (a : Fld) (try_ : Bool) : StepRes :=
  let core := (s.group iss.gid).pcore
  let p := pastureOf core
  let give := fun (s : State) (ws : List W32) (from_ : Option Nat) =>
    (s.updT t.gid t.lane fun t =>
      { t.await (Result.known t.nextRes (wrs32 a ws) 0 false) with popCore := from_ }).acquireCore core
  match s.popFault p with
  | some (e, s') =>
    if try_ then
      -- what a try form delivers is logged by its second doubleword (R396); in a re-execution that is the logged one
      let l := s'.logged t.gid t.lane 4 (BitVec.ofNat 64 p) (entryTag e.words) []
      .ok (if l.1 = entryTag emptyEntry then give { l.2.2 with fq := s.fq } emptyEntry t.popCore else give l.2.2 (withTag e.words l.1) (some e.pcore))
    else .ok (give s' e.words (some e.pcore))
  | none =>
    if try_ then
      let l := s.logged t.gid t.lane 4 (BitVec.ofNat 64 p) (entryTag emptyEntry) []
      .ok (give l.2.2 (withTag emptyEntry l.1) t.popCore)
    else
      let add := fun (q : FaultQueue) => { q with waiters := q.waiters ++ [(t.gid, t.lane)] }
      let fq := match s.fq[p]? with | some q => s.fq.setIfInBounds p (add q) | none => s.fq
      .ok ({ s with fq := fq }.updT t.gid t.lane fun t => t.block (.fqpop a) iss (destsOf (wrs32 a emptyEntry)))
/-- A queue with an entry serves the thread that has waited longest on it. -/
def State.serveFq (s : State) (p : Nat) : State :=
  match s.fq[p]? with
  | some q =>
    (match q.waiters, q.entries with
     | (gid, lane) :: ws, e :: es =>
       let s := { s with fq := s.fq.setIfInBounds p { q with waiters := ws, entries := es } }
       (match (s.thread? gid lane).bind Thread.wait with
        | some (.fqpop a) =>
          ((s.updT gid lane fun t => { t with popCore := some e.pcore }).wake gid [(lane, wrs32 a e.words)]).acquireCore (s.group gid).pcore
        | _ => s)
     | _, _ => s)
  | none => s
/-- The stretches of written bytes of a bounce record: offsets and lengths. -/
def Bounce.runs (b : Bounce) : List (Nat × Nat) :=
  (List.range 512).foldl (fun (l : List (Nat × Nat)) i =>
    if !b.written.contains i then l
    else match l.getLast? with
      | some (o, n) => if o + n = i then l.dropLast ++ [(o, n + 1)] else l ++ [(i, 1)]
      | none => [(i, 1)]) []
/-- Drains the bounce records of a range whose pages are valid, in arrival order (R244). [DEDUCED: log entry 54] -/
def State.drainBounce (s : State) (ctx base size : Nat) : State :=
  (s.bounce.filter fun b => b.ctx = ctx && decide (base ≤ b.va) && decide (b.va < base + size)).foldl (fun s b =>
    match s.walk ctx b.va with
    | .leaf lvl _ e =>
      let pa := leafPa (leafPages lvl e) e b.va
      let s := { s with bounce := s.bounce.filter fun x => !(x.ctx = ctx && x.va = b.va) }
      b.runs.foldl (fun s r => (s.markUsed ctx b.va .write).cohWrite ctx (pa + r.1) (memRead b.bytes r.1 r.2)) s
    | _ => s) s
/-- The bytes of a page size code of `fqdone`. -/
def pageBytes (k : Nat) : Nat := match k with | 0 => 2 ^ 12 | 1 => 2 ^ 16 | 2 => 2 ^ 21 | _ => 2 ^ 30
/-- `fqdone` on a page: its records drain, its parked sub-groups are released, their entries leave every queue.
[DEDUCED: log entry 54] -/
def State.fqDone (s : State) (ctx va size : Nat) : State :=
  let base := va / size * size
  let s := (s.drainBounce ctx base size).retryCompletions
  let hit := s.subs.filter fun b =>
    b.cause = 0x10 && !b.collecting && (s.group b.gid).ctx = ctx && decide (base ≤ s.faultAddr b) && decide (s.faultAddr b < base + size)
  hit.foldl (fun (s : State) b =>
    let mine : FaultEnt → Bool := fun e => e.sub = some b.id
    let s := { s with
      fq := s.fq.map fun (q : FaultQueue) => { q with entries := q.entries.filter fun e => !mine e },
      herds := s.herds.map fun (h : Herd) => { h with faults := h.faults.filter fun e => !mine e } }
    s.releaseSub b.id) s

/-! ## Shoot-downs (R247) -/

/-- Whether a cached leaf, or an address, lies in what a shoot-down names. -/
def Sdn.hits (x : Sdn) (va n : Nat) : Bool := x.whole || (decide (x.va < va + n) && decide (va < x.va + 4096 * x.pages))
/-- Drops cached leaves: of one core, or of every core. -/
def State.dropLeaves (s : State) (core : Option Nat) (x : Sdn) : State :=
  { s with tlb := s.tlb.filter fun t =>
      !(t.ctx = x.ctx && (match core with | some c => t.core = c | none => true) && x.hits (4096 * t.vpn) (4096 * t.pages)) }
/-- Whether a page of [va, va + n) that a shoot-down covers is no longer valid. -/
def State.unmapped (s : State) (x : Sdn) (va n : Nat) : Bool :=
  (List.range (n / 4096 + 2)).any fun i =>
    let p := va / 4096 * 4096 + 4096 * i
    decide (p < va + n) && x.hits p 4096 && (match s.walk x.ctx p with | .leaf _ _ _ => false | _ => true)
/-- A window over an unmapped page is DETACHED (R190). [DEDUCED: log entry 55] -/
def State.detachWindow (s : State) (x : Sdn) (f : Flock) (i : Nat) : State :=
  match f.wins[i]? with
  | none => s
  | some w =>
    if f.ctx ≠ x.ctx || !s.unmapped x w.va w.len then s else
    let set := fun (s : State) (w : Window) => s.updFlock f.fid fun f => f.setWin i w
    match w.st, w.ret with
    | .suspended, _ | .loading, some _ => set s { w with detachOnResume := true }
    | .active, _ | .loading, none =>
      let id : W64 := groupIdent { Group.absent 0 with kid := f.kid, herd := f.herd, flk := f.flk } 0
      ((set s { w with st := .detached, updates := [] }).post 12 f.pcore f.ctx
        [id, BitVec.ofNat 64 i, BitVec.ofNat 64 w.va]).wakeSyncs f.fid i
    | _, _ => s
/-- Whether a shoot-down may complete: it is one of the 16 in flight, and every access of its range has reached its home.
[DEDUCED: log entry 55] -/
def State.sdnReady (s : State) (x : Sdn) : Bool :=
  ((s.sdns.take 16).any fun y => y.id = x.id) &&
  s.reqs.all fun r => !(r.ctx = x.ctx && !r.ft && r.dev.isNone && x.hits r.va r.n)
/-- A shoot-down completes. [DEDUCED: log entry 55] -/
def State.endSdn (s : State) (x : Sdn) : State :=
  let s := { s.dropLeaves none x with sdns := s.sdns.filter fun y => y.id ≠ x.id }
  let s := s.flocks.foldl (fun s f => (List.range 8).foldl (fun s i => s.detachWindow x f i) s) s
  match (s.thread? x.gid x.lane).bind Thread.wait with
  | some (.sdn id) => if id = x.id then s.wake x.gid [(x.lane, [])] else s
  | _ => s

/-! ## The words -/

/-- The address and context of a PAGE word: bits [63:57] set trap; a context that does not live makes the form do nothing.
[DEDUCED: log entry 32] -/
def State.pageWord (s : State) (t : Thread) (a b : Fld) (f : State → Nat → Nat → StepRes) : StepRes :=
  let va := rd2 t a
  if 2 ^ 57 ≤ va.toNat then .trap s 0x13 va 0 0
  else match s.ctx? (rd t b).toNat with
    | none => .ok s
    | some c => if c.alive then f s va.toNat c.id else .ok s
/-- The range that `tlbinv` and `sdn` name. -/
def State.rangeOf (s : State) (t : Thread) (va ctx : Nat) (c : Fld) : Sdn :=
  { id := s.nextId, ctx, va, pages := (rd t c).toNat, whole := rd t c = 0, gid := t.gid, lane := t.lane }
/-- `sdn` of one lane. -/
def State.laneSdn (s : State) (iss : Issue) (t : Thread) (va ctx : Nat) (c : Fld) : StepRes :=
  let x := s.rangeOf t va ctx c
  .ok ({ s with nextId := s.nextId + 1, sdns := s.sdns ++ [x] }.updT t.gid t.lane fun t => t.block (.sdn x.id) iss [])
/-- The frame that `pin`, `unpin` and `migr` name, or their traps. -/
def State.pageFrame (s : State) (va ctx : Nat) (f : State → Nat → StepRes) : StepRes :=
  let aux := BitVec.ofNat 64 va
  if va % 65536 ≠ 0 then .trap s 0x15 aux 0 0
  else match s.walk ctx va with
    | .leaf lvl _ e =>
      if s.bounced ctx va (leafPages lvl e) || pteHost e then .trap s 0x11 aux 0 0 else f s (leafPa (leafPages lvl e) e va / 65536)
    | _ => .trap s 0x11 aux 0 0
/-- A frame's count of one kind of pin. -/
def Frame.pins (f : Frame) (k : Nat) : Nat := if k = 0 then f.tierPins else if k = 1 then f.nearPins else f.l2Pins
def Frame.setPins (f : Frame) (k v : Nat) : Frame :=
  if k = 0 then { f with tierPins := v } else if k = 1 then { f with nearPins := v } else { f with l2Pins := v }
/-- `pin` of a frame; a near pin on a frame in HBM is a promote (R245). The aux of a count that would leave its range is the
address: R248 gives none. [DEDUCED: log entry 73] -/
def State.pinFrame (s : State) (va ctx k n : Nat) : StepRes :=
  let f := s.frame n
  if 255 ≤ f.pins k then .trap s 0x13 (BitVec.ofNat 64 va) 0 0
  else .ok (s.updFrame n fun f =>
    let f := f.setPins k (f.pins k + 1)
    { f with l2Ctx := if k = 2 then f.l2Ctx ++ [ctx] else f.l2Ctx,
             heldPromote := f.heldPromote || (k = 1 && f.st = .hbm) })
/-- `unpin` of a frame; a held eviction is retried, and a promotion that waits for its L2 pins ends with the last.
[DEDUCED: log entry 73] -/
def State.unpinFrame (s : State) (va ctx k n : Nat) : StepRes :=
  let f := s.frame n
  if f.pins k = 0 then .trap s 0x13 (BitVec.ofNat 64 va) 0 0
  else
    let s := s.updFrame n fun f =>
      { f.setPins k (f.pins k - 1) with l2Ctx := if k = 2 then f.l2Ctx.erase ctx else f.l2Ctx }
    let f := s.frame n
    if f.st = .promoting && f.waiting && f.l2Pins = 0 then .ok (s.copyDone n)
    else if f.heldEvict && f.st = .near && f.unpinned then .ok (s.takeEvict n)
    else .ok s
/-- `migr` of a frame. -/
def State.migrFrame (s : State) (k n : Nat) : StepRes :=
  .ok (s.updFrame n fun f =>
    match k with
    | 0 => { f with heldEvict := true }
    | 1 => { f with heldPromote := true }
    | 2 => { f with hot := f.hot + 1 }
    | _ => { f with hot := f.hot - 1 })

/-! ## The first-touch unit's events (R237, R238) -/

/-- The ring of a request's page, where it can serve it now. -/
def State.ringReady (s : State) (src : Nat) (e : W64) : Bool :=
  let r := s.ftuRing (pastureOf src) (if pteCtg e then 1 else 0)
  r.on && r.head ≠ r.tail
/-- A held access goes on to its home: its lane is held no longer, unless it awaits a remote answer or an acquire (R147). -/
def State.touched (s : State) (r : Req) (pa : Nat) (acc : Acc) : State :=
  let s := (s.markUsed r.ctx r.va acc).updReq r.id fun x => { x with pa := pa, ft := false }
  let far := fun (x : Result) => if some x.id = r.rid && decide (hostBase ≤ pa) then { x with rem := true } else x
  let s := s.updT r.gid r.lane fun t => { t with outst := t.outst.map far }
  match s.thread? r.gid r.lane with
  | none => s
  | some t =>
    if !t.hold || (t.outst.any fun x => x.acq || x.rem) || s.reqs.any fun x => x.ft && x.gid = r.gid && x.lane = r.lane then s
    else (s.updT r.gid r.lane fun t => { t with hold := false }).stepHeld r.gid r.lane
/-- A held access whose page the unit serves, or finds served, goes on; one whose page cannot be served after all parks its lane
(R238). -/
def State.firstTouch (s : State) (id : Nat) : State :=
  match s.req? id with
  | none => s
  | some r =>
    if !r.ft then s else
    let acc : Acc := match r.kind with | .read _ | .wi | .ownLoad | .mwait _ => .read | _ => .write
    let s := match s.xlWalk r.ctx r.va acc with
      | .zero 0 _ e => if s.ringReady r.src e then s.serveFirstTouch r.src r.ctx r.va (acc = Acc.write) else s
      | _ => s
    match s.xlWalk r.ctx r.va acc with
    | .ok pa => s.touched r pa acc
    | .zero _ _ _ => s.reqFault r 0x10 acc.bit 1
    | .fault c k => s.reqFault r c acc.bit k
/-- A write of a ring's register block: the low or the high doubleword (R237). -/
def FtuRing.write (r : FtuRing) (hi : Bool) (v : W64) : FtuRing :=
  if hi then { r with tail := v.extractLsb' 21 21, low := v.extractLsb' 42 21, lowev := r.lowev && !v.getLsbD 63 }
  else { r with base := v.extractLsb' 0 39, lg := v.extractLsb' 40 5 }

/-- R248. Drops matching entries from this core's translation unit only. -/
def execTlbinv (_cs : CS) (a b r : BitVec 6) (s : State) : Out :=
  priv s fun s => .next (s.laneFold fun iss s t => s.pageWord t a b fun s va x =>
    .ok (s.dropLeaves (some (s.group iss.gid).pcore) (s.rangeOf t va x r)))

/-- R247. Issues a device-wide shoot-down and blocks until it completes. A range past the address space traps with the address as its
aux, which R248 does not give. [DEDUCED: log entry 73] -/
def execSdn (_cs : CS) (a b r : BitVec 6) (s : State) : Out :=
  priv s fun s => .next (s.laneFold fun iss s t => s.pageWord t a b fun s va x =>
    if 2 ^ 57 < va + 4096 * (rd t r).toNat then .trap s 0x13 (BitVec.ofNat 64 va) 0 0 else s.laneSdn iss t va x r)

/-- R248. Increments a frame's pin count of the given kind. -/
def execPin (_cs : CS) (a b k : BitVec 6) (s : State) : Out :=
  priv s fun s => .next (s.laneFold fun _ s t => s.pageWord t a b fun s va x =>
    s.pageFrame va x fun s n => s.pinFrame va x k.toNat n)

/-- R248. Decrements a frame's pin count and retries any held eviction. -/
def execUnpin (_cs : CS) (a b k : BitVec 6) (s : State) : Out :=
  priv s fun s => .next (s.laneFold fun _ s t => s.pageWord t a b fun s va x =>
    s.pageFrame va x fun s n => s.unpinFrame va x k.toNat n)

/-- R248. Queues a migration request or a hotness hint for a frame. -/
def execMigr (_cs : CS) (a b k : BitVec 6) (s : State) : Out :=
  priv s fun s => .next (s.laneFold fun _ s t => s.pageWord t a b fun s va x =>
    s.pageFrame va x fun s n => s.migrFrame k.toNat n)

/-- R249. Pops the head fault entry of the pasture's queue, blocking while the queue is empty. -/
def execFqpop (_cs : CS) (a : BitVec 6) (s : State) : Out :=
  priv s fun s => .next (s.laneFold fun iss s t => s.laneFqpop iss t a false)

/-- R249. Pops a fault entry, or returns an EMPTY entry at once. -/
def execFqpopTry (_cs : CS) (a : BitVec 6) (s : State) : Out :=
  priv s fun s => .next (s.laneFold fun iss s t => s.laneFqpop iss t a true)

/-- R249. Drains a page's bounce records and releases every sub-group parked on the page, device-wide. -/
def execFqdone (_cs : CS) (a b k : BitVec 6) (s : State) : Out :=
  priv s fun s => .next (s.laneFold fun _ s t => s.pageWord t a b fun s va x =>
    .ok (s.fqDone x va (pageBytes k.toNat)))

/-- R238. The first-touch unit takes a zeroed frame, writes the leaf or group, and lets the held access proceed. -/
def execFirstTouchServed (req : Nat) (s : State) : Out :=
  .next (s.firstTouch req)

/-- R237. System software writes a first-touch ring register, for example advancing ftu.tail or clearing ftu.lowev. -/
def execFtuRingWrite (pasture ring : Nat) (hi : Bool) (v : W64) (s : State) : Out :=
  if pasture < 4 ∧ ring < 2 then
    .next { s with ftu := s.ftu.setIfInBounds (2 * pasture + ring) ((s.ftuRing pasture ring).write hi v) }
  else .next s

/-- R245. The migrator takes a promote request for a frame, allocates a near-tier frame and begins the copy. -/
def execPromote (frame : Nat) (s : State) : Out :=
  .next (if (s.frame frame).heldPromote then s.takePromote frame else s)

/-- R245. The migrator takes an evict request for a near frame with no pin and begins the copy back to HBM. -/
def execEvict (frame : Nat) (s : State) : Out :=
  .next (if (s.frame frame).heldEvict then s.takeEvict frame else s)

/-- R245. A tier copy ends; the home switches word by word, or the move waits for L2 pins to be released. -/
def execMigrationCopyDone (frame : Nat) (s : State) : Out :=
  .next (s.copyDone frame)

/-- R246. After a 50 µs wait, the remaining L2 pins become fault-on-next-access and the move completes. -/
def execL2PinTimeout (frame : Nat) (s : State) : Out :=
  .next (s.pinTimeout frame)

/-- R247. Every translation unit has dropped the range and every in-flight use has drained, so the shoot-down completes. -/
def execSdnComplete (id : Nat) (s : State) : Out :=
  match s.sdns.find? fun x => x.id = id with
  | some x => .next (if s.sdnReady x then s.endSdn x else s)
  | none => .next s

end Sys2Proof.Machine
end

