-- ==== Sys2Proof/Machine/Debug.lean ====
section
/-! DEFINITION. The DBG words (R402, R403), checkpoints and re-execution (R394 to R398), snapshots (R400, R401), the platform's
events: reset, attestation, power, the event ring and the management registers (R17, R367, R404 to R409). -/
namespace Sys2Proof.Machine

/-! ## Snapshots (R400) -/

/-- Pod time has reached `tg.time`: the trigger fires once. -/
def State.timeTrigger (s : State) : State :=
  if s.trig.arm && s.trig.time ≠ 0 && !s.trig.fired && decide (s.trig.time.toNat ≤ s.ptime.toNat) then
    { s with trig := { s.trig with fired := true } }.trigger 0
  else s
/-- `snap` of one lane: without a time it latches now, whatever sources are armed. [DEDUCED: log entry 71] -/
def State.laneSnap (s : State) (t : Thread) (a b : Fld) : StepRes :=
  let at_ := rd2 t b
  if s.trig.full then .ok ((s.trigger 69).give t a 1)
  else if at_ = 0 then .ok ((s.trigger 69).give t a 0)
  else .ok ({ s with trig := { s.trig with time := at_, arm := true, fired := false } }.give t a 0)
/-- `step` of one lane. -/
def State.laneStep (s : State) (core : Nat) (t : Thread) (a b : Fld) : StepRes :=
  let i := (rd t b).toNat
  match (if 63 < i then none else s.entryAt core i) with
  | none => .ok (s.give t a 1)
  | some e =>
    if e.cause = 3 ∨ e.cause = 4 then
      .ok (((s.updGroup e.gid fun g => { g with step := true }).releaseSub e.id).give t a 0)
    else .ok (s.give t a 2)

/-! ## Checkpoints (R395) -/

/-- The record control block of a context. -/
def State.recCtl (s : State) (ctx : Nat) : RecCtl :=
  (s.recs.find? fun r => r.ctx = ctx).getD ⟨ctx, 0, 0, 0, 0, false, 2 ^ 24, false⟩
def State.setRec (s : State) (r : RecCtl) : State := { s with recs := r :: s.recs.filter fun x => x.ctx ≠ r.ctx }
/-- The sum of the `%rwc` of a context's threads. -/
def State.rwcSum (s : State) (ctx : Nat) : Nat :=
  let gids := (s.groups.filter fun g => g.ctx = ctx && !g.shep).map Group.gid
  ((s.threads.filter fun t => gids.contains t.gid).map fun t => t.rwc.toNat).sum
def Group.inHerd (g : Group) (h : Herd) : Bool := g.ctx = h.ctx && g.kid = h.kid && g.herd = h.herd && !g.shep
def Flock.inHerd (f : Flock) (h : Herd) : Bool := f.ctx = h.ctx && f.kid = h.kid && f.herd = h.herd
/-- What a commitment does to a resident herd before its image is written: its engine operations stop and its owned words go
home (R344). -/
def State.quiesce (s : State) (h : Herd) : State :=
  (s.herdFlocksOf h.ctx h.kid h.herd).foldl (fun s f => s.flushCore f.pcore h.ctx true) (s.suspendOps h.ctx h.kid h.herd)
/-- A resident herd as its image holds it: saved, with its entries of the queues beside it. -/
def State.image (s : State) (h : Herd) : State :=
  let gids := (s.herdGroups h.ctx h.kid h.herd).map Group.gid
  let save := fun (t : Thread) => if gids.contains t.gid then { t.collect with regs := { t.regs with h := t.regs.h.map (s.savedH h.ctx) } } else t
  let susp := fun (f : Flock) => if f.inHerd h then { f with wins := f.wins.map suspendWin } else f
  let gens := s.genSnapshot h.ctx
  (({ s with threads := s.threads.map save, flocks := s.flocks.map susp }.withdrawEntries h).withdrawFaults h).updHerd h.ctx h.kid h.herd
    fun h => { h with st := .saved, runnable := true, gens := gens }
/-- The herd goes on where it stood, its handle registers, windows and operations as after a load (R346). -/
def State.inPlace (s : State) (gens : List (Nat × W32)) (h : Herd) : State :=
  let gids := (s.herdGroups h.ctx h.kid h.herd).map Group.gid
  let load := fun (t : Thread) =>
    if gids.contains t.gid then { t.collect with regs := { t.regs with h := t.regs.h.map fun r => s.resumedH h.ctx gens (s.savedH h.ctx r) } } else t
  let go := fun (f : Flock) => if f.inHerd h then { f with wins := f.wins.map fun w => resumeWin (suspendWin w) } else f
  let s := { s with threads := s.threads.map load, flocks := s.flocks.map go }.resumeOps h.ctx h.kid h.herd
  (s.ops.filter fun o => o.ofHerd h.ctx h.kid h.herd && o.st = .running).foldl State.registerAhead s
/-- Ends the `ckpt` waits on a context whose re-execution is not what they wait for. -/
def State.wakeCkpts (s : State) (ctx : Nat) : State :=
  s.threads.foldl (fun s t =>
    match t.wait with
    | some (.ckpt d c) =>
      if c = ctx && !(s.replays.any fun r => r.gid = t.gid && r.lane = t.lane) then s.wake t.gid [(t.lane, [.g d 0])] else s
    | _ => s) s
/-- Whether a checkpoint under way may be written: every herd is collected, and none is on its way in or out. -/
def State.ckptReady (s : State) (ctx : Nat) : Bool :=
  s.herds.all fun h => h.ctx ≠ ctx || (match h.st with
    | .resident => s.saveReady h
    | .loading | .saving => false
    | _ => true)
/-- THE CHECKPOINT is written: the images of every live herd, with the next sequence number; the two newest are kept.
[DESIGN CHOICE: log entry 41] -/
def State.takeCkpt (s : State) (ctx : Nat) : State :=
  let s := ((s.refreshCtx ctx).updCtx ctx fun c => { c with ck := false }).wakeCkpts ctx
  let s := s.takeEvents fun gid => (s.group gid).ctx = ctx
  let live := s.herds.filter fun h => h.ctx = ctx && h.st = .resident
  let s := live.foldl State.quiesce s
  let i := live.foldl State.image s
  let gids := (i.groups.filter fun g => g.ctx = ctx && !g.shep).map Group.gid
  let f := s.takeFree
  let size := 32 * (f.1.toNat % (1 + 98304 * ((i.flocks.filter fun f => f.ctx = ctx).map fun f => f.pens.length).sum))
  let bytes := f.2.openBytes size
  let r := s.recCtl ctx
  let k : Ckpt :=
    { ctx, seq := r.ckseq + 1, threads := i.threads.filter fun t => gids.contains t.gid, groups := i.groups.filter fun g => gids.contains g.gid,
      flocks := i.flocks.filter fun f => f.ctx = ctx, herds := i.herds.filter fun h => h.ctx = ctx,
      insts := i.insts.filter fun x => gids.contains x.gid, subs := i.subs.filter fun b => gids.contains b.gid,
      ops := i.ops.filter fun o => o.ctx = ctx, order := i.tileOrder.filter fun n => i.ops.any fun o => o.id = n && o.ctx = ctx, mons := i.mons.filter fun m => gids.contains m.gid,
      holds := i.holds.filter fun h => h.ctx = ctx, kernels := i.kernels.filter fun k => k.ctx = ctx,
      launches := (match s.ctx? ctx with | some c => c.launches | none => 0),
      oqWait := (s.fab.oq.filter fun e => e.ctx = ctx).flatMap fun e => e.waiters.map fun w => (e.q, w),
      fqWait := s.fq.toList.zipIdx.flatMap fun q => (q.1.waiters.filter fun w => gids.contains w.1).map fun w => (q.2, w),
      lnchWait := s.lnchq.filter fun w => gids.contains w.1, size, undo := [], log := [] }
  let mine := s.ckpts.filter fun (c : Ckpt) => c.ctx = ctx
  let keep := mine.drop (mine.length - 1)
  let add := fun (s : State) => { s with ckpts := s.ckpts ++ [k] }.setRec { r with ckseq := r.ckseq + 1 }
  let s := { bytes.2 with ckpts := (s.ckpts.filter fun (c : Ckpt) => c.ctx ≠ ctx) ++ keep }.enterRing ctx bytes.1 add
  -- a record that does not fit is not written, and the two retained checkpoints stay
  let s := if (s.recCtl ctx).ckseq = r.ckseq then { s with ckpts := f.2.ckpts } else s
  live.foldl (fun s h => s.inPlace (s.genSnapshot ctx) h) s
/-- A checkpoint begins: the context's threads issue no more until it is written. -/
def State.beginCkpt (s : State) (ctx : Nat) : State := s.updCtx ctx fun c => { c with ck := true }
/-- A checkpoint of the record's own accord is due (R395); `cx.rec` is read afresh (R338). -/
def State.autoCkpt (s : State) (ctx : Nat) : State :=
  let s := s.refreshCtx ctx
  let r := s.recCtl ctx
  let sum := s.rwcSum ctx
  let live := match s.ctx? ctx with | some c => c.st = .live && !c.ck | none => false
  if live && s.recording ctx && !s.replaying ctx && decide (r.next ≤ sum) then
    (s.setRec { r with next := (sum / 2 ^ 24 + 1) * 2 ^ 24 }).beginCkpt ctx
  else s

/-! ## Re-execution (R397) -/

/-- Whether a group is the one that a re-execution's point names. [DEDUCED: log entry 42] -/
def Replay.names (r : Replay) (g : Group) : Bool := g.ctx = r.ctx && g.kid = r.kid && g.herd = r.herd && g.flk = r.flk && g.grp = r.grp && !g.shep
/-- Removes all that runs of a context: what a rollback replaces. -/
def State.clearCtx (s : State) (ctx : Nat) : State :=
  let gids := (s.groups.filter fun g => g.ctx = ctx && !g.shep).map Group.gid
  let subIds := (s.subs.filter fun b => gids.contains b.gid).map SubGroup.id
  let keep := fun (e : FaultEnt) => match e.sub with | some i => !subIds.contains i | none => true
  { s with
    threads := s.threads.filter fun t => !gids.contains t.gid, groups := s.groups.filter fun g => !gids.contains g.gid,
    flocks := s.flocks.filter fun f => f.ctx ≠ ctx, herds := s.herds.filter fun h => h.ctx ≠ ctx,
    insts := s.insts.filter fun i => !gids.contains i.gid, subs := s.subs.filter fun b => !gids.contains b.gid,
    recorded := s.recorded.filter fun e => !gids.contains e.gid, ops := s.ops.filter fun o => o.ctx ≠ ctx, mons := s.mons.filter fun m => !gids.contains m.gid,
    grains := s.grains.filter fun g => !(s.ops.any fun o => o.id = g.op && o.ctx = ctx),
    holds := s.holds.filter fun h => h.ctx ≠ ctx, kernels := s.kernels.filter fun k => k.ctx ≠ ctx,
    reqs := s.reqs.filter fun r => !gids.contains r.gid, lnchq := s.lnchq.filter fun w => !gids.contains w.1,
    l1 := s.l1.filter fun l => l.ctx ≠ ctx || l.st = .own, tlb := s.tlb.filter fun t => t.ctx ≠ ctx,
    bounce := s.bounce.filter fun b => b.ctx ≠ ctx, cpls := s.cpls.filter fun x => x.1 ≠ ctx,
    fq := s.fq.map fun (q : FaultQueue) => { q with entries := q.entries.filter keep, waiters := q.waiters.filter fun w => !gids.contains w.1 } }
/-- THE ROLLBACK: the undo records in reverse order, then the herds from their images. The context runs again.
[DESIGN CHOICE: log entry 41] -/
def State.rollBack (s : State) (k : Ckpt) : State :=
  let later := (s.ckpts.filter fun c => c.ctx = k.ctx && decide (k.seq.toNat ≤ c.seq.toNat)).reverse
  let s := s.clearCtx k.ctx
  let s := later.foldl (fun s c => c.undo.foldl (fun s u => s.cohWrite 0 u.1 u.2) s) s
  let oq := s.fab.oq.map fun (e : OqEnt) => if e.ctx = k.ctx then { e with waiters := (k.oqWait.filter fun w => w.1 = e.q).map Prod.snd } else e
  let fq : Vector FaultQueue 4 := Vector.ofFn fun i => { s.fq[i] with waiters := s.fq[i].waiters ++ (k.fqWait.filter fun w => w.1 = i.val).map Prod.snd }
  { s with
    threads := s.threads ++ k.threads, groups := s.groups ++ k.groups, flocks := s.flocks ++ k.flocks, herds := s.herds ++ k.herds,
    insts := s.insts ++ k.insts, subs := s.subs ++ k.subs, ops := s.ops ++ k.ops, mons := s.mons ++ k.mons, holds := s.holds ++ k.holds,
    kernels := s.kernels ++ k.kernels, fab := { s.fab with oq := oq }, fq := fq, lnchq := s.lnchq ++ k.lnchWait,
    tileOrder := (s.tileOrder.filter fun n => !k.order.contains n) ++ k.order }.updCtx k.ctx fun c => { c with st := .live, launches := k.launches }
/-- A re-execution whose context stands STOPPED begins. What the named group did past the point is no part of it: it holds nothing back.
[DESIGN CHOICE: log entry 41; DEDUCED: log entry 42] -/
def State.beginReplay (s : State) (r : Replay) : State :=
  match s.ctx? r.ctx, s.ckpts.find? fun c => c.ctx = r.ctx && c.seq = r.seq with
  | some c, some k =>
    if r.begun || c.st ≠ .stopped then s
    else
      let log := ((s.ckpts.filter fun x => x.ctx = r.ctx && decide (r.seq.toNat ≤ x.seq.toNat)).map Ckpt.log).flatten
      let past := fun (x : LogRec) => x.kind ≠ 9 && x.kid = r.kid && x.herd = r.herd && x.flk = r.flk && x.grp = r.grp && decide (r.count.toNat ≤ x.rwc.toNat)
      let s := (s.rollBack k).setRec { s.recCtl r.ctx with redo := false }
      s.updReplay r.ctx fun r => { r with begun := true, log := log.filter fun x => !past x }
  | _, _ => s
/-- Threads of the named group that have reached the point park, with cause 0x03 and aux 64; their results are still collected. The
reported word is open.
[DEDUCED: log entry 42] -/
def State.parkAtPoint (s : State) (r : Replay) : State :=
  s.groups.foldl (fun s g =>
    if !r.names g || !s.onCore g then s else
    let here := s.threads.filter fun t => t.gid = g.gid && t.st = .ready && t.rwc = r.count && !s.inChain g.gid t.lane
    if here = [] then s
    else
      let f := s.takeFree
      let rec_ := fun (t : Thread) => (⟨t.pkt, t.slot, 0x03, 64, f.1.setWidth 32, t.pkt, t.slot⟩ : TrapRec)
      let s := f.2.updGroup g.gid fun g => g.dropLanes (maskOf (here.map Thread.lane))
      s.parkNow g.gid (here.map fun t => (⟨t.lane, 0x03, 64, 0, 0⟩, rec_ t)) none) s
/-- The threads of the named group: those of its group, or none before it is placed. -/
def State.namedThreads (s : State) (r : Replay) : List Thread :=
  match s.groups.find? r.names with
  | some g => s.threads.filter fun t => t.gid = g.gid
  | none => []
def Thread.atPoint (t : Thread) : Bool := t.st = .parked && t.trr.cause = 3 && t.trr.aux = 64
/-- Whether the named group has left for good: its kernel is over, or its herd has retired. -/
def State.namedGone (s : State) (r : Replay) : Bool :=
  match s.kernel? r.ctx r.kid with
  | none => true
  | some k => k.st = .done || k.st = .faulted || (match s.herd? r.ctx r.kid r.herd with | some h => h.st = .retired | none => false)
/-- Records of outside writes at the head of the log are applied (R397). -/
def State.applyOutside (ctx : Nat) : Nat → State → State
  | 0, s => s
  | n + 1, s =>
    match s.replays.find? fun r => r.begun && r.ctx = ctx with
    | none => s
    | some r =>
      match r.log with
      | x :: rest =>
        if x.kind ≠ 9 then s
        else
          let s := s.updReplay ctx fun r => { r with log := rest }
          let s := match s.walk ctx x.addr.toNat with
            | .leaf lvl _ e => s.cohWrite ctx (leafPa (leafPages lvl e) e x.addr.toNat) x.extra
            | _ => s
          State.applyOutside ctx n s
      | [] => s
/-- One look at a re-execution: outside writes, arrivals at the point, and its end with a status: 0 at the point, 6 on
divergence, 7 when every thread exited first. One whose `ckpt` was withdrawn is given up. -/
def State.watchReplay (s : State) (r : Replay) : State :=
  if !r.begun then s.beginReplay r
  else
    let s := (State.applyOutside r.ctx r.log.length s).parkAtPoint r
    let ts := s.namedThreads r
    let mine := match (s.thread? r.gid r.lane).bind Thread.wait with | some (.ckpt _ c) => decide (c = r.ctx) | _ => false
    let stop := fun (s : State) => s.updCtx r.ctx fun c => { c with st := if c.st = .live then .stopping else c.st }
    let drop := fun (s : State) => { s with replays := s.replays.filter fun x => x.ctx ≠ r.ctx }
    let done := fun (v : W32) => (drop (stop s)).wake r.gid [(r.lane, [.g r.d v])]
    if !mine then (drop (stop s)).setRec { s.recCtl r.ctx with redo := true }
    else if r.diverged then done 6
    else if s.namedGone r || (ts ≠ [] && ts.all fun t => t.st = .exited) then done 7
    else if ts ≠ [] && ts.all fun t => t.st = .exited || t.atPoint then done 0
    else s
/-- A context that is stopping with herds still in pens: they are swapped out as save slots allow (R340). -/
def State.pressStop (s : State) (c : Context) : State :=
  if c.st ≠ .stopping then s
  else
    ((s.herds.filter fun h => h.ctx = c.id && (h.st = .resident || h.st = .loading)).foldl (fun s h =>
      if !h.due && s.slotsFor [h] then s.commitSwap h none else s) s).settleStop c.id
/-- What the device does of its own accord after every step for checkpoints, re-executions and stops. -/
def State.watchDebug (s : State) : State :=
  let s := s.ctxs.foldl (fun s c =>
    if c.ck && !c.alive then s.updCtx c.id fun c => { c with ck := false }
    else if c.ck && s.ckptReady c.id && s.issue.isNone then s.takeCkpt c.id
    else s) s
  let s := s.replays.foldl State.watchReplay s
  (s.ctxs.foldl State.pressStop s).timeTrigger
/-- `ckpt` of one lane. [DEDUCED: log entry 42] -/
def State.laneCkpt (s : State) (iss : Issue) (t : Thread) (a b c : Fld) : StepRes :=
  let w := fun (i : Nat) => rd t (c + BitVec.ofNat 6 i)
  let x := (w 0).toNat
  let s := s.refreshCtx x
  let say := fun (v : W32) => StepRes.ok (s.give t a v)
  match s.ctx? x with
  | none => say 1
  | some cx =>
    if !cx.alive then say 1
    else if !cx.rec_ || !s.recording x then say 2
    else if 1 < (rd t b).toNat then say 4
    else if rd t b = 0 then
      .ok ((s.beginCkpt x).updT t.gid t.lane fun t => t.block (.ckpt a x) iss [.g a])
    else if cx.st ≠ .stopped && !(cx.st = .stopping && (s.recCtl x).redo) then say 5
    else match s.ckpts.find? fun k => k.ctx = x && k.seq = w 1 with
      | none => say 3
      | some k =>
        let count : W64 := w 6 ++ w 5
        let r : Replay :=
          { ctx := x, seq := w 1, kid := (w 2).toNat, herd := (w 3).toNat, flk := ((w 4).extractLsb' 8 3).toNat,
            grp := ((w 4).extractLsb' 0 5).toNat, count, log := [], gid := t.gid, lane := t.lane, d := a, diverged := false, begun := false }
        let past := k.groups.any fun g => r.names g && k.threads.any fun y => y.gid = g.gid && y.st ≠ .exited && decide (count.toNat < y.rwc.toNat)
        if past then say 5
        else .ok ({ s with replays := (s.replays.filter fun (y : Replay) => y.ctx ≠ x) ++ [r] }.updT t.gid t.lane fun t => t.block (.ckpt a x) iss [.g a])

/-! ## Power (R407) -/

def Power.data (p : Power) : List W64 := [p.now.setWidth 64, p.lim.setWidth 64, p.tj.setWidth 64]
def State.setPw (s : State) (f : Power → Power) : State := { s with pw := f s.pw }
/-- Measured power: past the limit, issue is withheld and an event posted. [DEDUCED: log entry 63] -/
def State.powerCap (s : State) (now : BitVec 16) : State :=
  let s := s.setPw fun p => { p with now := now }
  if s.pw.cap < now.toNat then
    let s' := s.setPw fun p => { p with withhold := true, capev := true }
    if s.pw.capev then s' else s'.post 1 0xFFFF 0 s'.pw.data
  else s
/-- A junction temperature of 105 °C or above withholds issue. [DEDUCED: log entry 63] -/
def State.throttle (s : State) (tj : Byte) : State :=
  let s := s.setPw fun p => { p with tj := tj }
  if 105 ≤ tj.toNat then
    let s' := s.setPw fun p => { p with withhold := true, thev := true }
    if s.pw.thev then s' else s'.post 2 0xFFFF 0 s'.pw.data
  else s
/-- At 120 °C the device trips. -/
def State.trip (s : State) (tj : Byte) : State :=
  let s := s.throttle tj
  if 120 ≤ tj.toNat && !s.pw.tripped then
    let s := s.setPw fun p => { p with tripped := true }
    s.post 7 0xFFFF 0 s.pw.data
  else s
/-- Below 95 °C execution resumes. -/
def State.tripEnd (s : State) (tj : Byte) : State :=
  s.setPw fun p => { p with tj := tj, tripped := p.tripped && decide (95 ≤ tj.toNat) }
/-- A new reading of power and temperature: within the limit and below 105 °C it ends the withholding, else it withholds. -/
def State.withholdEnd (s : State) (now : BitVec 16) (tj : Byte) : State :=
  ((s.setPw fun p => { p with withhold := false }).powerCap now).throttle tj
/-- A write of the power block: a limit below the power measured now is exceeded from then on (R30). -/
def State.pwSet (s : State) (v : W64) : State :=
  let u := s.setPw fun p => { p with lim := v.extractLsb' 0 16, capev := p.capev && !v.getLsbD 40, thev := p.thev && !v.getLsbD 41 }
  if s.pw.cap < s.pw.now.toNat then u else u.powerCap s.pw.now

/-! ## Reset, boot and attestation (R404 to R406) -/

/-- Whether the boot ROM runs an image. -/
def verifies (i : Image) (minVersion : Nat) : Bool :=
  i.signed && decide (i.size ≤ 2 ^ 26) && decide (i.code.length ≤ i.size) && decide (minVersion ≤ i.version)
/-- The boot ROM loads an image, which chooses the fabric mode (R363), or leaves the recovery window open. [DESIGN CHOICE: log entry 7] -/
def State.boot (s : State) (i : Image) : State :=
  if verifies i s.plat.minVersion then
    { s with fw := memWrite [] 0 i.code, plat := { s.plat with image := some i, recovery := false }, fab := { s.fab with mesh := i.mesh } }
  else { s with fw := [], plat := { s.plat with image := none, recovery := true } }
/-- Power-on: everything is cleared, but for what is fused into the part and the model's own counters. -/
def State.coldReset (s : State) (i : Image) : State :=
  { State.reset with agenda := s.agenda, clock := s.clock, free := s.free, nextId := s.nextId,
                     plat := { State.reset.plat with minVersion := s.plat.minVersion } }.boot i
/-- A warm reset: contexts are DEAD, ports DOWN, reservations free; HBM is kept, or reads as zero. [DESIGN CHOICE: log entry 62] -/
def State.warmReset (s : State) (scrub : Bool) : State :=
  let f := s.takeFree
  let s := f.2
  -- whether words that a core owned reach HBM is open
  let s := if f.1.getLsbD 0 then (s.l1.filter fun l => l.st = .own).foldl (fun s l => s.pullWord l.addr) s else s
  let s := s.ctxs.foldl (fun s c => s.followCtx { c with st := .dead }) s
  let mem := if scrub then s.mem.filter fun c => hbmBytes ≤ c.1 else s.mem
  { s with
    issue := none, mem, threads := [], groups := [], insts := [], subs := [], flocks := [], herds := [],
    kernels := s.kernels.map fun (k : Kernel) =>
      if k.st = .done || k.st = .faulted then k else { k with st := .faulted, cores := [], ring := [], flush := [], waiters := [] },
    ctxs := s.ctxs.map fun (c : Context) => { c with st := .dead, ck := false },
    cores := s.cores.map fun (c : Core) => { Core.reset c.id with gated := c.gated },
    l1 := [], tlb := [], reqs := [], dir := [], persist := [], refusals := [], msgs := [], grains := [], mons := [], mirrors := [], ops := [], recorded := [],
    tileOrder := [], holds := [], fq := s.fq.map fun (q : FaultQueue) => { q with entries := [], waiters := [] }, bounce := [], sdns := [],
    calls := s.calls.map fun (c : Call) => { c with st := .done }, lnchq := [], qeff := [], cpls := [], replays := [], ckpts := [],
    frames := s.frames.map fun (f : Frame) =>
      { f with tierPins := 0, nearPins := 0, l2Pins := 0, l2Ctx := [], fna := [], told := [], heldPromote := false, heldEvict := false, moved := 0, mid := 0 },
    fab := { s.fab with ports := s.fab.ports.map fun p => { Port.reset with en := p.en }, lost := [], told := [],
                        locked := false, reorder := [], out := [], fwd := [], retained := [], recovering := none, markers := [], markersSent := false,
                        oq := s.fab.oq.map fun (e : OqEnt) => { e with waiters := [] } },
    plat := { s.plat with everDbg := false, everRec := false } }
/-- The bytes of an image: the listed ones, and zeros up to its size. [PRESUMED: log entry 64] -/
def imageBytes (i : Image) : List Byte := takeBytes i.size i.code
/-- Fabric mode and pod configuration as one number: the spec gives them no layout. [PRESUMED: log entry 64] -/
def Fabric.cfgWord (f : Fabric) : Nat := boolBit f.mesh + 2 * f.sx + 2 ^ 16 * f.sy + 2 ^ 32 * f.sz + 2 ^ 48 * f.dev
/-- The measurements of R406, in the order of their indices. [PRESUMED: log entry 64] -/
def State.measure (s : State) : List Nat :=
  let digest := match s.plat.image with | some i => sha384 (imageBytes i) | none => 0
  [Config.bootRomVersion, digest, s.fab.cfgWord, boolBit (s.plat.everDbg || s.plat.everRec)]

/-! ## The event ring (R409) -/

/-- The 64 bytes of an event record (R408). -/
def EvRec.bytes (e : EvRec) : List Byte :=
  bytesOf 8 (e.kind % 256 + e.inst.toNat * 2 ^ 16 + e.ctx % 2 ^ 32 * 2 ^ 32) ++ bytesOf 8 e.time.toNat ++
  (List.range 6).flatMap fun i => bytesOf 8 ((e.d[i]?).getD 0).toNat
/-- Whether the ring takes a record now. -/
def State.evRoom (s : State) : Bool :=
  s.plat.hostUp && decide (6 ≤ s.ev.lg) && decide (s.ev.lg ≤ 16) && s.ev.base.toNat % (64 * 2 ^ s.ev.lg) = 0 &&
  decide ((s.ev.tail - s.ev.head).toNat < 2 ^ s.ev.lg)
/-- Posts held events in order while there is room. [DEDUCED: log entry 63] -/
def State.drainEvents : Nat → State → State
  | 0, s => s
  | n + 1, s =>
    match s.ev.held with
    | [] => s
    | e :: rest =>
      if !s.evRoom then s
      else
        let pa := hostBase + s.ev.base.toNat + 64 * (s.ev.tail.toNat % 2 ^ s.ev.lg)
        State.drainEvents n { s with
          mem := memWrite s.mem pa e.bytes,
          ev := { s.ev with held := rest, tail := s.ev.tail + 1, msix := s.ev.msix + 1 } }

/-! ## Management registers (R367) -/

/-- A gate request for one core: a core that holds no context is gated, and its translations are flushed (R17, R247); for one that holds a
context the bit is kept and nothing follows when it empties. [DESIGN CHOICE: log entry 74] -/
def State.gateCore (s : State) (core : Nat) (on : Bool) : State :=
  let c := s.core core
  if !on then (if c.gated then s.updCore core fun c => { c with gated := false } else s)
  else if c.gated || c.pen0.st ≠ .empty || c.pen1.st ≠ .empty then s
  else
    let s := (s.l1.filter fun l => l.core = core && l.st = .own).foldl (fun s l => s.pullWord l.addr) s
    { s.updCore core fun c => { c with gated := true } with
      tlb := s.tlb.filter fun t => t.core ≠ core, l1 := s.l1.filter fun l => l.core ≠ core }
/-- A write of the gate-request word of 64 cores: the bits are kept, and acted on. -/
def State.gateWrite (s : State) (word : Nat) (v : W64) : State :=
  let mine := (List.range 64).map fun i => 64 * word + i
  let req := (s.plat.gateReq.filter fun c => !mine.contains c) ++ mine.filter fun c => v.getLsbD (c % 64)
  (List.range 64).foldl (fun s i => s.gateCore (64 * word + i) (v.getLsbD i)) { s with plat := { s.plat with gateReq := req } }
/-- A write of the record control block of the selected context (R394). -/
def RecCtl.write (r : RecCtl) (i : Nat) (v : W64) (next : Nat) : RecCtl :=
  match i with
  | 0 => { r with base := v.extractLsb' 0 57 |>.setWidth 64, next := next }
  | 1 => { r with lg := v.extractLsb' 0 6, next := next }
  | 3 => { r with full := r.full && !v.getLsbD 32 }
  | _ => r
/-- A write of the ordered-class entry of the selected context (R386). -/
def OcEnt.write (e : OcEnt) (i : Nat) (v : W64) : OcEnt :=
  if i = 0 then { e with en := v.getLsbD 0, rate := v.extractLsb' 16 16, burst := v.extractLsb' 32 12 } else { e with drop := v.extractLsb' 0 32 }
/-- A write of an ordered queue descriptor: its low doubleword (R386). -/
def OqEnt.write (e : OqEnt) (v : W64) : OqEnt := { e with base := (v.extractLsb' 0 57).toNat, lg := v.extractLsb' 57 4, en := v.getLsbD 61 }
/-- A write of the fabric's registers. [PRESUMED: log entry 56] -/
def State.fabWrite (s : State) (f : Fabric → Fabric) : State := { s with fab := f s.fab }
/-- REGISTER_WRITE: an aligned 8-byte write of a register that only holds a value. Other offsets ignore it, and so does
everything while a failed image is being recovered. [PRESUMED: log entry 56] -/
def State.regWrite (s : State) (off : Nat) (v : W64) : State :=
  let sel := s.plat.ctxSel.toNat
  if s.plat.image.isNone || off % 8 ≠ 0 then s
  else if off = 0x500 then { s with ev := { s.ev with base := v } }
  else if off = 0x508 then { s with ev := { s.ev with lg := v.toNat } }
  else if 0x900 ≤ off ∧ off < 0xA80 ∧ off % 16 = 0 then
    (s.setEnable ((off - 0x900) / 16) (v.getLsbD 3)).updPort ((off - 0x900) / 16) fun p => { p with retry := v.extractLsb' 16 16 }
  else if off = 0xA80 then s.fabWrite fun f => { f with cfg := { f.cfg with sx := v.toNat } }
  else if off = 0xA88 then s.fabWrite fun f => { f with cfg := { f.cfg with sy := v.toNat } }
  else if off = 0xA90 then s.fabWrite fun f => { f with cfg := { f.cfg with sz := v.toNat } }
  else if off = 0xA98 then s.fabWrite fun f => { f with cfg := { f.cfg with dev := v.toNat % 4096 } }
  else if off = 0x1000 then { s with plat := { s.plat with ctxSel := v } }
  else if off = 0x1010 then { s with plat := { s.plat with ctxArg := v } }
  else if 0x1040 ≤ off ∧ off < 0x1060 then
    s.setRec ((s.recCtl sel).write ((off - 0x1040) / 8) v ((s.rwcSum sel / 2 ^ 24 + 1) * 2 ^ 24))
  else if off = 0x1080 ∨ off = 0x1088 then
    let e := (s.fab.oc.find? fun e => e.ctx = sel).getD ⟨sel, false, 0, 0, 0, 0⟩
    s.fabWrite fun f => { f with oc := e.write ((off - 0x1080) / 8) v :: f.oc.filter fun e => e.ctx ≠ sel }
  else if 0x1100 ≤ off ∧ off < 0x1200 ∧ off % 16 = 0 then
    let q := (off - 0x1100) / 16
    let e := (s.fab.oq.find? fun e => e.ctx = sel && e.q = q).getD ⟨sel, q, 0, 0, false, 0, 0, []⟩
    s.fabWrite fun f => { f with oq := e.write v :: f.oq.filter fun e => !(e.ctx = sel && e.q = q) }
  else s
/-- The doubleword of the first bits of a field list: each field's place and value. -/
def packed (l : List (Nat × Nat)) : W64 := BitVec.ofNat 64 ((l.map fun x => x.2 * 2 ^ x.1).sum)
/-- A doubleword of the latched snapshot record that the index names (R401). -/
def State.snapWord (s : State) (i : Nat) : W64 :=
  let kind := (s.trig.idx.extractLsb' 16 8).toNat
  let inst := (s.trig.idx.extractLsb' 0 16).toNat
  let at_ := match s.trig.recs.head? with | some x => x.2.2.1 | none => 0
  let body := match s.trig.recs.find? fun x => x.1 = kind && x.2.1 = inst with | some x => x.2.2.2 | none => []
  if !s.trig.full then 0
  else if i = 0 then packed [(0, kind), (16, inst)]
  else if i = 1 then at_
  else (body[i - 2]?).getD 0
/-- The mesh or power-gate word of 64 cores. -/
def coreBits (p : Nat → Bool) (word : Nat) : W64 := packed ((List.range 64).map fun i => (i, boolBit (p (64 * word + i))))
/-- THE CURRENT VALUE OF A BAR0 DOUBLEWORD (R6, R7, R367): what an aligned 8-byte read returns; reserved bits and unassigned offsets read
as zero, and any other read returns zero. While a failed image is being recovered only the identity block and the recovery window
respond (R404). [PRESUMED: log entry 56; DESIGN CHOICE: log entry 60] -/
def State.bar0Read (s : State) (off size : Nat) : W64 :=
  let sel := s.plat.ctxSel.toNat
  let at_ := fun (base : Nat) => (off - base) / 8
  let inn := fun (base n : Nat) => decide (base ≤ off) && decide (off < base + n)
  let version := match s.plat.image with | some i => i.version | none => 0
  if off % 8 ≠ 0 || size ≠ 8 then 0
  else if inn 0 0x100 then Config.identityWord (at_ 0) version s.fab.cfgWord
  else if inn 0x8000 0x8000 then Config.recoveryWord (at_ 0x8000)
  else if s.plat.image.isNone then 0
  else if off = 0x200 then
    packed [(0, s.sched.quantum.toNat), (32, s.sched.d0cores.toNat), (44, s.sched.d0bw.toNat), (49, s.sched.d0pw.toNat)]
  else if off = 0x208 then packed [(0, s.d0Used), (12, s.bwUsed)]
  else if off = 0x300 then
    packed [(0, s.pw.lim.toNat), (16, s.pw.now.toNat), (32, s.pw.tj.toNat), (40, boolBit s.pw.capev), (41, boolBit s.pw.thev)]
  else if off = 0x400 then s.trig.time
  else if off = 0x408 then
    packed [(0, boolBit s.trig.arm), (1, s.trig.src.toNat), (9, boolBit s.trig.full), (32, s.trig.miss.toNat)]
  else if off = 0x440 then s.trig.idx &&& 0xFFFFFF
  else if inn 0x480 0x40 then s.snapWord (at_ 0x480)
  else if off = 0x500 then s.ev.base
  else if off = 0x508 then BitVec.ofNat 64 s.ev.lg
  else if off = 0x510 then s.ev.head.setWidth 64
  else if off = 0x518 then s.ev.tail.setWidth 64
  else if inn 0x600 0x100 then
    let n := fun (k : Nat) => ((s.ev.lost.lookup k).getD 0).toNat
    packed [(0, n (2 * at_ 0x600)), (32, n (2 * at_ 0x600 + 1))]
  else if inn 0x800 0x80 then
    (match s.ftu[at_ 0x800 / 2]? with
     | some r =>
       if at_ 0x800 % 2 = 0 then packed [(0, r.base.toNat), (40, r.lg.toNat)]
       else packed [(0, r.head.toNat), (21, r.tail.toNat), (42, r.low.toNat), (63, boolBit r.lowev)]
     | none => 0)
  else if inn 0x900 0x180 then
    (match s.fab.ports[at_ 0x900 / 2]? with
     | some p =>
       if at_ 0x900 % 2 = 0 then
         packed [(0, p.st.code), (3, boolBit p.en), (4, boolBit (!s.fab.mesh)), (16, p.retry.toNat), (32, p.delay.toNat)]
       else if s.fab.mesh then p.wm else 0
     | none => 0)
  else if off = 0xA80 then BitVec.ofNat 64 s.fab.cfg.sx
  else if off = 0xA88 then BitVec.ofNat 64 s.fab.cfg.sy
  else if off = 0xA90 then BitVec.ofNat 64 s.fab.cfg.sz
  else if off = 0xA98 then BitVec.ofNat 64 s.fab.cfg.dev
  else if inn 0xC00 0x100 then coreBits (fun c => s.plat.gateReq.contains c) (at_ 0xC00)
  else if inn 0xD00 0x100 then coreBits (fun c => (s.core c).gated) (at_ 0xD00)
  else if off = 0x1000 then s.plat.ctxSel
  else if off = 0x1008 then s.plat.ctxStat
  else if off = 0x1010 then s.plat.ctxArg
  else if inn 0x1040 0x20 then
    let r := s.recCtl sel
    (match at_ 0x1040 with
     | 0 => r.base
     | 1 => r.lg.setWidth 64
     | 2 => r.wr
     | _ => packed [(0, r.ckseq.toNat), (32, boolBit r.full)])
  else if inn 0x1080 0x10 then
    (match s.fab.oc.find? fun e => e.ctx = sel with
     | some e =>
       if at_ 0x1080 = 0 then packed [(0, boolBit e.en), (16, e.rate.toNat), (32, e.burst.toNat)] else e.drop.setWidth 64
     | none => 0)
  else if inn 0x1100 0x100 then
    (match s.fab.oq.find? fun e => e.ctx = sel && e.q = at_ 0x1100 / 2 with
     | some e =>
       if at_ 0x1100 % 2 = 0 then packed [(0, e.base), (57, e.lg.toNat), (61, boolBit e.en)]
       else packed [(0, e.head.toNat), (17, e.tail.toNat)]
     | none => 0)
  else 0

/-- R403. Sets the group's step bit and releases a parked breakpoint or step sub-group. -/
def execStep (_cs : CS) (a b : BitVec 6) (s : State) : Out :=
  priv s fun s => .next (s.laneFold fun iss s t => s.laneStep (s.group iss.gid).pcore t a b)

/-- R403. Fires or arms the snapshot trigger. -/
def execSnap (_cs : CS) (a b : BitVec 6) (s : State) : Out :=
  priv s fun s => .next (s.laneFold fun _ s t => s.laneSnap t a b)

/-- R403. Takes a checkpoint, or re-executes a stopped context from a checkpoint to a point. -/
def execCkpt (_cs : CS) (a b r : BitVec 6) (s : State) : Out :=
  priv s fun s => .next (s.laneFold fun iss s t => s.laneCkpt iss t a b r)

/-- R395. The retired-work sum passes a multiple of 2^24, and a recording context takes a checkpoint. -/
def execCheckpointAuto (ctx : Nat) (s : State) : Out :=
  .next (s.autoCkpt ctx)

/-- R400. %ptime reaches tg.time, and every snapshot register latches. -/
def execSnapshotTimeTrigger  (s : State) : Out :=
  .next s.timeTrigger

/-- R400. A write to the trigger block sets the time, arm and source fields. -/
def execTgWrite (hi : Bool) (v : W64) (s : State) : Out :=
  if hi then
    let t := { s.trig with arm := v.getLsbD 0, src := v.extractLsb' 1 8, miss := v.extractLsb' 32 32 }
    .next { s with trig := if v.getLsbD 9 then { t with full := false, recs := [] } else t }
  else .next { s with trig := { s.trig with time := v, fired := false } }

/-- R400. Writing 1 to tg.full releases the latched snapshot. -/
def execTgFullClear  (s : State) : Out :=
  .next { s with trig := { s.trig with full := false, recs := [] } }

/-- R367. Writing the snapshot index selects which latched record is exposed. -/
def execSnapshotIndexWrite (v : W64) (s : State) : Out :=
  .next { s with trig := { s.trig with idx := v } }

/-- R405. At power-on everything is cleared and the boot ROM runs. -/
def execColdReset (img : Image) (s : State) : Out :=
  .next (s.coldReset img)

/-- R404. The host writes a new image to the recovery window, and the image is verified. -/
def execRecoveryImageWrite (img : Image) (s : State) : Out :=
  .next (if s.plat.recovery then s.boot img else s)

/-- R405. A warm-reset request makes every context DEAD, takes every port DOWN and frees reservations, scrubbing HBM if requested. -/
def execWarmReset (scrub : Bool) (s : State) : Out :=
  .next (s.warmReset scrub)

/-- R406. A GET_MEASUREMENTS request is answered with signed measurements. -/
def execSpdmGetMeasurements (nonce : BitVec 256) (s : State) : Out :=
  .next { s with plat := { s.plat with spdm := s.plat.spdm ++ [(nonce, s.measure, Config.spdmSignature nonce s.measure)] } }

/-- R407. pw.now would exceed pw.lim, so issue is withheld from D1 to D3 and a power-cap event is posted. -/
def execPowerCap (now : BitVec 16) (s : State) : Out :=
  .next (s.powerCap now)

/-- R407. pw.tj reaches 105 °C, so issue is withheld and a thermal event is posted. -/
def execThermalThrottle (tj : Byte) (s : State) : Out :=
  .next (s.throttle tj)

/-- R407. pw.tj reaches 120 °C, so every core, engine and port stops and a thermal-trip event is posted. -/
def execThermalTrip (tj : Byte) (s : State) : Out :=
  .next (s.trip tj)

/-- R407. pw.tj falls below 95 °C, and execution resumes. -/
def execThermalTripEnd (tj : Byte) (s : State) : Out :=
  .next (s.tripEnd tj)

/-- R407. Measured power falls back within pw.lim, or pw.tj falls below 105 °C, and the device stops withholding issue. -/
def execIssueWithholdEnd (now : BitVec 16) (tj : Byte) (s : State) : Out :=
  .next (s.withholdEnd now tj)

/-- R407. A write to the power block sets pw.lim or clears the event bits. -/
def execPwWrite (v : W64) (s : State) : Out :=
  .next (s.pwSet v)

/-- R409. When room returns, held events are posted in order. -/
def execEventRingDrain  (s : State) : Out :=
  .next (State.drainEvents s.ev.held.length s)

/-- R409. The driver advances ev.head, freeing ring room. -/
def execEvHeadWrite (v : W64) (s : State) : Out :=
  .next { s with ev := { s.ev with head := v.extractLsb' 0 17 } }

/-- R409. The driver clears an ev.lost counter by writing zero. -/
def execEvLostClear (kind : Nat) (s : State) : Out :=
  .next { s with ev := { s.ev with lost := s.ev.lost.filter fun x => x.1 ≠ kind } }

/-- R17. A gate-request write power-gates or ungates a core that holds no context. -/
def execCoreGateWrite (word : Nat) (v : W64) (s : State) : Out :=
  .next (if 32 ≤ word then s else s.gateWrite word v)

/-- R367. A BAR0 write to a management register that has no behaviour of its own. -/
def execRegisterWrite (off : Nat) (v : W64) (s : State) : Out :=
  .next (s.regWrite off v)

end Sys2Proof.Machine
end

