-- ==== Sys2Proof/Machine/FloatOps.lean ====
section
/-! DEFINITION. Floating words: F32, F64, F16X2, the FMA majors, FCMP, SFU, FFIX, CVT and NCVT (R120 to R142). -/
namespace Sys2Proof.Machine

/-- An arithmetic operation on encodings: flushed operands, one rounding, flushed result (R81, R120). -/
def fpBin (op : FVal → FVal → FVal × Exc) (f : Fmt) (t : Thread) (x y : Nat) : FR :=
  let r := op (flushIn t.ftz f x) (flushIn t.ftz f y)
  let o := flushOut t.ftz f (roundTo f t.dir false r.1)
  ⟨o.bits, o.exc ||| r.2⟩
def fpAdd (f : Fmt) (t : Thread) (x y : Nat) : FR := fpBin (fAdd t.dir) f t x y
def fpSub (f : Fmt) (t : Thread) (x y : Nat) : FR := fpBin (fun a b => fAdd t.dir a b.negate) f t x y
def fpMul (f : Fmt) (t : Thread) (x y : Nat) : FR := fpBin fMul f t x y
def fpFma (f : Fmt) (t : Thread) (x y z : Nat) : FR :=
  let r := fFma t.dir (flushIn t.ftz f x) (flushIn t.ftz f y) (flushIn t.ftz f z)
  let o := flushOut t.ftz f (roundTo f t.dir false r.1)
  ⟨o.bits, o.exc ||| r.2⟩
/-- `min` and `max` round nothing (R122). -/
def fpMinMax (mx : Bool) (f : Fmt) (t : Thread) (x y : Nat) : FR :=
  let r := fMinMax mx (flushIn t.ftz f x) (flushIn t.ftz f y)
  ⟨(roundTo f t.dir false r.1).bits, r.2⟩

def b32 (r : FR) : W32 := BitVec.ofNat 32 r.bits
def b64 (r : FR) : W64 := BitVec.ofNat 64 r.bits
/-- The two elements of a packed register (R76). -/
def lo16 (x : W32) : Nat := (x.extractLsb' 0 16).toNat
def hi16 (x : W32) : Nat := (x.extractLsb' 16 16).toNat
def pack16 (lo hi : FR) : W32 := BitVec.ofNat 32 (lo.bits % 2 ^ 16 + hi.bits % 2 ^ 16 * 2 ^ 16)

/-- Words of fixed latency with a 32-bit, a 64-bit or a packed result. -/
def fpu32 (s : State) (d : Fld) (f : Thread → FR) : Out := .next (s.eachLane fun _ t => fpDone t [.g d (b32 (f t))] (f t).exc 0)
def fpu64 (s : State) (d : Fld) (f : Thread → FR) : Out := .next (s.eachLane fun _ t => fpDone t (wr2 d (b64 (f t))) (f t).exc 0)
def fpuX2 (s : State) (d : Fld) (f : Thread → FR × FR) : Out :=
  .next (s.eachLane fun _ t => fpDone t [.g d (pack16 (f t).1 (f t).2)] (f t).1.exc (f t).2.exc)
/-- Words of the SX pipe, of variable latency. -/
def sx32 (s : State) (d : Fld) (f : Thread → FR) : Out := .next (s.eachLane fun _ t => sxDone t [.g d (b32 (f t))] (f t).exc 0)
def sx64 (s : State) (d : Fld) (f : Thread → FR) : Out := .next (s.eachLane fun _ t => sxDone t (wr2 d (b64 (f t))) (f t).exc 0)

def n32 (t : Thread) (r : Fld) : Nat := (rd t r).toNat
def n64 (t : Thread) (r : Fld) : Nat := (rd2 t r).toNat
/-- A packed operation, element by element (R125). -/
def x2 (g : Nat → Nat → FR) (x y : W32) : FR × FR := (g (lo16 x) (lo16 y), g (hi16 x) (hi16 y))

/-- The seeds and functions take a flushed f32 and flush their result (R129). -/
def sfu32 (g : FVal → FR) (t : Thread) (x : Nat) : FR := flushOut t.ftz f32 (g (flushIn t.ftz f32 x))

/-- A conversion: exact value, one rounding; CVT ignores the flush bit (R138). [DEDUCED: log entry 15] -/
def convert (dst src : Fmt) (t : Thread) (m : Nat) (sat : Bool) (x : Nat) : FR := roundTo dst (t.dirOf m) sat (valueOf src x)
def i32 : Fmt := .int true 32
def n32f : Fmt := .int false 32
def i64 : Fmt := .int true 64
def n64f : Fmt := .int false 64

/-! ## Narrow packing (R140 to R142) -/

/-- The format of an NCVT code (R63, R96). [DEDUCED: log entry 15] -/
def narrowFmt (f : BitVec 3) : Fmt :=
  match f with
  | 0 => .int true 4 | 1 => .int false 4 | 2 => .int true 8 | 3 => .int false 8
  | 4 => .e4m3 | 5 => e5m2 | 6 => .td8 | _ => .e2m1
/-- Elements per packed register. -/
def narrowCount (f : BitVec 3) : Nat := if f = 0 ∨ f = 1 ∨ f = 7 then 8 else 4
/-- Bits per element. -/
def narrowBits (f : BitVec 3) : Nat := 32 / narrowCount f
/-- A value scaled by 2^k, exactly. -/
def scaleVal (v : FVal) (k : Int) : FVal :=
  match v with
  | .fin n m => .fin n (m * pow2 k)
  | v => v
/-- One element packed: a NaN scale makes it NaN, signalling only when it was so (R141). [DEDUCED: log entry 15] -/
def npkElem (f : BitVec 3) (dir : Dir5) (sat : Bool) (sc : Nat) (x : Nat) : FR :=
  let v := valueOf f32 x
  roundTo (narrowFmt f) dir sat (if sc = 255 then .nan v.isSig else scaleVal v (127 - sc))
/-- One element unpacked. -/
def nupkElem (f : BitVec 3) (dir : Dir5) (sc : Nat) (x : Nat) : FR :=
  let v := valueOf (narrowFmt f) x
  roundTo f32 dir false (if sc = 255 || v.isNan then .nan false else scaleVal v ((sc : Int) - 127))
/-- Emax (R141): the exponent of the format's largest finite magnitude. -/
def narrowEmax (f : BitVec 3) : Int :=
  match f with
  | 0 => 2 | 1 => 3 | 2 => 6 | 3 => 7 | 4 => 8 | 5 => 15 | 6 => 43 | _ => 2
/-- The block scale of `nscl` (R141). -/
def nsclOp (f : BitVec 3) (x : Nat) : W32 :=
  match valueOf f32 x with
  | .fin _ m => if m = 0 then 0x7F else BitVec.ofInt 32 (satInt (floorLog2 m - narrowEmax f + 127) 0 254)
  | _ => 0xFF
/-- The union of the exceptions of a list of results. -/
def unionExc (l : List FR) : Exc := l.foldl (fun e r => e ||| r.exc) 0
/-- Elements placed in ascending order, w bits each (R90). -/
def packElems (w : Nat) : List FR → Nat
  | [] => 0
  | r :: l => r.bits % 2 ^ w + 2 ^ w * packElems w l
/-- `npk` for one thread. -/
def npkLane (f : BitVec 3) (sat : Bool) (d a b : Fld) (t : Thread) : LaneRes :=
  let rs := (List.range (narrowCount f)).map fun i => npkElem f t.dir sat (n32 t b % 256) (n32 t (a + BitVec.ofNat 6 i))
  sxDone t [.g d (BitVec.ofNat 32 (packElems (narrowBits f) rs))] (unionExc rs) 0
/-- `nupk` for one thread. -/
def nupkLane (f : BitVec 3) (d a b : Fld) (t : Thread) : LaneRes :=
  let w := narrowBits f
  let rs := (List.range (narrowCount f)).map fun i => nupkElem f t.dir (n32 t b % 256) (n32 t a / 2 ^ (w * i) % 2 ^ w)
  sxDone t (wrs32 d (rs.map b32)) (unionExc rs) 0

/-! ## The words -/

/-- R120. Adds in f32 with one rounding. -/
def execAddF32 (_cs : CS) (d a b : BitVec 6) (s : State) : Out :=
  fpu32 s d fun t => fpAdd f32 t (n32 t a) (n32 t b)

/-- R120. Adds in f64. -/
def execAddF64 (_cs : CS) (d a b : BitVec 6) (s : State) : Out :=
  fpu64 s d fun t => fpAdd f64 t (n64 t a) (n64 t b)

/-- R120. Adds two packed f16 elements independently. -/
def execAddF16x2 (_cs : CS) (d a b : BitVec 6) (s : State) : Out :=
  fpuX2 s d fun t => x2 (fpAdd f16 t) (rd t a) (rd t b)

/-- R120. Adds two packed bf16 elements independently. -/
def execAddBf16x2 (_cs : CS) (d a b : BitVec 6) (s : State) : Out :=
  fpuX2 s d fun t => x2 (fpAdd bf16 t) (rd t a) (rd t b)

/-- R120. Subtracts in f32 with one rounding. -/
def execSubF32 (_cs : CS) (d a b : BitVec 6) (s : State) : Out :=
  fpu32 s d fun t => fpSub f32 t (n32 t a) (n32 t b)

/-- R120. Subtracts in f64. -/
def execSubF64 (_cs : CS) (d a b : BitVec 6) (s : State) : Out :=
  fpu64 s d fun t => fpSub f64 t (n64 t a) (n64 t b)

/-- R120. Subtracts two packed f16 elements independently. -/
def execSubF16x2 (_cs : CS) (d a b : BitVec 6) (s : State) : Out :=
  fpuX2 s d fun t => x2 (fpSub f16 t) (rd t a) (rd t b)

/-- R120. Subtracts two packed bf16 elements independently. -/
def execSubBf16x2 (_cs : CS) (d a b : BitVec 6) (s : State) : Out :=
  fpuX2 s d fun t => x2 (fpSub bf16 t) (rd t a) (rd t b)

/-- R120. Multiplies in f32 with one rounding. -/
def execMulF32 (_cs : CS) (d a b : BitVec 6) (s : State) : Out :=
  fpu32 s d fun t => fpMul f32 t (n32 t a) (n32 t b)

/-- R120. Multiplies in f64. -/
def execMulF64 (_cs : CS) (d a b : BitVec 6) (s : State) : Out :=
  fpu64 s d fun t => fpMul f64 t (n64 t a) (n64 t b)

/-- R120. Multiplies two packed f16 elements independently. -/
def execMulF16x2 (_cs : CS) (d a b : BitVec 6) (s : State) : Out :=
  fpuX2 s d fun t => x2 (fpMul f16 t) (rd t a) (rd t b)

/-- R120. Multiplies two packed bf16 elements independently. -/
def execMulBf16x2 (_cs : CS) (d a b : BitVec 6) (s : State) : Out :=
  fpuX2 s d fun t => x2 (fpMul bf16 t) (rd t a) (rd t b)

/-- R122. Writes the f32 minimumNumber of the operands. -/
def execMinF32 (_cs : CS) (d a b : BitVec 6) (s : State) : Out :=
  fpu32 s d fun t => fpMinMax false f32 t (n32 t a) (n32 t b)

/-- R122. Writes the f64 minimum. -/
def execMinF64 (_cs : CS) (d a b : BitVec 6) (s : State) : Out :=
  fpu64 s d fun t => fpMinMax false f64 t (n64 t a) (n64 t b)

/-- R122. Takes the minimum of each pair of packed f16 elements. -/
def execMinF16x2 (_cs : CS) (d a b : BitVec 6) (s : State) : Out :=
  fpuX2 s d fun t => x2 (fpMinMax false f16 t) (rd t a) (rd t b)

/-- R122. Takes the minimum of each pair of packed bf16 elements. -/
def execMinBf16x2 (_cs : CS) (d a b : BitVec 6) (s : State) : Out :=
  fpuX2 s d fun t => x2 (fpMinMax false bf16 t) (rd t a) (rd t b)

/-- R122. Writes the f32 maximumNumber of the operands. -/
def execMaxF32 (_cs : CS) (d a b : BitVec 6) (s : State) : Out :=
  fpu32 s d fun t => fpMinMax true f32 t (n32 t a) (n32 t b)

/-- R122. Writes the f64 maximum. -/
def execMaxF64 (_cs : CS) (d a b : BitVec 6) (s : State) : Out :=
  fpu64 s d fun t => fpMinMax true f64 t (n64 t a) (n64 t b)

/-- R122. Takes the maximum of each pair of packed f16 elements. -/
def execMaxF16x2 (_cs : CS) (d a b : BitVec 6) (s : State) : Out :=
  fpuX2 s d fun t => x2 (fpMinMax true f16 t) (rd t a) (rd t b)

/-- R122. Takes the maximum of each pair of packed bf16 elements. -/
def execMaxBf16x2 (_cs : CS) (d a b : BitVec 6) (s : State) : Out :=
  fpuX2 s d fun t => x2 (fpMinMax true bf16 t) (rd t a) (rd t b)

/-- R123. Clears the sign bit. -/
def execAbsF32 (_cs : CS) (d a : BitVec 6) (s : State) : Out :=
  alu s fun _ t => [.g d (rd t a &&& 0x7FFFFFFF)]

/-- R123. Clears the f64 sign bit. -/
def execAbsF64 (_cs : CS) (d a : BitVec 6) (s : State) : Out :=
  alu s fun _ t => wr2 d (rd2 t a &&& 0x7FFFFFFFFFFFFFFF)

/-- R123. Clears both element sign bits. -/
def execAbsF16x2 (_cs : CS) (d a : BitVec 6) (s : State) : Out :=
  alu s fun _ t => [.g d (rd t a &&& 0x7FFF7FFF)]

/-- R123. Clears both bf16 element sign bits. -/
def execAbsBf16x2 (_cs : CS) (d a : BitVec 6) (s : State) : Out :=
  alu s fun _ t => [.g d (rd t a &&& 0x7FFF7FFF)]

/-- R123. Inverts the sign bit. -/
def execNegF32 (_cs : CS) (d a : BitVec 6) (s : State) : Out :=
  alu s fun _ t => [.g d (rd t a ^^^ 0x80000000)]

/-- R123. Inverts the f64 sign bit. -/
def execNegF64 (_cs : CS) (d a : BitVec 6) (s : State) : Out :=
  alu s fun _ t => wr2 d (rd2 t a ^^^ 0x8000000000000000)

/-- R123. Inverts both element sign bits. -/
def execNegF16x2 (_cs : CS) (d a : BitVec 6) (s : State) : Out :=
  alu s fun _ t => [.g d (rd t a ^^^ 0x80008000)]

/-- R123. Inverts both bf16 element sign bits. -/
def execNegBf16x2 (_cs : CS) (d a : BitVec 6) (s : State) : Out :=
  alu s fun _ t => [.g d (rd t a ^^^ 0x80008000)]

/-- R123. Copies the sign of b onto the magnitude of a. -/
def execCpsgnF32 (_cs : CS) (d a b : BitVec 6) (s : State) : Out :=
  alu s fun _ t => [.g d ((rd t a &&& 0x7FFFFFFF) ||| (rd t b &&& 0x80000000))]

/-- R123. Copies the f64 sign of b onto the magnitude of a. -/
def execCpsgnF64 (_cs : CS) (d a b : BitVec 6) (s : State) : Out :=
  alu s fun _ t => wr2 d ((rd2 t a &&& 0x7FFFFFFFFFFFFFFF) ||| (rd2 t b &&& 0x8000000000000000))

/-- R124. Computes a × b + c in f32 with one rounding. -/
def execFmaF32 (_cs : CS) (d a b r : BitVec 6) (s : State) : Out :=
  fpu32 s d fun t => fpFma f32 t (n32 t a) (n32 t b) (n32 t r)

/-- R124. Computes a fused multiply-add in f64. -/
def execFmaF64 (_cs : CS) (d a b r : BitVec 6) (s : State) : Out :=
  fpu64 s d fun t => fpFma f64 t (n64 t a) (n64 t b) (n64 t r)

/-- R124. Computes a fused multiply-add on each packed f16 element. -/
def execFmaF16x2 (_cs : CS) (d a b r : BitVec 6) (s : State) : Out :=
  fpuX2 s d fun t =>
    (fpFma f16 t (lo16 (rd t a)) (lo16 (rd t b)) (lo16 (rd t r)), fpFma f16 t (hi16 (rd t a)) (hi16 (rd t b)) (hi16 (rd t r)))

/-- R124. Computes a fused multiply-add on each packed bf16 element. -/
def execFmaBf16x2 (_cs : CS) (d a b r : BitVec 6) (s : State) : Out :=
  fpuX2 s d fun t =>
    (fpFma bf16 t (lo16 (rd t a)) (lo16 (rd t b)) (lo16 (rd t r)), fpFma bf16 t (hi16 (rd t a)) (hi16 (rd t b)) (hi16 (rd t r)))

/-- R126. Compares two f32 values under the condition field and writes a predicate. -/
def execFcmpF32 (_cs : CS) (p : BitVec 3) (a b : BitVec 6) (x : BitVec 4) (s : State) : Out :=
  .next (s.eachLane fun _ t =>
    let r := fCompare x.toNat (flushIn t.ftz f32 (n32 t a)) (flushIn t.ftz f32 (n32 t b))
    fpDone t [.p p r.1] r.2 0)

/-- R127. Writes the f32 reciprocal seed. -/
def execFrcpF32 (_cs : CS) (d a : BitVec 6) (s : State) : Out :=
  sx32 s d fun t => fRcp t.ftz 8 23 (n32 t a)

/-- R127. Writes the f32 reciprocal square-root seed. -/
def execFrsqF32 (_cs : CS) (d a : BitVec 6) (s : State) : Out :=
  sx32 s d fun t => fRsq t.ftz 8 23 (n32 t a)

/-- R132. Turns an f32 quotient estimate into the correctly rounded quotient, or performs IEEE division. -/
def execFdivfixF32 (_cs : CS) (d a b : BitVec 6) (s : State) : Out :=
  fpu32 s d fun t => fDivFix 8 23 t.dir t.ftz (n32 t d) (n32 t a) (n32 t b)

/-- R133. Turns an f32 root estimate into the correctly rounded square root. -/
def execFsqrtfixF32 (_cs : CS) (d a : BitVec 6) (s : State) : Out :=
  fpu32 s d fun t => fSqrtFix 8 23 t.dir t.ftz (n32 t d) (n32 t a)

/-- R131. Writes the class mask of an f32 value. -/
def execFclassF32 (_cs : CS) (d a : BitVec 6) (s : State) : Out :=
  alu s fun _ t => [.g d (BitVec.ofNat 32 (fClass 8 23 (n32 t a)))]

/-- R134. Rounds an f32 value to an integral value in the direction the b field selects. -/
def execFrndF32 (_cs : CS) (d a k : BitVec 6) (s : State) : Out :=
  fpu32 s d fun t => fRnd t.ftz f32 (t.dirOf k.toNat) (n32 t a)

/-- R135. Multiplies an f32 value by 2^n. -/
def execFscaleF32 (_cs : CS) (d a b : BitVec 6) (s : State) : Out :=
  fpu32 s d fun t => fScale t.ftz f32 t.dir (n32 t a) (rd t b).toInt

/-- R136. Writes floor(log2 |a|) of an f32 value as an integer. -/
def execFexpoF32 (_cs : CS) (d a : BitVec 6) (s : State) : Out :=
  fpu32 s d fun t => fExpo t.ftz f32 (n32 t a)

/-- R126. Compares two f64 values under the condition field and writes a predicate. -/
def execFcmpF64 (_cs : CS) (p : BitVec 3) (a b : BitVec 6) (x : BitVec 4) (s : State) : Out :=
  .next (s.eachLane fun _ t =>
    let r := fCompare x.toNat (flushIn t.ftz f64 (n64 t a)) (flushIn t.ftz f64 (n64 t b))
    fpDone t [.p p r.1] r.2 0)

/-- R127. Writes the f64 reciprocal seed. -/
def execFrcpF64 (_cs : CS) (d a : BitVec 6) (s : State) : Out :=
  sx64 s d fun t => fRcp t.ftz 11 52 (n64 t a)

/-- R127. Writes the f64 reciprocal square-root seed. -/
def execFrsqF64 (_cs : CS) (d a : BitVec 6) (s : State) : Out :=
  sx64 s d fun t => fRsq t.ftz 11 52 (n64 t a)

/-- R132. Performs the f64 division fix-up. -/
def execFdivfixF64 (_cs : CS) (d a b : BitVec 6) (s : State) : Out :=
  fpu64 s d fun t => fDivFix 11 52 t.dir t.ftz (n64 t d) (n64 t a) (n64 t b)

/-- R133. Performs the f64 square-root fix-up. -/
def execFsqrtfixF64 (_cs : CS) (d a : BitVec 6) (s : State) : Out :=
  fpu64 s d fun t => fSqrtFix 11 52 t.dir t.ftz (n64 t d) (n64 t a)

/-- R131. Writes the class mask of an f64 value. -/
def execFclassF64 (_cs : CS) (d a : BitVec 6) (s : State) : Out :=
  alu s fun _ t => [.g d (BitVec.ofNat 32 (fClass 11 52 (n64 t a)))]

/-- R134. Rounds an f64 value to an integral value. -/
def execFrndF64 (_cs : CS) (d a k : BitVec 6) (s : State) : Out :=
  fpu64 s d fun t => fRnd t.ftz f64 (t.dirOf k.toNat) (n64 t a)

/-- R135. Multiplies an f64 value by 2^n. -/
def execFscaleF64 (_cs : CS) (d a b : BitVec 6) (s : State) : Out :=
  fpu64 s d fun t => fScale t.ftz f64 t.dir (n64 t a) (rd t b).toInt

/-- R136. Writes floor(log2 |a|) of an f64 value as an integer. -/
def execFexpoF64 (_cs : CS) (d a : BitVec 6) (s : State) : Out :=
  fpu32 s d fun t => fExpo t.ftz f64 (n64 t a)

/-- R129. Writes 2^x rounded to f32. -/
def execExp2F32 (_cs : CS) (d a : BitVec 6) (s : State) : Out :=
  sx32 s d fun t => sfu32 fExp2 t (n32 t a)

/-- R129. Writes log2 x rounded to f32. -/
def execLog2F32 (_cs : CS) (d a : BitVec 6) (s : State) : Out :=
  sx32 s d fun t => sfu32 fLog2 t (n32 t a)

/-- R129. Writes the sine of x radians. -/
def execSinF32 (_cs : CS) (d a : BitVec 6) (s : State) : Out :=
  sx32 s d fun t => sfu32 (fTrig false) t (n32 t a)

/-- R129. Writes the cosine of x radians. -/
def execCosF32 (_cs : CS) (d a : BitVec 6) (s : State) : Out :=
  sx32 s d fun t => sfu32 (fTrig true) t (n32 t a)

/-- R129. Writes tanh x. -/
def execTanhF32 (_cs : CS) (d a : BitVec 6) (s : State) : Out :=
  sx32 s d fun t => sfu32 fTanh t (n32 t a)

/-- R138. Converts f64 to f32 with rounding. -/
def execCvtF32F64 (_cs : CS) (d a : BitVec 6) (m : BitVec 3) (s : State) : Out :=
  sx32 s d fun t => convert f32 f64 t m.toNat false (n64 t a)

/-- R138. Converts f32 to f64 exactly. -/
def execCvtF64F32 (_cs : CS) (d a : BitVec 6) (m : BitVec 3) (s : State) : Out :=
  sx64 s d fun t => convert f64 f32 t m.toNat false (n32 t a)

/-- R138. Converts f32 to f16. -/
def execCvtF16F32 (_cs : CS) (d a : BitVec 6) (m : BitVec 3) (s : State) : Out :=
  sx32 s d fun t => convert f16 f32 t m.toNat false (n32 t a)

/-- R138. Converts f16 to f32 exactly. -/
def execCvtF32F16 (_cs : CS) (d a : BitVec 6) (m : BitVec 3) (s : State) : Out :=
  sx32 s d fun t => convert f32 f16 t m.toNat false (n32 t a % 2 ^ 16)

/-- R138. Converts f32 to bf16. -/
def execCvtBf16F32 (_cs : CS) (d a : BitVec 6) (m : BitVec 3) (s : State) : Out :=
  sx32 s d fun t => convert bf16 f32 t m.toNat false (n32 t a)

/-- R138. Converts bf16 to f32 exactly. -/
def execCvtF32Bf16 (_cs : CS) (d a : BitVec 6) (m : BitVec 3) (s : State) : Out :=
  sx32 s d fun t => convert f32 bf16 t m.toNat false (n32 t a % 2 ^ 16)

/-- R138. Converts a signed 32-bit integer to f32. -/
def execCvtF32I32 (_cs : CS) (d a : BitVec 6) (m : BitVec 3) (s : State) : Out :=
  sx32 s d fun t => convert f32 i32 t m.toNat false (n32 t a)

/-- R138. Converts an unsigned 32-bit integer to f32. -/
def execCvtF32N32 (_cs : CS) (d a : BitVec 6) (m : BitVec 3) (s : State) : Out :=
  sx32 s d fun t => convert f32 n32f t m.toNat false (n32 t a)

/-- R138. Converts f32 to a signed 32-bit integer. -/
def execCvtI32F32 (_cs : CS) (d a : BitVec 6) (m : BitVec 3) (s : State) : Out :=
  sx32 s d fun t => convert i32 f32 t m.toNat false (n32 t a)

/-- R138. Converts f32 to an unsigned 32-bit integer. -/
def execCvtN32F32 (_cs : CS) (d a : BitVec 6) (m : BitVec 3) (s : State) : Out :=
  sx32 s d fun t => convert n32f f32 t m.toNat false (n32 t a)

/-- R138. Converts a signed 64-bit integer to f64. -/
def execCvtF64I64 (_cs : CS) (d a : BitVec 6) (m : BitVec 3) (s : State) : Out :=
  sx64 s d fun t => convert f64 i64 t m.toNat false (n64 t a)

/-- R138. Converts an unsigned 64-bit integer to f64. -/
def execCvtF64N64 (_cs : CS) (d a : BitVec 6) (m : BitVec 3) (s : State) : Out :=
  sx64 s d fun t => convert f64 n64f t m.toNat false (n64 t a)

/-- R138. Converts f64 to a signed 64-bit integer. -/
def execCvtI64F64 (_cs : CS) (d a : BitVec 6) (m : BitVec 3) (s : State) : Out :=
  sx64 s d fun t => convert i64 f64 t m.toNat false (n64 t a)

/-- R138. Converts f64 to an unsigned 64-bit integer. -/
def execCvtN64F64 (_cs : CS) (d a : BitVec 6) (m : BitVec 3) (s : State) : Out :=
  sx64 s d fun t => convert n64f f64 t m.toNat false (n64 t a)

/-- R138. Converts a signed 32-bit integer to f64 exactly. -/
def execCvtF64I32 (_cs : CS) (d a : BitVec 6) (m : BitVec 3) (s : State) : Out :=
  sx64 s d fun t => convert f64 i32 t m.toNat false (n32 t a)

/-- R138. Converts an unsigned 32-bit integer to f64 exactly. -/
def execCvtF64N32 (_cs : CS) (d a : BitVec 6) (m : BitVec 3) (s : State) : Out :=
  sx64 s d fun t => convert f64 n32f t m.toNat false (n32 t a)

/-- R138. Converts f64 to a signed 32-bit integer. -/
def execCvtI32F64 (_cs : CS) (d a : BitVec 6) (m : BitVec 3) (s : State) : Out :=
  sx32 s d fun t => convert i32 f64 t m.toNat false (n64 t a)

/-- R138. Converts f64 to an unsigned 32-bit integer. -/
def execCvtN32F64 (_cs : CS) (d a : BitVec 6) (m : BitVec 3) (s : State) : Out :=
  sx32 s d fun t => convert n32f f64 t m.toNat false (n64 t a)

/-- R138. Converts a signed 64-bit integer to f32. -/
def execCvtF32I64 (_cs : CS) (d a : BitVec 6) (m : BitVec 3) (s : State) : Out :=
  sx32 s d fun t => convert f32 i64 t m.toNat false (n64 t a)

/-- R138. Converts an unsigned 64-bit integer to f32. -/
def execCvtF32N64 (_cs : CS) (d a : BitVec 6) (m : BitVec 3) (s : State) : Out :=
  sx32 s d fun t => convert f32 n64f t m.toNat false (n64 t a)

/-- R138. Converts f32 to a signed 64-bit integer. -/
def execCvtI64F32 (_cs : CS) (d a : BitVec 6) (m : BitVec 3) (s : State) : Out :=
  sx64 s d fun t => convert i64 f32 t m.toNat false (n32 t a)

/-- R138. Converts f32 to an unsigned 64-bit integer. -/
def execCvtN64F32 (_cs : CS) (d a : BitVec 6) (m : BitVec 3) (s : State) : Out :=
  sx64 s d fun t => convert n64f f32 t m.toNat false (n32 t a)

/-- R138. Sign-extends a 32-bit value to 64 bits. -/
def execCvtI64I32 (_cs : CS) (d a : BitVec 6) (m : BitVec 3) (s : State) : Out :=
  sx64 s d fun t => convert i64 i32 t m.toNat false (n32 t a)

/-- R138. Zero-extends a 32-bit value to 64 bits. -/
def execCvtN64N32 (_cs : CS) (d a : BitVec 6) (m : BitVec 3) (s : State) : Out :=
  sx64 s d fun t => convert n64f n32f t m.toNat false (n32 t a)

/-- R138. Converts TD8 to f64. -/
def execCvtF64Td8 (_cs : CS) (d a : BitVec 6) (m : BitVec 3) (s : State) : Out :=
  sx64 s d fun t => convert f64 .td8 t m.toNat false (n32 t a % 256)

/-- R138. Converts f64 to TD8, saturating if t is set. -/
def execCvtTd8F64 (_cs : CS) (d a : BitVec 6) (t : BitVec 1) (m : BitVec 3) (s : State) : Out :=
  sx32 s d fun th => convert .td8 f64 th m.toNat (t = 1) (n64 th a)

/-- R138. Converts TD8 to f32. -/
def execCvtF32Td8 (_cs : CS) (d a : BitVec 6) (m : BitVec 3) (s : State) : Out :=
  sx32 s d fun t => convert f32 .td8 t m.toNat false (n32 t a % 256)

/-- R138. Converts f32 to TD8, saturating if t is set. -/
def execCvtTd8F32 (_cs : CS) (d a : BitVec 6) (t : BitVec 1) (m : BitVec 3) (s : State) : Out :=
  sx32 s d fun th => convert .td8 f32 th m.toNat (t = 1) (n32 th a)

/-- R138. Packs two f32 values as f16x2. -/
def execCvtF16x2F32 (_cs : CS) (d a : BitVec 6) (m : BitVec 3) (s : State) : Out :=
  .next (s.eachLane fun _ t =>
    let lo := convert f16 f32 t m.toNat false (n32 t a)
    let hi := convert f16 f32 t m.toNat false (n32 t (a + 1))
    sxDone t [.g d (pack16 lo hi)] lo.exc hi.exc)

/-- R138. Packs two f32 values as bf16x2. -/
def execCvtBf16x2F32 (_cs : CS) (d a : BitVec 6) (m : BitVec 3) (s : State) : Out :=
  .next (s.eachLane fun _ t =>
    let lo := convert bf16 f32 t m.toNat false (n32 t a)
    let hi := convert bf16 f32 t m.toNat false (n32 t (a + 1))
    sxDone t [.g d (pack16 lo hi)] lo.exc hi.exc)

/-- R138. Saturates a signed 64-bit value into 32 bits. -/
def execCvtSatI32I64 (_cs : CS) (d a : BitVec 6) (_m : BitVec 3) (s : State) : Out :=
  .next (s.eachLane fun _ t => sxDone t [.g d (BitVec.ofInt 32 (satInt (rd2 t a).toInt (intMin true 32) (intMax true 32)))] 0 0)

/-- R138. Saturates an unsigned 64-bit value into 32 bits. -/
def execCvtSatN32N64 (_cs : CS) (d a : BitVec 6) (_m : BitVec 3) (s : State) : Out :=
  .next (s.eachLane fun _ t => sxDone t [.g d (BitVec.ofInt 32 (satInt (rd2 t a).toNat 0 (intMax false 32)))] 0 0)

/-- R141. Scales f32 elements and packs them into the narrow format named by f. -/
def execNpk (_cs : CS) (d a b : BitVec 6) (f : BitVec 3) (s : State) : Out :=
  .next (s.eachLane fun _ t => npkLane f false d a b t)

/-- R141. Scales and packs f32 elements into a narrow format, saturating on overflow. -/
def execNpkSat (_cs : CS) (d a b : BitVec 6) (f : BitVec 3) (s : State) : Out :=
  .next (s.eachLane fun _ t => npkLane f true d a b t)

/-- R141. Unpacks narrow elements to f32, applying the scale. -/
def execNupk (_cs : CS) (d a b : BitVec 6) (f : BitVec 3) (s : State) : Out :=
  .next (s.eachLane fun _ t => nupkLane f d a b t)

/-- R141. Chooses an E8M0 block scale from a block maximum. -/
def execNscl (_cs : CS) (d a : BitVec 6) (f : BitVec 3) (s : State) : Out :=
  .next (s.eachLane fun _ t => sxDone t [.g d (nsclOp f (n32 t a))] 0 0)

end Sys2Proof.Machine
end

