-- ==== Sys2Proof/Machine/Integer.lean ====
section
/-! DEFINITION. Integer words: MOVI, I32, I32I, I32C, MAD32, I64, I64C, BITS and SEL (R111 to R119). They write registers
only, raise no flag (R108) and have fixed latency. -/
namespace Sys2Proof.Machine

/-! ## The operations of R112 on w-bit patterns -/

def iMulhS {w : Nat} (a b : BitVec w) : BitVec w := BitVec.ofInt w ((a.toInt * b.toInt) / 2 ^ w)
def iMulhU {w : Nat} (a b : BitVec w) : BitVec w := BitVec.ofNat w ((a.toNat * b.toNat) / 2 ^ w)
def iAddSatS {w : Nat} (a b : BitVec w) : BitVec w := BitVec.ofInt w (satInt (a.toInt + b.toInt) (intMin true w) (intMax true w))
def iAddSatU {w : Nat} (a b : BitVec w) : BitVec w := BitVec.ofInt w (satInt (a.toNat + b.toNat : Int) 0 (intMax false w))
def iSubSatS {w : Nat} (a b : BitVec w) : BitVec w := BitVec.ofInt w (satInt (a.toInt - b.toInt) (intMin true w) (intMax true w))
def iSubSatU {w : Nat} (a b : BitVec w) : BitVec w := BitVec.ofInt w (satInt ((a.toNat : Int) - b.toNat) 0 (intMax false w))
def iMinS {w : Nat} (a b : BitVec w) : BitVec w := if a.slt b then a else b
def iMinU {w : Nat} (a b : BitVec w) : BitVec w := if a.ult b then a else b
def iMaxS {w : Nat} (a b : BitVec w) : BitVec w := if a.slt b then b else a
def iMaxU {w : Nat} (a b : BitVec w) : BitVec w := if a.ult b then b else a
/-- The most negative value returns itself. -/
def iAbs {w : Nat} (a : BitVec w) : BitVec w := if a.msb then -a else a
def iAndn {w : Nat} (a b : BitVec w) : BitVec w := a &&& ~~~b
/-- Shifts by the whole 32-bit count n: from w on nothing of a is left (R112). -/
def iShl {w : Nat} (a : BitVec w) (n : W32) : BitVec w := if w ≤ n.toNat then 0 else a <<< n.toNat
def iShr {w : Nat} (a : BitVec w) (n : W32) : BitVec w := if w ≤ n.toNat then 0 else a >>> n.toNat
def iSar {w : Nat} (a : BitVec w) (n : W32) : BitVec w :=
  if w ≤ n.toNat then (if a.msb then BitVec.allOnes w else 0) else a.sshiftRight n.toNat
def iRotl {w : Nat} (a : BitVec w) (n : W32) : BitVec w := a.rotateLeft (n.toNat % w)
def iRotr {w : Nat} (a : BitVec w) (n : W32) : BitVec w := a.rotateRight (n.toNat % w)
def iBcnt {w : Nat} (a : BitVec w) : W32 := BitVec.ofNat 32 ((List.range w).countP fun i => a.getLsbD i)
def iLzc {w : Nat} (a : BitVec w) : W32 := BitVec.ofNat 32 (if a = 0 then w else w - 1 - a.toNat.log2)
def iTzc {w : Nat} (a : BitVec w) : W32 := BitVec.ofNat 32 (((List.range w).find? fun i => a.getLsbD i).getD w)
/-- The number whose bit i is f i, for i below n. -/
def bitsFrom (f : Nat → Bool) : Nat → Nat
  | 0 => 0
  | n + 1 => bitsFrom f n + (if f n then 2 ^ n else 0)
def iBitrev {w : Nat} (a : BitVec w) : BitVec w := BitVec.ofNat w (bitsFrom (fun i => a.getLsbD (w - 1 - i)) w)
def iByterev {w : Nat} (a : BitVec w) : BitVec w := BitVec.ofNat w (natOf (bytesOf (w / 8) a.toNat).reverse)
/-- a + b × 2^k (R112, `sadd`). -/
def iSadd {w : Nat} (k : Nat) (a b : BitVec w) : BitVec w := a + b <<< k

/-! ## Shapes of words -/

def op32 (f : W32 → W32 → W32) (d a b : Fld) (s : State) : Out := alu s fun _ t => [.g d (f (rd t a) (rd t b))]
def un32 (f : W32 → W32) (d a : Fld) (s : State) : Out := alu s fun _ t => [.g d (f (rd t a))]
def op64 (f : W64 → W64 → W64) (d a b : Fld) (s : State) : Out := alu s fun _ t => wr2 d (f (rd2 t a) (rd2 t b))
def un64 (f : W64 → W64) (d a : Fld) (s : State) : Out := alu s fun _ t => wr2 d (f (rd2 t a))
/-- Shifts and rotations of I64 take their count from a 32-bit register (R57). -/
def sh64 (f : W64 → W32 → W64) (d a b : Fld) (s : State) : Out := alu s fun _ t => wr2 d (f (rd2 t a) (rd t b))
/-- Counts of I64 write a 32-bit register (R57). -/
def cnt64 (f : W64 → W32) (d a : Fld) (s : State) : Out := alu s fun _ t => [.g d (f (rd2 t a))]
def cmp32 (f : W32 → W32 → Bool) (p : BitVec 3) (a b : Fld) (s : State) : Out := alu s fun _ t => [.p p (f (rd t a) (rd t b))]
def cmp64 (f : W64 → W64 → Bool) (p : BitVec 3) (a b : Fld) (s : State) : Out := alu s fun _ t => [.p p (f (rd2 t a) (rd2 t b))]

/-- The constant of MOVI, with and without a prefix (R51). -/
def moviConst (iss : Issue) (n : BitVec 18) : W32 :=
  match iss.imm with
  | some i => i.extractLsb' 0 14 ++ n
  | none => n.signExtend 32
/-- The immediate of an I32I word (R51). -/
def immOf (iss : Issue) (n : BitVec 9) : Int :=
  match iss.imm with
  | some i => (i ++ n).toInt
  | none => n.toInt
/-- An I32I word. -/
def opImm (f : W32 → Int → W32) (d a : Fld) (n : BitVec 9) (s : State) : Out :=
  alu s fun iss t => [.g d (f (rd t a) (immOf iss n))]
/-- An I32I shift, whose count must lie in 0 to 31 (R58, R113). -/
def shImm (f : W32 → W32 → W32) (d a : Fld) (n : BitVec 9) (s : State) : Out :=
  match s.issue with
  | none => .next s
  | some iss =>
    if 0 ≤ immOf iss n ∧ immOf iss n ≤ 31 then alu s fun iss t => [.g d (f (rd t a) (BitVec.ofInt 32 (immOf iss n)))]
    else .next (s.decodeTrap 0x01)

/-- The effective length of R116. -/
def fieldLen (b : W32) : Nat :=
  let pos := (b.extractLsb' 0 8).toNat
  if 32 ≤ pos then 0 else min (b.extractLsb' 8 8).toNat (32 - pos)
def fieldPos (b : W32) : Nat := (b.extractLsb' 0 8).toNat
/-- `fext.n32` (R116). -/
def fextN (a b : W32) : W32 := BitVec.ofNat 32 (a.toNat / 2 ^ (fieldPos b) % 2 ^ (fieldLen b))
/-- `fext.i32` (R116). -/
def fextI (a b : W32) : W32 :=
  let l := fieldLen b
  let x := a.toNat / 2 ^ (fieldPos b) % 2 ^ l
  if l ≠ 0 ∧ x.testBit (l - 1) then BitVec.ofInt 32 ((x : Int) - 2 ^ l) else BitVec.ofNat 32 x
/-- `fins` (R116): d is a source too. -/
def finsOp (d a b : W32) : W32 :=
  let m : W32 := BitVec.ofNat 32 ((2 ^ (fieldLen b) - 1) * 2 ^ (fieldPos b))
  (d &&& ~~~m) ||| (BitVec.ofNat 32 (a.toNat * 2 ^ (fieldPos b)) &&& m)
/-- One byte of `bpick` (R117). -/
def pickByte (a : W32) (c : Byte) : Byte :=
  let x := a.extractLsb' (8 * (c.extractLsb' 0 2).toNat) 8
  match c.extractLsb' 2 2 with
  | 0 => x
  | 1 => if x.msb then 0xFF else 0
  | 2 => 0
  | _ => 0xFF
/-- `bpick` (R117). -/
def bpickOp (a b : W32) : W32 :=
  let r := fun i => pickByte a (b.extractLsb' (8 * i) 8)
  r 3 ++ (r 2 ++ (r 1 ++ r 0))
/-- `bfn3` (R118). -/
def bfn3Op (tt : Byte) (a b c : W32) : W32 :=
  BitVec.ofNat 32 (bitsFrom (fun i => tt.getLsbD (boolBit (a.getLsbD i) + 2 * boolBit (b.getLsbD i) + 4 * boolBit (c.getLsbD i))) 32)

/-! ## The words -/

/-- R111. Writes a sign-extended 18-bit constant, or a constant extended by an IMX prefix. -/
def execMovi (_cs : CS) (d : BitVec 6) (i : BitVec 18) (s : State) : Out :=
  alu s fun iss _ => [.g d (moviConst iss i)]

/-- R112. Writes the 32-bit wrapping sum. -/
def execAdd (_cs : CS) (d a b : BitVec 6) (s : State) : Out :=
  op32 (· + ·) d a b s

/-- R112. Writes the 64-bit wrapping sum. -/
def execAddI64 (_cs : CS) (d a b : BitVec 6) (s : State) : Out :=
  op64 (· + ·) d a b s

/-- R112. Writes the 32-bit wrapping difference. -/
def execSub (_cs : CS) (d a b : BitVec 6) (s : State) : Out :=
  op32 (· - ·) d a b s

/-- R112. Writes the 64-bit wrapping difference. -/
def execSubI64 (_cs : CS) (d a b : BitVec 6) (s : State) : Out :=
  op64 (· - ·) d a b s

/-- R112. Writes the 32-bit wrapping product. -/
def execMul (_cs : CS) (d a b : BitVec 6) (s : State) : Out :=
  op32 (· * ·) d a b s

/-- R112. Writes the 64-bit wrapping product. -/
def execMulI64 (_cs : CS) (d a b : BitVec 6) (s : State) : Out :=
  op64 (· * ·) d a b s

/-- R112. Writes the high 32 bits of the signed product. -/
def execMulhI32 (_cs : CS) (d a b : BitVec 6) (s : State) : Out :=
  op32 iMulhS d a b s

/-- R112. Writes the high 64 bits of the signed product. -/
def execMulhI64 (_cs : CS) (d a b : BitVec 6) (s : State) : Out :=
  op64 iMulhS d a b s

/-- R112. Writes the high 32 bits of the unsigned product. -/
def execMulhN32 (_cs : CS) (d a b : BitVec 6) (s : State) : Out :=
  op32 iMulhU d a b s

/-- R112. Writes the high 64 bits of the unsigned product. -/
def execMulhN64 (_cs : CS) (d a b : BitVec 6) (s : State) : Out :=
  op64 iMulhU d a b s

/-- R112. Writes the signed saturating 32-bit sum. -/
def execAddSatI32 (_cs : CS) (d a b : BitVec 6) (s : State) : Out :=
  op32 iAddSatS d a b s

/-- R112. Writes the signed saturating 64-bit sum. -/
def execAddSatI64 (_cs : CS) (d a b : BitVec 6) (s : State) : Out :=
  op64 iAddSatS d a b s

/-- R112. Writes the unsigned saturating 32-bit sum. -/
def execAddSatN32 (_cs : CS) (d a b : BitVec 6) (s : State) : Out :=
  op32 iAddSatU d a b s

/-- R112. Writes the unsigned saturating 64-bit sum. -/
def execAddSatN64 (_cs : CS) (d a b : BitVec 6) (s : State) : Out :=
  op64 iAddSatU d a b s

/-- R112. Writes the signed saturating 32-bit difference. -/
def execSubSatI32 (_cs : CS) (d a b : BitVec 6) (s : State) : Out :=
  op32 iSubSatS d a b s

/-- R112. Writes the signed saturating 64-bit difference. -/
def execSubSatI64 (_cs : CS) (d a b : BitVec 6) (s : State) : Out :=
  op64 iSubSatS d a b s

/-- R112. Writes the unsigned saturating 32-bit difference. -/
def execSubSatN32 (_cs : CS) (d a b : BitVec 6) (s : State) : Out :=
  op32 iSubSatU d a b s

/-- R112. Writes the unsigned saturating 64-bit difference. -/
def execSubSatN64 (_cs : CS) (d a b : BitVec 6) (s : State) : Out :=
  op64 iSubSatU d a b s

/-- R112. Writes the signed 32-bit minimum. -/
def execMinI32 (_cs : CS) (d a b : BitVec 6) (s : State) : Out :=
  op32 iMinS d a b s

/-- R112. Writes the signed 64-bit minimum. -/
def execMinI64 (_cs : CS) (d a b : BitVec 6) (s : State) : Out :=
  op64 iMinS d a b s

/-- R112. Writes the unsigned 32-bit minimum. -/
def execMinN32 (_cs : CS) (d a b : BitVec 6) (s : State) : Out :=
  op32 iMinU d a b s

/-- R112. Writes the unsigned 64-bit minimum. -/
def execMinN64 (_cs : CS) (d a b : BitVec 6) (s : State) : Out :=
  op64 iMinU d a b s

/-- R112. Writes the signed 32-bit maximum. -/
def execMaxI32 (_cs : CS) (d a b : BitVec 6) (s : State) : Out :=
  op32 iMaxS d a b s

/-- R112. Writes the signed 64-bit maximum. -/
def execMaxI64 (_cs : CS) (d a b : BitVec 6) (s : State) : Out :=
  op64 iMaxS d a b s

/-- R112. Writes the unsigned 32-bit maximum. -/
def execMaxN32 (_cs : CS) (d a b : BitVec 6) (s : State) : Out :=
  op32 iMaxU d a b s

/-- R112. Writes the unsigned 64-bit maximum. -/
def execMaxN64 (_cs : CS) (d a b : BitVec 6) (s : State) : Out :=
  op64 iMaxU d a b s

/-- R112. Writes the bitwise AND. -/
def execAnd (_cs : CS) (d a b : BitVec 6) (s : State) : Out :=
  op32 (· &&& ·) d a b s

/-- R112. Writes the 64-bit AND. -/
def execAndI64 (_cs : CS) (d a b : BitVec 6) (s : State) : Out :=
  op64 (· &&& ·) d a b s

/-- R112. Writes the bitwise OR. -/
def execOr (_cs : CS) (d a b : BitVec 6) (s : State) : Out :=
  op32 (· ||| ·) d a b s

/-- R112. Writes the 64-bit OR. -/
def execOrI64 (_cs : CS) (d a b : BitVec 6) (s : State) : Out :=
  op64 (· ||| ·) d a b s

/-- R112. Writes the bitwise XOR. -/
def execXor (_cs : CS) (d a b : BitVec 6) (s : State) : Out :=
  op32 (· ^^^ ·) d a b s

/-- R112. Writes the 64-bit XOR. -/
def execXorI64 (_cs : CS) (d a b : BitVec 6) (s : State) : Out :=
  op64 (· ^^^ ·) d a b s

/-- R112. Writes a AND NOT b. -/
def execAndn (_cs : CS) (d a b : BitVec 6) (s : State) : Out :=
  op32 iAndn d a b s

/-- R112. Writes the 64-bit a AND NOT b. -/
def execAndnI64 (_cs : CS) (d a b : BitVec 6) (s : State) : Out :=
  op64 iAndn d a b s

/-- R112. Writes a + 2b, wrapping. -/
def execSaddX2 (_cs : CS) (d a b : BitVec 6) (s : State) : Out :=
  op32 (iSadd 1) d a b s

/-- R112. Writes the 64-bit a + 2b. -/
def execSaddX2I64 (_cs : CS) (d a b : BitVec 6) (s : State) : Out :=
  op64 (iSadd 1) d a b s

/-- R112. Writes a + 4b, wrapping. -/
def execSaddX4 (_cs : CS) (d a b : BitVec 6) (s : State) : Out :=
  op32 (iSadd 2) d a b s

/-- R112. Writes the 64-bit a + 4b. -/
def execSaddX4I64 (_cs : CS) (d a b : BitVec 6) (s : State) : Out :=
  op64 (iSadd 2) d a b s

/-- R112. Writes a + 8b, wrapping. -/
def execSaddX8 (_cs : CS) (d a b : BitVec 6) (s : State) : Out :=
  op32 (iSadd 3) d a b s

/-- R112. Writes the 64-bit a + 8b. -/
def execSaddX8I64 (_cs : CS) (d a b : BitVec 6) (s : State) : Out :=
  op64 (iSadd 3) d a b s

/-- R112. Writes a + 16b, wrapping. -/
def execSaddX16 (_cs : CS) (d a b : BitVec 6) (s : State) : Out :=
  op32 (iSadd 4) d a b s

/-- R112. Writes the 64-bit a + 16b. -/
def execSaddX16I64 (_cs : CS) (d a b : BitVec 6) (s : State) : Out :=
  op64 (iSadd 4) d a b s

/-- R112. Writes the wrapping 32-bit absolute value. -/
def execAbs (_cs : CS) (d a : BitVec 6) (s : State) : Out :=
  un32 iAbs d a s

/-- R112. Writes the wrapping 64-bit absolute value. -/
def execAbsI64 (_cs : CS) (d a : BitVec 6) (s : State) : Out :=
  un64 iAbs d a s

/-- R112. Writes the wrapping 32-bit negation. -/
def execNeg (_cs : CS) (d a : BitVec 6) (s : State) : Out :=
  un32 (- ·) d a s

/-- R112. Writes the wrapping 64-bit negation. -/
def execNegI64 (_cs : CS) (d a : BitVec 6) (s : State) : Out :=
  un64 (- ·) d a s

/-- R112. Writes the bitwise complement. -/
def execNot (_cs : CS) (d a : BitVec 6) (s : State) : Out :=
  un32 (~~~ ·) d a s

/-- R112. Writes the 64-bit complement. -/
def execNotI64 (_cs : CS) (d a : BitVec 6) (s : State) : Out :=
  un64 (~~~ ·) d a s

/-- R112. Reverses the order of the bits. -/
def execBitrev (_cs : CS) (d a : BitVec 6) (s : State) : Out :=
  un32 iBitrev d a s

/-- R112. Reverses the 64 bits. -/
def execBitrevI64 (_cs : CS) (d a : BitVec 6) (s : State) : Out :=
  un64 iBitrev d a s

/-- R112. Reverses the order of the bytes. -/
def execByterev (_cs : CS) (d a : BitVec 6) (s : State) : Out :=
  un32 iByterev d a s

/-- R112. Reverses the 8 bytes. -/
def execByterevI64 (_cs : CS) (d a : BitVec 6) (s : State) : Out :=
  un64 iByterev d a s

/-- R112. Copies a register. -/
def execMov (_cs : CS) (d a : BitVec 6) (s : State) : Out :=
  un32 id d a s

/-- R112. Copies a register pair. -/
def execMovI64 (_cs : CS) (d a : BitVec 6) (s : State) : Out :=
  un64 id d a s

/-- R112. Shifts left, giving zero for counts of 32 or more. -/
def execShl (_cs : CS) (d a b : BitVec 6) (s : State) : Out :=
  op32 iShl d a b s

/-- R112. Shifts a 64-bit value left by a count held in a 32-bit register. -/
def execShlI64 (_cs : CS) (d a b : BitVec 6) (s : State) : Out :=
  sh64 iShl d a b s

/-- R112. Shifts right logically, giving zero for counts of 32 or more. -/
def execShr (_cs : CS) (d a b : BitVec 6) (s : State) : Out :=
  op32 iShr d a b s

/-- R112. Shifts a 64-bit value right logically. -/
def execShrI64 (_cs : CS) (d a b : BitVec 6) (s : State) : Out :=
  sh64 iShr d a b s

/-- R112. Shifts right arithmetically. -/
def execSar (_cs : CS) (d a b : BitVec 6) (s : State) : Out :=
  op32 iSar d a b s

/-- R112. Shifts a 64-bit value right arithmetically. -/
def execSarI64 (_cs : CS) (d a b : BitVec 6) (s : State) : Out :=
  sh64 iSar d a b s

/-- R112. Rotates left. -/
def execRotl (_cs : CS) (d a b : BitVec 6) (s : State) : Out :=
  op32 iRotl d a b s

/-- R112. Rotates a 64-bit value left. -/
def execRotlI64 (_cs : CS) (d a b : BitVec 6) (s : State) : Out :=
  sh64 iRotl d a b s

/-- R112. Rotates right. -/
def execRotr (_cs : CS) (d a b : BitVec 6) (s : State) : Out :=
  op32 iRotr d a b s

/-- R112. Rotates a 64-bit value right. -/
def execRotrI64 (_cs : CS) (d a b : BitVec 6) (s : State) : Out :=
  sh64 iRotr d a b s

/-- R112. Counts the one bits. -/
def execBcnt (_cs : CS) (d a : BitVec 6) (s : State) : Out :=
  un32 iBcnt d a s

/-- R112. Counts the one bits of a 64-bit value into a 32-bit register. -/
def execBcntI64 (_cs : CS) (d a : BitVec 6) (s : State) : Out :=
  cnt64 iBcnt d a s

/-- R112. Counts the leading zero bits. -/
def execLzc (_cs : CS) (d a : BitVec 6) (s : State) : Out :=
  un32 iLzc d a s

/-- R112. Counts the leading zero bits of a 64-bit value. -/
def execLzcI64 (_cs : CS) (d a : BitVec 6) (s : State) : Out :=
  cnt64 iLzc d a s

/-- R112. Counts the trailing zero bits. -/
def execTzc (_cs : CS) (d a : BitVec 6) (s : State) : Out :=
  un32 iTzc d a s

/-- R112. Counts the trailing zero bits of a 64-bit value. -/
def execTzcI64 (_cs : CS) (d a : BitVec 6) (s : State) : Out :=
  cnt64 iTzc d a s

/-- R112. Adds a sign-extended 32-bit value to a 64-bit pair. -/
def execAddwI32 (_cs : CS) (d a b : BitVec 6) (s : State) : Out :=
  alu s fun _ t => wr2 d (rd2 t a + (rd t b).signExtend 64)

/-- R112. Adds a zero-extended 32-bit value to a 64-bit pair. -/
def execAddwN32 (_cs : CS) (d a b : BitVec 6) (s : State) : Out :=
  alu s fun _ t => wr2 d (rd2 t a + (rd t b).setWidth 64)

/-- R112. Writes the exact 64-bit product of two signed 32-bit values. -/
def execMulxI32 (_cs : CS) (d a b : BitVec 6) (s : State) : Out :=
  alu s fun _ t => wr2 d ((rd t a).signExtend 64 * (rd t b).signExtend 64)

/-- R112. Writes the exact 64-bit product of two unsigned 32-bit values. -/
def execMulxN32 (_cs : CS) (d a b : BitVec 6) (s : State) : Out :=
  alu s fun _ t => wr2 d ((rd t a).setWidth 64 * (rd t b).setWidth 64)

/-- R113. Adds an immediate, wrapping. -/
def execAddi (_cs : CS) (d a : BitVec 6) (i : BitVec 9) (s : State) : Out :=
  opImm (fun a n => a + BitVec.ofInt 32 n) d a i s

/-- R113. ANDs with an immediate. -/
def execAndi (_cs : CS) (d a : BitVec 6) (i : BitVec 9) (s : State) : Out :=
  opImm (fun a n => a &&& BitVec.ofInt 32 n) d a i s

/-- R113. ORs with an immediate. -/
def execOri (_cs : CS) (d a : BitVec 6) (i : BitVec 9) (s : State) : Out :=
  opImm (fun a n => a ||| BitVec.ofInt 32 n) d a i s

/-- R113. XORs with an immediate. -/
def execXori (_cs : CS) (d a : BitVec 6) (i : BitVec 9) (s : State) : Out :=
  opImm (fun a n => a ^^^ BitVec.ofInt 32 n) d a i s

/-- R113. Multiplies by an immediate, wrapping. -/
def execMuli (_cs : CS) (d a : BitVec 6) (i : BitVec 9) (s : State) : Out :=
  opImm (fun a n => a * BitVec.ofInt 32 n) d a i s

/-- R113. Shifts left by an immediate count from 0 to 31. -/
def execShli (_cs : CS) (d a : BitVec 6) (i : BitVec 9) (s : State) : Out :=
  shImm iShl d a i s

/-- R113. Shifts right logically by an immediate count. -/
def execShri (_cs : CS) (d a : BitVec 6) (i : BitVec 9) (s : State) : Out :=
  shImm iShr d a i s

/-- R113. Shifts right arithmetically by an immediate count. -/
def execSari (_cs : CS) (d a : BitVec 6) (i : BitVec 9) (s : State) : Out :=
  shImm iSar d a i s

/-- R114. Sets the predicate when the 32-bit patterns are equal. -/
def execCmpEqI32 (_cs : CS) (p : BitVec 3) (a b : BitVec 6) (s : State) : Out :=
  cmp32 (fun x y => x == y) p a b s

/-- R114. Sets the predicate when the 64-bit patterns are equal. -/
def execCmpEqI64 (_cs : CS) (p : BitVec 3) (a b : BitVec 6) (s : State) : Out :=
  cmp64 (fun x y => x == y) p a b s

/-- R114. Sets the predicate when the 32-bit patterns differ. -/
def execCmpNeI32 (_cs : CS) (p : BitVec 3) (a b : BitVec 6) (s : State) : Out :=
  cmp32 (fun x y => x != y) p a b s

/-- R114. Sets the predicate when the 64-bit patterns differ. -/
def execCmpNeI64 (_cs : CS) (p : BitVec 3) (a b : BitVec 6) (s : State) : Out :=
  cmp64 (fun x y => x != y) p a b s

/-- R114. Performs a signed less-than comparison. -/
def execCmpLtI32 (_cs : CS) (p : BitVec 3) (a b : BitVec 6) (s : State) : Out :=
  cmp32 (fun x y => x.slt y) p a b s

/-- R114. Performs a signed 64-bit less-than comparison. -/
def execCmpLtI64 (_cs : CS) (p : BitVec 3) (a b : BitVec 6) (s : State) : Out :=
  cmp64 (fun x y => x.slt y) p a b s

/-- R114. Performs a signed less-or-equal comparison. -/
def execCmpLeI32 (_cs : CS) (p : BitVec 3) (a b : BitVec 6) (s : State) : Out :=
  cmp32 (fun x y => x.sle y) p a b s

/-- R114. Performs a signed 64-bit less-or-equal comparison. -/
def execCmpLeI64 (_cs : CS) (p : BitVec 3) (a b : BitVec 6) (s : State) : Out :=
  cmp64 (fun x y => x.sle y) p a b s

/-- R114. Performs a signed greater-than comparison. -/
def execCmpGtI32 (_cs : CS) (p : BitVec 3) (a b : BitVec 6) (s : State) : Out :=
  cmp32 (fun x y => y.slt x) p a b s

/-- R114. Performs a signed 64-bit greater-than comparison. -/
def execCmpGtI64 (_cs : CS) (p : BitVec 3) (a b : BitVec 6) (s : State) : Out :=
  cmp64 (fun x y => y.slt x) p a b s

/-- R114. Performs a signed greater-or-equal comparison. -/
def execCmpGeI32 (_cs : CS) (p : BitVec 3) (a b : BitVec 6) (s : State) : Out :=
  cmp32 (fun x y => y.sle x) p a b s

/-- R114. Performs a signed 64-bit greater-or-equal comparison. -/
def execCmpGeI64 (_cs : CS) (p : BitVec 3) (a b : BitVec 6) (s : State) : Out :=
  cmp64 (fun x y => y.sle x) p a b s

/-- R114. Performs an unsigned less-than comparison. -/
def execCmpLtN32 (_cs : CS) (p : BitVec 3) (a b : BitVec 6) (s : State) : Out :=
  cmp32 (fun x y => x.ult y) p a b s

/-- R114. Performs an unsigned 64-bit less-than comparison. -/
def execCmpLtN64 (_cs : CS) (p : BitVec 3) (a b : BitVec 6) (s : State) : Out :=
  cmp64 (fun x y => x.ult y) p a b s

/-- R114. Performs an unsigned less-or-equal comparison. -/
def execCmpLeN32 (_cs : CS) (p : BitVec 3) (a b : BitVec 6) (s : State) : Out :=
  cmp32 (fun x y => x.ule y) p a b s

/-- R114. Performs an unsigned 64-bit less-or-equal comparison. -/
def execCmpLeN64 (_cs : CS) (p : BitVec 3) (a b : BitVec 6) (s : State) : Out :=
  cmp64 (fun x y => x.ule y) p a b s

/-- R114. Performs an unsigned greater-than comparison. -/
def execCmpGtN32 (_cs : CS) (p : BitVec 3) (a b : BitVec 6) (s : State) : Out :=
  cmp32 (fun x y => y.ult x) p a b s

/-- R114. Performs an unsigned 64-bit greater-than comparison. -/
def execCmpGtN64 (_cs : CS) (p : BitVec 3) (a b : BitVec 6) (s : State) : Out :=
  cmp64 (fun x y => y.ult x) p a b s

/-- R114. Performs an unsigned greater-or-equal comparison. -/
def execCmpGeN32 (_cs : CS) (p : BitVec 3) (a b : BitVec 6) (s : State) : Out :=
  cmp32 (fun x y => y.ule x) p a b s

/-- R114. Performs an unsigned 64-bit greater-or-equal comparison. -/
def execCmpGeN64 (_cs : CS) (p : BitVec 3) (a b : BitVec 6) (s : State) : Out :=
  cmp64 (fun x y => y.ule x) p a b s

/-- R115. Writes a × b + c, wrapped to 32 bits. -/
def execMuladd (_cs : CS) (d a b r : BitVec 6) (s : State) : Out :=
  alu s fun _ t => [.g d (rd t a * rd t b + rd t r)]

/-- R116. Extracts a bit field, zero-extended. -/
def execFextN32 (_cs : CS) (d a b : BitVec 6) (s : State) : Out :=
  op32 fextN d a b s

/-- R116. Extracts a bit field, sign-extended. -/
def execFextI32 (_cs : CS) (d a b : BitVec 6) (s : State) : Out :=
  op32 fextI d a b s

/-- R116. Inserts the low bits of a into a field of d. -/
def execFins (_cs : CS) (d a b : BitVec 6) (s : State) : Out :=
  alu s fun _ t => [.g d (finsOp (rd t d) (rd t a) (rd t b))]

/-- R117. Builds each byte of the result from a selected byte of a, its sign, or a constant. -/
def execBpick (_cs : CS) (d a b : BitVec 6) (s : State) : Out :=
  op32 bpickOp d a b s

/-- R118. Applies a three-input Boolean function table bit by bit; the third register and the table come from the IMX prefix. -/
def execBfn3 (_cs : CS) (d a b : BitVec 6) (s : State) : Out :=
  alu s fun iss t =>
    let i := iss.imm.getD 0
    [.g d (bfn3Op (i.extractLsb' 0 8) (rd t a) (rd t b) (rd t (i.extractLsb' 8 6)))]

/-- R119. Selects a or b by a predicate, negated if n is set. -/
def execSel (_cs : CS) (d a b : BitVec 6) (n : BitVec 1) (p : BitVec 3) (s : State) : Out :=
  alu s fun _ t => [.g d (if rdP t p != (n = 1) then rd t a else rd t b)]

/-- R119. Selects one of two 64-bit pairs by a predicate. -/
def execSelI64 (_cs : CS) (d a b : BitVec 6) (n : BitVec 1) (p : BitVec 3) (s : State) : Out :=
  alu s fun _ t => wr2 d (if rdP t p != (n = 1) then rd2 t a else rd2 t b)

end Sys2Proof.Machine
end

