-- ==== Sys2Proof/Machine/Issue.lean ====
section
/-! DEFINITION. Issue: fetching a packet (R33), the words of a chain and the traps that its examination raises (R35, R36, R41,
R70), the waits that hold a chain (R21, R150, R211 to R213, R221, R274), the choice among fetch sets (R334, R335), and what a
chain's end does to its threads (R40, R146, R149, R153, R155, R158). -/
namespace Sys2Proof.Machine

/-! ## Chains (R35, R36) -/

/-- The words of a chain that go to a pipe. -/
def countPipe (ws : List W32) (p : Pipe) : Nat := (ws.filter fun w => pipeOf w = p).length
/-- What a word decodes to. -/
noncomputable def instrOf (w : W32) : Option Instr := (decode w).toOption
/-- The registers that an operand names, as the pending set names them; p7 is never pending (R45). -/
def Opnd.regs (o : Opnd) : List Dest :=
  (List.range o.n).filterMap fun i =>
    match o.file with
    | .g => some (.g (BitVec.ofNat 6 (o.r + i)))
    | .p => if o.r = 7 then none else some (.p (BitVec.ofNat 3 o.r))
    | .h => some (.h (BitVec.ofNat 5 o.r))
/-- The bits of a word that some form leaves unused, tried one after another: those of d, a and b, which never hold the code of a
form that does not use all of the field, before those of fn. [DEDUCED: log entry 12] -/
def unusedMasks : List W32 :=
  [0, 0x3C, 0x03].flatMap fun f => [0, 0x800000, 0xE00000, 0xFC0000].flatMap fun d =>
    [0, 0x20000, 0x38000, 0x3F000].flatMap fun a => [0, 0xC00, 0xE00, 0xFC0].map fun b => f ||| d ||| a ||| b
/-- The form of a word, whatever its unused fields hold (R36): the first that decodes when as little as possible of them is read as
zero. [DEDUCED: log entry 12] -/
noncomputable def formOf (w : W32) : Option Instr := unusedMasks.findSome? fun m => instrOf (w &&& ~~~m)
/-- Whether two words name the same destination register in the same file. -/
def destClash (a b : Instr) : Bool :=
  (opnds a).any fun x => x.wr && (opnds b).any fun y =>
    y.wr && x.file = y.file && decide (x.r < y.r + y.n) && decide (y.r < x.r + x.n)
/-- Whether a word's code is assigned: it decodes, but for fields that must be zero (R8). -/
noncomputable def assigned (w : W32) : Bool :=
  match decode w with
  | .ok _ | .error .field => true
  | .error .code | .error .major => false
/-- A chain that breaks R36. [DEDUCED: log entry 12] -/
noncomputable def badChain (ws : List W32) (slot : BitVec 2) : Bool :=
  (match ws.getLast? with | some w => w.getLsbD 31 && decide (slot.toNat + ws.length = 3) | none => true) ||
  decide (1 < countPipe ws .sx) || decide (1 < countPipe ws .mem) || decide (1 < countPipe ws .eng) || decide (1 < countPipe ws .br) ||
  decide (2 < countPipe ws .vec) ||
  (let is := ws.filterMap fun w => if assigned w then formOf w else none
   is.zipIdx.any fun a => is.zipIdx.any fun b => decide (a.2 < b.2) && destClash a.1 b.1)
/-- A word of a privileged form (R46, R47, R53, R54); an unassigned code is no form (R8). [DEDUCED: log entry 12] -/
noncomputable def privWord (w : W32) : Bool :=
  let m := (majOf w).toNat
  assigned w &&
  ((m = 0 && (fldF w = 8 || ((fldF w = 6 || fldF w = 7) && selPriv (fldB w)))) ||
  (m = 0x28 && (fldF w = 2 || fldF w = 3)) || (decide (0x38 ≤ m) && decide (m ≤ 0x3A)))
def isImx (w : W32) : Bool := majOf w = 6
def isBfn3 (w : W32) : Bool := majOf w = 0x0E && fldF w = 4
/-- Whether an `imx` may be chained to a consumer (R51, R52). [DEDUCED: log entry 13] -/
def imxServes (p w : W32) : Bool :=
  let m := (majOf w).toNat
  (decide (0x20 ≤ m) && decide (m ≤ 0x23)) || m = 0x09 ||
  ((m = 0x07 || isBfn3 w) && p.extractLsb' 14 10 = 0)
/-- What a prefix makes illegal at its consumer: a third register outside the allocation, a shift count outside 0 to 31
(R44, R51, R58). [DEDUCED: log entry 13] -/
def prefixBad (n : Nat) (p w : W32) : Bool :=
  (isBfn3 w && !owned n (p.extractLsb' 8 6).toNat) ||
  (majOf w = 0x09 && decide (4 ≤ (w.extractLsb' 9 3).toNat) && decide ((w.extractLsb' 9 3).toNat ≤ 6) && p.extractLsb' 0 24 ≠ 0)
/-- Condition 3 of R70 at a word of a chain, `before` the word ahead of it. -/
noncomputable def illegalAt (n : Nat) (before : Option W32) (w : W32) (after : Option W32) : Bool :=
  (match instrOf w with | some i => !wfFor n i | none => true) ||
  (isImx w && (match after with | some x => !imxServes w x | none => true)) ||
  (match before with
   | some p => if isImx p then prefixBad n p w else isBfn3 w
   | none => isBfn3 w)
/-- The first word of a chain, counted from its first, that meets condition 3. [DEDUCED: log entry 12] -/
noncomputable def firstIllegal (n : Nat) : Option W32 → Nat → List W32 → Option Nat
  | _, _, [] => none
  | b, i, w :: l => if illegalAt n b w l.head? then some i else firstIllegal n (some w) (i + 1) l
/-- CONDITIONS 1 TO 3 OF R70: the cause and the word that is reported. [DEDUCED: log entry 12; DEDUCED: log entry 13] -/
noncomputable def chainTrap (privileged : Bool) (n : Nat) (ws : List W32) (slot : BitVec 2) : Option (Byte × Nat) :=
  if badChain ws slot then some (0x01, 0)
  else match ws.findIdx? fun w => privWord w && !privileged with
    | some i => some (0x02, i)
    | none => (firstIllegal n none 0 ws).map fun i => (0x01, i)

/-! ## The hazard trap (R41) -/

/-- Whether a descriptor asks for an operand that is read only then (R270, R281, R287, R390). -/
def dynUsed (t : Thread) (w : W32) (o : Opnd) : Bool :=
  let a := nowG t (fldD w + 2)
  let bUsed :=
    match (majOf w).toNat, (fldF w).toNat with
    | 0x2D, 0 => a.extractLsb' 24 2 = 2
    | 0x32, 2 | 0x32, 3 => a.getLsbD 24
    | _, _ => false
  let rUsed :=
    match (majOf w).toNat, (fldF w).toNat with
    | 0x2D, 3 => (nowG t (fldA w)).getLsbD 16
    | 0x2D, _ => a.getLsbD 26
    | 0x2F, _ => a.getLsbD 24
    | _, _ => false
  (bUsed && o.r = (fldA w).toNat) || (rUsed && o.r = (fldB w).toNat)
/-- The registers that `sys` and `sigret` touch without naming them: a call's words or the link of a forwarded one, the frame's
pointer and handle (R355, R356, R358). -/
def State.sysTouched (s : State) (g : Group) (pkt w : W32) : List Dest :=
  if majOf w ≠ 0 then [] else
  match (fldF w).toNat, s.ctx? g.ctx with
  | 4, some c => if c.forwards pkt then [.g 63] else [.g 0, .g 1]
  | 5, some c => [.g c.sigsp, .h c.sigh]
  | _, _ => []
/-- The registers that a word of a chain reads or names as destinations, `before` the word ahead of it. -/
noncomputable def touched (t : Thread) (before : Option W32) (w : W32) : List Dest :=
  (match instrOf w with
   | some i => (opnds i).flatMap fun o => if o.dyn && !dynUsed t w o then [] else Opnd.regs o
   | none => []) ++
  (match before with
   | some p => if isBfn3 w then [Dest.g (p.extractLsb' 8 6)] else []
   | none => [])
/-- A TILE word, which reads the registers of its fetch set's lowest active lane alone (R302). -/
def isTile (w : W32) : Bool := majOf w = 0x31
/-- The first word of a chain that touches a pending register of a thread; TILE words count for the lowest lane. -/
noncomputable def firstHazard (t : Thread) (more : W32 → List Dest) (tile : Bool) : Option W32 → Nat → List W32 → Option Nat
  | _, _, [] => none
  | b, i, w :: l =>
    if (tile || !isTile w) && (touched t b w ++ more w).any fun d => t.pend.contains d then some i
    else firstHazard t more tile (some w) (i + 1) l

/-! ## The choice among fetch sets (R334, R335) -/

/-- The groups whose fetch sets a core offers issue: its shepherd's, ahead of the ACTIVE pen's. -/
def State.offered (s : State) (core : Nat) : List Group :=
  let shep := if (s.core core).stopped then [] else (s.shepherd? core).toList
  let act : List Group :=
    if (s.pen core 0).st = .active then s.penGroups core 0
    else if (s.pen core 1).st = .active then s.penGroups core 1 else []
  shep ++ act
/-- The eligible fetch sets of a core: READY, and held by no wait; while power is capped, of D0 kernels or promoted (R335,
R407). [DEDUCED: log entry 23] -/
def State.eligibleSets (s : State) (core : Nat) : List (Group × FSet) :=
  (s.offered core).flatMap fun g => (g.fsets.filter fun f =>
    s.eligible g f && !s.chainWaits g f && (!s.pw.withhold || g.shep || f.promoted || s.classOf g = 0)).map fun f => (g, f)
/-- The priority of a group's kernel, best first. -/
def State.prioOf (s : State) (g : Group) : Nat := match s.kernel? g.ctx g.kid with | some k => 7 - k.r.prio | none => 7
/-- The rank of a fetch set among those eligible, best first; one that executed `yld` stands last, a shepherd's too, until every other
has issued since (R158). [DEDUCED: log entry 24] -/
def State.setRank (s : State) (all : List (Group × FSet)) (x : Group × FSet) : List Nat :=
  let late := x.2.yld && all.any fun y => decide (y ≠ x) && decide (y.2.last ≤ x.2.last)
  [boolBit (late && !x.2.promoted), boolBit (!x.1.shep), boolBit (!x.2.promoted), s.classOf x.1, s.prioOf x.1, x.2.last]
/-- The fetch set that a core issues from next. [DEDUCED: log entry 24] -/
def State.pick (s : State) (core : Nat) : Option (Group × FSet) :=
  let all := s.eligibleSets core
  leastBy (s.setRank all) all

/-! ## The end of a chain -/

/-- The slot whose place after it is given. -/
def prevPlace (pkt : W32) (slot : BitVec 2) : W32 × BitVec 2 := if slot = 0 then (pkt - 1, 2) else (pkt, slot - 1)
/-- Where a lane goes on after the open chain: the target of its transfer, or the next word (R37, R146). -/
def Issue.nextOf (iss : Issue) (lane : Nat) : W32 × BitVec 2 :=
  match iss.xfer.find? fun x => x.1 = lane with
  | some x => x.2
  | none => nextPlace iss.pkt iss.slot
/-- A thread has exited (R158): seams that can no more fill are cancelled, its own and its group's unclaimed faults become orphans,
and a flock that is gone drains no more. -/
def State.threadExit (s : State) (gid lane : Nat) : State :=
  match s.thread? gid lane with
  | none => s
  | some t =>
    let g := s.group gid
    let s := s.updT gid lane fun t => { t with st := .exited, exiting := false, pend := [], wait := none }
    let s := (s.cancelSeams g.fid).orphanTile t
    let s := if s.groupDone gid then s.orphanOps gid else s
    if (s.groups.filter fun x => x.fid = g.fid && !x.shep).all fun x => s.groupDone x.gid then s.flockGone g.ctx g.kid g.herd g.flk else s
/-- A chain of a thread has completed; those of a shepherd are not counted (R392). -/
def Thread.counted (t : Thread) (shep : Bool) : Thread := { t with rwc := if shep then t.rwc else t.rwc + 1 }
/-- The trap at the end of the chain that `brk`, `sys` or a step raises for a lane (R155, R158). -/
def State.endTrap (s : State) (lane : Nat) (cause : Byte) (r : TrapRec) : State :=
  match s.issue with
  | none => s
  | some iss =>
    let shep := (s.group iss.gid).shep
    (s.updT iss.gid lane fun t => t.counted shep).takeTrap iss ⟨lane, cause, r.aux, 0, 0⟩ r
/-- A lane that stays in the chain to its end completes it; one that went on with it after a wait keeps its first word, its S and
its stepping. [DEDUCED: log entry 20] -/
def Thread.complete (t : Thread) (iss : Issue) (shep step : Bool) : Thread :=
  let p := iss.nextOf t.lane
  let k := (iss.conts.lookup t.lane).filter Cont.kept
  let sw := iss.sw || (match k with | some c => c.sw | none => false)
  let t := { t with npkt := p.1, nslot := p.2, then_ := sw, stepped := step,
                    cword := (match k with | some c => c.cword | none => iss.firstWord),
                    cslot := (match k with | some c => c.cslot | none => iss.first) }
  if t.waits then t.keep (iss.restCont t t.slot)
  else
    let t := { t.counted shep with pkt := p.1, slot := p.2 }
    if sw then (if t.outst = [] then { t with st := .ready, pend := [] } else { t with st := .switch })
    else { t with st := .ready }
/-- What the end of the chain does to one lane that no word of it has parked (R153). [DEDUCED: log entry 20] -/
def State.endLane (s : State) (g : Group) (lane : Nat) : State :=
  match s.issue, s.thread? g.gid lane with
  | some iss, some t =>
    let p := iss.nextOf lane
    let n := nextPlace iss.pkt iss.slot
    (match iss.fin with
     | some (.brk k w sl) => s.endTrap lane 0x03 ⟨n.1, n.2, 0x03, k.setWidth 64, w, iss.pkt, sl⟩
     | some (.sys w sl) => s.endTrap lane 0x05 ⟨n.1, n.2, 0x05, rd2 t 0, w, iss.pkt, sl⟩
     | some .exit =>
       let s := s.updT g.gid lane fun t => t.counted g.shep
       if t.outst = [] then s.threadExit g.gid lane else s.updT g.gid lane fun t => { t with st := .switch, exiting := true }
     | some .iret =>
       (s.updCore g.pcore fun c => { c with handling := c.handling.erase lane }).updT g.gid lane fun t => { t with st := .exited, outst := [], pend := [] }
     | none =>
       let step := (match (iss.conts.lookup lane).filter Cont.kept with | some c => c.step | none => iss.step) && g.step
       if step && !g.shep && !t.waits then
         s.endTrap lane 0x04 (stepRec (t.complete iss g.shep step) p.1 p.2 iss.pkt)
       else s.updT g.gid lane fun t => t.complete iss g.shep step)
  | _, _ => s
/-- THE END OF A CHAIN: its lanes take the outcome of R153; those still running form fetch sets by where they stand (R146); the
sub-groups that it parked enter the replay queue (R149); waiting instances in a cycle fault (R161). [DEDUCED: log entry 20] -/
def State.closeChain (s : State) : State :=
  match s.issue with
  | none => s
  | some iss =>
    let g := s.group iss.gid
    let yld := (g.fsets.find? fun f => f.lanes &&& iss.all ≠ 0).any FSet.yld
    let conv := s.insts.any fun i => i.gid = g.gid
    let s := (lanesOf iss.lanes).foldl (fun s l => s.endLane g l) s
    let subs := match s.issue with | some i => i.subs | none => iss.subs
    let s := { s with issue := none }
    -- a lane that parked or exits waits for nothing
    let out := s.threads.filter fun t => t.inMask g.gid iss.all && s.subs.any fun b => subs.contains b.id && t.inMask b.gid b.lanes
    let s := out.foldl (fun s t => s.withdraw t.gid t.lane) s
    let s := subs.foldl State.settleSub s
    let run := maskOf ((s.threads.filter fun t =>
      t.inMask g.gid iss.all && (t.st = .ready || (t.st = .switch && !t.exiting && !out.any fun x => x.lane = t.lane))).map Thread.lane)
    let s := s.updGroup g.gid fun g => g.dropLanes iss.all
    let s := s.enset g.gid run
    let mark := fun (f : FSet) => if f.lanes &&& run = 0 then f else { f with yld := yld }
    let s := s.updGroup g.gid fun g => { g with fsets := g.fsets.map mark }
    if conv then s.convCycle g.gid else s

/-! ## Opening a chain, and its next word -/

/-- The threads of a fetch set that meets a fault at its fetch park at the packet (R33, R149). [DEDUCED: log entry 11] -/
def State.fetchTrap (s : State) (g : Group) (m : Mask) (cause : Byte) (aux : W64) (kind : Nat) : State :=
  let f := s.takeFree
  let s := f.2.updGroup g.gid fun g => g.dropLanes m
  let l := (s.threads.filter fun t => t.inMask g.gid m).map fun t =>
    ((⟨t.lane, cause, aux, 4, kind⟩ : LTrap), (⟨t.pkt, t.slot, cause, aux, f.1.setWidth 32, t.pkt, t.slot⟩ : TrapRec))
  s.parkWaiting g.gid l none
/-- The issue of a chain, with its first word to issue. -/
def Issue.start (gid : Nat) (m : Mask) (pkt : W32) (slot : BitVec 2) (ws : List W32) : Issue :=
  { gid, lanes := m, pkt, first := slot, slot, word := ws.headD 0, firstWord := ws.headD 0, imm := none, xfer := [],
    sw := ws.any fun w => w.getLsbD 30, fin := none, subs := [], rest := ws.tail, all := m, conts := [], step := false }
/-- The issue as a decode trap reports one of its words. -/
def Issue.reporting (iss : Issue) (ws : List W32) (i : Nat) : Issue :=
  { iss with word := (ws[i]?).getD 0, slot := iss.first + BitVec.ofNat 2 i }
/-- The hazards of a chain's threads, in ascending order of lane, each with its word: a thread's own; and one of the lowest active
lane at a TILE word, which every lane shares (R302). [DEDUCED: log entry 19] -/
noncomputable def hazardsOf (more : W32 → List Dest) (ws : List W32) : List Thread → List (Nat × Nat)
  | [] => []
  | t :: l =>
    let own := fun (u : Thread) => firstHazard u more false none 0 ws
    match firstHazard t more true none 0 ws with
    | none => l.filterMap fun u => (own u).map fun k => (u.lane, k)
    | some k =>
      if own t = some k then (t.lane, k) :: hazardsOf more ws l
      else (t :: l).map fun u => (u.lane, match own u with | some j => min j k | none => k)
/-- The lanes of a chain that touch a pending register trap with cause 0x06 and take no part in it (R41, R70); lanes that go on
with a chain have been examined at its opening. [DEDUCED: log entry 19] -/
noncomputable def State.hazards (s : State) (ws : List W32) : State :=
  match s.issue with
  | none => s
  | some iss =>
    let kept := fun (l : Nat) => match iss.conts.lookup l with | some c => c.kept | none => false
    let ts := (lanesOf iss.lanes).filterMap fun l => if kept l then none else s.thread? iss.gid l
    (hazardsOf (s.sysTouched (s.group iss.gid) iss.pkt) ws ts).foldl (fun s x =>
      match s.issue with
      | some i => (s.keepXfer i x.1 i.first).takeTrap i ⟨x.1, 0x06, 0, 0, 0⟩ ((iss.reporting ws x.2).decodeRec 0x06)
      | none => s) s
/-- What the opening of a chain reads: its threads' registers and floating controls, which all its words see (R37, R47). -/
def State.snapLanes (s : State) (gid : Nat) (m : Mask) : State :=
  s.mapLanes gid m fun t => { t with old := t.regs, octl := t.fpctl }
/-- A chain takes up the rests that its lanes stand at, and its other lanes read their registers: a lane that goes on after a wait
still sees what the chain found (R37, R148), and has to do at the chain's end what its earlier words said. [DEDUCED: log entry 72] -/
def State.takeConts (s : State) (iss : Issue) : State :=
  let cs := (s.threads.filter fun t => t.inMask iss.gid iss.lanes).filterMap fun t => t.contHere.map fun c => (t.lane, c)
  let kept := maskOf ((cs.filter fun x => x.2.kept).map Prod.fst)
  let s := s.snapLanes iss.gid (iss.lanes &&& ~~~kept)
  let s := s.mapLanes iss.gid iss.lanes fun t => t.keep []
  { s with issue := some { iss with conts := cs, xfer := cs.filterMap fun x => x.2.xfer.map fun y => (x.1, y), fin := cs.findSome? fun x => x.2.fin } }
/-- Counts an issue of a fetch set. [DEDUCED: log entry 25] -/
def State.countIssue (s : State) (g : Group) (m : Mask) : State :=
  let mark := fun (f : FSet) => if f.lanes = m then { f with last := s.clock, promoted := false, yld := false } else f
  let s := s.updGroup g.gid fun g => { g with fsets := g.fsets.map mark }
  let s := s.updCore g.pcore fun c => { c with issues := c.issues + 1 }
  s.updHerd g.ctx g.kid g.herd fun h => { h with issues := h.issues + 1 }
/-- A CHAIN OPENS for a fetch set: fetched, examined as a whole (R70), and set to issue its first word; a chain that every lane
traps on is over at once, and so is one of which only its end is left. [DESIGN CHOICE: log entry 1] -/
noncomputable def State.openChain (s : State) (g : Group) (m : Mask) : State :=
  match s.thread? g.gid (lowestLane m) with
  | none => s
  | some t =>
    if t.contHere.any Cont.ended then
      let p := prevPlace t.pkt t.slot
      (s.takeConts (Issue.start g.gid m p.1 p.2 [])).closeChain
    else
    match s.fetch g t.pkt with
    | (.fault c a k, s) => s.fetchTrap g m c a k
    | (.words l, s) =>
      let ws := chainFrom l t.slot
      let iss := { Issue.start g.gid m t.pkt t.slot ws with step := g.step }
      let on := s.threads.all fun u => !u.inMask g.gid m || (match u.contHere with | some c => c.kept | none => false)
      let s := if on then s else s.countIssue g m
      match chainTrap g.priv g.regsN ws t.slot with
      | some (c, i) => ({ s with issue := some (iss.reporting ws i) }.decodeTrap c).closeChain
      | none =>
        let s := (s.takeConts iss).hazards ws
        (match s.issue with
         | some i => if i.lanes = 0 then s.closeChain else s
         | none => s)
/-- The fat pointers of a word, by the field that names each (R168): the handle index stands in the register after it. -/
def fatFields (w : W32) : List Fld :=
  let f := (fldF w).toNat
  match (majOf w).toNat with
  | 0x24 | 0x25 | 0x29 | 0x2A => [fldA w]
  | 0x26 => if f = 1 ∨ f = 2 ∨ f = 8 then [fldA w] else []
  | 0x2D => if f = 3 ∨ f = 6 then [fldD w] else []
  | 0x33 => if f = 1 then [fldA w] else if f = 2 then [fldB w] else []
  | _ => []
/-- The table entries that the device has read for a lane's word (R167, R168): that of its handle register, those of its fat pointers,
and those of the operation that it has issued, with its barrier's. -/
def State.entriesRead (s : State) (iss : Issue) (t : Thread) : List Nat :=
  let w := iss.word
  let m := (majOf w).toNat
  let fat := fun (a : Fld) => ((rd t (a + 1)).extractLsb' 0 12).toNat
  let mine := fun (o : Op) => o.gid = t.gid && o.lane = t.lane && o.pkt = iss.pkt && o.slot = iss.slot && o.st = OpSt.queued
  let own := fun (h : HReg) => if h.loaded then [h.idx.toNat] else []
  (if 0x20 ≤ m ∧ m ≤ 0x23 then own (rdH t ((fldB w).extractLsb' 1 5)) else (fatFields w).map fat) ++
  (s.ops.filter mine).flatMap fun o =>
    own o.sh ++ own o.dh ++ (match o.kind with | .gath _ h => own h | _ => []) ++
      (if o.bar.isSome then [fat (if m = 0x32 then fldA w else fldB w)] else [])
/-- `pte.a` of the pages of the handle table that the open word's checks have read is set, for the lanes that it stopped too (R232).
[DEDUCED: log entry 28] -/
def State.touchChecked (s : State) : State :=
  match s.issue with
  | none => s
  | some iss =>
    let here := fun (t : Thread) => t.inMask iss.gid iss.all &&
      (t.inMask iss.gid iss.lanes || (t.st = .parked && t.trr.word = iss.word && t.trr.pkt = iss.pkt))
    (s.threads.filter here).foldl (fun s t =>
      (s.entriesRead iss t).foldl (fun s i => s.touchEntry (s.actGroup iss t).ctx i) s) s
/-- After a word: the lanes that it stops wait; then the chain's next word, with its prefix if it has one (R50), or the chain's
end. [DESIGN CHOICE: log entry 1] -/
def State.nextWord (s : State) : State :=
  let s := s.touchChecked.suspend
  match s.issue with
  | none => s
  | some iss =>
    match iss.rest with
    | [] => s.closeChain
    | w :: l =>
      if iss.lanes = 0 then s.closeChain
      else { s with issue := some { iss with slot := iss.slot + 1, word := w, rest := l, imm := if isImx iss.word then iss.imm else none } }
/-- Whether the open word still waits at issue; so does a `fence` behind the word that ends its chain's threads. -/
def State.openWaits (s : State) : Bool :=
  match s.issue with
  | none => false
  | some iss =>
    iss.lanes ≠ 0 && (s.wordWaits (s.group iss.gid) iss.lanes id iss.word ||
      (iss.fin.isSome && majOf iss.word = 0x26 && fldF iss.word = 0 && (s.issuing iss).any fun t => !s.drained t))
/-- The failure of a POD store is delivered at the lane's next acquire, release, fence or `exit` (R199). [DEDUCED: log entry 30] -/
def State.deliverPod (s : State) : State :=
  match s.issue with
  | none => s
  | some iss =>
    if !(relWord iss.word || acqWord iss.word) then s else
    (lanesOf iss.lanes).foldl (fun s lane =>
      match s.issue, s.thread? iss.gid lane with
      | some i, some t =>
        (match t.podErr with
         | d :: rest =>
           ((s.updT iss.gid lane fun t => { t with podErr := rest }).keepXfer i lane iss.restartSlot).takeTrap i ⟨lane, d.cause, d.aux, 0, 0⟩
             ⟨iss.pkt, iss.restartSlot, d.cause, d.aux, d.word, d.pkt, d.slot⟩
         | [] => s)
      | _, _ => s) s

/-! ## Events of issue -/

/-- A known result is written (R40, R152): the thread leaves SWITCH with its last one, or parks or exits, when that is what it
collects for. -/
def State.returnResult (s : State) (gid lane id : Nat) : State :=
  match s.thread? gid lane with
  | none => s
  | some t =>
    match t.outst.find? fun r => r.id = id && r.need = 0 with
    | none => s
    | some r =>
      let s := s.updT gid lane fun t => t.land r
      if t.st ≠ .switch ∨ (t.land r).outst ≠ [] ∨ t.wait = some .fence then s
      else if t.exiting then s.threadExit gid lane
      else
        match s.subs.find? fun b => b.collecting && t.inMask b.gid b.lanes with
        | some b => (s.updT gid lane fun t => { t with st := .parked, pend := [] }).settleSub b.id
        | none => s.updT gid lane fun t => { t with st := .ready, pend := [] }
/-- The sub-groups of a core that wait outside the replay queue, in the order in which they joined (R150). -/
def State.waitingSubs (s : State) (core : Nat) : List SubGroup :=
  s.subs.filter fun b => !b.collecting && b.idx.isNone && (let g := s.group b.gid; g.pcore = core && !g.shep && s.onCore g)

/-- R152. An outstanding variable-latency result is written; when the last one returns the thread leaves SWITCH and its pending set is empty. -/
def execVariableResultReturn (gid lane id : Nat) (s : State) : Out :=
  .next (s.returnResult gid lane id)

/-- R150. A replay-queue entry becomes free and the oldest waiting sub-group of the core enters it. -/
def execReplayEntryFreed (core : Nat) (s : State) : Out :=
  .next (match (s.waitingSubs core).find? fun b => (s.freeEntry (s.group b.gid)).isSome with
    | some b => s.admitSub b.id
    | none => s)

/-- R53. A word whose major is reserved or whose code is unassigned raises the illegal-instruction trap, cause 0x01. -/
def execIllegalInstruction (_word : W32) (s : State) : Out :=
  .next (s.decodeTrap 0x01)

/-- R335. A fetch set that has been eligible for 448 cycles without issuing is promoted above every rank for its next issue. -/
def execIssuePromotion (gid : Nat) (lanes : Mask) (s : State) : Out :=
  let g := s.group gid
  let go := fun (f : FSet) => if f.lanes = lanes && s.eligible g f then { f with promoted := true } else f
  .next (s.updGroup gid fun g => { g with fsets := g.fsets.map go })

end Sys2Proof.Machine
end

