-- ==== Sys2Proof/Machine/Dispatch.lean ====
section
/-! DEFINITION. The meaning of every row of the opcode table: one arm for each, one call of its meaning. -/
namespace Sys2Proof.Machine

/-- What an instruction word, or an event of one of the device's agents, does to the device. A word acts on the open issue. -/
def exec (i : Instr) (s : State) : Host.Outcome State Fault Refusal :=
  match i with
  | .nop cs => Sys2Proof.Machine.execNop cs s
  | .brk cs k => Sys2Proof.Machine.execBrk cs k s
  | .exit cs => Sys2Proof.Machine.execExit cs s
  | .yld cs => Sys2Proof.Machine.execYld cs s
  | .sys cs => Sys2Proof.Machine.execSys cs s
  | .sigret cs => Sys2Proof.Machine.execSigret cs s
  | .rds cs d k => Sys2Proof.Machine.execRds cs d k s
  | .wrs cs a k => Sys2Proof.Machine.execWrs cs a k s
  | .iret cs => Sys2Proof.Machine.execIret cs s
  | .br cs n p o => Sys2Proof.Machine.execBr cs n p o s
  | .jmp cs o => Sys2Proof.Machine.execJmp cs o s
  | .call cs o => Sys2Proof.Machine.execCall cs o s
  | .jmpi cs a => Sys2Proof.Machine.execJmpi cs a s
  | .calli cs a => Sys2Proof.Machine.execCalli cs a s
  | .ret cs => Sys2Proof.Machine.execRet cs s
  | .reconv cs a => Sys2Proof.Machine.execReconv cs a s
  | .pollOr cs p q b => Sys2Proof.Machine.execPollOr cs p q b s
  | .pollAnd cs p q b => Sys2Proof.Machine.execPollAnd cs p q b s
  | .pollSame cs p q b => Sys2Proof.Machine.execPollSame cs p q b s
  | .gmask cs d q b => Sys2Proof.Machine.execGmask cs d q b s
  | .xchAt cs d a b => Sys2Proof.Machine.execXchAt cs d a b s
  | .xchBack cs d a b => Sys2Proof.Machine.execXchBack cs d a b s
  | .xchFwd cs d a b => Sys2Proof.Machine.execXchFwd cs d a b s
  | .xchFlip cs d a b => Sys2Proof.Machine.execXchFlip cs d a b s
  | .redAddI32 cs d a b => Sys2Proof.Machine.execRedAddI32 cs d a b s
  | .redAddI64 cs d a b => Sys2Proof.Machine.execRedAddI64 cs d a b s
  | .redMinI32 cs d a b => Sys2Proof.Machine.execRedMinI32 cs d a b s
  | .redMinN32 cs d a b => Sys2Proof.Machine.execRedMinN32 cs d a b s
  | .redMaxI32 cs d a b => Sys2Proof.Machine.execRedMaxI32 cs d a b s
  | .redMaxN32 cs d a b => Sys2Proof.Machine.execRedMaxN32 cs d a b s
  | .redMinI64 cs d a b => Sys2Proof.Machine.execRedMinI64 cs d a b s
  | .redMinN64 cs d a b => Sys2Proof.Machine.execRedMinN64 cs d a b s
  | .redMaxI64 cs d a b => Sys2Proof.Machine.execRedMaxI64 cs d a b s
  | .redMaxN64 cs d a b => Sys2Proof.Machine.execRedMaxN64 cs d a b s
  | .redAddF32 cs d a b => Sys2Proof.Machine.execRedAddF32 cs d a b s
  | .redMinF32 cs d a b => Sys2Proof.Machine.execRedMinF32 cs d a b s
  | .redMaxF32 cs d a b => Sys2Proof.Machine.execRedMaxF32 cs d a b s
  | .redAddF64 cs d a b => Sys2Proof.Machine.execRedAddF64 cs d a b s
  | .redMinF64 cs d a b => Sys2Proof.Machine.execRedMinF64 cs d a b s
  | .redMaxF64 cs d a b => Sys2Proof.Machine.execRedMaxF64 cs d a b s
  | .scanAddI32 cs d a b => Sys2Proof.Machine.execScanAddI32 cs d a b s
  | .scanAddI64 cs d a b => Sys2Proof.Machine.execScanAddI64 cs d a b s
  | .scanAddF32 cs d a b => Sys2Proof.Machine.execScanAddF32 cs d a b s
  | .scanAddF64 cs d a b => Sys2Proof.Machine.execScanAddF64 cs d a b s
  | .vmrgLoN64 cs d a b => Sys2Proof.Machine.execVmrgLoN64 cs d a b s
  | .vmrgHiN64 cs d a b => Sys2Proof.Machine.execVmrgHiN64 cs d a b s
  | .vmrgLoI64 cs d a b => Sys2Proof.Machine.execVmrgLoI64 cs d a b s
  | .vmrgHiI64 cs d a b => Sys2Proof.Machine.execVmrgHiI64 cs d a b s
  | .bsortN64 cs d a b => Sys2Proof.Machine.execBsortN64 cs d a b s
  | .bsortI64 cs d a b => Sys2Proof.Machine.execBsortI64 cs d a b s
  | .rankN64 cs d a b => Sys2Proof.Machine.execRankN64 cs d a b s
  | .rankI64 cs d a b => Sys2Proof.Machine.execRankI64 cs d a b s
  | .imx cs im => Sys2Proof.Machine.execImx cs im s
  | .movi cs d im => Sys2Proof.Machine.execMovi cs d im s
  | .add cs d a b => Sys2Proof.Machine.execAdd cs d a b s
  | .sub cs d a b => Sys2Proof.Machine.execSub cs d a b s
  | .mul cs d a b => Sys2Proof.Machine.execMul cs d a b s
  | .mulhI32 cs d a b => Sys2Proof.Machine.execMulhI32 cs d a b s
  | .mulhN32 cs d a b => Sys2Proof.Machine.execMulhN32 cs d a b s
  | .addSatI32 cs d a b => Sys2Proof.Machine.execAddSatI32 cs d a b s
  | .addSatN32 cs d a b => Sys2Proof.Machine.execAddSatN32 cs d a b s
  | .subSatI32 cs d a b => Sys2Proof.Machine.execSubSatI32 cs d a b s
  | .subSatN32 cs d a b => Sys2Proof.Machine.execSubSatN32 cs d a b s
  | .minI32 cs d a b => Sys2Proof.Machine.execMinI32 cs d a b s
  | .minN32 cs d a b => Sys2Proof.Machine.execMinN32 cs d a b s
  | .maxI32 cs d a b => Sys2Proof.Machine.execMaxI32 cs d a b s
  | .maxN32 cs d a b => Sys2Proof.Machine.execMaxN32 cs d a b s
  | .abs cs d a => Sys2Proof.Machine.execAbs cs d a s
  | .neg cs d a => Sys2Proof.Machine.execNeg cs d a s
  | .and cs d a b => Sys2Proof.Machine.execAnd cs d a b s
  | .or cs d a b => Sys2Proof.Machine.execOr cs d a b s
  | .xor cs d a b => Sys2Proof.Machine.execXor cs d a b s
  | .andn cs d a b => Sys2Proof.Machine.execAndn cs d a b s
  | .not cs d a => Sys2Proof.Machine.execNot cs d a s
  | .shl cs d a b => Sys2Proof.Machine.execShl cs d a b s
  | .shr cs d a b => Sys2Proof.Machine.execShr cs d a b s
  | .sar cs d a b => Sys2Proof.Machine.execSar cs d a b s
  | .rotl cs d a b => Sys2Proof.Machine.execRotl cs d a b s
  | .rotr cs d a b => Sys2Proof.Machine.execRotr cs d a b s
  | .bcnt cs d a => Sys2Proof.Machine.execBcnt cs d a s
  | .lzc cs d a => Sys2Proof.Machine.execLzc cs d a s
  | .tzc cs d a => Sys2Proof.Machine.execTzc cs d a s
  | .bitrev cs d a => Sys2Proof.Machine.execBitrev cs d a s
  | .byterev cs d a => Sys2Proof.Machine.execByterev cs d a s
  | .saddX2 cs d a b => Sys2Proof.Machine.execSaddX2 cs d a b s
  | .saddX4 cs d a b => Sys2Proof.Machine.execSaddX4 cs d a b s
  | .saddX8 cs d a b => Sys2Proof.Machine.execSaddX8 cs d a b s
  | .saddX16 cs d a b => Sys2Proof.Machine.execSaddX16 cs d a b s
  | .mov cs d a => Sys2Proof.Machine.execMov cs d a s
  | .addi cs d a im => Sys2Proof.Machine.execAddi cs d a im s
  | .andi cs d a im => Sys2Proof.Machine.execAndi cs d a im s
  | .ori cs d a im => Sys2Proof.Machine.execOri cs d a im s
  | .xori cs d a im => Sys2Proof.Machine.execXori cs d a im s
  | .shli cs d a im => Sys2Proof.Machine.execShli cs d a im s
  | .shri cs d a im => Sys2Proof.Machine.execShri cs d a im s
  | .sari cs d a im => Sys2Proof.Machine.execSari cs d a im s
  | .muli cs d a im => Sys2Proof.Machine.execMuli cs d a im s
  | .cmpEqI32 cs p a b => Sys2Proof.Machine.execCmpEqI32 cs p a b s
  | .cmpNeI32 cs p a b => Sys2Proof.Machine.execCmpNeI32 cs p a b s
  | .cmpLtI32 cs p a b => Sys2Proof.Machine.execCmpLtI32 cs p a b s
  | .cmpLeI32 cs p a b => Sys2Proof.Machine.execCmpLeI32 cs p a b s
  | .cmpGtI32 cs p a b => Sys2Proof.Machine.execCmpGtI32 cs p a b s
  | .cmpGeI32 cs p a b => Sys2Proof.Machine.execCmpGeI32 cs p a b s
  | .cmpLtN32 cs p a b => Sys2Proof.Machine.execCmpLtN32 cs p a b s
  | .cmpLeN32 cs p a b => Sys2Proof.Machine.execCmpLeN32 cs p a b s
  | .cmpGtN32 cs p a b => Sys2Proof.Machine.execCmpGtN32 cs p a b s
  | .cmpGeN32 cs p a b => Sys2Proof.Machine.execCmpGeN32 cs p a b s
  | .muladd cs d a b r => Sys2Proof.Machine.execMuladd cs d a b r s
  | .addI64 cs d a b => Sys2Proof.Machine.execAddI64 cs d a b s
  | .subI64 cs d a b => Sys2Proof.Machine.execSubI64 cs d a b s
  | .mulI64 cs d a b => Sys2Proof.Machine.execMulI64 cs d a b s
  | .mulhI64 cs d a b => Sys2Proof.Machine.execMulhI64 cs d a b s
  | .mulhN64 cs d a b => Sys2Proof.Machine.execMulhN64 cs d a b s
  | .addSatI64 cs d a b => Sys2Proof.Machine.execAddSatI64 cs d a b s
  | .addSatN64 cs d a b => Sys2Proof.Machine.execAddSatN64 cs d a b s
  | .subSatI64 cs d a b => Sys2Proof.Machine.execSubSatI64 cs d a b s
  | .subSatN64 cs d a b => Sys2Proof.Machine.execSubSatN64 cs d a b s
  | .minI64 cs d a b => Sys2Proof.Machine.execMinI64 cs d a b s
  | .minN64 cs d a b => Sys2Proof.Machine.execMinN64 cs d a b s
  | .maxI64 cs d a b => Sys2Proof.Machine.execMaxI64 cs d a b s
  | .maxN64 cs d a b => Sys2Proof.Machine.execMaxN64 cs d a b s
  | .absI64 cs d a => Sys2Proof.Machine.execAbsI64 cs d a s
  | .negI64 cs d a => Sys2Proof.Machine.execNegI64 cs d a s
  | .andI64 cs d a b => Sys2Proof.Machine.execAndI64 cs d a b s
  | .orI64 cs d a b => Sys2Proof.Machine.execOrI64 cs d a b s
  | .xorI64 cs d a b => Sys2Proof.Machine.execXorI64 cs d a b s
  | .andnI64 cs d a b => Sys2Proof.Machine.execAndnI64 cs d a b s
  | .notI64 cs d a => Sys2Proof.Machine.execNotI64 cs d a s
  | .shlI64 cs d a b => Sys2Proof.Machine.execShlI64 cs d a b s
  | .shrI64 cs d a b => Sys2Proof.Machine.execShrI64 cs d a b s
  | .sarI64 cs d a b => Sys2Proof.Machine.execSarI64 cs d a b s
  | .rotlI64 cs d a b => Sys2Proof.Machine.execRotlI64 cs d a b s
  | .rotrI64 cs d a b => Sys2Proof.Machine.execRotrI64 cs d a b s
  | .bcntI64 cs d a => Sys2Proof.Machine.execBcntI64 cs d a s
  | .lzcI64 cs d a => Sys2Proof.Machine.execLzcI64 cs d a s
  | .tzcI64 cs d a => Sys2Proof.Machine.execTzcI64 cs d a s
  | .bitrevI64 cs d a => Sys2Proof.Machine.execBitrevI64 cs d a s
  | .byterevI64 cs d a => Sys2Proof.Machine.execByterevI64 cs d a s
  | .saddX2I64 cs d a b => Sys2Proof.Machine.execSaddX2I64 cs d a b s
  | .saddX4I64 cs d a b => Sys2Proof.Machine.execSaddX4I64 cs d a b s
  | .saddX8I64 cs d a b => Sys2Proof.Machine.execSaddX8I64 cs d a b s
  | .saddX16I64 cs d a b => Sys2Proof.Machine.execSaddX16I64 cs d a b s
  | .movI64 cs d a => Sys2Proof.Machine.execMovI64 cs d a s
  | .addwI32 cs d a b => Sys2Proof.Machine.execAddwI32 cs d a b s
  | .addwN32 cs d a b => Sys2Proof.Machine.execAddwN32 cs d a b s
  | .mulxI32 cs d a b => Sys2Proof.Machine.execMulxI32 cs d a b s
  | .mulxN32 cs d a b => Sys2Proof.Machine.execMulxN32 cs d a b s
  | .cmpEqI64 cs p a b => Sys2Proof.Machine.execCmpEqI64 cs p a b s
  | .cmpNeI64 cs p a b => Sys2Proof.Machine.execCmpNeI64 cs p a b s
  | .cmpLtI64 cs p a b => Sys2Proof.Machine.execCmpLtI64 cs p a b s
  | .cmpLeI64 cs p a b => Sys2Proof.Machine.execCmpLeI64 cs p a b s
  | .cmpGtI64 cs p a b => Sys2Proof.Machine.execCmpGtI64 cs p a b s
  | .cmpGeI64 cs p a b => Sys2Proof.Machine.execCmpGeI64 cs p a b s
  | .cmpLtN64 cs p a b => Sys2Proof.Machine.execCmpLtN64 cs p a b s
  | .cmpLeN64 cs p a b => Sys2Proof.Machine.execCmpLeN64 cs p a b s
  | .cmpGtN64 cs p a b => Sys2Proof.Machine.execCmpGtN64 cs p a b s
  | .cmpGeN64 cs p a b => Sys2Proof.Machine.execCmpGeN64 cs p a b s
  | .fextN32 cs d a b => Sys2Proof.Machine.execFextN32 cs d a b s
  | .fextI32 cs d a b => Sys2Proof.Machine.execFextI32 cs d a b s
  | .fins cs d a b => Sys2Proof.Machine.execFins cs d a b s
  | .bpick cs d a b => Sys2Proof.Machine.execBpick cs d a b s
  | .bfn3 cs d a b => Sys2Proof.Machine.execBfn3 cs d a b s
  | .sel cs d a b n p => Sys2Proof.Machine.execSel cs d a b n p s
  | .selI64 cs d a b n p => Sys2Proof.Machine.execSelI64 cs d a b n p s
  | .addF32 cs d a b => Sys2Proof.Machine.execAddF32 cs d a b s
  | .subF32 cs d a b => Sys2Proof.Machine.execSubF32 cs d a b s
  | .mulF32 cs d a b => Sys2Proof.Machine.execMulF32 cs d a b s
  | .minF32 cs d a b => Sys2Proof.Machine.execMinF32 cs d a b s
  | .maxF32 cs d a b => Sys2Proof.Machine.execMaxF32 cs d a b s
  | .absF32 cs d a => Sys2Proof.Machine.execAbsF32 cs d a s
  | .negF32 cs d a => Sys2Proof.Machine.execNegF32 cs d a s
  | .cpsgnF32 cs d a b => Sys2Proof.Machine.execCpsgnF32 cs d a b s
  | .fmaF32 cs d a b r => Sys2Proof.Machine.execFmaF32 cs d a b r s
  | .addF64 cs d a b => Sys2Proof.Machine.execAddF64 cs d a b s
  | .subF64 cs d a b => Sys2Proof.Machine.execSubF64 cs d a b s
  | .mulF64 cs d a b => Sys2Proof.Machine.execMulF64 cs d a b s
  | .minF64 cs d a b => Sys2Proof.Machine.execMinF64 cs d a b s
  | .maxF64 cs d a b => Sys2Proof.Machine.execMaxF64 cs d a b s
  | .absF64 cs d a => Sys2Proof.Machine.execAbsF64 cs d a s
  | .negF64 cs d a => Sys2Proof.Machine.execNegF64 cs d a s
  | .cpsgnF64 cs d a b => Sys2Proof.Machine.execCpsgnF64 cs d a b s
  | .fmaF64 cs d a b r => Sys2Proof.Machine.execFmaF64 cs d a b r s
  | .addF16x2 cs d a b => Sys2Proof.Machine.execAddF16x2 cs d a b s
  | .subF16x2 cs d a b => Sys2Proof.Machine.execSubF16x2 cs d a b s
  | .mulF16x2 cs d a b => Sys2Proof.Machine.execMulF16x2 cs d a b s
  | .minF16x2 cs d a b => Sys2Proof.Machine.execMinF16x2 cs d a b s
  | .maxF16x2 cs d a b => Sys2Proof.Machine.execMaxF16x2 cs d a b s
  | .absF16x2 cs d a => Sys2Proof.Machine.execAbsF16x2 cs d a s
  | .negF16x2 cs d a => Sys2Proof.Machine.execNegF16x2 cs d a s
  | .addBf16x2 cs d a b => Sys2Proof.Machine.execAddBf16x2 cs d a b s
  | .subBf16x2 cs d a b => Sys2Proof.Machine.execSubBf16x2 cs d a b s
  | .mulBf16x2 cs d a b => Sys2Proof.Machine.execMulBf16x2 cs d a b s
  | .minBf16x2 cs d a b => Sys2Proof.Machine.execMinBf16x2 cs d a b s
  | .maxBf16x2 cs d a b => Sys2Proof.Machine.execMaxBf16x2 cs d a b s
  | .absBf16x2 cs d a => Sys2Proof.Machine.execAbsBf16x2 cs d a s
  | .negBf16x2 cs d a => Sys2Proof.Machine.execNegBf16x2 cs d a s
  | .fmaF16x2 cs d a b r => Sys2Proof.Machine.execFmaF16x2 cs d a b r s
  | .fmaBf16x2 cs d a b r => Sys2Proof.Machine.execFmaBf16x2 cs d a b r s
  | .fcmpF32 cs p a b x => Sys2Proof.Machine.execFcmpF32 cs p a b x s
  | .fcmpF64 cs p a b x => Sys2Proof.Machine.execFcmpF64 cs p a b x s
  | .frcpF32 cs d a => Sys2Proof.Machine.execFrcpF32 cs d a s
  | .frsqF32 cs d a => Sys2Proof.Machine.execFrsqF32 cs d a s
  | .exp2F32 cs d a => Sys2Proof.Machine.execExp2F32 cs d a s
  | .log2F32 cs d a => Sys2Proof.Machine.execLog2F32 cs d a s
  | .sinF32 cs d a => Sys2Proof.Machine.execSinF32 cs d a s
  | .cosF32 cs d a => Sys2Proof.Machine.execCosF32 cs d a s
  | .tanhF32 cs d a => Sys2Proof.Machine.execTanhF32 cs d a s
  | .frcpF64 cs d a => Sys2Proof.Machine.execFrcpF64 cs d a s
  | .frsqF64 cs d a => Sys2Proof.Machine.execFrsqF64 cs d a s
  | .fdivfixF32 cs d a b => Sys2Proof.Machine.execFdivfixF32 cs d a b s
  | .fsqrtfixF32 cs d a => Sys2Proof.Machine.execFsqrtfixF32 cs d a s
  | .fclassF32 cs d a => Sys2Proof.Machine.execFclassF32 cs d a s
  | .frndF32 cs d a k => Sys2Proof.Machine.execFrndF32 cs d a k s
  | .fscaleF32 cs d a b => Sys2Proof.Machine.execFscaleF32 cs d a b s
  | .fexpoF32 cs d a => Sys2Proof.Machine.execFexpoF32 cs d a s
  | .fdivfixF64 cs d a b => Sys2Proof.Machine.execFdivfixF64 cs d a b s
  | .fsqrtfixF64 cs d a => Sys2Proof.Machine.execFsqrtfixF64 cs d a s
  | .fclassF64 cs d a => Sys2Proof.Machine.execFclassF64 cs d a s
  | .frndF64 cs d a k => Sys2Proof.Machine.execFrndF64 cs d a k s
  | .fscaleF64 cs d a b => Sys2Proof.Machine.execFscaleF64 cs d a b s
  | .fexpoF64 cs d a => Sys2Proof.Machine.execFexpoF64 cs d a s
  | .cvtF32F64 cs d a m => Sys2Proof.Machine.execCvtF32F64 cs d a m s
  | .cvtF64F32 cs d a m => Sys2Proof.Machine.execCvtF64F32 cs d a m s
  | .cvtF16F32 cs d a m => Sys2Proof.Machine.execCvtF16F32 cs d a m s
  | .cvtF32F16 cs d a m => Sys2Proof.Machine.execCvtF32F16 cs d a m s
  | .cvtBf16F32 cs d a m => Sys2Proof.Machine.execCvtBf16F32 cs d a m s
  | .cvtF32Bf16 cs d a m => Sys2Proof.Machine.execCvtF32Bf16 cs d a m s
  | .cvtF16x2F32 cs d a m => Sys2Proof.Machine.execCvtF16x2F32 cs d a m s
  | .cvtBf16x2F32 cs d a m => Sys2Proof.Machine.execCvtBf16x2F32 cs d a m s
  | .cvtF32I32 cs d a m => Sys2Proof.Machine.execCvtF32I32 cs d a m s
  | .cvtF32N32 cs d a m => Sys2Proof.Machine.execCvtF32N32 cs d a m s
  | .cvtI32F32 cs d a m => Sys2Proof.Machine.execCvtI32F32 cs d a m s
  | .cvtN32F32 cs d a m => Sys2Proof.Machine.execCvtN32F32 cs d a m s
  | .cvtF64I64 cs d a m => Sys2Proof.Machine.execCvtF64I64 cs d a m s
  | .cvtF64N64 cs d a m => Sys2Proof.Machine.execCvtF64N64 cs d a m s
  | .cvtI64F64 cs d a m => Sys2Proof.Machine.execCvtI64F64 cs d a m s
  | .cvtN64F64 cs d a m => Sys2Proof.Machine.execCvtN64F64 cs d a m s
  | .cvtF64I32 cs d a m => Sys2Proof.Machine.execCvtF64I32 cs d a m s
  | .cvtF64N32 cs d a m => Sys2Proof.Machine.execCvtF64N32 cs d a m s
  | .cvtI32F64 cs d a m => Sys2Proof.Machine.execCvtI32F64 cs d a m s
  | .cvtN32F64 cs d a m => Sys2Proof.Machine.execCvtN32F64 cs d a m s
  | .cvtF32I64 cs d a m => Sys2Proof.Machine.execCvtF32I64 cs d a m s
  | .cvtF32N64 cs d a m => Sys2Proof.Machine.execCvtF32N64 cs d a m s
  | .cvtI64F32 cs d a m => Sys2Proof.Machine.execCvtI64F32 cs d a m s
  | .cvtN64F32 cs d a m => Sys2Proof.Machine.execCvtN64F32 cs d a m s
  | .cvtI64I32 cs d a m => Sys2Proof.Machine.execCvtI64I32 cs d a m s
  | .cvtN64N32 cs d a m => Sys2Proof.Machine.execCvtN64N32 cs d a m s
  | .cvtSatI32I64 cs d a m => Sys2Proof.Machine.execCvtSatI32I64 cs d a m s
  | .cvtSatN32N64 cs d a m => Sys2Proof.Machine.execCvtSatN32N64 cs d a m s
  | .cvtF64Td8 cs d a m => Sys2Proof.Machine.execCvtF64Td8 cs d a m s
  | .cvtTd8F64 cs d a t m => Sys2Proof.Machine.execCvtTd8F64 cs d a t m s
  | .cvtF32Td8 cs d a m => Sys2Proof.Machine.execCvtF32Td8 cs d a m s
  | .cvtTd8F32 cs d a t m => Sys2Proof.Machine.execCvtTd8F32 cs d a t m s
  | .npk cs d a b f => Sys2Proof.Machine.execNpk cs d a b f s
  | .npkSat cs d a b f => Sys2Proof.Machine.execNpkSat cs d a b f s
  | .nupk cs d a b f => Sys2Proof.Machine.execNupk cs d a b f s
  | .nscl cs d a f => Sys2Proof.Machine.execNscl cs d a f s
  | .ld cs d a h z p o => Sys2Proof.Machine.execLd cs d a h z p o s
  | .st cs d a h z p o => Sys2Proof.Machine.execSt cs d a h z p o s
  | .ldg cs d a h z p o => Sys2Proof.Machine.execLdg cs d a h z p o s
  | .stg cs d a h z p o => Sys2Proof.Machine.execStg cs d a h z p o s
  | .atomAddN32 cs d a b o => Sys2Proof.Machine.execAtomAddN32 cs d a b o s
  | .atomAndB32 cs d a b o => Sys2Proof.Machine.execAtomAndB32 cs d a b o s
  | .atomOrB32 cs d a b o => Sys2Proof.Machine.execAtomOrB32 cs d a b o s
  | .atomXorB32 cs d a b o => Sys2Proof.Machine.execAtomXorB32 cs d a b o s
  | .atomMinI32 cs d a b o => Sys2Proof.Machine.execAtomMinI32 cs d a b o s
  | .atomMaxI32 cs d a b o => Sys2Proof.Machine.execAtomMaxI32 cs d a b o s
  | .atomMinN32 cs d a b o => Sys2Proof.Machine.execAtomMinN32 cs d a b o s
  | .atomMaxN32 cs d a b o => Sys2Proof.Machine.execAtomMaxN32 cs d a b o s
  | .atomAddN64 cs d a b o => Sys2Proof.Machine.execAtomAddN64 cs d a b o s
  | .atomAndB64 cs d a b o => Sys2Proof.Machine.execAtomAndB64 cs d a b o s
  | .atomOrB64 cs d a b o => Sys2Proof.Machine.execAtomOrB64 cs d a b o s
  | .atomXorB64 cs d a b o => Sys2Proof.Machine.execAtomXorB64 cs d a b o s
  | .atomMinI64 cs d a b o => Sys2Proof.Machine.execAtomMinI64 cs d a b o s
  | .atomMaxI64 cs d a b o => Sys2Proof.Machine.execAtomMaxI64 cs d a b o s
  | .atomMinN64 cs d a b o => Sys2Proof.Machine.execAtomMinN64 cs d a b o s
  | .atomMaxN64 cs d a b o => Sys2Proof.Machine.execAtomMaxN64 cs d a b o s
  | .atomXchgB32 cs d a b o => Sys2Proof.Machine.execAtomXchgB32 cs d a b o s
  | .atomCasB32 cs d a b o => Sys2Proof.Machine.execAtomCasB32 cs d a b o s
  | .atomXchgB64 cs d a b o => Sys2Proof.Machine.execAtomXchgB64 cs d a b o s
  | .atomCasB64 cs d a b o => Sys2Proof.Machine.execAtomCasB64 cs d a b o s
  | .atomAddF32 cs d a b o => Sys2Proof.Machine.execAtomAddF32 cs d a b o s
  | .atomMinF32 cs d a b o => Sys2Proof.Machine.execAtomMinF32 cs d a b o s
  | .atomMaxF32 cs d a b o => Sys2Proof.Machine.execAtomMaxF32 cs d a b o s
  | .atomAddF64 cs d a b o => Sys2Proof.Machine.execAtomAddF64 cs d a b o s
  | .atomMinF64 cs d a b o => Sys2Proof.Machine.execAtomMinF64 cs d a b o s
  | .atomMaxF64 cs d a b o => Sys2Proof.Machine.execAtomMaxF64 cs d a b o s
  | .atomAddF16x2 cs d a b o => Sys2Proof.Machine.execAtomAddF16x2 cs d a b o s
  | .atomAddBf16x2 cs d a b o => Sys2Proof.Machine.execAtomAddBf16x2 cs d a b o s
  | .fence cs => Sys2Proof.Machine.execFence cs s
  | .mwaitB32 cs d a b => Sys2Proof.Machine.execMwaitB32 cs d a b s
  | .mwaitB64 cs d a b => Sys2Proof.Machine.execMwaitB64 cs d a b s
  | .mwsub cs d a b => Sys2Proof.Machine.execMwsub cs d a b s
  | .mwend cs a => Sys2Proof.Machine.execMwend cs a s
  | .mwseq cs d a => Sys2Proof.Machine.execMwseq cs d a s
  | .mwsync cs a b => Sys2Proof.Machine.execMwsync cs a b s
  | .pfch cs a b => Sys2Proof.Machine.execPfch cs a b s
  | .tlook cs d a => Sys2Proof.Machine.execTlook cs d a s
  | .tset cs a b => Sys2Proof.Machine.execTset cs a b s
  | .tclr cs b => Sys2Proof.Machine.execTclr cs b s
  | .hsel cs h a => Sys2Proof.Machine.execHsel cs h a s
  | .hget cs d h k => Sys2Proof.Machine.execHget cs d h k s
  | .hnew cs a b => Sys2Proof.Machine.execHnew cs a b s
  | .hrev cs a => Sys2Proof.Machine.execHrev cs a s
  | .barInit cs b r => Sys2Proof.Machine.execBarInit cs b r s
  | .barChk cs a b => Sys2Proof.Machine.execBarChk cs a b s
  | .barOwe cs a b r => Sys2Proof.Machine.execBarOwe cs a b r s
  | .barWait cs b r => Sys2Proof.Machine.execBarWait cs b r s
  | .barTry cs a b r => Sys2Proof.Machine.execBarTry cs a b r s
  | .sinit cs b r => Sys2Proof.Machine.execSinit cs b r s
  | .spush cs a b r => Sys2Proof.Machine.execSpush cs a b r s
  | .spop cs a b => Sys2Proof.Machine.execSpop cs a b s
  | .sallow cs b r => Sys2Proof.Machine.execSallow cs b r s
  | .spushTry cs a b r => Sys2Proof.Machine.execSpushTry cs a b r s
  | .spopTry cs a b => Sys2Proof.Machine.execSpopTry cs a b s
  | .smInit cs k r => Sys2Proof.Machine.execSmInit cs k r s
  | .smRd cs a k => Sys2Proof.Machine.execSmRd cs a k s
  | .tgate cs k r => Sys2Proof.Machine.execTgate cs k r s
  | .twait cs a k => Sys2Proof.Machine.execTwait cs a k s
  | .cpy cs a b r => Sys2Proof.Machine.execCpy cs a b r s
  | .cpyAt cs a b r => Sys2Proof.Machine.execCpyAt cs a b r s
  | .cpm cs a b r => Sys2Proof.Machine.execCpm cs a b r s
  | .drn cs a b r => Sys2Proof.Machine.execDrn cs a b r s
  | .bld cs a r => Sys2Proof.Machine.execBld cs a r s
  | .gath cs a r => Sys2Proof.Machine.execGath cs a r s
  | .chain cs a b => Sys2Proof.Machine.execChain cs a b s
  | .waitc cs n l => Sys2Proof.Machine.execWaitc cs n l s
  | .collBcast cs a b r m => Sys2Proof.Machine.execCollBcast cs a b r m s
  | .collRedAddF32 cs a b r m => Sys2Proof.Machine.execCollRedAddF32 cs a b r m s
  | .collRedAddF64 cs a b r m => Sys2Proof.Machine.execCollRedAddF64 cs a b r m s
  | .collRedAddI32 cs a b r m => Sys2Proof.Machine.execCollRedAddI32 cs a b r m s
  | .collRedAddI64 cs a b r m => Sys2Proof.Machine.execCollRedAddI64 cs a b r m s
  | .collRedMinF32 cs a b r m => Sys2Proof.Machine.execCollRedMinF32 cs a b r m s
  | .collRedMaxF32 cs a b r m => Sys2Proof.Machine.execCollRedMaxF32 cs a b r m s
  | .collRedMinF64 cs a b r m => Sys2Proof.Machine.execCollRedMinF64 cs a b r m s
  | .collRedMaxF64 cs a b r m => Sys2Proof.Machine.execCollRedMaxF64 cs a b r m s
  | .collRedMinI64 cs a b r m => Sys2Proof.Machine.execCollRedMinI64 cs a b r m s
  | .collRedMaxI64 cs a b r m => Sys2Proof.Machine.execCollRedMaxI64 cs a b r m s
  | .collRedMinN64 cs a b r m => Sys2Proof.Machine.execCollRedMinN64 cs a b r m s
  | .collRedMaxN64 cs a b r m => Sys2Proof.Machine.execCollRedMaxN64 cs a b r m s
  | .mmaPt cs q m n t y f => Sys2Proof.Machine.execMmaPt cs q m n t y f s
  | .mmaMinp cs q m n t y f => Sys2Proof.Machine.execMmaMinp cs q m n t y f s
  | .mmaMaxp cs q m n t y f => Sys2Proof.Machine.execMmaMaxp cs q m n t y f s
  | .mmaMaxt cs q m n t y f => Sys2Proof.Machine.execMmaMaxt cs q m n t y f s
  | .mmaOrand cs q m n t y f => Sys2Proof.Machine.execMmaOrand cs q m n t y f s
  | .mmz cs a b r => Sys2Proof.Machine.execMmz cs a b r s
  | .mmcvt cs a b r => Sys2Proof.Machine.execMmcvt cs a b r s
  | .mst cs a b => Sys2Proof.Machine.execMst cs a b s
  | .tstamp cs k => Sys2Proof.Machine.execTstamp cs k s
  | .tret cs a k => Sys2Proof.Machine.execTret cs a k s
  | .osend cs a b r => Sys2Proof.Machine.execOsend cs a b r s
  | .orecv cs a b k => Sys2Proof.Machine.execOrecv cs a b k s
  | .rput cs a b => Sys2Proof.Machine.execRput cs a b s
  | .rget cs a b => Sys2Proof.Machine.execRget cs a b s
  | .ratm cs a b k => Sys2Proof.Machine.execRatm cs a b k s
  | .wmrd cs a k => Sys2Proof.Machine.execWmrd cs a k s
  | .orecvTry cs a b k => Sys2Proof.Machine.execOrecvTry cs a b k s
  | .cont cs a b => Sys2Proof.Machine.execCont cs a b s
  | .lnch cs a b => Sys2Proof.Machine.execLnch cs a b s
  | .qput cs a b r => Sys2Proof.Machine.execQput cs a b r s
  | .repl cs a b => Sys2Proof.Machine.execRepl cs a b s
  | .sigdl cs a b r => Sys2Proof.Machine.execSigdl cs a b r s
  | .penx cs a b => Sys2Proof.Machine.execPenx cs a b s
  | .swp cs a b r => Sys2Proof.Machine.execSwp cs a b r s
  | .kill cs a b r => Sys2Proof.Machine.execKill cs a b r s
  | .kterm cs a b r => Sys2Proof.Machine.execKterm cs a b r s
  | .tlbinv cs a b r => Sys2Proof.Machine.execTlbinv cs a b r s
  | .sdn cs a b r => Sys2Proof.Machine.execSdn cs a b r s
  | .pin cs a b k => Sys2Proof.Machine.execPin cs a b k s
  | .unpin cs a b k => Sys2Proof.Machine.execUnpin cs a b k s
  | .migr cs a b k => Sys2Proof.Machine.execMigr cs a b k s
  | .fqpop cs a => Sys2Proof.Machine.execFqpop cs a s
  | .fqpopTry cs a => Sys2Proof.Machine.execFqpopTry cs a s
  | .fqdone cs a b k => Sys2Proof.Machine.execFqdone cs a b k s
  | .step cs a b => Sys2Proof.Machine.execStep cs a b s
  | .snap cs a b => Sys2Proof.Machine.execSnap cs a b s
  | .ckpt cs a b r => Sys2Proof.Machine.execCkpt cs a b r s
  | .variableResultReturn gid lane id => Sys2Proof.Machine.execVariableResultReturn gid lane id s
  | .instanceComplete iid => Sys2Proof.Machine.execInstanceComplete iid s
  | .replayEntryFreed core => Sys2Proof.Machine.execReplayEntryFreed core s
  | .homeRead req => Sys2Proof.Machine.execHomeRead req s
  | .homeWiLoad req => Sys2Proof.Machine.execHomeWiLoad req s
  | .homeOwnRequest req => Sys2Proof.Machine.execHomeOwnRequest req s
  | .homeWriteThrough req => Sys2Proof.Machine.execHomeWriteThrough req s
  | .requestRetry req => Sys2Proof.Machine.execRequestRetry req s
  | .l1Evict core line => Sys2Proof.Machine.execL1Evict core line s
  | .ownerWriteback core word => Sys2Proof.Machine.execOwnerWriteback core word s
  | .recallTaken core word => Sys2Proof.Machine.execRecall core word s
  | .recallResponse core word => Sys2Proof.Machine.execRecallResponse core word s
  | .invalidate agent word => Sys2Proof.Machine.execInvalidate agent word s
  | .invalidationAck agent word => Sys2Proof.Machine.execInvalidationAck agent word s
  | .hostCxlMemRead pa => Sys2Proof.Machine.execHostCxlMemRead pa s
  | .hostCxlMemWrite pa data => Sys2Proof.Machine.execHostCxlMemWrite pa data s
  | .serviceDieAccess pa op => Sys2Proof.Machine.execServiceDieAccess pa op s
  | .hostSnoop line => Sys2Proof.Machine.execHostSnoop line s
  | .proxyHostResponse line data => Sys2Proof.Machine.execProxyHostResponse line data s
  | .atomicService req => Sys2Proof.Machine.execAtomicService req s
  | .mirrorUpdate fid win => Sys2Proof.Machine.execMirrorUpdate fid win s
  | .mirrorSnapshotApplied fid win => Sys2Proof.Machine.execMirrorSnapshotApplied fid win s
  | .podRemoteAccess acc => Sys2Proof.Machine.execPodRemoteAccess acc s
  | .podStoreAck req => Sys2Proof.Machine.execPodStoreAck req s
  | .remoteErrorResponse req => Sys2Proof.Machine.execRemoteErrorResponse req s
  | .firstTouchServed req => Sys2Proof.Machine.execFirstTouchServed req s
  | .ftuRingWrite pasture ring hi v => Sys2Proof.Machine.execFtuRingWrite pasture ring hi v s
  | .promote frame => Sys2Proof.Machine.execPromote frame s
  | .evict frame => Sys2Proof.Machine.execEvict frame s
  | .migrationCopyDone frame => Sys2Proof.Machine.execMigrationCopyDone frame s
  | .l2PinTimeout frame => Sys2Proof.Machine.execL2PinTimeout frame s
  | .sdnComplete id => Sys2Proof.Machine.execSdnComplete id s
  | .bounceStallEnd op => Sys2Proof.Machine.execBounceStallEnd op s
  | .barrierSectorCredit op n => Sys2Proof.Machine.execBarrierSectorCredit op n s
  | .gateFire fid gate => Sys2Proof.Machine.execGateFire fid gate s
  | .engineTake op => Sys2Proof.Machine.execEngineTake op s
  | .engineWriteBurst op n => Sys2Proof.Machine.execEngineWriteBurst op n s
  | .engineFault op cause => Sys2Proof.Machine.execEngineFault op cause s
  | .engineDone op => Sys2Proof.Machine.execEngineDone op s
  | .cpyAtStart op => Sys2Proof.Machine.execCpyAtStart op s
  | .cpmFillDone op => Sys2Proof.Machine.execCpmFillDone op s
  | .chainRecordRead fid ch => Sys2Proof.Machine.execChainRecordRead fid ch s
  | .chainRecordComplete fid ch => Sys2Proof.Machine.execChainRecordComplete fid ch s
  | .collDeliveryDone op => Sys2Proof.Machine.execCollDeliveryDone op s
  | .mmaReachArray op => Sys2Proof.Machine.execMmaReachArray op s
  | .mmaComputeDone op => Sys2Proof.Machine.execMmaComputeDone op s
  | .tretRecordWrite op => Sys2Proof.Machine.execTretRecordWrite op s
  | .submissionWindowWrite ctx q at_ v => Sys2Proof.Machine.execSubmissionWindowWrite ctx q at_ v s
  | .dispatcherIntake ctx q => Sys2Proof.Machine.execDispatcherIntake ctx q s
  | .kernelDispatch ctx kid => Sys2Proof.Machine.execKernelDispatch ctx kid s
  | .herdPlace pasture => Sys2Proof.Machine.execHerdPlace pasture s
  | .d0Placement ctx kid => Sys2Proof.Machine.execD0Placement ctx kid s
  | .preempt pasture => Sys2Proof.Machine.execPreempt pasture s
  | .quantumExpiry ctx kid herd => Sys2Proof.Machine.execQuantumExpiry ctx kid herd s
  | .herdRetire ctx kid herd => Sys2Proof.Machine.execHerdRetire ctx kid herd s
  | .gathererBatchLaunch ctx kid entry => Sys2Proof.Machine.execGathererBatchLaunch ctx kid entry s
  | .gathererFlushTimeout ctx kid entry => Sys2Proof.Machine.execGathererFlushTimeout ctx kid entry s
  | .issuePromotion gid lanes => Sys2Proof.Machine.execIssuePromotion gid lanes s
  | .d0Overrun ctx kid => Sys2Proof.Machine.execD0Overrun ctx kid s
  | .budgetExceeded ctx kid herd => Sys2Proof.Machine.execBudgetExceeded ctx kid herd s
  | .scWrite hi v => Sys2Proof.Machine.execScWrite hi v s
  | .ctxCreate => Sys2Proof.Machine.execCtxCreate s
  | .ctxRelease => Sys2Proof.Machine.execCtxRelease s
  | .penSwitch core => Sys2Proof.Machine.execPenSwitch core s
  | .penIdleSwitch core => Sys2Proof.Machine.execPenIdleSwitch core s
  | .swapSaveDone ctx kid herd => Sys2Proof.Machine.execSwapSaveDone ctx kid herd s
  | .swapLoadDone ctx kid herd => Sys2Proof.Machine.execSwapLoadDone ctx kid herd s
  | .shepherdEntryTake core => Sys2Proof.Machine.execShepherdEntryTake core s
  | .syscallForward ctx => Sys2Proof.Machine.execSyscallForward ctx s
  | .syscallReply seq ret err => Sys2Proof.Machine.execSyscallReply seq ret err s
  | .syscallTimeout seq => Sys2Proof.Machine.execSyscallTimeout seq s
  | .serviceCoreWatchdog => Sys2Proof.Machine.execServiceCoreWatchdog s
  | .killComplete ctx => Sys2Proof.Machine.execKillComplete ctx s
  | .ktermComplete ctx kid => Sys2Proof.Machine.execKtermComplete ctx kid s
  | .hostLinkTrained => Sys2Proof.Machine.execHostLinkTrained s
  | .hostLinkDown => Sys2Proof.Machine.execHostLinkDown s
  | .portDisable port => Sys2Proof.Machine.execPortDisable port s
  | .portEnable port => Sys2Proof.Machine.execPortEnable port s
  | .portTrained port => Sys2Proof.Machine.execPortTrained port s
  | .portTrainingFailed port => Sys2Proof.Machine.execPortTrainingFailed port s
  | .flitReceive port flit => Sys2Proof.Machine.execFlitReceive port flit s
  | .flitError port => Sys2Proof.Machine.execFlitError port s
  | .replayAccepted port => Sys2Proof.Machine.execReplayAccepted port s
  | .replayFailed port => Sys2Proof.Machine.execReplayFailed port s
  | .beaconSend port => Sys2Proof.Machine.execBeaconSend port s
  | .beaconReceive port w held => Sys2Proof.Machine.execBeaconReceive port w held s
  | .ordPacketReceive port pkt => Sys2Proof.Machine.execOrdPacketReceive port pkt s
  | .ordRelease => Sys2Proof.Machine.execOrdRelease s
  | .ordStallDeclared port => Sys2Proof.Machine.execOrdStallDeclared port s
  | .stallNotice dev port => Sys2Proof.Machine.execStallNotice dev port s
  | .endMarker src => Sys2Proof.Machine.execEndMarker src s
  | .routeTrigger => Sys2Proof.Machine.execRouteTrigger s
  | .routeInstall => Sys2Proof.Machine.execRouteInstall s
  | .ordAckSend src => Sys2Proof.Machine.execOrdAckSend src s
  | .ordAck dst seq => Sys2Proof.Machine.execOrdAck dst seq s
  | .ocTokenRefill us => Sys2Proof.Machine.execOcTokenRefill us s
  | .ptimeDelayMeasure port delay master err => Sys2Proof.Machine.execPtimeDelayMeasure port delay master err s
  | .ptimeHorizon => Sys2Proof.Machine.execPtimeHorizon s
  | .ualinkRequest job va op => Sys2Proof.Machine.execUalinkRequest job va op s
  | .checkpointAuto ctx => Sys2Proof.Machine.execCheckpointAuto ctx s
  | .snapshotTimeTrigger => Sys2Proof.Machine.execSnapshotTimeTrigger s
  | .tgWrite hi v => Sys2Proof.Machine.execTgWrite hi v s
  | .tgFullClear => Sys2Proof.Machine.execTgFullClear s
  | .snapshotIndexWrite v => Sys2Proof.Machine.execSnapshotIndexWrite v s
  | .coldReset img => Sys2Proof.Machine.execColdReset img s
  | .recoveryImageWrite img => Sys2Proof.Machine.execRecoveryImageWrite img s
  | .warmReset scrub => Sys2Proof.Machine.execWarmReset scrub s
  | .spdmGetMeasurements nonce => Sys2Proof.Machine.execSpdmGetMeasurements nonce s
  | .powerCap now => Sys2Proof.Machine.execPowerCap now s
  | .thermalThrottle tj => Sys2Proof.Machine.execThermalThrottle tj s
  | .thermalTrip tj => Sys2Proof.Machine.execThermalTrip tj s
  | .thermalTripEnd tj => Sys2Proof.Machine.execThermalTripEnd tj s
  | .pwWrite v => Sys2Proof.Machine.execPwWrite v s
  | .eventRingDrain => Sys2Proof.Machine.execEventRingDrain s
  | .evHeadWrite v => Sys2Proof.Machine.execEvHeadWrite v s
  | .evLostClear kind => Sys2Proof.Machine.execEvLostClear kind s
  | .coreGateWrite word v => Sys2Proof.Machine.execCoreGateWrite word v s
  | .registerWrite off v => Sys2Proof.Machine.execRegisterWrite off v s
  | .illegalInstruction word => Sys2Proof.Machine.execIllegalInstruction word s
  | .syscallReceiptAck seq => Sys2Proof.Machine.execSyscallReceiptAck seq s
  | .nvmeStagingWrite pa data => Sys2Proof.Machine.execNvmeStagingWrite pa data s
  | .precisionTimeMeasurement t => Sys2Proof.Machine.execPrecisionTimeMeasurement t s
  | .proxyLineEvict line => Sys2Proof.Machine.execProxyLineEvict line s
  | .issueWithholdEnd now tj => Sys2Proof.Machine.execIssueWithholdEnd now tj s

end Sys2Proof.Machine
end

