-- ==== Sys2Proof/Machine/Due.lean ====
section
/-! DEFINITION. What the device does of its own accord: the events that its state makes due, from which a step with nothing else
to do takes one, and what follows every step. Which due event comes first is open; the turns are taken in rotation. -/
namespace Sys2Proof.Machine

/-! ## Events that are due -/

/-- The event of a request on its way to a home of the device. -/
noncomputable def State.reqDue (s : State) (r : Req) : List Instr :=
  if r.ft then [.firstTouchServed r.id]
  else if r.dev.isSome || s.inFlight r then []
  else if r.refused then [.requestRetry r.id]
  else match r.kind with
    | .wi => [.homeWiLoad r.id]
    | .ownLoad | .ownStore => [.homeOwnRequest r.id]
    | .write _ | .hostWrite | .sdWrite => [.homeWriteThrough r.id]
    | .rmw _ _ _ => [.atomicService r.id]
    | .read _ | .hostRead | .sdRead | .mwait _ => [.homeRead r.id]
/-- The delivery of a message. -/
noncomputable def Msg.due : Msg → Instr
  | .recall c w => .recallTaken c w
  | .response c w _ => .recallResponse c w
  | .invalidate a w => .invalidate a w
  | .ack a w => .invalidationAck a w
  | .writeback c w _ => .ownerWriteback c w
/-- What an engine does next for an operation. -/
noncomputable def State.opDue (s : State) (o : Op) : List Instr :=
  let credit : List Instr := if o.bar.isSome && decide (0 < s.owed o) then [.barrierSectorCredit o.id (s.owed o)] else []
  let go : List Instr :=
    match o.st, o.kind with
    | .queued, .mma _ | .waiting, .mma _ => [.mmaReachArray o.id]
    | .computing, _ => [.mmaComputeDone o.id]
    | .queued, _ => if o.at_.isSome then [.cpyAtStart o.id] else [.engineTake o.id]
    | .running, k =>
      if o.stalled then [.bounceStallEnd o.id]
      else if o.bursts && decide (o.off < s.opTotal o) then [.engineWriteBurst o.id 512]
      else (match k with
        | .cpm _ _ _ => [.cpmFillDone o.id]
        | .coll _ => [.collDeliveryDone o.id]
        | .tret _ _ => [.tretRecordWrite o.id]
        | .record _ ch => [.chainRecordComplete o.fid ch]
        | .walk _ => []
        | .mmz _ _ _ _ | .mmcvt _ _ _ _ _ | .ratm _ _ _ _ => if o.off = 0 then [.engineWriteBurst o.id 0] else [.engineDone o.id]
        | _ => [.engineDone o.id])
    | .failed, .record _ ch => [.chainRecordComplete o.fid ch]
    | _, _ => []
  credit ++ go
/-- What a flock's gates, channels and mirror windows do next. -/
noncomputable def State.flockDue (s : State) (f : Flock) : List Instr :=
  (f.gates.toList.zipIdx.flatMap fun g =>
    match g.1 with
    | .armed t => if t ≤ s.ptime then [Instr.gateFire f.fid g.2] else []
    | _ => []) ++
  (f.chans.toList.zipIdx.flatMap fun c => if c.1.st = .walking && c.1.op.isNone then [Instr.chainRecordRead f.fid c.2] else []) ++
  (f.wins.toList.zipIdx.flatMap fun w =>
    match w.1.st with
    | .loading => [Instr.mirrorSnapshotApplied f.fid w.2]
    | .active => if w.1.updates = [] then [] else [Instr.mirrorUpdate f.fid w.2]
    | _ => [])
/-- What dispatch does next for a kernel. -/
noncomputable def State.kernelDue (s : State) (k : Kernel) : List Instr :=
  let ended := k.st = .done || k.st = .faulted
  (if k.st = .admitted && decide (k.r.start.toNat ≤ s.ptime.toNat) then [Instr.kernelDispatch k.ctx k.kid] else []) ++
  (if k.st = .placing && k.r.dclass = 0 then [Instr.d0Placement k.ctx k.kid] else []) ++
  (if k.killed && !ended then [Instr.ktermComplete k.ctx k.kid] else []) ++
  (if !ended && decide (k.r.dclass ≤ 1) && k.r.dl ≠ 0 && !k.overrun && decide (k.r.dl.toNat ≤ s.ptime.toNat) then
    [Instr.d0Overrun k.ctx k.kid] else []) ++
  (((k.ring.map Prod.fst).dedup).flatMap fun e =>
    (if k.batchDue e then [Instr.gathererBatchLaunch k.ctx k.kid e] else []) ++
    (match (k.recordsOf e).head? with
     | some x => if decide (x.2.2.1.toNat + 256000 * k.r.cwait ≤ s.ptime.toNat) && !k.flush.contains e then [Instr.gathererFlushTimeout k.ctx k.kid e] else []
     | none => []))
/-- What placement does next for a herd. -/
noncomputable def State.herdDue (s : State) (h : Herd) : List Instr :=
  match h.st with
  | .saving => [.swapSaveDone h.ctx h.kid h.herd]
  | .loading => [.swapLoadDone h.ctx h.kid h.herd]
  | .resident | .saved =>
    let gids := (s.herdGroups h.ctx h.kid h.herd).map Group.gid
    (if s.threads.all fun t => !(gids.contains t.gid && t.st ≠ .exited) then [Instr.herdRetire h.ctx h.kid h.herd] else []) ++
    (if h.st = .resident && !h.expired && s.quantumOver h then [Instr.quantumExpiry h.ctx h.kid h.herd] else []) ++
    (match s.kernel? h.ctx h.kid with
     | some k => if k.r.dclass = 0 && !h.budgetEv && decide (k.r.budget < h.issues) then [Instr.budgetExceeded h.ctx h.kid h.herd] else []
     | none => [])
  | _ => []
/-- What a core does next of its own accord. -/
noncomputable def State.coreDue (s : State) (c : Core) : List Instr :=
  (if c.entries ≠ [] && decide (c.handling.length < 32) && !c.stopped then [Instr.shepherdEntryTake c.id] else []) ++
  (match s.shadowOf c.id with
   | some (p, out) =>
     (if s.penDue c.id p out && !s.penHeld c.id out then [Instr.penSwitch c.id] else []) ++
     (if (s.bestClass c.id out).isNone && (s.bestClass c.id p).isSome && !s.holdsD0 c.id out then [Instr.penIdleSwitch c.id] else [])
   | none => [])
/-- What is due for a context. [DESIGN CHOICE: log entry 3] -/
noncomputable def State.ctxDue (s : State) (c : Context) : List Instr :=
  let sum := s.rwcSum c.id
  let now := s.refreshCtx c.id
  (if c.st = .dying && s.quiet c.id true then [Instr.killComplete c.id] else []) ++
  (if (c.alive && (s.nextCall c).isSome) || (s.plat.hostUp && s.calls.any fun k => k.ctx = c.id && k.st = .logged) then [Instr.syscallForward c.id] else []) ++
  (if c.st = .live && !c.ck && now.recording c.id && !s.replaying c.id && decide ((s.recCtl c.id).next ≤ sum) then [Instr.checkpointAuto c.id] else [])
/-- What the fabric and the event ring do next. [DESIGN CHOICE: log entry 3; DEDUCED: log entry 59] -/
noncomputable def State.fabDue (s : State) : List Instr :=
  (if s.fab.reorder.any fun p => p.t < s.watermark && s.roomFor p then [Instr.ordRelease] else []) ++
  (if !s.fab.horizon && decide (2 ^ 64 - 2 ^ 56 ≤ s.ptime.toNat) then [Instr.ptimeHorizon] else []) ++
  (if s.ev.held ≠ [] && s.evRoom then [Instr.eventRingDrain] else [])
/-- THE EVENTS THAT ARE DUE. [DESIGN CHOICE: log entry 2; DESIGN CHOICE: log entry 3] -/
noncomputable def State.dueEvents (s : State) : List Instr :=
  (s.threads.flatMap fun t => (t.outst.filter fun r => r.need = 0).map fun r => Instr.variableResultReturn t.gid t.lane r.id) ++
  s.reqs.flatMap s.reqDue ++ s.msgs.map Msg.due ++ s.ops.flatMap s.opDue ++ s.flocks.flatMap s.flockDue ++
  (s.sdns.filter s.sdnReady).map (fun x => Instr.sdnComplete x.id) ++
  ((s.frames.filter fun f => f.st = .promoting || f.st = .demoting).map fun f => Instr.migrationCopyDone f.frame) ++
  s.kernels.flatMap s.kernelDue ++ s.herds.flatMap s.herdDue ++
  (if (s.waiting fun _ _ => true).isEmpty then [] else
    (List.range 4).flatMap fun p => [Instr.herdPlace p, Instr.preempt p]) ++
  s.cores.flatMap s.coreDue ++ s.ctxs.flatMap s.ctxDue ++
  (match s.queueTurn with | some x => [Instr.dispatcherIntake x.1 x.2] | none => []) ++ s.fabDue

/-! ## Which turns a stopped device still takes (R404, R407) -/

/-- Whether a turn is one that a tripped device takes: every core, engine and port stops (R407), and with them what their turns and events do;
the service die, the host link, the homes, the dispatcher and the sensors go on. [DESIGN CHOICE: log entry 2; DESIGN CHOICE: log entry 9] -/
def trippedTurn : Turn → Bool
  -- cores, with their pens, placement and translation
  | .core _ => false
  | .event (.variableResultReturn _ _ _) | .event (.instanceComplete _) | .event (.replayEntryFreed _) | .event (.l1Evict _ _)
  | .event (.recallTaken _ _) | .event (.invalidate _ _) | .event (.firstTouchServed _) | .event (.mirrorUpdate _ _)
  | .event (.mirrorSnapshotApplied _ _) | .event (.gateFire _ _) | .event (.sdnComplete _) | .event (.herdPlace _)
  | .event (.d0Placement _ _) | .event (.preempt _) | .event (.quantumExpiry _ _ _) | .event (.herdRetire _ _ _)
  | .event (.gathererBatchLaunch _ _ _) | .event (.issuePromotion _ _) | .event (.budgetExceeded _ _ _) | .event (.penSwitch _)
  | .event (.penIdleSwitch _) | .event (.swapSaveDone _ _ _) | .event (.swapLoadDone _ _ _) | .event (.shepherdEntryTake _)
  | .event (.illegalInstruction _) | .event (.checkpointAuto _) => false
  -- engines
  | .event (.bounceStallEnd _) | .event (.barrierSectorCredit _ _) | .event (.engineTake _) | .event (.engineWriteBurst _ _)
  | .event (.engineFault _ _) | .event (.engineDone _) | .event (.cpyAtStart _) | .event (.cpmFillDone _) | .event (.chainRecordRead _ _)
  | .event (.chainRecordComplete _ _) | .event (.collDeliveryDone _) | .event (.mmaReachArray _) | .event (.mmaComputeDone _)
  | .event (.tretRecordWrite _) => false
  -- ports
  | .event (.portTrained _) | .event (.portTrainingFailed _) | .event (.flitReceive _ _) | .event (.flitError _) | .event (.replayAccepted _)
  | .event (.replayFailed _) | .event (.beaconSend _) | .event (.beaconReceive _ _ _) | .event (.ordPacketReceive _ _) | .event (.ordRelease)
  | .event (.ordStallDeclared _) | .event (.stallNotice _ _) | .event (.endMarker _) | .event (.routeInstall) | .event (.ordAckSend _)
  | .event (.ordAck _ _) | .event (.ptimeDelayMeasure _ _ _ _) | .event (.podRemoteAccess _) | .event (.podStoreAck _)
  | .event (.remoteErrorResponse _) | .event (.ualinkRequest _ _ _) => false
  | .event _ => true
/-- Whether a turn is one that a device without a verified image takes (R404).
[DESIGN CHOICE: log entry 2; DESIGN CHOICE: log entry 9] -/
def recoveryTurn : Turn → Bool
  | .event (.coldReset _) | .event (.recoveryImageWrite _) => true
  | _ => false

/-! ## After every step -/

/-- Pod time goes on by an open amount and stops at its last value (R5, R375). [DESIGN CHOICE: log entry 4] -/
def State.tick (s : State) : State :=
  { s with clock := s.clock + 1, ptime := BitVec.ofNat 64 (min (2 ^ 64 - 1) (s.ptime.toNat + Config.elapsed s.clock)) }
/-- WHAT FOLLOWS EVERY STEP: time goes on; what was recorded for a pen that is ACTIVE again is taken (R153); fences that are over end (R200); fault queues serve their waiters (R248); pins told of are
cleared (R246); training attempts begin after a reset (R373); rewritten queue descriptors act (R323); checkpoints, re-executions and stops under way go on (R395, R397); every `cx.state` follows its context (R339). -/
def State.settle (s : State) : State :=
  ((((List.range 4).foldl State.serveFq s.clearTold.takeRecorded.serveFences).watchDebug.followQueues.followCtxs).startTraining).tick

end Sys2Proof.Machine
end

