-- ==== Sys2Proof/Machine/Turn.lean ====
section
/-! DEFINITION. The turns that a step takes: the next word of the open chain, a chain of one core, an event, or nothing; and how a
word is placed where the next step fetches it. -/
namespace Sys2Proof.Machine

/-- The outcome of a meaning with something done after it. -/
def thenDo (f : State → State) : Out → Out
  | .next s => .next (f s)
  | .fault r => .fault r
  | .refused r => .refused r
/-- The instruction that a word stands for: one that decodes to none is the illegal-instruction trap's (R53). -/
noncomputable def wordInstr (w : W32) : Instr := (instrOf w).getD (.illegalInstruction w)
/-- THE OPEN WORD ISSUES: failures of POD stores are delivered at it, its meaning acts, and the chain goes on or ends.
[DESIGN CHOICE: log entry 1] -/
noncomputable def State.runWord (s : State) : Out :=
  let s := s.deliverPod
  match s.issue with
  | none => .next s.settle
  | some iss =>
    if iss.lanes = 0 then .next s.closeChain.settle
    else thenDo (fun t => t.nextWord.settle) (exec (wordInstr iss.word) s)
/-- An event takes place. -/
noncomputable def State.runEvent (s : State) (i : Instr) : Out := thenDo State.settle (exec i s)
/-- What happens at once, before any turn is taken: an instance that every lane has reached completes (R160), and a sub-group that
awaits a replay-queue entry takes one that is free (R150). -/
noncomputable def State.urgent (s : State) : List Instr :=
  ((s.insts.filter s.instReady).map fun i => Instr.instanceComplete i.iid) ++
  s.cores.flatMap fun c =>
    if (s.waitingSubs c.id).any fun b => (s.freeEntry (s.group b.gid)).isSome then [Instr.replayEntryFreed c.id] else []
/-- A core's turn: the fetch set that it picks opens a chain, whose first word issues; with none to pick the turn passes. -/
noncomputable def State.runCore (s : State) (core : Nat) : Out :=
  match s.pick core with
  | none => .next s.settle
  | some (g, f) =>
    let s := s.openChain g f.lanes
    if s.issue.isSome then s.runWord else .next s.settle
/-- One of the due events, in rotation; with none the turn passes. -/
noncomputable def State.runDue (s : State) : Out :=
  let l := s.dueEvents
  match l[s.clock / 2 % l.length]? with
  | some i => s.runEvent i
  | none => .next s.settle
/-- The first event of a list of turns. -/
def firstEvent : List Turn → Option (Instr × List Turn)
  | [] => none
  | .event i :: l => some (i, l)
  | .core c :: l => (firstEvent l).map fun x => (x.1, .core c :: x.2)
/-- While the open chain waits at issue, the device's other agents go on: the next event of the agenda, or a due one.
[DESIGN CHOICE: log entry 2] -/
noncomputable def State.runHeld (s : State) : Out :=
  match firstEvent s.agenda with
  | some (i, l) => { s with agenda := l }.runEvent i
  | none => s.runDue
/-- With no chain open: the head of the agenda, and when it is empty the device's own events and its cores in turn.
[DESIGN CHOICE: log entry 1; DESIGN CHOICE: log entry 2] -/
noncomputable def State.runNext (s : State) : Out :=
  match s.agenda with
  | .event i :: l => { s with agenda := l }.runEvent i
  | .core c :: l => { s with agenda := l }.runCore c
  | [] =>
    if s.clock % 2 = 0 then s.runDue
    else match s.cores[s.clock / 2 % s.cores.length]? with
      | some c => s.runCore c.id
      | none => .next s.settle
/-- A TURN: what happens at once comes first (R150, R160); then the next word of the open chain issues; while that waits, or with
no chain open, the other agents take their turns. [DESIGN CHOICE: log entry 1; DESIGN CHOICE: log entry 2] -/
noncomputable def State.runTurn (s : State) : Out :=
  match s.urgent with
  | i :: _ => s.runEvent i
  | [] =>
    match s.issue with
    | some _ => if s.openWaits then s.runHeld else s.runWord
    | none => s.runNext
/-- A stopped device stands still for a turn: time goes on, and overrun events are posted (R336, R407).
[DESIGN CHOICE: log entry 9] -/
def State.standStill (s : State) : State := (s.kernels.foldl State.overrun s).tick
/-- A stopped device takes the turns that it still serves, drops the others, and stands still at these; with no turn left it takes one of the due
events that it still serves. [DESIGN CHOICE: log entry 9] -/
noncomputable def State.runStopped (s : State) (serves : Turn → Bool) : Out :=
  match s.agenda with
  | [] =>
    let l := s.dueEvents.filter fun i => serves (.event i)
    (match l[s.clock % l.length]? with
     | some i => s.runEvent i
     | none => .next s.standStill)
  | t :: l =>
    match t with
    | .event i => if serves t then { s with agenda := l }.runEvent i else .next { s with agenda := l }.standStill
    | .core _ => .next { s with agenda := l }.standStill

/-! ## Placing a word where the next step fetches it -/

/-- The bytes of a word. -/
def wordBytes (w : W32) : List Byte := bytesOf 4 w.toNat
/-- The place in physical memory where a planted context keeps its tables: the last 8 MiB of HBM. -/
def plantBase : Nat := 2 ^ 39 - 2 ^ 23
/-- The CODE handle of a planted context: 64 KiB at virtual address 0x20000, executable. -/
def plantCode : BitVec 256 := BitVec.ofNat 256 (0x20000 + 0x10000 * 2 ^ 64 + 6 * 2 ^ 128 + 2 ^ 131 + 2 ^ 134)
/-- The memory that a planted context needs: three table entries that map its first 2 MiB, its CODE handle's entry, its code.
[DESIGN CHOICE: log entry 8] -/
def plantMem (m : Memory) (code : List Byte) : Memory :=
  let put := fun (m : Memory) (a n v : Nat) => memWrite m a (bytesOf n v)
  let m := put m plantBase 8 (plantBase + 0x200000 + 1)
  let m := put m (plantBase + 0x200000) 8 (plantBase + 0x201000 + 1)
  let m := put m (plantBase + 0x201000) 8 (plantBase + 0x400000 + 0xDF)
  let m := put m (plantBase + 0x400000) 32 plantCode.toNat
  memWrite m (plantBase + 0x420000) code
/-- A planted context: a system context with page tables, a handle table and a descriptor in its own 2 MiB.
[DESIGN CHOICE: log entry 8] -/
def plantCtx (id : Nat) : Context :=
  { id, st := .live, sys := true, libos := false, dbg := false, rec_ := false, sigh := 0, sigsp := 0, root := plantBase, htab := 0,
    qtab := 0x30000, sigtab := 0x32000, scq := 0, save := 0, bbuf := 0, bbsz := 0, scqlg := 0, job := 0, libent := 0, libend := 0,
    sctmo := 0, savn := 0, reason := 0, descPa := plantBase + 0x434000, ck := false, launches := 1, scqN := 0 }
/-- Its kernel: one herd of one flock, 64 registers. [DESIGN CHOICE: log entry 8] -/
def plantKernel (ctx : Nat) : Kernel :=
  { ctx, kid := 0, st := .draining, r := { LRec.ofNat 0 with regs := 64, groups := 1, herd := 1, dclass := 3 },
    code := ⟨true, 0, plantCode, false⟩, pre := [], ctab := [], h := 1, age := 0, ring := [], flush := [], contN := 0, cores := [],
    opWait := 0, overrun := false, killed := false, waiters := [], ringN := 0 }
/-- A core with no pen in use. -/
def State.freeCore (s : State) : Nat :=
  ((List.range 2048).find? fun c => !(s.core c).gated && (s.pen c 0).st = .empty && (s.pen c 1).st = .empty).getD 0
/-- THE LOAD THAT `withFetchWord` STANDS FOR where no thread is ready to issue: a system context with a kernel of one herd, whose
group has one READY thread, in lane 0, at packet 0 of its code; and that core's turn next. [DESIGN CHOICE: log entry 8] -/
def State.plant (s : State) (code : List Byte) : State :=
  let ctx := s.ctxs.foldl (fun m c => max m c.id) 0 + 1
  let k := plantKernel ctx
  let core := s.freeCore
  let s := { s with mem := plantMem s.mem code, ctxs := s.ctxs ++ [plantCtx ctx], kernels := s.kernels ++ [k], issue := none }
  let s := s.placeHerd k 0 true [core] [0]
  let s := match s.flocks.getLast? with
    | some f => s.newGroup k f 0 0 [] 0 1 (fun _ => [])
    | none => s
  { s with agenda := .core core :: s.agenda }
/-- Writes a word at the place of a thread's next word, when its code can be reached. -/
def State.pokeCode (s : State) (g : Group) (t : Thread) (w : W32) : Option State :=
  let off := 12 * t.pkt.toNat + 4 * t.slot.toNat
  if g.shep then some { s with fw := memWrite s.fw off (wordBytes w) }
  else
    match (s.codeByte g (heBase g.code.ent + off)).1 with
    | .ok pa => some (s.cohWrite g.ctx pa (wordBytes w))
    | _ => none
/-- The core that has a fetch set to issue, with that set. -/
def State.readyCore (s : State) : Option (Nat × Group × FSet) :=
  s.cores.findSome? fun c => (s.pick c.id).map fun x => (c.id, x)
/-- A word placed where the next step fetches: in the open chain, at the next word of a ready fetch set, or in a program loaded
for it. [DESIGN CHOICE: log entry 8] -/
def State.placeWord (s : State) (w : W32) : State :=
  match s.issue with
  | some iss => { s with issue := some { iss with word := w, imm := none, rest := [] } }
  | none =>
    match s.readyCore with
    | some (c, g, f) =>
      (match (s.thread? g.gid (lowestLane f.lanes)).bind fun t => s.pokeCode g t w with
       | some s => { s with agenda := .core c :: s.agenda }
       | none => s.plant (wordBytes w))
    | none => s.plant (wordBytes w)

end Sys2Proof.Machine
end

