-- ==== Sys2Proof/Machine/Step.lean ====
section
/-! DEFINITION. One step of the device: a word of a chain, an event, or a turn that passes. -/
namespace Sys2Proof.Machine

/-- ONE STEP. A device without a verified image serves only a new image or a reset (R404), one that has tripped only its platform
registers (R407). Else it takes a turn. [DESIGN CHOICE: log entry 1; DESIGN CHOICE: log entry 9] -/
noncomputable def step (s : State) : Host.Outcome State Fault Refusal :=
  if s.plat.image.isNone then s.runStopped recoveryTurn
  else if s.pw.tripped then s.runStopped trippedTurn
  else s.runTurn

/-- The state with an instruction's word placed where `step` fetches its next one. [DESIGN CHOICE: log entry 8] -/
def State.withFetchWord (s : State) (nbits w : Nat) : State :=
  if nbits ≤ 32 then s.placeWord (BitVec.ofNat 32 w) else s

end Sys2Proof.Machine
end

