-- ==== Sys2Proof/Safety.lean ====
section
/-! DEFINITION. What counts as a safe run, and the terms in which claims about the machine are stated. -/
namespace Sys2Proof.Machine

/-- The outcome of n steps: a safe run ends in a next state, and no step of it stops the machine. -/
noncomputable def runSteps : Nat → State → Out
  | 0, s => .next s
  | n + 1, s =>
    match step s with
    | .next t => runSteps n t
    | r => r
/-- A run of n steps that nothing stops. -/
def SafeRun (n : Nat) (s t : State) : Prop := runSteps n s = .next t

/-- THE INVARIANT OF THE MACHINE'S STORES: device memory and the firmware image's bytes are in canonical form. -/
def State.Canonical (s : State) : Prop := Memory.wf s.mem = true ∧ Memory.wf s.fw = true

/-- One thread issues the open word alone: the open chain is `iss`, and `t` its only lane. -/
structure State.Solo (s : State) (iss : Issue) (t : Thread) : Prop where
  isOpen : s.issue = some iss
  only : lanesOf iss.lanes = [t.lane]
  here : s.thread? iss.gid t.lane = some t
  sole : s.issuing iss = [t]
/-- The threads that issue the open word `iss`. -/
def State.Issues (s : State) (iss : Issue) (t : Thread) : Prop := t ∈ s.threads ∧ t.inMask iss.gid iss.lanes = true

/-- The state in which every issuing lane has written registers, and nothing else has changed. -/
def State.lanesPut (s : State) (iss : Issue) (ws : Thread → List Wr) : State :=
  { s with threads := s.threads.map fun t => if t.inMask iss.gid iss.lanes then t.put (ws t) else t }
/-- The same with sticky exception flags set (R80). -/
def State.lanesFlag (s : State) (iss : Issue) (ws : Thread → List Wr) (e : Thread → Exc) : State :=
  { s with threads := s.threads.map fun t =>
      if t.inMask iss.gid iss.lanes then { t.put (ws t) with fpstat := t.fpstat ||| (e t).setWidth 32 } else t }
/-- The state in which every issuing lane has one more result outstanding, whose registers are written and whose flags are set
when it returns (R40, R110). -/
def State.lanesOwe (s : State) (iss : Issue) (ws : Thread → List Wr) (e : Thread → Exc) (sx : Bool) : State :=
  { s with threads := s.threads.map fun t =>
      if t.inMask iss.gid iss.lanes then t.await (Result.known t.nextRes (ws t) (e t) sx) else t }
/-- No issuing thread enables an exception that it raises (R84). -/
def State.Unmasked (s : State) (iss : Issue) (e : Thread → Exc) : Prop := ∀ t, s.Issues iss t → e t &&& t.xen = 0

/-- Only threads differ between two states. -/
def OnlyThreads (s u : State) : Prop := { u with threads := s.threads } = s
/-- A thread apart from its registers, its flags and its outstanding results. -/
def SameStanding (t u : Thread) : Prop :=
  u = { t with regs := u.regs, fpstat := u.fpstat, outst := u.outst, pend := u.pend }
/-- Registers agree outside a list of destinations. -/
def RegsOutside (l : List Dest) (a b : Regs) : Prop :=
  (∀ r : BitVec 6, Dest.g r ∉ l → b.g.get r.toFin = a.g.get r.toFin) ∧
  (∀ r : BitVec 3, Dest.p r ∉ l → b.p.get r.toFin = a.p.get r.toFin) ∧
  (∀ r : BitVec 5, Dest.h r ∉ l → b.h.get r.toFin = a.h.get r.toFin)
/-- The registers that an instruction names as destinations (R49). -/
def dests (i : Instr) : List Dest := ((opnds i).filter Opnd.wr).flatMap Opnd.regs

end Sys2Proof.Machine
end

