-- ==== Sys2Proof/Certificates/Slice0/Obligations.lean ====
section
/-! DEFINITION. The statements for the provers. Each docstring names the rules it rests on. -/
open Sys2Proof Sys2Proof.Machine

/-- The two-operand I32 words write their stated result and change nothing else (spec/04_arith.md R112, spec/02_encoding.md R57, spec/02_encoding.md R37). -/
def Obligations.IntegerBinaryWords32 : Prop :=
  ∀ (s : State) (iss : Issue), s.issue = some iss → ∀ (cs : CS) (d a b : BitVec 6),
    let res := fun (f : W32 → W32 → W32) => Host.Outcome.next (s.lanesPut iss fun t => [.g d (f (rd t a) (rd t b))])
    exec (.add cs d a b) s = res (fun x y => x + y) ∧
    exec (.sub cs d a b) s = res (fun x y => x - y) ∧
    exec (.mul cs d a b) s = res (fun x y => x * y) ∧
    exec (.mulhI32 cs d a b) s = res (fun x y => BitVec.ofInt 32 (x.toInt * y.toInt / 2 ^ 32)) ∧
    exec (.mulhN32 cs d a b) s = res (fun x y => BitVec.ofNat 32 (x.toNat * y.toNat / 2 ^ 32)) ∧
    exec (.addSatI32 cs d a b) s = res (fun x y => BitVec.ofInt 32 (max (-2 ^ 31) (min (2 ^ 31 - 1) (x.toInt + y.toInt)))) ∧
    exec (.addSatN32 cs d a b) s = res (fun x y => BitVec.ofNat 32 (min (2 ^ 32 - 1) (x.toNat + y.toNat))) ∧
    exec (.subSatI32 cs d a b) s = res (fun x y => BitVec.ofInt 32 (max (-2 ^ 31) (min (2 ^ 31 - 1) (x.toInt - y.toInt)))) ∧
    exec (.subSatN32 cs d a b) s = res (fun x y => BitVec.ofNat 32 (x.toNat - y.toNat)) ∧
    exec (.minI32 cs d a b) s = res (fun x y => if x.toInt < y.toInt then x else y) ∧
    exec (.minN32 cs d a b) s = res (fun x y => if x.toNat < y.toNat then x else y) ∧
    exec (.maxI32 cs d a b) s = res (fun x y => if x.toInt < y.toInt then y else x) ∧
    exec (.maxN32 cs d a b) s = res (fun x y => if x.toNat < y.toNat then y else x) ∧
    exec (.and cs d a b) s = res (fun x y => x &&& y) ∧
    exec (.or cs d a b) s = res (fun x y => x ||| y) ∧
    exec (.xor cs d a b) s = res (fun x y => x ^^^ y) ∧
    exec (.andn cs d a b) s = res (fun x y => x &&& ~~~y) ∧
    exec (.saddX2 cs d a b) s = res (fun x y => x + BitVec.ofNat 32 (y.toNat * 2)) ∧
    exec (.saddX4 cs d a b) s = res (fun x y => x + BitVec.ofNat 32 (y.toNat * 4)) ∧
    exec (.saddX8 cs d a b) s = res (fun x y => x + BitVec.ofNat 32 (y.toNat * 8)) ∧
    exec (.saddX16 cs d a b) s = res (fun x y => x + BitVec.ofNat 32 (y.toNat * 16)) ∧
    exec (.shl cs d a b) s = res (fun x n => BitVec.ofNat 32 (x.toNat * 2 ^ n.toNat)) ∧
    exec (.shr cs d a b) s = res (fun x n => BitVec.ofNat 32 (x.toNat / 2 ^ n.toNat)) ∧
    exec (.sar cs d a b) s = res (fun x n => BitVec.ofInt 32 (x.toInt / 2 ^ n.toNat)) ∧
    exec (.rotl cs d a b) s = res (fun x n => x.rotateLeft (n.toNat % 32)) ∧
    exec (.rotr cs d a b) s = res (fun x n => x.rotateRight (n.toNat % 32))

/-- The two-operand I64 words write their stated pair and change nothing else (spec/04_arith.md R112, spec/02_encoding.md R57, spec/02_encoding.md R37). -/
def Obligations.IntegerBinaryWords64 : Prop :=
  ∀ (s : State) (iss : Issue), s.issue = some iss → ∀ (cs : CS) (d a b : BitVec 6),
    let res := fun (f : W64 → W64 → W64) => Host.Outcome.next (s.lanesPut iss fun t => wr2 d (f (rd2 t a) (rd2 t b)))
    let sh := fun (f : W64 → W32 → W64) => Host.Outcome.next (s.lanesPut iss fun t => wr2 d (f (rd2 t a) (rd t b)))
    let wide := fun (f : W32 → W32 → Int) => Host.Outcome.next (s.lanesPut iss fun t => wr2 d (BitVec.ofInt 64 (f (rd t a) (rd t b))))
    exec (.addI64 cs d a b) s = res (fun x y => x + y) ∧
    exec (.subI64 cs d a b) s = res (fun x y => x - y) ∧
    exec (.mulI64 cs d a b) s = res (fun x y => x * y) ∧
    exec (.mulhI64 cs d a b) s = res (fun x y => BitVec.ofInt 64 (x.toInt * y.toInt / 2 ^ 64)) ∧
    exec (.mulhN64 cs d a b) s = res (fun x y => BitVec.ofNat 64 (x.toNat * y.toNat / 2 ^ 64)) ∧
    exec (.addSatI64 cs d a b) s = res (fun x y => BitVec.ofInt 64 (max (-2 ^ 63) (min (2 ^ 63 - 1) (x.toInt + y.toInt)))) ∧
    exec (.addSatN64 cs d a b) s = res (fun x y => BitVec.ofNat 64 (min (2 ^ 64 - 1) (x.toNat + y.toNat))) ∧
    exec (.subSatI64 cs d a b) s = res (fun x y => BitVec.ofInt 64 (max (-2 ^ 63) (min (2 ^ 63 - 1) (x.toInt - y.toInt)))) ∧
    exec (.subSatN64 cs d a b) s = res (fun x y => BitVec.ofNat 64 (x.toNat - y.toNat)) ∧
    exec (.minI64 cs d a b) s = res (fun x y => if x.toInt < y.toInt then x else y) ∧
    exec (.minN64 cs d a b) s = res (fun x y => if x.toNat < y.toNat then x else y) ∧
    exec (.maxI64 cs d a b) s = res (fun x y => if x.toInt < y.toInt then y else x) ∧
    exec (.maxN64 cs d a b) s = res (fun x y => if x.toNat < y.toNat then y else x) ∧
    exec (.andI64 cs d a b) s = res (fun x y => x &&& y) ∧
    exec (.orI64 cs d a b) s = res (fun x y => x ||| y) ∧
    exec (.xorI64 cs d a b) s = res (fun x y => x ^^^ y) ∧
    exec (.andnI64 cs d a b) s = res (fun x y => x &&& ~~~y) ∧
    exec (.saddX2I64 cs d a b) s = res (fun x y => x + BitVec.ofNat 64 (y.toNat * 2)) ∧
    exec (.saddX4I64 cs d a b) s = res (fun x y => x + BitVec.ofNat 64 (y.toNat * 4)) ∧
    exec (.saddX8I64 cs d a b) s = res (fun x y => x + BitVec.ofNat 64 (y.toNat * 8)) ∧
    exec (.saddX16I64 cs d a b) s = res (fun x y => x + BitVec.ofNat 64 (y.toNat * 16)) ∧
    exec (.shlI64 cs d a b) s = sh (fun x n => BitVec.ofNat 64 (x.toNat * 2 ^ n.toNat)) ∧
    exec (.shrI64 cs d a b) s = sh (fun x n => BitVec.ofNat 64 (x.toNat / 2 ^ n.toNat)) ∧
    exec (.sarI64 cs d a b) s = sh (fun x n => BitVec.ofInt 64 (x.toInt / 2 ^ n.toNat)) ∧
    exec (.rotlI64 cs d a b) s = sh (fun x n => x.rotateLeft (n.toNat % 64)) ∧
    exec (.rotrI64 cs d a b) s = sh (fun x n => x.rotateRight (n.toNat % 64)) ∧
    exec (.addwI32 cs d a b) s = sh (fun x y => x + BitVec.ofInt 64 y.toInt) ∧
    exec (.addwN32 cs d a b) s = sh (fun x y => x + BitVec.ofNat 64 y.toNat) ∧
    exec (.mulxI32 cs d a b) s = wide (fun x y => x.toInt * y.toInt) ∧
    exec (.mulxN32 cs d a b) s = wide (fun x y => (x.toNat * y.toNat : Nat))

/-- The one-operand I32 and I64 words write their stated result and change nothing else (spec/04_arith.md R112, spec/02_encoding.md R57). -/
def Obligations.IntegerUnaryWords : Prop :=
  ∀ (s : State) (iss : Issue), s.issue = some iss → ∀ (cs : CS) (d a : BitVec 6),
    let res := fun (f : W32 → W32) => Host.Outcome.next (s.lanesPut iss fun t => [.g d (f (rd t a))])
    let res2 := fun (f : W64 → W64) => Host.Outcome.next (s.lanesPut iss fun t => wr2 d (f (rd2 t a)))
    let cnt := fun (f : W64 → W32) => Host.Outcome.next (s.lanesPut iss fun t => [.g d (f (rd2 t a))])
    exec (.abs cs d a) s = res (fun x => BitVec.ofInt 32 (x.toInt.natAbs : Int)) ∧
    exec (.neg cs d a) s = res (fun x => -x) ∧
    exec (.not cs d a) s = res (fun x => ~~~x) ∧
    exec (.mov cs d a) s = res (fun x => x) ∧
    exec (.bitrev cs d a) s = res (fun x => iBitrev x) ∧
    exec (.byterev cs d a) s = res (fun x => iByterev x) ∧
    exec (.bcnt cs d a) s = res (fun x => iBcnt x) ∧
    exec (.lzc cs d a) s = res (fun x => iLzc x) ∧
    exec (.tzc cs d a) s = res (fun x => iTzc x) ∧
    exec (.absI64 cs d a) s = res2 (fun x => BitVec.ofInt 64 (x.toInt.natAbs : Int)) ∧
    exec (.negI64 cs d a) s = res2 (fun x => -x) ∧
    exec (.notI64 cs d a) s = res2 (fun x => ~~~x) ∧
    exec (.movI64 cs d a) s = res2 (fun x => x) ∧
    exec (.bitrevI64 cs d a) s = res2 (fun x => iBitrev x) ∧
    exec (.byterevI64 cs d a) s = res2 (fun x => iByterev x) ∧
    exec (.bcntI64 cs d a) s = cnt (fun x => iBcnt x) ∧
    exec (.lzcI64 cs d a) s = cnt (fun x => iLzc x) ∧
    exec (.tzcI64 cs d a) s = cnt (fun x => iTzc x)

/-- bcnt, lzc, tzc, bitrev and byterev count and move the bits that R112 names (spec/04_arith.md R112). -/
def Obligations.BitCountsAndReversals : Prop :=
  (∀ (x : W32) (i : Nat), i < 32 →
    (iBitrev x).getLsbD i = x.getLsbD (31 - i) ∧ (iByterev x).getLsbD i = x.getLsbD (8 * (3 - i / 8) + i % 8)) ∧
  (∀ (x : W64) (i : Nat), i < 64 →
    (iBitrev x).getLsbD i = x.getLsbD (63 - i) ∧ (iByterev x).getLsbD i = x.getLsbD (8 * (7 - i / 8) + i % 8)) ∧
  (∀ x : W32, (iLzc x).toNat ≤ 32 ∧ (∀ i, 32 - (iLzc x).toNat ≤ i → i < 32 → x.getLsbD i = false) ∧
    ((iLzc x).toNat < 32 → x.getLsbD (31 - (iLzc x).toNat) = true)) ∧
  (∀ x : W64, (iLzc x).toNat ≤ 64 ∧ (∀ i, 64 - (iLzc x).toNat ≤ i → i < 64 → x.getLsbD i = false) ∧
    ((iLzc x).toNat < 64 → x.getLsbD (63 - (iLzc x).toNat) = true)) ∧
  (∀ x : W32, (iTzc x).toNat ≤ 32 ∧ (∀ i, i < (iTzc x).toNat → x.getLsbD i = false) ∧
    ((iTzc x).toNat < 32 → x.getLsbD (iTzc x).toNat = true)) ∧
  (∀ x : W64, (iTzc x).toNat ≤ 64 ∧ (∀ i, i < (iTzc x).toNat → x.getLsbD i = false) ∧
    ((iTzc x).toNat < 64 → x.getLsbD (iTzc x).toNat = true)) ∧
  (∀ x : W32, (iBcnt x).toNat = ((List.range 32).filter fun i => x.getLsbD i).length) ∧
  (∀ x : W64, (iBcnt x).toNat = ((List.range 64).filter fun i => x.getLsbD i).length)

/-- cmp writes the truth of its condition into the predicate and changes nothing else; p7 takes no write (spec/04_arith.md R114, spec/02_encoding.md R45). -/
def Obligations.CompareWords : Prop :=
  ∀ (s : State) (iss : Issue), s.issue = some iss → ∀ (cs : CS) (d : BitVec 3) (a b : BitVec 6),
    let c32 := fun (f : W32 → W32 → Bool) => Host.Outcome.next (s.lanesPut iss fun t => [.p d (f (rd t a) (rd t b))])
    let c64 := fun (f : W64 → W64 → Bool) => Host.Outcome.next (s.lanesPut iss fun t => [.p d (f (rd2 t a) (rd2 t b))])
    exec (.cmpEqI32 cs d a b) s = c32 (fun x y => decide (x = y)) ∧
    exec (.cmpNeI32 cs d a b) s = c32 (fun x y => decide (x ≠ y)) ∧
    exec (.cmpLtI32 cs d a b) s = c32 (fun x y => decide (x.toInt < y.toInt)) ∧
    exec (.cmpLeI32 cs d a b) s = c32 (fun x y => decide (x.toInt ≤ y.toInt)) ∧
    exec (.cmpGtI32 cs d a b) s = c32 (fun x y => decide (y.toInt < x.toInt)) ∧
    exec (.cmpGeI32 cs d a b) s = c32 (fun x y => decide (y.toInt ≤ x.toInt)) ∧
    exec (.cmpLtN32 cs d a b) s = c32 (fun x y => decide (x.toNat < y.toNat)) ∧
    exec (.cmpLeN32 cs d a b) s = c32 (fun x y => decide (x.toNat ≤ y.toNat)) ∧
    exec (.cmpGtN32 cs d a b) s = c32 (fun x y => decide (y.toNat < x.toNat)) ∧
    exec (.cmpGeN32 cs d a b) s = c32 (fun x y => decide (y.toNat ≤ x.toNat)) ∧
    exec (.cmpEqI64 cs d a b) s = c64 (fun x y => decide (x = y)) ∧
    exec (.cmpNeI64 cs d a b) s = c64 (fun x y => decide (x ≠ y)) ∧
    exec (.cmpLtI64 cs d a b) s = c64 (fun x y => decide (x.toInt < y.toInt)) ∧
    exec (.cmpLeI64 cs d a b) s = c64 (fun x y => decide (x.toInt ≤ y.toInt)) ∧
    exec (.cmpGtI64 cs d a b) s = c64 (fun x y => decide (y.toInt < x.toInt)) ∧
    exec (.cmpGeI64 cs d a b) s = c64 (fun x y => decide (y.toInt ≤ x.toInt)) ∧
    exec (.cmpLtN64 cs d a b) s = c64 (fun x y => decide (x.toNat < y.toNat)) ∧
    exec (.cmpLeN64 cs d a b) s = c64 (fun x y => decide (x.toNat ≤ y.toNat)) ∧
    exec (.cmpGtN64 cs d a b) s = c64 (fun x y => decide (y.toNat < x.toNat)) ∧
    exec (.cmpGeN64 cs d a b) s = c64 (fun x y => decide (y.toNat ≤ x.toNat)) ∧
    (∀ (r : Regs) (v : Bool), r.write (.p 7 v) = r)

/-- The I32I words compute with the extended immediate, and a shift count outside 0 to 31 traps (spec/04_arith.md R113, spec/02_encoding.md R51, spec/02_encoding.md R58). -/
def Obligations.ImmediateWords : Prop :=
  ∀ (s : State) (iss : Issue), s.issue = some iss → ∀ (cs : CS) (d a : BitVec 6) (i : BitVec 9),
    let imm : Int := match iss.imm with | some p => (p ++ i).toInt | none => i.toInt
    let res := fun (f : W32 → W32) => Host.Outcome.next (s.lanesPut iss fun t => [.g d (f (rd t a))])
    let shift := fun (f : W32 → W32) => if 0 ≤ imm ∧ imm ≤ 31 then res f else Host.Outcome.next (s.decodeTrap 0x01)
    exec (.addi cs d a i) s = res (fun x => x + BitVec.ofInt 32 imm) ∧
    exec (.andi cs d a i) s = res (fun x => x &&& BitVec.ofInt 32 imm) ∧
    exec (.ori cs d a i) s = res (fun x => x ||| BitVec.ofInt 32 imm) ∧
    exec (.xori cs d a i) s = res (fun x => x ^^^ BitVec.ofInt 32 imm) ∧
    exec (.muli cs d a i) s = res (fun x => x * BitVec.ofInt 32 imm) ∧
    exec (.shli cs d a i) s = shift (fun x => BitVec.ofNat 32 (x.toNat * 2 ^ imm.toNat)) ∧
    exec (.shri cs d a i) s = shift (fun x => BitVec.ofNat 32 (x.toNat / 2 ^ imm.toNat)) ∧
    exec (.sari cs d a i) s = shift (fun x => BitVec.ofInt 32 (x.toInt / 2 ^ imm.toNat))

/-- movi, imx, muladd, fext, fins, bpick, bfn3, sel and nop do what R50, R111 and R115 to R119 say (spec/04_arith.md R111, spec/04_arith.md R115, spec/04_arith.md R116, spec/04_arith.md R117, spec/04_arith.md R118, spec/04_arith.md R119, spec/02_encoding.md R50, spec/02_encoding.md R51). -/
def Obligations.ConstantsFieldsAndSelections : Prop :=
  ∀ (s : State) (iss : Issue), s.issue = some iss → ∀ (cs : CS) (d a b r : BitVec 6),
    let put := fun (ws : Thread → List Wr) => Host.Outcome.next (s.lanesPut iss ws)
    (∀ i : BitVec 18, exec (.movi cs d i) s =
      put fun _ => [.g d (match iss.imm with | some p => p.extractLsb' 0 14 ++ i | none => i.signExtend 32)]) ∧
    (∀ i : BitVec 24, exec (.imx cs i) s = .next { s with issue := some { iss with imm := some i } }) ∧
    exec (.muladd cs d a b r) s = put (fun t => [.g d (rd t a * rd t b + rd t r)]) ∧
    exec (.fextN32 cs d a b) s = put (fun t => [.g d (fextN (rd t a) (rd t b))]) ∧
    exec (.fextI32 cs d a b) s = put (fun t => [.g d (fextI (rd t a) (rd t b))]) ∧
    exec (.fins cs d a b) s = put (fun t => [.g d (finsOp (rd t d) (rd t a) (rd t b))]) ∧
    exec (.bpick cs d a b) s = put (fun t => [.g d (bpickOp (rd t a) (rd t b))]) ∧
    (∀ p : BitVec 24, iss.imm = some p → exec (.bfn3 cs d a b) s =
      put fun t => [.g d (bfn3Op (p.extractLsb' 0 8) (rd t a) (rd t b) (rd t (p.extractLsb' 8 6)))]) ∧
    (∀ (n : BitVec 1) (p : BitVec 3),
      exec (.sel cs d a b n p) s = put (fun t => [.g d (if (rdP t p = true) = (n = 0) then rd t a else rd t b)]) ∧
      exec (.selI64 cs d a b n p) s = put (fun t => wr2 d (if (rdP t p = true) = (n = 0) then rd2 t a else rd2 t b))) ∧
    exec (.nop cs) s = .next s

/-- fext, fins, bpick and bfn3 place every bit as R116 to R118 say (spec/04_arith.md R116, spec/04_arith.md R117, spec/04_arith.md R118). -/
def Obligations.FieldsAndBitFunctions : Prop :=
  (∀ (d a b : W32) (i : Nat), i < 32 →
    let pos := (b.extractLsb' 0 8).toNat
    let len := (b.extractLsb' 8 8).toNat
    let l := if 32 ≤ pos then 0 else min len (32 - pos)
    (fextN a b).getLsbD i = (decide (i < l) && a.getLsbD (pos + i)) ∧
    (fextI a b).getLsbD i = (if i < l then a.getLsbD (pos + i) else decide (0 < l) && a.getLsbD (pos + l - 1)) ∧
    (finsOp d a b).getLsbD i = (if pos ≤ i ∧ i < pos + l then a.getLsbD (i - pos) else d.getLsbD i)) ∧
  (∀ (a b : W32) (i j : Nat), i < 4 → j < 8 →
    let c : Byte := b.extractLsb' (8 * i) 8
    let src := 8 * (c.extractLsb' 0 2).toNat
    (bpickOp a b).getLsbD (8 * i + j) =
      (if c.extractLsb' 2 2 = 0 then a.getLsbD (src + j) else if c.extractLsb' 2 2 = 1 then a.getLsbD (src + 7)
       else decide (c.extractLsb' 2 2 = 3))) ∧
  (∀ (tt : Byte) (a b c : W32) (i : Nat), i < 32 →
    (bfn3Op tt a b c).getLsbD i = tt.getLsbD ((if a.getLsbD i then 1 else 0) + (if b.getLsbD i then 2 else 0) + (if c.getLsbD i then 4 else 0)))

/-- The fixed-latency floating words write their rounded result and set its flags where no exception traps (spec/04_arith.md R120, spec/04_arith.md R122, spec/04_arith.md R124, spec/04_arith.md R125, spec/03_formats.md R80, spec/03_formats.md R84). -/
def Obligations.FloatArithmeticWords : Prop :=
  ∀ (s : State) (iss : Issue), s.issue = some iss → ∀ (cs : CS) (d a b r : BitVec 6),
    let fp := fun (i : Instr) (f : Thread → FR) => s.Unmasked iss (fun t => (f t).exc) →
      exec i s = .next (s.lanesFlag iss (fun t => [.g d (b32 (f t))]) fun t => (f t).exc)
    let fp2 := fun (i : Instr) (f : Thread → FR) => s.Unmasked iss (fun t => (f t).exc) →
      exec i s = .next (s.lanesFlag iss (fun t => wr2 d (b64 (f t))) fun t => (f t).exc)
    let fpx := fun (i : Instr) (f : Thread → FR × FR) => s.Unmasked iss (fun t => (f t).1.exc ||| (f t).2.exc) →
      exec i s = .next (s.lanesFlag iss (fun t => [.g d (pack16 (f t).1 (f t).2)]) fun t => (f t).1.exc ||| (f t).2.exc)
    fp (.addF32 cs d a b) (fun t => fpAdd f32 t (n32 t a) (n32 t b)) ∧
    fp2 (.addF64 cs d a b) (fun t => fpAdd f64 t (n64 t a) (n64 t b)) ∧
    fpx (.addF16x2 cs d a b) (fun t => x2 (fpAdd f16 t) (rd t a) (rd t b)) ∧
    fpx (.addBf16x2 cs d a b) (fun t => x2 (fpAdd bf16 t) (rd t a) (rd t b)) ∧
    fp (.subF32 cs d a b) (fun t => fpSub f32 t (n32 t a) (n32 t b)) ∧
    fp2 (.subF64 cs d a b) (fun t => fpSub f64 t (n64 t a) (n64 t b)) ∧
    fpx (.subF16x2 cs d a b) (fun t => x2 (fpSub f16 t) (rd t a) (rd t b)) ∧
    fpx (.subBf16x2 cs d a b) (fun t => x2 (fpSub bf16 t) (rd t a) (rd t b)) ∧
    fp (.mulF32 cs d a b) (fun t => fpMul f32 t (n32 t a) (n32 t b)) ∧
    fp2 (.mulF64 cs d a b) (fun t => fpMul f64 t (n64 t a) (n64 t b)) ∧
    fpx (.mulF16x2 cs d a b) (fun t => x2 (fpMul f16 t) (rd t a) (rd t b)) ∧
    fpx (.mulBf16x2 cs d a b) (fun t => x2 (fpMul bf16 t) (rd t a) (rd t b)) ∧
    fp (.minF32 cs d a b) (fun t => fpMinMax false f32 t (n32 t a) (n32 t b)) ∧
    fp2 (.minF64 cs d a b) (fun t => fpMinMax false f64 t (n64 t a) (n64 t b)) ∧
    fpx (.minF16x2 cs d a b) (fun t => x2 (fpMinMax false f16 t) (rd t a) (rd t b)) ∧
    fpx (.minBf16x2 cs d a b) (fun t => x2 (fpMinMax false bf16 t) (rd t a) (rd t b)) ∧
    fp (.maxF32 cs d a b) (fun t => fpMinMax true f32 t (n32 t a) (n32 t b)) ∧
    fp2 (.maxF64 cs d a b) (fun t => fpMinMax true f64 t (n64 t a) (n64 t b)) ∧
    fpx (.maxF16x2 cs d a b) (fun t => x2 (fpMinMax true f16 t) (rd t a) (rd t b)) ∧
    fpx (.maxBf16x2 cs d a b) (fun t => x2 (fpMinMax true bf16 t) (rd t a) (rd t b)) ∧
    fp (.fmaF32 cs d a b r) (fun t => fpFma f32 t (n32 t a) (n32 t b) (n32 t r)) ∧
    fp2 (.fmaF64 cs d a b r) (fun t => fpFma f64 t (n64 t a) (n64 t b) (n64 t r)) ∧
    fpx (.fmaF16x2 cs d a b r) (fun t => (fpFma f16 t (lo16 (rd t a)) (lo16 (rd t b)) (lo16 (rd t r)), fpFma f16 t (hi16 (rd t a)) (hi16 (rd t b)) (hi16 (rd t r)))) ∧
    fpx (.fmaBf16x2 cs d a b r) (fun t => (fpFma bf16 t (lo16 (rd t a)) (lo16 (rd t b)) (lo16 (rd t r)), fpFma bf16 t (hi16 (rd t a)) (hi16 (rd t b)) (hi16 (rd t r)))) ∧
    fp (.fdivfixF32 cs d a b) (fun t => fDivFix 8 23 t.dir t.ftz (n32 t d) (n32 t a) (n32 t b)) ∧
    fp (.fsqrtfixF32 cs d a) (fun t => fSqrtFix 8 23 t.dir t.ftz (n32 t d) (n32 t a)) ∧
    (∀ (k : BitVec 6), fp (.frndF32 cs d a k) (fun t => fRnd t.ftz f32 (t.dirOf k.toNat) (n32 t a))) ∧
    fp (.fscaleF32 cs d a b) (fun t => fScale t.ftz f32 t.dir (n32 t a) (rd t b).toInt) ∧
    fp (.fexpoF32 cs d a) (fun t => fExpo t.ftz f32 (n32 t a)) ∧
    fp2 (.fdivfixF64 cs d a b) (fun t => fDivFix 11 52 t.dir t.ftz (n64 t d) (n64 t a) (n64 t b)) ∧
    fp2 (.fsqrtfixF64 cs d a) (fun t => fSqrtFix 11 52 t.dir t.ftz (n64 t d) (n64 t a)) ∧
    (∀ (k : BitVec 6), fp2 (.frndF64 cs d a k) (fun t => fRnd t.ftz f64 (t.dirOf k.toNat) (n64 t a))) ∧
    fp2 (.fscaleF64 cs d a b) (fun t => fScale t.ftz f64 t.dir (n64 t a) (rd t b).toInt) ∧
    fp (.fexpoF64 cs d a) (fun t => fExpo t.ftz f64 (n64 t a))

/-- abs, neg and cpsgn act on the sign bit alone, write every other bit as it is, and never trap; fclass writes the class of its operand (spec/04_arith.md R123, spec/04_arith.md R131). -/
def Obligations.SignBitWords : Prop :=
  ∀ (s : State) (iss : Issue), s.issue = some iss → ∀ (cs : CS) (d a b : BitVec 6),
    let put := fun (ws : Thread → List Wr) => Host.Outcome.next (s.lanesPut iss ws)
    exec (.absF32 cs d a) s = put (fun t => [.g d (rd t a &&& 0x7FFFFFFF)]) ∧
    exec (.absF64 cs d a) s = put (fun t => wr2 d (rd2 t a &&& 0x7FFFFFFFFFFFFFFF)) ∧
    exec (.absF16x2 cs d a) s = put (fun t => [.g d (rd t a &&& 0x7FFF7FFF)]) ∧
    exec (.absBf16x2 cs d a) s = put (fun t => [.g d (rd t a &&& 0x7FFF7FFF)]) ∧
    exec (.negF32 cs d a) s = put (fun t => [.g d (rd t a ^^^ 0x80000000)]) ∧
    exec (.negF64 cs d a) s = put (fun t => wr2 d (rd2 t a ^^^ 0x8000000000000000)) ∧
    exec (.negF16x2 cs d a) s = put (fun t => [.g d (rd t a ^^^ 0x80008000)]) ∧
    exec (.negBf16x2 cs d a) s = put (fun t => [.g d (rd t a ^^^ 0x80008000)]) ∧
    exec (.cpsgnF32 cs d a b) s = put (fun t => [.g d ((rd t a &&& 0x7FFFFFFF) ||| (rd t b &&& 0x80000000))]) ∧
    exec (.cpsgnF64 cs d a b) s = put (fun t => wr2 d ((rd2 t a &&& 0x7FFFFFFFFFFFFFFF) ||| (rd2 t b &&& 0x8000000000000000))) ∧
    exec (.fclassF32 cs d a) s = put (fun t => [.g d (BitVec.ofNat 32 (fClass 8 23 (n32 t a)))]) ∧
    exec (.fclassF64 cs d a) s = put (fun t => [.g d (BitVec.ofNat 32 (fClass 11 52 (n64 t a)))])

/-- fcmp answers by the table of R126: unordered, zero signs, and NV; fcmp writes the truth of its comparison and sets NV where its form raises it (spec/04_arith.md R126). -/
def Obligations.FloatComparisonTable : Prop :=
  ((∀ (a b : FVal) (cc : Nat), cc < 8 → (a.isNan = true ∨ b.isNan = true) →
    fCompare cc a b = (decide (cc = 1 ∨ cc = 6), if (2 ≤ cc ∧ cc ≤ 5) ∨ a.isSig = true ∨ b.isSig = true then excNV else 0)) ∧
  (∀ (s t : Bool) (x y : Rat) (cc : Nat), cc < 8 →
    let u := (FVal.fin s x).rat
    let v := (FVal.fin t y).rat
    fCompare cc (.fin s x) (.fin t y) =
      (match cc with
        | 0 => decide (u = v) | 1 => decide (u ≠ v) | 2 => decide (u < v) | 3 => decide (u ≤ v) | 4 => decide (v < u)
        | 5 => decide (v ≤ u) | 6 => false | _ => true, 0)) ∧
  (∀ (s t : Bool) (y : Rat) (cc : Nat), cc < 8 →
    fCompare cc (.inf s) (.fin t y) = (match cc with | 0 => false | 1 => true | 2 => s | 3 => s | 4 => !s | 5 => !s | 6 => false | _ => true, 0) ∧
    fCompare cc (.fin t y) (.inf s) = (match cc with | 0 => false | 1 => true | 2 => !s | 3 => !s | 4 => s | 5 => s | 6 => false | _ => true, 0)) ∧
  (∀ (s t : Bool) (cc : Nat), cc < 8 →
    fCompare cc (.inf s) (.inf t) =
      (match cc with
        | 0 => s == t | 1 => s != t | 2 => s && !t | 3 => s || !t | 4 => !s && t | 5 => !s || t | 6 => false | _ => true, 0))) ∧
  (∀ (s : State) (iss : Issue), s.issue = some iss → ∀ (cs : CS) (a b : BitVec 6),
    (∀ (p : BitVec 3) (x : BitVec 4),
      let r := fun (t : Thread) => fCompare x.toNat (flushIn t.ftz f32 (n32 t a)) (flushIn t.ftz f32 (n32 t b))
      s.Unmasked iss (fun t => (r t).2) → exec (.fcmpF32 cs p a b x) s = .next (s.lanesFlag iss (fun t => [.p p (r t).1]) fun t => (r t).2)) ∧
    (∀ (p : BitVec 3) (x : BitVec 4),
      let r := fun (t : Thread) => fCompare x.toNat (flushIn t.ftz f64 (n64 t a)) (flushIn t.ftz f64 (n64 t b))
      s.Unmasked iss (fun t => (r t).2) → exec (.fcmpF64 cs p a b x) s = .next (s.lanesFlag iss (fun t => [.p p (r t).1]) fun t => (r t).2)))

/-- The SX words of SFU leave one more result outstanding that writes their value and flags when it returns (spec/04_arith.md R110, spec/04_arith.md R127, spec/04_arith.md R129, spec/02_encoding.md R40). -/
def Obligations.SfuWords : Prop :=
  ∀ (s : State) (iss : Issue), s.issue = some iss → ∀ (cs : CS) (d a : BitVec 6),
    let sx := fun (i : Instr) (f : Thread → FR) => s.Unmasked iss (fun t => (f t).exc) →
      exec i s = .next (s.lanesOwe iss (fun t => [.g d (b32 (f t))]) (fun t => (f t).exc) true)
    let sx2 := fun (i : Instr) (f : Thread → FR) => s.Unmasked iss (fun t => (f t).exc) →
      exec i s = .next (s.lanesOwe iss (fun t => wr2 d (b64 (f t))) (fun t => (f t).exc) true)
    sx (.frcpF32 cs d a) (fun t => fRcp t.ftz 8 23 (n32 t a)) ∧
    sx (.frsqF32 cs d a) (fun t => fRsq t.ftz 8 23 (n32 t a)) ∧
    sx2 (.frcpF64 cs d a) (fun t => fRcp t.ftz 11 52 (n64 t a)) ∧
    sx2 (.frsqF64 cs d a) (fun t => fRsq t.ftz 11 52 (n64 t a)) ∧
    sx (.exp2F32 cs d a) (fun t => sfu32 fExp2 t (n32 t a)) ∧
    sx (.log2F32 cs d a) (fun t => sfu32 fLog2 t (n32 t a)) ∧
    sx (.sinF32 cs d a) (fun t => sfu32 (fTrig false) t (n32 t a)) ∧
    sx (.cosF32 cs d a) (fun t => sfu32 (fTrig true) t (n32 t a)) ∧
    sx (.tanhF32 cs d a) (fun t => sfu32 fTanh t (n32 t a))

/-- Each cvt, npk, nupk and nscl leaves a result outstanding that writes its converted or packed value (spec/04_arith.md R108, spec/04_arith.md R138, spec/04_arith.md R139, spec/04_arith.md R142, spec/02_encoding.md R62, spec/03_formats.md R88, spec/04_arith.md R140, spec/04_arith.md R141, spec/02_encoding.md R63). -/
def Obligations.ConversionWords : Prop :=
  (∀ (s : State) (iss : Issue), s.issue = some iss → ∀ (cs : CS) (d a : BitVec 6),
    let sx := fun (i : Instr) (f : Thread → FR) => s.Unmasked iss (fun t => (f t).exc) →
      exec i s = .next (s.lanesOwe iss (fun t => [.g d (b32 (f t))]) (fun t => (f t).exc) true)
    let sx2 := fun (i : Instr) (f : Thread → FR) => s.Unmasked iss (fun t => (f t).exc) →
      exec i s = .next (s.lanesOwe iss (fun t => wr2 d (b64 (f t))) (fun t => (f t).exc) true)
    let packed := fun (i : Instr) (f : Thread → FR × FR) => s.Unmasked iss (fun t => (f t).1.exc ||| (f t).2.exc) →
      exec i s = .next (s.lanesOwe iss (fun t => [.g d (pack16 (f t).1 (f t).2)]) (fun t => (f t).1.exc ||| (f t).2.exc) true)
    let clamp := fun (f : W64 → W32) => Host.Outcome.next (s.lanesOwe iss (fun t => [.g d (f (rd2 t a))]) (fun _ => 0) true)
    (∀ (m : BitVec 3), sx (.cvtF32F64 cs d a m) (fun t => convert f32 f64 t m.toNat false (n64 t a))) ∧
    (∀ (m : BitVec 3), sx2 (.cvtF64F32 cs d a m) (fun t => convert f64 f32 t m.toNat false (n32 t a))) ∧
    (∀ (m : BitVec 3), sx (.cvtF16F32 cs d a m) (fun t => convert f16 f32 t m.toNat false (n32 t a))) ∧
    (∀ (m : BitVec 3), sx (.cvtF32F16 cs d a m) (fun t => convert f32 f16 t m.toNat false (n32 t a % 2 ^ 16))) ∧
    (∀ (m : BitVec 3), sx (.cvtBf16F32 cs d a m) (fun t => convert bf16 f32 t m.toNat false (n32 t a))) ∧
    (∀ (m : BitVec 3), sx (.cvtF32Bf16 cs d a m) (fun t => convert f32 bf16 t m.toNat false (n32 t a % 2 ^ 16))) ∧
    (∀ (m : BitVec 3), sx (.cvtF32I32 cs d a m) (fun t => convert f32 i32 t m.toNat false (n32 t a))) ∧
    (∀ (m : BitVec 3), sx (.cvtF32N32 cs d a m) (fun t => convert f32 n32f t m.toNat false (n32 t a))) ∧
    (∀ (m : BitVec 3), sx (.cvtI32F32 cs d a m) (fun t => convert i32 f32 t m.toNat false (n32 t a))) ∧
    (∀ (m : BitVec 3), sx (.cvtN32F32 cs d a m) (fun t => convert n32f f32 t m.toNat false (n32 t a))) ∧
    (∀ (m : BitVec 3), sx2 (.cvtF64I64 cs d a m) (fun t => convert f64 i64 t m.toNat false (n64 t a))) ∧
    (∀ (m : BitVec 3), sx2 (.cvtF64N64 cs d a m) (fun t => convert f64 n64f t m.toNat false (n64 t a))) ∧
    (∀ (m : BitVec 3), sx2 (.cvtI64F64 cs d a m) (fun t => convert i64 f64 t m.toNat false (n64 t a))) ∧
    (∀ (m : BitVec 3), sx2 (.cvtN64F64 cs d a m) (fun t => convert n64f f64 t m.toNat false (n64 t a))) ∧
    (∀ (m : BitVec 3), sx2 (.cvtF64I32 cs d a m) (fun t => convert f64 i32 t m.toNat false (n32 t a))) ∧
    (∀ (m : BitVec 3), sx2 (.cvtF64N32 cs d a m) (fun t => convert f64 n32f t m.toNat false (n32 t a))) ∧
    (∀ (m : BitVec 3), sx (.cvtI32F64 cs d a m) (fun t => convert i32 f64 t m.toNat false (n64 t a))) ∧
    (∀ (m : BitVec 3), sx (.cvtN32F64 cs d a m) (fun t => convert n32f f64 t m.toNat false (n64 t a))) ∧
    (∀ (m : BitVec 3), sx (.cvtF32I64 cs d a m) (fun t => convert f32 i64 t m.toNat false (n64 t a))) ∧
    (∀ (m : BitVec 3), sx (.cvtF32N64 cs d a m) (fun t => convert f32 n64f t m.toNat false (n64 t a))) ∧
    (∀ (m : BitVec 3), sx2 (.cvtI64F32 cs d a m) (fun t => convert i64 f32 t m.toNat false (n32 t a))) ∧
    (∀ (m : BitVec 3), sx2 (.cvtN64F32 cs d a m) (fun t => convert n64f f32 t m.toNat false (n32 t a))) ∧
    (∀ (m : BitVec 3), sx2 (.cvtI64I32 cs d a m) (fun t => convert i64 i32 t m.toNat false (n32 t a))) ∧
    (∀ (m : BitVec 3), sx2 (.cvtN64N32 cs d a m) (fun t => convert n64f n32f t m.toNat false (n32 t a))) ∧
    (∀ (m : BitVec 3), sx2 (.cvtF64Td8 cs d a m) (fun t => convert f64 .td8 t m.toNat false (n32 t a % 256))) ∧
    (∀ (t : BitVec 1) (m : BitVec 3), sx (.cvtTd8F64 cs d a t m) (fun th => convert .td8 f64 th m.toNat (t = 1) (n64 th a))) ∧
    (∀ (m : BitVec 3), sx (.cvtF32Td8 cs d a m) (fun t => convert f32 .td8 t m.toNat false (n32 t a % 256))) ∧
    (∀ (t : BitVec 1) (m : BitVec 3), sx (.cvtTd8F32 cs d a t m) (fun th => convert .td8 f32 th m.toNat (t = 1) (n32 th a))) ∧
    (∀ m : BitVec 3, packed (.cvtF16x2F32 cs d a m) fun t => (convert f16 f32 t m.toNat false (n32 t a), convert f16 f32 t m.toNat false (n32 t (a + 1)))) ∧
    (∀ m : BitVec 3, packed (.cvtBf16x2F32 cs d a m) fun t => (convert bf16 f32 t m.toNat false (n32 t a), convert bf16 f32 t m.toNat false (n32 t (a + 1)))) ∧
    (∀ m : BitVec 3, exec (.cvtSatI32I64 cs d a m) s = clamp fun x => BitVec.ofInt 32 (max (-2 ^ 31) (min (2 ^ 31 - 1) x.toInt))) ∧
    (∀ m : BitVec 3, exec (.cvtSatN32N64 cs d a m) s = clamp fun x => BitVec.ofNat 32 (min (2 ^ 32 - 1) x.toNat))) ∧
  (∀ (s : State) (iss : Issue), s.issue = some iss → ∀ (cs : CS) (d a b : BitVec 6) (f : BitVec 3),
    let n := narrowCount f
    let w := narrowBits f
    let down := fun (sat : Bool) (t : Thread) => (List.range n).map fun i => npkElem f t.dir sat (n32 t b % 256) (n32 t (a + BitVec.ofNat 6 i))
    let up := fun (t : Thread) => (List.range n).map fun i => nupkElem f t.dir (n32 t b % 256) (n32 t a / 2 ^ (w * i) % 2 ^ w)
    let pack := fun (i : Instr) (sat : Bool) => s.Unmasked iss (fun t => unionExc (down sat t)) →
      exec i s = .next (s.lanesOwe iss (fun t => [.g d (BitVec.ofNat 32 (packElems w (down sat t)))]) (fun t => unionExc (down sat t)) true)
    pack (.npk cs d a b f) false ∧ pack (.npkSat cs d a b f) true ∧
    (s.Unmasked iss (fun t => unionExc (up t)) →
      exec (.nupk cs d a b f) s = .next (s.lanesOwe iss (fun t => wrs32 d ((up t).map b32)) (fun t => unionExc (up t)) true)) ∧
    exec (.nscl cs d a f) s = .next (s.lanesOwe iss (fun t => [.g d (nsclOp f (n32 t a))]) (fun _ => 0) true))

/-- An exact zero result takes its sign as R121 says (R121). -/
def Obligations.ZeroSigns : Prop :=
  (∀ (s t : Bool) (x y : Rat), fMul (.fin s x) (.fin t y) = (.fin (s != t) (x * y), 0)) ∧
  (∀ (dir : Dir5) (s : Bool), fAdd dir (.fin s 0) (.fin s 0) = (.fin s 0, 0) ∧ fAdd dir (.fin s 0) (FVal.negate (.fin (!s) 0)) = (.fin s 0, 0)) ∧
  (∀ (dir : Dir5) (s t : Bool) (x y : Rat), (FVal.fin s x).rat + (FVal.fin t y).rat = 0 → ¬ (x = 0 ∧ y = 0 ∧ s = t) →
    fAdd dir (.fin s x) (.fin t y) = (.fin (decide (dir = .rd)) 0, 0)) ∧
  (∀ (dir : Dir5) (s t u : Bool) (x y z : Rat), (FVal.fin (s != t) (x * y)).rat + (FVal.fin u z).rat = 0 →
    fFma dir (.fin s x) (.fin t y) (.fin u z) =
      (.fin (if x * y = 0 ∧ z = 0 ∧ (s != t) = u then u else decide (dir = .rd)) 0, 0)) ∧
  (∀ (f : Fmt) (t : Thread) (x y : Nat), fpSub f t x y = fpBin (fun a b => fAdd t.dir a b.negate) f t x y)

/-- A floating word that raises an enabled exception, of fixed latency or of the SX pipe, traps its lane with the cause that comes first and the word's record, and leaves its registers, flags and results alone (spec/03_formats.md R84, spec/04_arith.md R110, spec/05_group.md R148). -/
def Obligations.FloatTraps : Prop :=
  ∀ (s : State) (iss : Issue) (t : Thread), s.Solo iss t → ∀ (cs : CS) (d a b r : BitVec 6),
    let traps := fun (i : Instr) (e0 e1 : Exc) => (e0 ||| e1) &&& t.xen ≠ 0 →
      let on := (e0 ||| e1) &&& t.xen
      ∃ v u, exec i s = .next v ∧ v.thread? iss.gid t.lane = some u ∧ u.regs = t.regs ∧ u.fpstat = t.fpstat ∧ u.outst = t.outst ∧
        u.trr.pkt = iss.pkt ∧ u.trr.slot = iss.restartSlot ∧ u.trr.word = iss.word ∧
        u.trr.cause = (if on.getLsbD 0 then 8 else if on.getLsbD 1 then 9 else if on.getLsbD 2 then 10 else if on.getLsbD 3 then 11 else 12) ∧
        u.trr.aux.extractLsb' 0 5 = e0 ||| e1 ∧
        u.trr.aux.getLsbD 5 = decide (e0 &&& t.xen ≠ 0) ∧ u.trr.aux.getLsbD 6 = decide (e1 &&& t.xen ≠ 0) ∧
        u.st = (if t.outst = [] then .parked else .switch) ∧ v.mem = s.mem ∧
        (∃ l, v.issue = some { iss with lanes := iss.lanes &&& ~~~laneBit t.lane, subs := l }) ∧
        ∃ b ∈ v.subs, b.gid = iss.gid ∧ b.cause = u.trr.cause ∧ hasLane b.lanes t.lane = true
    let p := fun (i : Instr) (f : Thread → FR) => traps i (f t).exc 0
    let px := fun (i : Instr) (f : Thread → FR × FR) => traps i (f t).1.exc (f t).2.exc
    p (.addF32 cs d a b) (fun t => fpAdd f32 t (n32 t a) (n32 t b)) ∧
    p (.addF64 cs d a b) (fun t => fpAdd f64 t (n64 t a) (n64 t b)) ∧
    px (.addF16x2 cs d a b) (fun t => x2 (fpAdd f16 t) (rd t a) (rd t b)) ∧
    px (.addBf16x2 cs d a b) (fun t => x2 (fpAdd bf16 t) (rd t a) (rd t b)) ∧
    p (.subF32 cs d a b) (fun t => fpSub f32 t (n32 t a) (n32 t b)) ∧
    p (.subF64 cs d a b) (fun t => fpSub f64 t (n64 t a) (n64 t b)) ∧
    px (.subF16x2 cs d a b) (fun t => x2 (fpSub f16 t) (rd t a) (rd t b)) ∧
    px (.subBf16x2 cs d a b) (fun t => x2 (fpSub bf16 t) (rd t a) (rd t b)) ∧
    p (.mulF32 cs d a b) (fun t => fpMul f32 t (n32 t a) (n32 t b)) ∧
    p (.mulF64 cs d a b) (fun t => fpMul f64 t (n64 t a) (n64 t b)) ∧
    px (.mulF16x2 cs d a b) (fun t => x2 (fpMul f16 t) (rd t a) (rd t b)) ∧
    px (.mulBf16x2 cs d a b) (fun t => x2 (fpMul bf16 t) (rd t a) (rd t b)) ∧
    p (.minF32 cs d a b) (fun t => fpMinMax false f32 t (n32 t a) (n32 t b)) ∧
    p (.minF64 cs d a b) (fun t => fpMinMax false f64 t (n64 t a) (n64 t b)) ∧
    px (.minF16x2 cs d a b) (fun t => x2 (fpMinMax false f16 t) (rd t a) (rd t b)) ∧
    px (.minBf16x2 cs d a b) (fun t => x2 (fpMinMax false bf16 t) (rd t a) (rd t b)) ∧
    p (.maxF32 cs d a b) (fun t => fpMinMax true f32 t (n32 t a) (n32 t b)) ∧
    p (.maxF64 cs d a b) (fun t => fpMinMax true f64 t (n64 t a) (n64 t b)) ∧
    px (.maxF16x2 cs d a b) (fun t => x2 (fpMinMax true f16 t) (rd t a) (rd t b)) ∧
    px (.maxBf16x2 cs d a b) (fun t => x2 (fpMinMax true bf16 t) (rd t a) (rd t b)) ∧
    p (.fmaF32 cs d a b r) (fun t => fpFma f32 t (n32 t a) (n32 t b) (n32 t r)) ∧
    p (.fmaF64 cs d a b r) (fun t => fpFma f64 t (n64 t a) (n64 t b) (n64 t r)) ∧
    px (.fmaF16x2 cs d a b r) (fun t => (fpFma f16 t (lo16 (rd t a)) (lo16 (rd t b)) (lo16 (rd t r)), fpFma f16 t (hi16 (rd t a)) (hi16 (rd t b)) (hi16 (rd t r)))) ∧
    px (.fmaBf16x2 cs d a b r) (fun t => (fpFma bf16 t (lo16 (rd t a)) (lo16 (rd t b)) (lo16 (rd t r)), fpFma bf16 t (hi16 (rd t a)) (hi16 (rd t b)) (hi16 (rd t r)))) ∧
    p (.fdivfixF32 cs d a b) (fun t => fDivFix 8 23 t.dir t.ftz (n32 t d) (n32 t a) (n32 t b)) ∧
    p (.fsqrtfixF32 cs d a) (fun t => fSqrtFix 8 23 t.dir t.ftz (n32 t d) (n32 t a)) ∧
    (∀ (k : BitVec 6), p (.frndF32 cs d a k) (fun t => fRnd t.ftz f32 (t.dirOf k.toNat) (n32 t a))) ∧
    p (.fscaleF32 cs d a b) (fun t => fScale t.ftz f32 t.dir (n32 t a) (rd t b).toInt) ∧
    p (.fexpoF32 cs d a) (fun t => fExpo t.ftz f32 (n32 t a)) ∧
    p (.fdivfixF64 cs d a b) (fun t => fDivFix 11 52 t.dir t.ftz (n64 t d) (n64 t a) (n64 t b)) ∧
    p (.fsqrtfixF64 cs d a) (fun t => fSqrtFix 11 52 t.dir t.ftz (n64 t d) (n64 t a)) ∧
    (∀ (k : BitVec 6), p (.frndF64 cs d a k) (fun t => fRnd t.ftz f64 (t.dirOf k.toNat) (n64 t a))) ∧
    p (.fscaleF64 cs d a b) (fun t => fScale t.ftz f64 t.dir (n64 t a) (rd t b).toInt) ∧
    p (.fexpoF64 cs d a) (fun t => fExpo t.ftz f64 (n64 t a)) ∧
    (∀ (q : BitVec 3) (x : BitVec 4), traps (.fcmpF32 cs q a b x) (fCompare x.toNat (flushIn t.ftz f32 (n32 t a)) (flushIn t.ftz f32 (n32 t b))).2 0) ∧
    (∀ (q : BitVec 3) (x : BitVec 4), traps (.fcmpF64 cs q a b x) (fCompare x.toNat (flushIn t.ftz f64 (n64 t a)) (flushIn t.ftz f64 (n64 t b))).2 0) ∧
    p (.frcpF32 cs d a) (fun t => fRcp t.ftz 8 23 (n32 t a)) ∧
    p (.frsqF32 cs d a) (fun t => fRsq t.ftz 8 23 (n32 t a)) ∧
    p (.frcpF64 cs d a) (fun t => fRcp t.ftz 11 52 (n64 t a)) ∧
    p (.frsqF64 cs d a) (fun t => fRsq t.ftz 11 52 (n64 t a)) ∧
    p (.exp2F32 cs d a) (fun t => sfu32 fExp2 t (n32 t a)) ∧
    p (.log2F32 cs d a) (fun t => sfu32 fLog2 t (n32 t a)) ∧
    p (.sinF32 cs d a) (fun t => sfu32 (fTrig false) t (n32 t a)) ∧
    p (.cosF32 cs d a) (fun t => sfu32 (fTrig true) t (n32 t a)) ∧
    p (.tanhF32 cs d a) (fun t => sfu32 fTanh t (n32 t a)) ∧
    (∀ (m : BitVec 3), p (.cvtF32F64 cs d a m) (fun t => convert f32 f64 t m.toNat false (n64 t a))) ∧
    (∀ (m : BitVec 3), p (.cvtF64F32 cs d a m) (fun t => convert f64 f32 t m.toNat false (n32 t a))) ∧
    (∀ (m : BitVec 3), p (.cvtF16F32 cs d a m) (fun t => convert f16 f32 t m.toNat false (n32 t a))) ∧
    (∀ (m : BitVec 3), p (.cvtF32F16 cs d a m) (fun t => convert f32 f16 t m.toNat false (n32 t a % 2 ^ 16))) ∧
    (∀ (m : BitVec 3), p (.cvtBf16F32 cs d a m) (fun t => convert bf16 f32 t m.toNat false (n32 t a))) ∧
    (∀ (m : BitVec 3), p (.cvtF32Bf16 cs d a m) (fun t => convert f32 bf16 t m.toNat false (n32 t a % 2 ^ 16))) ∧
    (∀ (m : BitVec 3), p (.cvtF32I32 cs d a m) (fun t => convert f32 i32 t m.toNat false (n32 t a))) ∧
    (∀ (m : BitVec 3), p (.cvtF32N32 cs d a m) (fun t => convert f32 n32f t m.toNat false (n32 t a))) ∧
    (∀ (m : BitVec 3), p (.cvtI32F32 cs d a m) (fun t => convert i32 f32 t m.toNat false (n32 t a))) ∧
    (∀ (m : BitVec 3), p (.cvtN32F32 cs d a m) (fun t => convert n32f f32 t m.toNat false (n32 t a))) ∧
    (∀ (m : BitVec 3), p (.cvtF64I64 cs d a m) (fun t => convert f64 i64 t m.toNat false (n64 t a))) ∧
    (∀ (m : BitVec 3), p (.cvtF64N64 cs d a m) (fun t => convert f64 n64f t m.toNat false (n64 t a))) ∧
    (∀ (m : BitVec 3), p (.cvtI64F64 cs d a m) (fun t => convert i64 f64 t m.toNat false (n64 t a))) ∧
    (∀ (m : BitVec 3), p (.cvtN64F64 cs d a m) (fun t => convert n64f f64 t m.toNat false (n64 t a))) ∧
    (∀ (m : BitVec 3), p (.cvtF64I32 cs d a m) (fun t => convert f64 i32 t m.toNat false (n32 t a))) ∧
    (∀ (m : BitVec 3), p (.cvtF64N32 cs d a m) (fun t => convert f64 n32f t m.toNat false (n32 t a))) ∧
    (∀ (m : BitVec 3), p (.cvtI32F64 cs d a m) (fun t => convert i32 f64 t m.toNat false (n64 t a))) ∧
    (∀ (m : BitVec 3), p (.cvtN32F64 cs d a m) (fun t => convert n32f f64 t m.toNat false (n64 t a))) ∧
    (∀ (m : BitVec 3), p (.cvtF32I64 cs d a m) (fun t => convert f32 i64 t m.toNat false (n64 t a))) ∧
    (∀ (m : BitVec 3), p (.cvtF32N64 cs d a m) (fun t => convert f32 n64f t m.toNat false (n64 t a))) ∧
    (∀ (m : BitVec 3), p (.cvtI64F32 cs d a m) (fun t => convert i64 f32 t m.toNat false (n32 t a))) ∧
    (∀ (m : BitVec 3), p (.cvtN64F32 cs d a m) (fun t => convert n64f f32 t m.toNat false (n32 t a))) ∧
    (∀ (m : BitVec 3), p (.cvtI64I32 cs d a m) (fun t => convert i64 i32 t m.toNat false (n32 t a))) ∧
    (∀ (m : BitVec 3), p (.cvtN64N32 cs d a m) (fun t => convert n64f n32f t m.toNat false (n32 t a))) ∧
    (∀ (m : BitVec 3), p (.cvtF64Td8 cs d a m) (fun t => convert f64 .td8 t m.toNat false (n32 t a % 256))) ∧
    (∀ (t : BitVec 1) (m : BitVec 3), p (.cvtTd8F64 cs d a t m) (fun th => convert .td8 f64 th m.toNat (t = 1) (n64 th a))) ∧
    (∀ (m : BitVec 3), p (.cvtF32Td8 cs d a m) (fun t => convert f32 .td8 t m.toNat false (n32 t a % 256))) ∧
    (∀ (t : BitVec 1) (m : BitVec 3), p (.cvtTd8F32 cs d a t m) (fun th => convert .td8 f32 th m.toNat (t = 1) (n32 th a))) ∧
    (∀ m : BitVec 3, px (.cvtF16x2F32 cs d a m) fun t => (convert f16 f32 t m.toNat false (n32 t a), convert f16 f32 t m.toNat false (n32 t (a + 1)))) ∧
    (∀ m : BitVec 3, px (.cvtBf16x2F32 cs d a m) fun t => (convert bf16 f32 t m.toNat false (n32 t a), convert bf16 f32 t m.toNat false (n32 t (a + 1)))) ∧
    ∀ (f : BitVec 3),
      let n := narrowCount f
      let w := narrowBits f
      let down := fun (sat : Bool) => (List.range n).map fun i => npkElem f t.dir sat (n32 t b % 256) (n32 t (a + BitVec.ofNat 6 i))
      let up := (List.range n).map fun i => nupkElem f t.dir (n32 t b % 256) (n32 t a / 2 ^ (w * i) % 2 ^ w)
      traps (.npk cs d a b f) (unionExc (down false)) 0 ∧ traps (.npkSat cs d a b f) (unionExc (down true)) 0 ∧
      traps (.nupk cs d a b f) (unionExc up) 0

/-- The transfer words, and sys where the context's library takes it, check their target as R33 says, record the transfer, write g63 where they link, and trap on a bad target (spec/05_group.md R156, spec/05_group.md R157, spec/02_encoding.md R33, spec/02_encoding.md R34, spec/14_context.md R358). -/
def Obligations.TransferWords : Prop :=
  (∀ (s : State) (iss : Issue) (t : Thread), s.Solo iss t →
    let dest := fun (s : State) (link : Bool) (x : Int) => ({ s with
      issue := some { iss with xfer := iss.xfer ++ [(t.lane, BitVec.ofInt 32 x, 0)] },
      threads := if link then s.threads.map fun u => if u.is iss.gid t.lane then u.put [.g 63 (iss.pkt + 1)] else u
        else s.threads } : State)
    let from_ := fun (u : State) (i : Instr) (link : Bool) (x : Int) =>
      (u.badTarget (s.group iss.gid) x = none → exec i s = .next (dest u link x)) ∧
      (∀ c a, u.badTarget (s.group iss.gid) x = some (c, a) → exec i s = .next (u.trapLane ⟨t.lane, c, a, 0, 0⟩))
    let goes := from_ s
    ∀ (cs : CS) (a : BitVec 6) (o : BitVec 24) (n : BitVec 1) (p : BitVec 3) (k : BitVec 20),
      goes (.jmp cs o) false (iss.pkt.toNat + o.toInt) ∧
      goes (.call cs o) true (iss.pkt.toNat + o.toInt) ∧
      goes (.jmpi cs a) false (rd t a).toNat ∧
      goes (.calli cs a) true (rd t a).toNat ∧
      goes (.ret cs) false (rd t 63).toNat ∧
      (∀ c, s.ctx? (s.group iss.gid).ctx = some c → c.forwards iss.pkt = true →
        from_ (s.acquireCore (s.group iss.gid).pcore) (.sys cs) true c.libent.toNat) ∧
      (rdP t p = decide (n = 0) → goes (.br cs n p k) false (iss.pkt.toNat + k.toInt)) ∧
      (rdP t p ≠ decide (n = 0) → exec (.br cs n p k) s = .next s)) ∧
  (∀ (s : State) (g : Group) (x : Int), g.shep = false →
    let aux : W64 := (BitVec.ofInt 32 x).setWidth 64
    let out := x < 0 ∨ 2 ^ 32 ≤ x ∨ (heLen g.code.ent : Int) < 12 * x + 12
    let deny := fun (va : Nat) => match s.xlWalk g.ctx va .fetch with | .fault 0x11 _ => true | _ => false
    (out → s.badTarget g x = some (0x13, aux)) ∧
    (¬out → heRight g.code.ent 2 = false → s.badTarget g x = some (0x11, aux)) ∧
    (¬out → heRight g.code.ent 2 = true → deny (heBase g.code.ent + 12 * x.toNat) = false →
      deny (heBase g.code.ent + 12 * x.toNat + 11) = false → s.badTarget g x = none))

/-- nop, imx, brk, exit, yld, sys and iret record what the end of their chain does, and change nothing else; an iret of a lane that handles no entry traps (spec/02_encoding.md R32, spec/02_encoding.md R51, spec/05_group.md R158, spec/14_context.md R347, spec/14_context.md R356). -/
def Obligations.ChainEndWords : Prop :=
  ∀ (s : State) (iss : Issue), s.issue = some iss → ∀ (cs : CS),
    let fin := fun (u : State) (f : Fin) => Host.Outcome.next { u with issue := some { iss with fin := some f } }
    exec (.nop cs) s = .next s ∧
    (∀ i : BitVec 24, exec (.imx cs i) s = .next { s with issue := some { iss with imm := some i } }) ∧
    (∀ k : BitVec 6, exec (.brk cs k) s = fin s (.brk k iss.word iss.slot)) ∧
    exec (.exit cs) s = fin s .exit ∧
    exec (.yld cs) s = .next (s.updGroup iss.gid fun g => { g with fsets := g.fsets.map fun f =>
      if f.lanes &&& iss.lanes = 0 then f else { f with yld := true } }) ∧
    ((∀ c, s.ctx? (s.group iss.gid).ctx = some c → c.forwards iss.pkt = false) →
      exec (.sys cs) s = fin (s.acquireCore (s.group iss.gid).pcore) (.sys iss.word iss.slot)) ∧
    ((s.group iss.gid).shep = true →
      (∀ l ∈ lanesOf iss.lanes, (s.core (s.group iss.gid).pcore).handling.contains l = true) →
      exec (.iret cs) s = fin s .iret) ∧
    ((s.group iss.gid).priv = true →
      (∀ l ∈ lanesOf iss.lanes, (s.group iss.gid).shep = false ∨ (s.core (s.group iss.gid).pcore).handling.contains l = false) →
      exec (.iret cs) s = .next ({ s with issue := some { iss with fin := some .iret } }.trapLanes
        ((lanesOf iss.lanes).map fun l => ⟨l, 0x01, 0, 0, 0⟩)))

/-- At a chain's end a lane that brk, sys or a step stops parks at the next word with its record; any other goes on. That a lane which goes on with the rest of a chain keeps the first word and the stepping of that chain is the model's choice, log entries 20 and 72 (spec/05_group.md R146, spec/05_group.md R153, spec/05_group.md R155, spec/05_group.md R158, spec/14_context.md R356). -/
def Obligations.ChainEndOutcomes : Prop :=
  ∀ (s : State) (iss : Issue) (g : Group) (t : Thread) (l : Nat),
    s.issue = some iss → iss.gid = g.gid → s.group g.gid = g → s.thread? g.gid l = some t →
    let n := nextPlace iss.pkt iss.slot
    let after := (s.endLane g l).thread? g.gid l
    let parks := fun (cause : Byte) (r : TrapRec) => r.cause = cause ∧
      after = some ({ t with rwc := if g.shep then t.rwc else t.rwc + 1 }.park r) ∧
      ∃ b ∈ (s.endLane g l).subs, b.gid = g.gid ∧ b.cause = cause ∧ hasLane b.lanes l = decide (l < 32)
    (∀ k w sl, iss.fin = some (.brk k w sl) →
      parks 0x03 ⟨n.1, n.2, 0x03, k.setWidth 64, w, iss.pkt, sl⟩) ∧
    (∀ w sl, iss.fin = some (.sys w sl) → parks 0x05 ⟨n.1, n.2, 0x05, rd2 t 0, w, iss.pkt, sl⟩) ∧
    (let kept := (iss.conts.lookup l).filter Cont.kept
     let step := (match kept with | some c => c.step | none => iss.step) && g.step
     let first : BitVec 2 × W32 := match kept with | some c => (c.cslot, c.cword) | none => (iss.first, iss.firstWord)
     let p := iss.nextOf l
     (iss.fin = none → step = true → g.shep = false → t.waits = false →
       parks 0x04 ⟨p.1, p.2, 0x04, BitVec.ofNat 64 (iss.pkt.toNat + first.1.toNat * 2 ^ 32), first.2, iss.pkt, first.1⟩) ∧
     (iss.fin = none → step = false ∨ g.shep = true ∨ t.waits = true → after = some (t.complete iss g.shep step))) ∧
    (iss.fin = some .iret → after = some { t with st := .exited, outst := [], pend := [] })

/-- rds returns a selector's value as an outstanding result, wrs writes its assigned bits, and a selector that is not there traps (spec/02_encoding.md R46, spec/02_encoding.md R47, spec/05_group.md R158, spec/14_context.md R348, spec/03_formats.md R77). -/
def Obligations.SpecialRegisterWords : Prop :=
  (∀ (s : State) (iss : Issue) (t : Thread), s.Solo iss t →
    ∀ (cs : CS) (d a k : BitVec 6),
      let g := s.group iss.gid
      (selAssigned k = true → (selPriv k = true → g.priv = true) →
        (k ≠ 0x10 → k ≠ 0x12 → exec (.rds cs d k) s =
          .next (s.updT t.gid t.lane fun x =>
            x.await (Result.known t.nextRes (if selWidth k = 2 then wr2 d (s.selValue g t k) else [Wr.g d ((s.selValue g t k).setWidth 32)]) 0 false))) ∧
        (k = 0x10 → exec (.rds cs d k) s =
          .next ((s.logged t.gid t.lane 5 0x10 s.ptime []).2.2.updT t.gid t.lane fun x =>
            x.await (Result.known t.nextRes (wr2 d (s.logged t.gid t.lane 5 0x10 s.ptime []).1) 0 false))) ∧
        (k = 0x12 → exec (.rds cs d k) s =
          .next ((s.updT t.gid t.lane Thread.landKnown).updT t.gid t.lane fun x =>
            x.await (Result.known t.landKnown.nextRes [Wr.g d t.landKnown.fpstat] 0 false)))) ∧
      (selAssigned k = true → selWritable k = true → (selPriv k = true → g.priv = true) →
        exec (.wrs cs a k) s =
          .next (s.selWrite g t k (if selWidth k = 2 then rd2 t a else (rd t a).setWidth 64))) ∧
      (selAssigned k = false → exec (.rds cs d k) s = .next (s.decodeTrap 0x01)) ∧
      (selAssigned k = false ∨ selWritable k = false → exec (.wrs cs a k) s = .next (s.decodeTrap 0x01))) ∧
  (∀ (s : State) (g : Group) (t : Thread) (v : W64),
    (s.selValue g t 0 = BitVec.ofNat 64 t.lane ∧ s.selValue g t 1 = BitVec.ofNat 64 g.grp ∧
     s.selValue g t 2 = BitVec.ofNat 64 g.flk ∧ s.selValue g t 4 = BitVec.ofNat 64 g.herd ∧
     s.selValue g t 0x10 = s.ptime ∧ s.selValue g t 0x11 = t.octl.setWidth 64 ∧ s.selValue g t 0x12 = t.fpstat.setWidth 64 ∧
     s.selValue g t 0x13 = t.rwc ∧ s.selValue g t 0x14 = BitVec.ofNat 64 g.ctx) ∧
    (s.thread? t.gid t.lane = some t → t.outst = [] →
      (s.selWrite g t 0x11 v).thread? t.gid t.lane = some { t with fpctl := v.setWidth 32 &&& 0x1F07 } ∧
      (s.selWrite g t 0x12 v).thread? t.gid t.lane = some { t with fpstat := v.setWidth 32 &&& 0x1F } ∧
      (s.selWrite g t 0x20 v).thread? t.gid t.lane = some { t with tgt := v.setWidth 32 &&& 0x3FFF }))

/-- sigret restores the thread from its frame and resumes it there; without a frame or with a bad signal number it traps (spec/14_context.md R352, spec/14_context.md R355). -/
def Obligations.SignalReturn : Prop :=
  ∀ (s : State) (iss : Issue) (t : Thread), s.Solo iss t →
    ∀ (cs : CS) (c : Context), s.ctx? (s.group iss.gid).ctx = some c →
      let g := s.group iss.gid
      let sp := rd t c.sigsp
      let h := rdH t c.sigh
      (t.depth = 0 → exec (.sigret cs) s = .next (s.trapLane ⟨t.lane, 0x01, sp.setWidth 64, 0, 0⟩)) ∧
      (t.depth ≠ 0 → (s.usable g h = true → frameSpace h = true) →
        ∀ (ps : List Place) (u : State), s.framePlaces g h sp.toNat 0 .read = (.ok ps, u) →
          let bs := u.frameRead ps
          let w := fun (o k : Nat) => natOf ((bs.drop o).take k)
          let r := TrapRec.ofImage (w 0x200 32)
          (w 0x22C 4 = 0 ∨ 63 < w 0x22C 4 → exec (.sigret cs) s = .next (u.trapLane ⟨t.lane, 0x01, sp.setWidth 64, 0, 0⟩)) ∧
          (1 ≤ w 0x22C 4 → w 0x22C 4 ≤ 63 → exec (.sigret cs) s =
            .next ((u.updT t.gid t.lane fun x =>
              { x with regs := u.frameRegs g.ctx g.regsN x.regs bs, trr := r, depth := x.depth - 1, pend := [], outst := [],
                       fpctl := BitVec.ofNat 32 (w 0x224 4) &&& 0x1F07,
                       fpstat := BitVec.ofNat 32 (w 0x228 4) &&& 0x1F }).addXfer t.lane r.pkt r.slot)))

/-- Outside the shepherd and the system flocks every privileged form takes trap 0x02 and does nothing else (spec/02_encoding.md R54). -/
def Obligations.PrivilegedForms : Prop :=
  (∀ (s : State) (iss : Issue), s.issue = some iss → (s.group iss.gid).sys = false → (s.group iss.gid).shep = false →
    ∀ (cs : CS) (a b r k : BitVec 6),
        exec (.hnew cs a b) s = .next (s.decodeTrap 0x02) ∧
        exec (.hrev cs a) s = .next (s.decodeTrap 0x02) ∧
        exec (.repl cs a b) s = .next (s.decodeTrap 0x02) ∧
        exec (.sigdl cs a b r) s = .next (s.decodeTrap 0x02) ∧
        exec (.penx cs a b) s = .next (s.decodeTrap 0x02) ∧
        exec (.swp cs a b r) s = .next (s.decodeTrap 0x02) ∧
        exec (.kill cs a b r) s = .next (s.decodeTrap 0x02) ∧
        exec (.kterm cs a b r) s = .next (s.decodeTrap 0x02) ∧
        exec (.tlbinv cs a b r) s = .next (s.decodeTrap 0x02) ∧
        exec (.sdn cs a b r) s = .next (s.decodeTrap 0x02) ∧
        exec (.pin cs a b k) s = .next (s.decodeTrap 0x02) ∧
        exec (.unpin cs a b k) s = .next (s.decodeTrap 0x02) ∧
        exec (.migr cs a b k) s = .next (s.decodeTrap 0x02) ∧
        exec (.fqpop cs a) s = .next (s.decodeTrap 0x02) ∧
        exec (.fqpopTry cs a) s = .next (s.decodeTrap 0x02) ∧
        exec (.fqdone cs a b k) s = .next (s.decodeTrap 0x02) ∧
        exec (.step cs a b) s = .next (s.decodeTrap 0x02) ∧
        exec (.snap cs a b) s = .next (s.decodeTrap 0x02) ∧
        exec (.ckpt cs a b r) s = .next (s.decodeTrap 0x02) ∧
        exec (.iret cs) s = .next (s.decodeTrap 0x02) ∧
        (selPriv k = true → selAssigned k = true → exec (.rds cs a k) s = .next (s.decodeTrap 0x02)) ∧
        (selPriv k = true → selAssigned k = true → selWritable k = true → exec (.wrs cs a k) s = .next (s.decodeTrap 0x02))) ∧
  (∀ (n : Nat) (ws : List W32) (slot : BitVec 2), badChain ws slot = false → ws.any privWord = true →
    ∃ i, chainTrap false n ws slot = some (0x02, i) ∧ (ws[i]?).any privWord = true ∧
      ∀ j, j < i → (ws[j]?).any privWord = false)

/-- A decode trap parks every lane of the chain at the chain's first word, in one sub-group of its cause (spec/05_group.md R148, spec/05_group.md R149, spec/02_encoding.md R70, spec/14_context.md R349). -/
def Obligations.DecodeTrapEntry : Prop :=
  ∀ (s : State) (iss : Issue) (c : Byte), s.issue = some iss → iss.subs = [] → (∀ b ∈ s.subs, b.id < s.nextId) →
    iss.lanes ≠ 0 →
    let u := s.decodeTrap c
    let r : TrapRec := ⟨iss.pkt, iss.first, c, 0, iss.word, iss.pkt, iss.slot⟩
    u.threads = s.threads.map (fun t => if t.inMask iss.gid iss.lanes then t.park r else t) ∧
    (∃ i, u.issue = some i ∧ i.lanes = 0) ∧
    (∃ b ∈ u.subs, b.gid = iss.gid ∧ b.cause = c ∧ b.lanes = iss.lanes ∧ b.collecting = true) ∧
    u.mem = s.mem ∧ u.groups = s.groups ∧ u.flocks = s.flocks

/-- Taking a trap saves the restart point, cause, aux and word, parks the lane, and changes no register, other thread or memory (spec/05_group.md R148, spec/05_group.md R149, spec/14_context.md R349). -/
def Obligations.TrapEntry : Prop :=
  ∀ (s : State) (iss : Issue) (x : LTrap) (r : TrapRec) (t : Thread),
    s.thread? iss.gid x.lane = some t → x.lane < 32 →
    let u := s.takeTrap iss x r
    (∃ v, u.thread? iss.gid x.lane = some v ∧ v.trr = r ∧ v.pkt = r.pkt ∧ v.slot = r.slot ∧ v.regs = t.regs ∧
      v.fpctl = t.fpctl ∧ v.fpstat = t.fpstat ∧ v.outst = t.outst ∧ v.st = (if t.outst = [] then .parked else .switch)) ∧
    (∀ l, l ≠ x.lane → u.thread? iss.gid l = s.thread? iss.gid l) ∧
    (∀ k l, k ≠ iss.gid → u.thread? k l = s.thread? k l) ∧
    (∃ i, u.issue = some i ∧ i.lanes = iss.lanes &&& ~~~laneBit x.lane) ∧
    (∃ b ∈ u.subs, b.gid = iss.gid ∧ b.cause = x.cause ∧ hasLane b.lanes x.lane = true) ∧
    u.mem = s.mem ∧ u.groups = s.groups ∧ u.flocks = s.flocks ∧ u.reqs = s.reqs ∧ u.l1 = s.l1

/-- Releasing a sub-group makes its parked threads READY at their recorded restart points and frees its entry (spec/05_group.md R151). -/
def Obligations.TrapReturn : Prop :=
  ∀ (s : State) (b : SubGroup), (s.subs.find? fun x => x.id = b.id) = some b →
    let u := s.releaseSub b.id
    (∀ x ∈ u.subs, x.id ≠ b.id) ∧
    u.threads = s.threads.map (fun t =>
      if t.inMask b.gid b.lanes && t.st = TSt.parked then { t with st := .ready, pkt := t.trr.pkt, slot := t.trr.slot } else t) ∧
    u.mem = s.mem ∧ u.issue = s.issue ∧ u.insts = s.insts

/-- A lane that arrives at a convergence or cross-lane word waits in CONV in the instance of its mask, or opens one (spec/05_group.md R159, spec/05_group.md R160, spec/05_group.md R164). -/
def Obligations.CrossLaneArrival : Prop :=
  ∀ (s : State) (iss : Issue) (t : Thread), s.Solo iss t →
    let arrives := fun (i : Instr) (op : XOp) (d : BitVec 6) (ds : List Dest) (m : Mask) (b : Arrival) =>
      let at' := fun (x : Inst) => decide (x.gid = iss.gid ∧ x.pkt = iss.pkt ∧ x.slot = iss.slot)
      let wait := s.threads.map fun u => if u.is iss.gid t.lane then
        { u with st := .conv, wword := iss.word, pkt := iss.pkt, slot := iss.restartSlot, pend := u.pend ++ ds } else u
      (hasLane m t.lane = false → exec i s = .next (s.trapLane ⟨t.lane, 0x01, m.setWidth 64, 0, 0⟩)) ∧
      (hasLane m t.lane = true → (∀ x ∈ s.insts, at' x = true → x.mask = m ∨ x.mask &&& m = 0) → ∀ a, a = { b with set := s.clock } →
        exec i s = .next
          (match s.insts.find? fun x => at' x && decide (x.mask = m) with
           | some x => { s with threads := wait, insts := s.insts.map fun y => if y.iid = x.iid then { y with arr := y.arr ++ [a] } else y }
           | none => { s with threads := wait, nextId := s.nextId + 1, insts := s.insts ++
               [⟨s.nextId, iss.gid, iss.pkt, iss.slot, iss.word, m, op, d, [a]⟩] }))
    ∀ (cs : CS) (d a b : BitVec 6) (p q : BitVec 3),
      arrives (.reconv cs a) .reconv 0 [] (rd t a) (arrOf t 0 0 0 false) ∧
      arrives (.pollOr cs p q b) .pollOr (p.setWidth 6) (if p = 7 then [] else [.p p]) (rd t b) (arrOf t 0 0 0 (rdP t q)) ∧
      arrives (.pollAnd cs p q b) .pollAnd (p.setWidth 6) (if p = 7 then [] else [.p p]) (rd t b) (arrOf t 0 0 0 (rdP t q)) ∧
      arrives (.pollSame cs p q b) .pollSame (p.setWidth 6) (if p = 7 then [] else [.p p]) (rd t b) (arrOf t 0 0 0 (rdP t q)) ∧
      arrives (.gmask cs d q b) .gmask d [.g d] (rd t b) (arrOf t 0 0 0 (rdP t q)) ∧
      arrives (.xchAt cs d a b) .xchAt d [.g d] (rd t (b + 1)) (arrOf t ((rd t a).setWidth 64) 0 (rd t b) false) ∧
      arrives (.xchBack cs d a b) .xchBack d [.g d] (rd t (b + 1)) (arrOf t ((rd t a).setWidth 64) 0 (rd t b) false) ∧
      arrives (.xchFwd cs d a b) .xchFwd d [.g d] (rd t (b + 1)) (arrOf t ((rd t a).setWidth 64) 0 (rd t b) false) ∧
      arrives (.xchFlip cs d a b) .xchFlip d [.g d] (rd t (b + 1)) (arrOf t ((rd t a).setWidth 64) 0 (rd t b) false) ∧
      arrives (.redAddI32 cs d a b) (.addI 32) d [.g d] (rd t b) (arrOf t ((rd t a).setWidth 64) 0 0 false) ∧
      arrives (.redMinI32 cs d a b) (.minI 32) d [.g d] (rd t b) (arrOf t ((rd t a).setWidth 64) 0 0 false) ∧
      arrives (.redMinN32 cs d a b) (.minN 32) d [.g d] (rd t b) (arrOf t ((rd t a).setWidth 64) 0 0 false) ∧
      arrives (.redMaxI32 cs d a b) (.maxI 32) d [.g d] (rd t b) (arrOf t ((rd t a).setWidth 64) 0 0 false) ∧
      arrives (.redMaxN32 cs d a b) (.maxN 32) d [.g d] (rd t b) (arrOf t ((rd t a).setWidth 64) 0 0 false) ∧
      arrives (.redAddF32 cs d a b) (.addF false) d [.g d] (rd t b) (arrOf t ((rd t a).setWidth 64) 0 0 false) ∧
      arrives (.redMinF32 cs d a b) (.minF false) d [.g d] (rd t b) (arrOf t ((rd t a).setWidth 64) 0 0 false) ∧
      arrives (.redMaxF32 cs d a b) (.maxF false) d [.g d] (rd t b) (arrOf t ((rd t a).setWidth 64) 0 0 false) ∧
      arrives (.scanAddI32 cs d a b) (.scanI 32) d [.g d] (rd t b) (arrOf t ((rd t a).setWidth 64) 0 0 false) ∧
      arrives (.scanAddF32 cs d a b) (.scanF false) d [.g d] (rd t b) (arrOf t ((rd t a).setWidth 64) 0 0 false) ∧
      arrives (.redAddI64 cs d a b) (.addI 64) d [.g d, .g (d + 1)] (rd t b) (arrOf t (rd2 t a) 0 0 false) ∧
      arrives (.redMinI64 cs d a b) (.minI 64) d [.g d, .g (d + 1)] (rd t b) (arrOf t (rd2 t a) 0 0 false) ∧
      arrives (.redMinN64 cs d a b) (.minN 64) d [.g d, .g (d + 1)] (rd t b) (arrOf t (rd2 t a) 0 0 false) ∧
      arrives (.redMaxI64 cs d a b) (.maxI 64) d [.g d, .g (d + 1)] (rd t b) (arrOf t (rd2 t a) 0 0 false) ∧
      arrives (.redMaxN64 cs d a b) (.maxN 64) d [.g d, .g (d + 1)] (rd t b) (arrOf t (rd2 t a) 0 0 false) ∧
      arrives (.redAddF64 cs d a b) (.addF true) d [.g d, .g (d + 1)] (rd t b) (arrOf t (rd2 t a) 0 0 false) ∧
      arrives (.redMinF64 cs d a b) (.minF true) d [.g d, .g (d + 1)] (rd t b) (arrOf t (rd2 t a) 0 0 false) ∧
      arrives (.redMaxF64 cs d a b) (.maxF true) d [.g d, .g (d + 1)] (rd t b) (arrOf t (rd2 t a) 0 0 false) ∧
      arrives (.scanAddI64 cs d a b) (.scanI 64) d [.g d, .g (d + 1)] (rd t b) (arrOf t (rd2 t a) 0 0 false) ∧
      arrives (.scanAddF64 cs d a b) (.scanF true) d [.g d, .g (d + 1)] (rd t b) (arrOf t (rd2 t a) 0 0 false) ∧
      arrives (.vmrgLoN64 cs d a b) (.vmrgLo false) d [.g d, .g (d + 1)] (rd t b) (arrOf t (rd2 t a) (rd2 t (a + 2)) 0 false) ∧
      arrives (.vmrgHiN64 cs d a b) (.vmrgHi false) d [.g d, .g (d + 1)] (rd t b) (arrOf t (rd2 t a) (rd2 t (a + 2)) 0 false) ∧
      arrives (.bsortN64 cs d a b) (.bsort false) d [.g d, .g (d + 1)] (rd t (b + 1)) (arrOf t (rd2 t a) 0 (rd t b) false) ∧
      arrives (.rankN64 cs d a b) (.rank false) d [.g d] (rd t b) (arrOf t (rd2 t a) 0 0 false) ∧
      arrives (.vmrgLoI64 cs d a b) (.vmrgLo true) d [.g d, .g (d + 1)] (rd t b) (arrOf t (rd2 t a) (rd2 t (a + 2)) 0 false) ∧
      arrives (.vmrgHiI64 cs d a b) (.vmrgHi true) d [.g d, .g (d + 1)] (rd t b) (arrOf t (rd2 t a) (rd2 t (a + 2)) 0 false) ∧
      arrives (.bsortI64 cs d a b) (.bsort true) d [.g d, .g (d + 1)] (rd t (b + 1)) (arrOf t (rd2 t a) 0 (rd t b) false) ∧
      arrives (.rankI64 cs d a b) (.rank true) d [.g d] (rd t b) (arrOf t (rd2 t a) 0 0 false)

/-- An instance that every lane of its mask has joined or exited from completes: each arrived lane gets the result of its form, and wakes, or takes its fault. That every arrived lane receives the flags of a reduction, and that those of one arrival form one set again, are the model's choices, log entries 17 and 23 (spec/05_group.md R160, spec/05_group.md R165, spec/05_group.md R152, spec/05_group.md R166, spec/03_formats.md R103, spec/03_formats.md R104). -/
def Obligations.CrossLaneResults : Prop :=
  (∀ (a : List Arrival) (d : BitVec 6),
    let all := fun (ws : List Wr) => (a.map fun r => (r.lane, ws), (0 : Exc))
    let each := fun (f : Arrival → Nat → List Wr) => (a.zipIdx.map fun q => (q.1.lane, f q.1 q.2), (0 : Exc))
    let pd : BitVec 3 := d.extractLsb' 0 3
    let from_ := fun (l : Nat) => (a.find? fun (x : Arrival) => x.lane = l).map Arrival.x
    let before := fun (sg : Bool) (r m : Arrival) =>
      decide (keyOf sg m.x < keyOf sg r.x) || (decide (m.x = r.x) && decide (m.lane < r.lane))
    let best := fun (op : XOp) (dbl : Bool) (le : W64 → W64 → Prop) => ∃ m : W64,
      xResults op d a = all (if dbl then wr2 d m else [.g d (m.setWidth 32)]) ∧
      (a ≠ [] → (∃ x ∈ a, x.x = m) ∧ ∀ x ∈ a, le m x.x)
    let tree := fun (op : XOp) (o : RedOp) (dbl : Bool) =>
      let r := laneTree o (if dbl then f64 else f32) ((List.range 32).map fun l => (from_ l).map BitVec.toNat)
      xResults op d a = (a.map fun q => (q.lane, if dbl then wr2 d (BitVec.ofNat 64 r.bits) else [.g d (BitVec.ofNat 32 r.bits)]), r.exc)
    let merged := fun (sg : Bool) => mergeRuns sg (2 * a.length) (a.map Arrival.x) (a.map Arrival.y)
    xResults .reconv d a = all [] ∧
    xResults .pollOr d a = all [.p pd (a.any Arrival.q)] ∧
    xResults .pollAnd d a = all [.p pd (a.all Arrival.q)] ∧
    xResults .pollSame d a = all [.p pd (a.all Arrival.q || a.all fun r => !r.q)] ∧
    xResults .gmask d a = all [.g d (maskOf ((a.filter Arrival.q).map Arrival.lane))] ∧
    (∀ op : XOp, op = .xchAt ∨ op = .xchBack ∨ op = .xchFwd ∨ op = .xchFlip →
      xResults op d a = each fun r _ => [.g d ((match xchSource op r.lane r.b with
        | some l => (from_ l).getD r.x
        | none => r.x).setWidth 32)]) ∧
    xResults (.addI 32) d a = all [.g d (BitVec.ofNat 32 ((a.map fun r => r.x.toNat).sum))] ∧
    xResults (.addI 64) d a = all (wr2 d (BitVec.ofNat 64 ((a.map fun r => r.x.toNat).sum))) ∧
    best (.minI 32) false (fun m x => (m.setWidth 32).toInt ≤ (x.setWidth 32).toInt) ∧ best (.minI 64) true (fun m x => m.toInt ≤ x.toInt) ∧
    best (.maxI 32) false (fun m x => (x.setWidth 32).toInt ≤ (m.setWidth 32).toInt) ∧ best (.maxI 64) true (fun m x => x.toInt ≤ m.toInt) ∧
    best (.minN 32) false (fun m x => m.toNat ≤ x.toNat) ∧ best (.minN 64) true (fun m x => m.toNat ≤ x.toNat) ∧
    best (.maxN 32) false (fun m x => x.toNat ≤ m.toNat) ∧ best (.maxN 64) true (fun m x => x.toNat ≤ m.toNat) ∧
    (∀ dbl, tree (.addF dbl) .add dbl ∧ tree (.minF dbl) .min dbl ∧ tree (.maxF dbl) .max dbl) ∧
    xResults (.scanI 32) d a = each (fun _ i => [.g d (BitVec.ofNat 32 ((a.take (i + 1)).map fun x => x.x.toNat).sum)]) ∧
    xResults (.scanI 64) d a = each (fun _ i => wr2 d (BitVec.ofNat 64 ((a.take (i + 1)).map fun x => x.x.toNat).sum)) ∧
    (∀ dbl, let r := scanFloat (if dbl then f64 else f32) (a.map fun x => x.x.toNat)
      xResults (.scanF dbl) d a = ((a.zip r.1).map fun q =>
        (q.1.lane, if dbl then wr2 d (BitVec.ofNat 64 q.2) else [.g d (BitVec.ofNat 32 q.2)]), r.2)) ∧
    (∀ sg, xResults (.vmrgLo sg) d a = each fun _ i => wr2 d (((merged sg)[i]?).getD 0)) ∧
    (∀ sg, xResults (.vmrgHi sg) d a = each fun _ i => wr2 d (((merged sg)[a.length + i]?).getD 0)) ∧
    (∀ sg, xResults (.bsort sg) d a = each fun r _ =>
      let q := r.lane ^^^ 2 ^ (r.b.toNat % 8)
      let keepMin : Bool := decide (r.lane < q) = decide (r.lane / 2 ^ (r.b.toNat / 8 % 8) % 2 = 0)
      wr2 d (match from_ q with
        | none => r.x
        | some y => if keepMin = decide (keyOf sg y < keyOf sg r.x) then y else r.x)) ∧
    (∀ sg, xResults (.rank sg) d a = each fun r _ => [.g d (BitVec.ofNat 32 (a.countP (before sg r)))])) ∧
  (∀ (s : State) (i : Inst), (s.insts.find? fun x => x.iid = i.iid) = some i →
    let a := (List.range 32).filterMap fun l => i.arr.find? fun r => r.lane = l
    let u := { s with insts := s.insts.filter fun x => x.iid ≠ i.iid }
    let r := xResults i.op i.d a
    let bad := match i.op with | .bsort _ => bsortTraps a | _ => []
    let v := u.mapLanes i.gid (maskOf (a.map Arrival.lane)) fun t => { t with fpstat := t.fpstat ||| r.2.setWidth 32 }
    let ready := i.arr ≠ [] ∧ ∀ l ∈ lanesOf i.mask, (∃ x ∈ i.arr, x.lane = l) ∨ ∀ t, s.thread? i.gid l = some t → t.st = .exited
    let ofSet := fun (k : Nat) => r.1.filter fun x => a.any fun y => decide (y.lane = x.1) && decide (y.set = k)
    (ready → i.op = .reconv → exec (.instanceComplete i.iid) s = .next (v.wake i.gid r.1)) ∧
    (ready → i.op ≠ .reconv → bad = [] →
      exec (.instanceComplete i.iid) s = .next ((a.map Arrival.set).dedup.foldl (fun w k => w.wake i.gid (ofSet k)) v)) ∧
    (ready → bad ≠ [] → exec (.instanceComplete i.iid) s = .next (u.convFault i.gid bad)) ∧
    (¬ready → exec (.instanceComplete i.iid) s = .next s)) ∧
  (∀ (s : State) (id : Nat), (∀ i ∈ s.insts, i.iid ≠ id) → exec (.instanceComplete id) s = .next s)

/-- The runs that vmrg merges come out sorted, and hold exactly the keys of both runs (spec/05_group.md R165). -/
def Obligations.SortedMerge : Prop :=
  ∀ (sg : Bool) (xs ys : List W64) (n : Nat), xs.length + ys.length ≤ n →
    let le := fun (x y : W64) => keyOf sg x ≤ keyOf sg y
    xs.Pairwise le → ys.Pairwise le → (mergeRuns sg n xs ys).Pairwise le ∧ (mergeRuns sg n xs ys).Perm (xs ++ ys)

/-- ld and ldg address through their handle, then take the bytes from a scratchpad or B-store, or send the access on. When the L1 may serve a load, and where a chain stops that a held load interrupts, are the model's choices, log entries 26 and 72 (spec/06_memory.md R170, spec/06_memory.md R174, spec/06_memory.md R176, spec/06_memory.md R196, spec/06_memory.md R198, spec/07_consistency.md R212). -/
def Obligations.LoadWords : Prop :=
  (∀ (s : State) (iss : Issue) (t : Thread), s.Solo iss t →
    ∀ (cs : CS) (d a : BitVec 6) (h : BitVec 5) (z : BitVec 3) (p o : BitVec 2),
    let g := s.actGroup iss t
    let n := szBytes z
    let loads := fun (i : Instr) (off : Int) =>
      let r := s.place g (rdH t h) off n 0 p.toNat .read
      let u := r.2
      let id := t.nextRes
      let near := fun (bs : List Byte) (x : Nat) => exec i s =
        .next ((u.updT g.gid t.lane fun y => y.await (pendingLoad id d n 1 (decide (o.toNat = 2)) false)).feed g.gid t.lane id 0 bs 0 x)
      match r.1 with
      | .bad c x acc k => exec i s = .next (u.trapLane ⟨t.lane, c, x, acc, k⟩)
      | .ok (.scr fid x) => near (u.scrRead fid x n) x
      | .ok (.bst fid x) => near (u.bstRead fid x n) x
      | .ok q =>
        let v := if o.toNat = 2 ∨ q.pends = true then
          (u.keepXfer iss t.lane iss.restartSlot).updT iss.gid t.lane fun y => { y with hold := true } else u
        exec i s = .next ((v.updT g.gid t.lane fun y =>
          y.await (pendingLoad id d n (splitReq n).length (decide (o.toNat = 2)) q.remote)).sendLoad iss g t id
              (polOf (rdH t h) p.toNat) n (decide (o.toNat ≠ 0)) (decide (o.toNat = 2)) q (heBase (rdH t h).ent + off.toNat))
    loads (.ld cs d a h z p o) ((rd t a).toNat + dispOf iss) ∧
    loads (.ldg cs d a h z p o) ((rd t a).toNat + t.lane * n + dispOf iss)) ∧
  (∀ (s : State) (iss : Issue) (g : Group) (t : Thread) (id pol n pa va : Nat) (strong acq : Bool), 0 < n → n ≤ 8 →
    let asks := fun (k : Req) => ({ s with nextId := s.nextId + 1, reqs := s.reqs ++ [k] } : State)
    let sends := fun (p : Place) => s.sendLoad iss g t id pol n strong acq p va
    (s.l1Serves g t.lane pa va n pol strong = true → (acq && s.replaying g.ctx) = false →
      sends (.mem pa) = s.feed g.gid t.lane id 0 (s.l1Bytes g.pcore pa n) 0 va) ∧
    (s.l1Serves g t.lane pa va n pol strong = false ∨ (acq && s.replaying g.ctx) = true →
      sends (.mem pa) = asks (Req.mk' s.nextId g t iss (loadKind pol) pa va n [] (some id) 0)) ∧
    (∀ dev x,
      (s.l1Serves g t.lane (podKey dev x) x n pol strong = true →
        sends (.pod dev x) = s.feed g.gid t.lane id 0 (s.l1Bytes g.pcore (podKey dev x) n) 0 va) ∧
      (s.l1Serves g t.lane (podKey dev x) x n pol strong = false → sends (.pod dev x) =
        asks { Req.mk' s.nextId g t iss (loadKind pol) (podKey dev x) x n [] (some id) 0 with dev := some dev })) ∧
    (∀ x, sends (.ft x) = asks { Req.mk' s.nextId g t iss (loadKind pol) 0 x n [] (some id) 0 with ft := true }))

/-- The last part of a load gives its result the loaded bytes as register writes, and touches nothing else (spec/02_encoding.md R40, spec/06_memory.md R196). -/
def Obligations.ResultArrival : Prop :=
  ∀ (s : State) (t : Thread) (gid lane : Nat) (r : Result) (d : BitVec 6) (bs : List Byte) (e : BitVec 5) (x : Nat),
    s.thread? gid lane = some t → (t.outst.find? fun y => y.id = r.id) = some r → r.need = 1 → r.parts = [] → r.acq = false →
    (r.rem = true → t.stepped = false) → firstG r.dests = some d →
    let v := { t with
      outst := t.outst.map fun y => if y.id = r.id then
        { r with parts := [(0, bs)], need := 0, flags := r.flags ||| e, writes := loadWrites d bs } else y,
      hold := if r.rem then false else t.hold }
    let u := s.feed gid lane r.id 0 bs e x
    u.thread? gid lane = some v ∧ (∀ k l, k ≠ gid ∨ l ≠ lane → u.thread? k l = s.thread? k l) ∧
    u.mem = s.mem ∧ u.l1 = s.l1 ∧ u.reqs = s.reqs ∧ u.dir = s.dir

/-- A known result is written to its registers and flags; with the last one a thread in SWITCH goes on, parks or exits (spec/02_encoding.md R40, spec/05_group.md R152). -/
def Obligations.ResultReturn : Prop :=
  ∀ (s : State) (t : Thread) (gid lane : Nat) (r : Result),
    s.thread? gid lane = some t → (t.outst.find? fun y => y.id = r.id && decide (y.need = 0)) = some r →
    let i : Instr := .variableResultReturn gid lane r.id
    let w := { t with regs := t.regs.writes r.writes, fpstat := t.fpstat ||| r.flags.setWidth 32,
                      outst := t.outst.filter fun y => y.id ≠ r.id }
    let v := if t.coll = true ∧ w.outst = [] then { w with pend := [], coll := false } else w
    (t.st ≠ .switch ∨ v.outst ≠ [] ∨ t.wait = some .fence → exec i s = .next (s.updT gid lane fun y => y.land r) ∧
      (s.updT gid lane fun y => y.land r).thread? gid lane = some v) ∧
    (t.st = .switch → v.outst = [] → t.wait ≠ some .fence → t.exiting = false → (∀ b ∈ s.subs, b.collecting = true → t.inMask b.gid b.lanes = false) →
      ∃ u, exec i s = .next u ∧ u.thread? gid lane = some { v with st := .ready, pend := [] } ∧ u.mem = s.mem)

/-- st and stg address through their handle and write the scratchpad or B-store, their own words, or send requests. When the L1 may apply a store at once, and the mark with which a release goes to its home, are the model's choices, log entries 26 and 30 (spec/06_memory.md R170, spec/06_memory.md R174, spec/06_memory.md R176, spec/06_memory.md R196, spec/06_memory.md R198, spec/06_memory.md R199, spec/07_consistency.md R211). -/
def Obligations.StoreWords : Prop :=
  ∀ (s : State) (iss : Issue) (t : Thread), s.Solo iss t →
    ∀ (cs : CS) (d a : BitVec 6) (h : BitVec 5) (z : BitVec 3) (p o : BitVec 2),
    let g := s.actGroup iss t
    let n := szBytes z
    let bs := storeBytes t d n
    let kind : ReqKind := if p = 3 then .ownStore else .write (decide (p = 0))
    let rel := s.relAfter g.gid t.lane (decide (o = 2))
    let stores := fun (i : Instr) (off : Int) =>
      let r := s.place g (rdH t h) off bs.length 1 p.toNat .write
      let u := r.2
      let va := heBase (rdH t h).ent + off.toNat
      let asks := fun (k : Req) => exec i s = .next { u with nextId := u.nextId + 1, reqs := u.reqs ++ [k] }
      match r.1 with
      | .bad c x acc k =>
        (c = 0x31 → exec i s = .next (u.updT g.gid t.lane fun y => { y with podErr := y.podErr ++ [⟨c, x, iss.word, iss.pkt, iss.slot⟩] })) ∧
        (c ≠ 0x31 → exec i s = .next (u.trapLane ⟨t.lane, c, x, acc, k⟩))
      | .ok (.scr fid x) => exec i s = .next (u.scrWrite fid x bs)
      | .ok (.bst fid x) => exec i s = .next (u.bstWrite fid x bs)
      | .ok (.mem pa) => bs.length ≤ 8 → bs ≠ [] →
          if !rel && u.ownsAll g pa va bs.length && !u.mirrored pa then exec i s = .next (u.ownWrite g.pcore g.ctx pa bs)
          else asks { Req.mk' u.nextId g t iss kind pa va bs.length bs none 0 with rel }
      | .ok (.pod dev x) => bs.length ≤ 8 → bs ≠ [] →
          asks { Req.mk' u.nextId g t iss kind (podKey dev x) x bs.length bs none 0 with dev := some dev, rel }
      | .ok (.ft x) => bs.length ≤ 8 → bs ≠ [] →
          let v := (u.keepXfer iss t.lane iss.restartSlot).updT iss.gid t.lane fun y => { y with hold := true }
          exec i s = .next { v with nextId := v.nextId + 1, reqs := v.reqs ++
            [{ Req.mk' v.nextId g t iss kind 0 x bs.length bs none 0 with ft := true, rel }] }
    stores (.st cs d a h z p o) ((rd t a).toNat + dispOf iss) ∧
    stores (.stg cs d a h z p o) ((rd t a).toNat + t.lane * n + dispOf iss)

/-- Every atomic acts at once on a scratchpad and is carried to its home as one request elsewhere, its old value outstanding. The mark with which a release goes to its home is the model's choice, log entry 30 (spec/06_memory.md R192, spec/06_memory.md R193, spec/07_consistency.md R211, spec/07_consistency.md R212). -/
def Obligations.AtomicWords : Prop :=
  ∀ (s : State) (iss : Issue) (t : Thread), s.Solo iss t →
    ∀ (cs : CS) (d a b : BitVec 6) (o : BitVec 2),
    let g := s.actGroup iss t
    let h := s.fatPtr g t a
    let id := t.nextRes
    let acq := decide (o.toNat = 1) || decide (o.toNat = 3)
    let atom := fun (i : Instr) (op : RmwOp) (v c : W64) =>
      let n := rmwBytes op
      let r := s.place g h (rd t a).toNat n 3 2 .write
      let va := heBase h.ent + (rd t a).toNat
      let rel := r.2.relAfter g.gid t.lane (decide (2 ≤ o.toNat))
      let owes := fun (q : Place) =>
        (if acq || q.pends then (r.2.keepXfer iss t.lane iss.restartSlot).updT iss.gid t.lane fun y => { y with hold := true } else r.2).updT
          g.gid t.lane fun y => y.await { pendingLoad id d n 1 acq q.remote with atom := true }
      (∀ e x acc k, r.1 = .bad e x acc k → exec i s = .next (r.2.trapLane ⟨t.lane, e, x, acc, k⟩)) ∧
      (∀ fid x, r.1 = .ok (.scr fid x) →
        let u := owes (.scr fid x)
        let lg := u.logged g.gid t.lane 1 (BitVec.ofNat 64 va) (logVal (u.scrRead fid x n)) []
        let old := bytesOf n lg.1.toNat
        let w := rmwApply op (natOf old) (v.toNat % 2 ^ (8 * n)) (c.toNat % 2 ^ (8 * n))
        exec i s = .next ((lg.2.2.scrWrite fid x (bytesOf n w.bits)).feed g.gid t.lane id 0 old w.exc va)) ∧
      (∀ pa, r.1 = .ok (.mem pa) →
        let u := owes (.mem pa)
        exec i s = .next { u with nextId := u.nextId + 1,
                                  reqs := u.reqs ++ [{ Req.mk' u.nextId g t iss (.rmw op v c) pa va n [] (some id) 0 with rel }] }) ∧
      (∀ dev x, r.1 = .ok (.pod dev x) →
        let u := owes (.pod dev x)
        exec i s = .next { u with nextId := u.nextId + 1, reqs := u.reqs ++
          [{ Req.mk' u.nextId g t iss (.rmw op v c) (podKey dev x) x n [] (some id) 0 with dev := some dev, rel }] }) ∧
      (∀ x, r.1 = .ok (.ft x) →
        let u := owes (.ft x)
        exec i s = .next { u with nextId := u.nextId + 1, reqs := u.reqs ++
          [{ Req.mk' u.nextId g t iss (.rmw op v c) 0 x n [] (some id) 0 with ft := true, rel }] })
    atom (.atomAddN32 cs d a b o) (RmwOp.add 32) ((rd t b).setWidth 64) 0 ∧
    atom (.atomAndB32 cs d a b o) (RmwOp.andB 32) ((rd t b).setWidth 64) 0 ∧
    atom (.atomOrB32 cs d a b o) (RmwOp.orB 32) ((rd t b).setWidth 64) 0 ∧
    atom (.atomXorB32 cs d a b o) (RmwOp.xorB 32) ((rd t b).setWidth 64) 0 ∧
    atom (.atomMinI32 cs d a b o) (RmwOp.minI 32) ((rd t b).setWidth 64) 0 ∧
    atom (.atomMaxI32 cs d a b o) (RmwOp.maxI 32) ((rd t b).setWidth 64) 0 ∧
    atom (.atomMinN32 cs d a b o) (RmwOp.minN 32) ((rd t b).setWidth 64) 0 ∧
    atom (.atomMaxN32 cs d a b o) (RmwOp.maxN 32) ((rd t b).setWidth 64) 0 ∧
    atom (.atomXchgB32 cs d a b o) (RmwOp.xchg 32) ((rd t b).setWidth 64) 0 ∧
    atom (.atomAddF32 cs d a b o) RmwOp.addF32 ((rd t b).setWidth 64) 0 ∧
    atom (.atomMinF32 cs d a b o) RmwOp.minF32 ((rd t b).setWidth 64) 0 ∧
    atom (.atomMaxF32 cs d a b o) RmwOp.maxF32 ((rd t b).setWidth 64) 0 ∧
    atom (.atomAddF16x2 cs d a b o) RmwOp.addF16x2 ((rd t b).setWidth 64) 0 ∧
    atom (.atomAddBf16x2 cs d a b o) RmwOp.addBf16x2 ((rd t b).setWidth 64) 0 ∧
    atom (.atomAddN64 cs d a b o) (RmwOp.add 64) (rd2 t b) 0 ∧
    atom (.atomAndB64 cs d a b o) (RmwOp.andB 64) (rd2 t b) 0 ∧
    atom (.atomOrB64 cs d a b o) (RmwOp.orB 64) (rd2 t b) 0 ∧
    atom (.atomXorB64 cs d a b o) (RmwOp.xorB 64) (rd2 t b) 0 ∧
    atom (.atomMinI64 cs d a b o) (RmwOp.minI 64) (rd2 t b) 0 ∧
    atom (.atomMaxI64 cs d a b o) (RmwOp.maxI 64) (rd2 t b) 0 ∧
    atom (.atomMinN64 cs d a b o) (RmwOp.minN 64) (rd2 t b) 0 ∧
    atom (.atomMaxN64 cs d a b o) (RmwOp.maxN 64) (rd2 t b) 0 ∧
    atom (.atomXchgB64 cs d a b o) (RmwOp.xchg 64) (rd2 t b) 0 ∧
    atom (.atomAddF64 cs d a b o) RmwOp.addF64 (rd2 t b) 0 ∧
    atom (.atomMinF64 cs d a b o) RmwOp.minF64 (rd2 t b) 0 ∧
    atom (.atomMaxF64 cs d a b o) RmwOp.maxF64 (rd2 t b) 0 ∧
    atom (.atomCasB32 cs d a b o) (.cas 32) ((rd t b).setWidth 64) ((rd t (b + 1)).setWidth 64) ∧
    atom (.atomCasB64 cs d a b o) (.cas 64) (rd2 t b) (rd2 t (b + 2))

/-- Each read-modify-write computes the value that R193 gives from the prior value and its operands (spec/06_memory.md R193). -/
def Obligations.AtomicResults : Prop :=
  (∀ (w : Nat) (x y z : BitVec w),
    let is := fun (op : RmwOp) (v : BitVec w) => rmwApply op x.toNat y.toNat z.toNat = ⟨v.toNat, 0⟩
    is (.add w) (x + y) ∧ is (.andB w) (x &&& y) ∧ is (.orB w) (x ||| y) ∧ is (.xorB w) (x ^^^ y) ∧
    is (.minI w) (if y.toInt < x.toInt then y else x) ∧ is (.maxI w) (if x.toInt < y.toInt then y else x) ∧
    is (.minN w) (if y.toNat < x.toNat then y else x) ∧ is (.maxN w) (if x.toNat < y.toNat then y else x) ∧
    is (.xchg w) y ∧ is (.cas w) (if x = y then z else x)) ∧
  (∀ x y z : Nat,
    rmwApply .addF32 x y z = redNode .add f32 x y ∧ rmwApply .minF32 x y z = redNode .min f32 x y ∧
    rmwApply .maxF32 x y z = redNode .max f32 x y ∧ rmwApply .addF64 x y z = redNode .add f64 x y ∧
    rmwApply .minF64 x y z = redNode .min f64 x y ∧ rmwApply .maxF64 x y z = redNode .max f64 x y) ∧
  (∀ lo hi lo' hi' z : Nat, lo < 2 ^ 16 → hi < 2 ^ 16 → lo' < 2 ^ 16 → hi' < 2 ^ 16 →
    let two := fun (op : RmwOp) (f : Fmt) => rmwApply op (lo + 2 ^ 16 * hi) (lo' + 2 ^ 16 * hi') z =
      ⟨(redNode .add f lo lo').bits + 2 ^ 16 * (redNode .add f hi hi').bits, (redNode .add f lo lo').exc ||| (redNode .add f hi hi').exc⟩
    two .addF16x2 f16 ∧ two .addBf16x2 bf16)

/-- A scratchpad write stores its bytes and changes no byte outside them, no other flock and no memory (spec/06_memory.md R196, spec/09_barrier.md R254). -/
def Obligations.ScratchpadFrame : Prop :=
  ∀ (s : State) (f : Flock) (off : Nat) (bs : List Byte), s.flock? f.fid = some f → f.waiters = [] → s.mons = [] →
    (∀ x ∈ s.flocks, Memory.wf x.scr = true) →
    ∃ k, (s.scrWrite f.fid off bs).flock? f.fid = some k ∧
      (∀ a, a < off ∨ off + bs.length ≤ a → k.scrByte a = f.scrByte a) ∧
      (∀ i, i < bs.length → k.scrByte (off + i) = (bs[i]?).getD 0) ∧
      k = { f with scr := k.scr } ∧
      (∀ x, x ≠ f.fid → (s.scrWrite f.fid off bs).flock? x = s.flock? x) ∧
      (s.scrWrite f.fid off bs).mem = s.mem

/-- fence, pfch, mwait and the mirror window words have the effects of R189 to R191, R195, R200 and R201. Where the order of an mwait's or an mwsub's checks is not the spec's, and with which address a page inside a window faults, it is the model's choice, log entry 73 (spec/06_memory.md R190, spec/06_memory.md R191, spec/06_memory.md R195, spec/06_memory.md R200, spec/06_memory.md R201). -/
def Obligations.MonitorWindowWords : Prop :=
  ∀ (s : State) (iss : Issue) (t : Thread), s.Solo iss t →
    ∀ (cs : CS) (d a b : BitVec 6),
    let g := s.group iss.gid
    let k := s.actGroup iss t
    let h := s.fatPtr k t a
    let off : Nat := (rd t a).toNat
    let owes := fun (u : State) (gid : Nat) (v : W32) => u.updT gid t.lane fun y => y.await (Result.known y.nextRes [.g d v] 0 false)
    let waits := fun (i : Instr) (n : Nat) (v : W64) =>
      let va := heBase h.ent + off
      (∀ c x acc q u, s.place k h off n 0 2 .read = (.bad c x acc q, u) → exec i s = .next (u.trapLane ⟨t.lane, c, x, acc, q⟩)) ∧
      (∀ p u, s.place k h off n 0 2 .read = (.ok p, u) → heSpace h.ent = .bstore ∨ heSpace h.ent = .code →
        exec i s = .next (u.trapLane ⟨t.lane, 0x11, BitVec.ofNat 64 va, 1, 0⟩)) ∧
      (∀ pa u, s.place k h off n 0 2 .read = (.ok (.mem pa), u) → heSpace h.ent ≠ .bstore → heSpace h.ent ≠ .code →
        let w := { u with nextId := u.nextId + 2, reqs := u.reqs ++ [Req.mk' (u.nextId + 1) k t iss (.mwait v) pa va n [] none 0] }
        exec i s = .next (w.updT k.gid t.lane fun y => y.block (.mwait u.nextId d) iss [.g d])) ∧
      ∀ fid x u, s.place k h off n 0 2 .read = (.ok (.scr fid x), u) → heSpace h.ent ≠ .bstore → heSpace h.ent ≠ .code →
        let w := { u with nextId := u.nextId + 2 }
        (natOf (u.scrRead fid x n) = v.toNat % 2 ^ (8 * n) →
          exec i s = .next ((w.updT k.gid t.lane fun y => y.block (.mwait u.nextId d) iss [.g d]).arm ⟨u.nextId, some fid, x, n, k.gid, t.lane⟩)) ∧
        (natOf (u.scrRead fid x n) ≠ v.toNat % 2 ^ (8 * n) →
          let lg := w.logged k.gid t.lane 2 (BitVec.ofNat 64 (heBase h.ent + off)) 1 []
          exec i s = .next ((owes lg.2.2 k.gid (lg.1.setWidth 32)).acquireCore k.pcore))
    let badId := fun (i : Instr) => 7 < off → exec i s = .next (s.trapLane ⟨t.lane, 0x13, BitVec.ofNat 64 off, 0, 0⟩)
    (t.outst = [] → (∀ r ∈ s.reqs, r.ofLanes t.gid (laneBit t.lane) = false) →
      exec (.fence cs) s = .next ((s.mapLanes iss.gid iss.lanes fun y => { y with pend := [] }).acquireCore g.pcore)) ∧
    (t.outst ≠ [] ∨ (∃ r ∈ s.reqs, r.ofLanes t.gid (laneBit t.lane) = true) → exec (.fence cs) s = .next (s.mapLanes iss.gid iss.lanes fun y =>
      { y with st := .switch, wait := some .fence, wword := iss.word, pkt := iss.pkt, slot := iss.restartSlot })) ∧
    exec (.pfch cs a b) s = .next s ∧
    waits (.mwaitB32 cs d a b) 4 ((rd t b).setWidth 64) ∧
    waits (.mwaitB64 cs d a b) 8 (rd2 t b) ∧
    badId (.mwend cs a) ∧ badId (.mwseq cs d a) ∧ badId (.mwsync cs a b) ∧
    (off ≤ 7 → ∀ w, s.window? g.fid off = some w →
      (w.now = .free → exec (.mwend cs a) s = .next s) ∧
      (w.now ≠ .free → exec (.mwend cs a) s = .next ((s.updFlock g.fid fun f => f.setWin off Window.reset).wakeSyncs g.fid off)) ∧
      exec (.mwseq cs d a) s = .next (owes s iss.gid (if w.now = .free then 0
        else w.applied.setWidth 32 ||| (if w.st = .detached then 0x80000000 else 0))) ∧
      (w.synced ((rd t b).setWidth 31) = false →
        exec (.mwsync cs a b) s = .next (s.updT g.gid t.lane fun y => y.block (.mwsync off ((rd t b).setWidth 31)) iss [])) ∧
      (w.synced ((rd t b).setWidth 31) = true → exec (.mwsync cs a b) s =
        .next ((s.logged g.gid t.lane 2 (BitVec.ofNat 64 off) (((rd t b).setWidth 31).setWidth 64) []).2.2.acquireCore g.pcore))) ∧
    (let len := (rd t (b + 1)).toNat
     let scr := (rd t b).toNat
     let va := heBase h.ent + off
     ∀ p1 p2 u1 u2 f gr,
      s.place k h off 1 0 2 .read = (.ok p1, u1) → u1.place k h ((off : Int) + len - 1) 1 0 2 .read = (.ok p2, u2) →
      (heSpace h.ent = .global ∨ heSpace h.ent = .near) → len % 512 = 0 → 512 ≤ len → len ≤ 2 ^ 20 → va % 512 = 0 → scr % 512 = 0 →
      u2.flock? k.fid = some f → scr + len ≤ f.scrLen → ∀ bad u3, u2.touchPages k.pcore k.ctx va len = (bad, u3) →
      (∀ q c fk, bad = some (q, c, fk) → exec (.mwsub cs d a b) s = .next (u3.trapLane ⟨t.lane, c, BitVec.ofNat 64 q, 1, fk⟩)) ∧
      (bad = none → u3.grainsOf k.ctx va len = some gr →
      let slot := (List.range 8).find? fun i => match f.wins[i]? with | some w => decide (w.st = .free) | none => false
      (slot = none → exec (.mwsub cs d a b) s = .next (owes u3 k.gid 0xFFFFFFFF)) ∧
      (∀ i, slot = some i → ∃ u, exec (.mwsub cs d a b) s = .next u ∧
        u.flocks = (u3.updFlock f.fid fun f => f.setWin i
          { Window.reset with st := .loading, scr, va, len, ret := some (k.gid, t.lane, t.nextRes) }).flocks ∧
        u.threads = (u3.updT k.gid t.lane fun y => y.await (pendingLoad t.nextRes d 4 1 false false)).threads ∧
        (u.mirrors.any fun m => decide (m.ctx = k.ctx ∧ m.va = va ∧ m.grains.length = gr.length)) = true)))

/-- The tag words act on the flock's table, and the handle words on the handle registers and the context's table (spec/06_memory.md R169, spec/06_memory.md R172, spec/06_memory.md R202, spec/06_memory.md R203). -/
def Obligations.TagHandleWords : Prop :=
  ∀ (s : State) (iss : Issue) (t : Thread), s.Solo iss t →
    ∀ (cs : CS) (d a b k : BitVec 6) (h : BitVec 5),
    let g := s.group iss.gid
    let x := s.actGroup iss t
    let trap := fun (i : Instr) (c : Byte) (v : W64) => exec i s = .next (s.trapLane ⟨t.lane, c, v, 0, 0⟩)
    let owes := fun (ws : List Wr) => Host.Outcome.next (s.updT iss.gid t.lane fun y => y.await (Result.known y.nextRes ws 0 false))
    let tags := match s.flock? g.fid with | some f => f.tags | none => []
    let slot := (rd t b).toNat
    let idx := rd t a
    let hr := rdH t h
    exec (.tlook cs d a) s = owes [.g d (match tags.find? fun y => y.2 = rd2 t a with | some y => BitVec.ofNat 32 y.1 | none => 0xFFFFFFFF)] ∧
    (255 < slot → trap (.tset cs a b) 0x13 (BitVec.ofNat 64 slot) ∧ trap (.tclr cs b) 0x13 (BitVec.ofNat 64 slot)) ∧
    (slot ≤ 255 →
      exec (.tset cs a b) s = .next (s.updFlock g.fid fun f => { f with tags := setTag f.tags slot (rd2 t a) }) ∧
      exec (.tclr cs b) s = .next (s.updFlock g.fid fun f => { f with tags := f.tags.filter fun y => y.1 ≠ slot })) ∧
    (4095 < idx.toNat → trap (.hsel cs h a) 0x12 (idx.setWidth 64)) ∧
    (idx.toNat ≤ 4095 → exec (.hsel cs h a) s = .next ((s.touchEntry x.ctx idx.toNat).updT iss.gid t.lane fun y => y.await
      (Result.known y.nextRes [.h h ⟨true, idx.setWidth 12, (s.tableEntry x.ctx idx.toNat).getD 0, false⟩] 0 false))) ∧
    (hr.loaded = false → trap (.hget cs d h k) 0x12 (hr.idx.setWidth 64)) ∧
    (hr.loaded = true → exec (.hget cs d h k) s = owes (wr2 d (if k = 0 then BitVec.ofNat 64 (heBase hr.ent)
      else if k = 1 then hr.ent.extractLsb' 64 64 else heGen hr.ent ++ hr.ent.extractLsb' 128 32))) ∧
    (g.priv = true →
      (4095 < idx.toNat → trap (.hnew cs a b) 0x12 (idx.setWidth 64) ∧ trap (.hrev cs a) 0x12 (idx.setWidth 64)) ∧
      (idx.toNat ≤ 4095 → ∀ old, s.tableEntry x.ctx idx.toNat = some old →
        (hnewRefused (octet t b) = true → trap (.hnew cs a b) 0x12 (idx.setWidth 64)) ∧
        (∀ u, hnewRefused (octet t b) = false →
          s.putEntry x.ctx idx.toNat (heWithGen (octet t b) (if heValid old then heGen old + 1 else heGen old)) = some u →
          exec (.hnew cs a b) s = .next u) ∧
        (∀ u, s.putEntry x.ctx idx.toNat (heWithGen (heWithValid old false) (heGen old + 1)) = some u →
          exec (.hrev cs a) s = .next u)))

/-- A home serves, recalls for, or refuses the request that it takes, as R181 to R183 and R193 give (spec/06_memory.md R181, spec/06_memory.md R182, spec/06_memory.md R193). -/
def Obligations.HomeServesRequests : Prop :=
  ∀ (s : State) (r : Req), s.req? r.id = some r → s.mayTake r = true → r.pa + r.n ≤ hostBase → r.outside = false →
    s.grainHolds r = false → s.replays = [] → s.recs = [] → s.mirrors = [] → s.mons = [] → s.plat.hostUp = true → 0 < r.n → r.n ≤ 8 →
    let served := fun (i : Instr) (m : Memory) => ∃ u, exec i s = .next u ∧ u.mem = m ∧ ∀ x ∈ u.reqs, x.id ≠ r.id
    let alone := ∀ w ∈ r.words, s.midSwitch w = false ∧ (s.dirOf w = .clean [] ∨ s.dirOf w = .clean [r.src])
    let busy := ∃ w ∈ r.words, s.busyFor r.id w = true ∨ s.midSwitch w = true
    let first := fun (c : Agent) (w : Nat) => r.words = [w] ∧ s.midSwitch w = false ∧ s.dirOf w = .owned c ∧ c ≠ r.src
    let refused := fun (i : Instr) => ∃ u x, exec i s = .next u ∧ u.req? r.id = some x ∧ x.refused = true ∧
      x.refusals = r.refusals + 1 ∧ x.persistent = (r.persistent || decide (16 ≤ r.refusals + 1)) ∧ u.mem = s.mem ∧ u.dir = s.dir
    let recalls := fun (i : Instr) (c : Agent) (w : Nat) => ∃ u, exec i s = .next u ∧ u.dirOf w = .recall c r.id ∧
      u.msgs = s.msgs ++ [.recall c w] ∧ u.mem = s.mem ∧ u.reqs = s.reqs
    (∀ si, r.kind = .write si →
      (busy → refused (.homeWriteThrough r.id)) ∧
      (alone → served (.homeWriteThrough r.id) (memWrite s.mem r.pa r.data)) ∧
      (∀ c w, first c w → recalls (.homeWriteThrough r.id) c w)) ∧
    (∀ op b c, r.kind = .rmw op b c → r.n = rmwBytes op →
      (busy → refused (.atomicService r.id)) ∧
      (alone → served (.atomicService r.id) (memWrite s.mem r.pa (bytesOf r.n
        (rmwApply op (natOf (memRead s.mem r.pa r.n)) (b.toNat % 2 ^ (8 * r.n)) (c.toNat % 2 ^ (8 * r.n))).bits))) ∧
      (∀ k w, first k w → recalls (.atomicService r.id) k w)) ∧
    (∀ si, r.kind = .read si →
      (busy → refused (.homeRead r.id)) ∧ (alone → served (.homeRead r.id) s.mem) ∧
      (∀ c w, si = true → first c w → recalls (.homeRead r.id) c w)) ∧
    (r.kind = .wi →
      (busy → refused (.homeWiLoad r.id)) ∧ (alone → served (.homeWiLoad r.id) s.mem) ∧
      (∀ c w, first c w → recalls (.homeWiLoad r.id) c w)) ∧
    (r.kind = .ownLoad ∨ r.kind = .ownStore →
      (busy → refused (.homeOwnRequest r.id)) ∧ (alone → served (.homeOwnRequest r.id) s.mem) ∧
      (∀ c w, first c w → recalls (.homeOwnRequest r.id) c w))

/-- The barrier, seam, spool and gate words have the effects of R256 to R268 on their objects and threads. What a stored object means to its next operation, and the checks that the spec leaves open, are the model's choices, log entries 39 and 74 (spec/09_barrier.md R256, spec/09_barrier.md R257, spec/09_barrier.md R258, spec/09_barrier.md R259, spec/09_barrier.md R261, spec/09_barrier.md R262, spec/09_barrier.md R264, spec/09_barrier.md R268, spec/09_barrier.md R254). -/
def Obligations.BarrierSpoolWords : Prop :=
  (∀ (s : State) (iss : Issue) (t : Thread), s.Solo iss t →
    ∀ (cs : CS) (a b r k : BitVec 6),
    let g := s.group iss.gid
    let off := (rd t b).toNat
    let owes := fun (u : State) (ws : List Wr) => u.updT g.gid t.lane fun y => y.await (Result.known y.nextRes ws 0 false)
    let h := s.fatPtr g t b
    (∀ fid p, s.objPlace g h off 16 = .ok (fid, p) →
      let x0 := s.bar fid p
      let v := if x0.expect ≠ 0 ∧ x0.pend = 0 ∧ x0.sect ≤ 0 then s.phaseEnd fid p x0 else s
      let x := v.bar fid p
      let tok := v.token fid p x.phase
      let n := rd t r
      let arrives := fun (i : Instr) (sectors : Nat) => x.expect ≠ 0 → x.pend ≠ 0 →
        let y := { x with pend := x.pend - 1, sect := x.sect + sectors }
        (y.pend = 0 → y.sect ≤ 0 → exec i s = .next (owes (v.phaseEnd fid p y) [.g a tok])) ∧
        (y.pend ≠ 0 ∨ 0 < y.sect → exec i s = .next (owes (v.setBar fid p y) [.g a tok]))
      (n ≠ 0 → n.toNat ≤ 0xFFFFF → x.expect = 0 ∨ (v.waitersAt fid p = [] ∧ x.link = 0) →
        exec (.barInit cs b r) s = .next (v.setBar fid p ⟨x.link, 0, 0, n.toNat, n.toNat, 0⟩)) ∧
      arrives (.barChk cs a b) 0 ∧
      (n.toNat % 32 = 0 → x.sect + n.toNat / 32 ≤ 2 ^ 23 - 1 → arrives (.barOwe cs a b r) (n.toNat / 32)) ∧
      (let dist := (x.phase + 256 - n.toNat / 2 ^ 24) % 256
       x.expect ≠ 0 → v.staleToken fid p n dist = false → s.coverBarLane t b r = [] →
        (dist = 0 → exec (.barWait cs b r) s = .next ((v.addWaiter fid ⟨p, p, g.gid, t.lane⟩).updT g.gid t.lane fun y =>
          y.block (.bar fid p n) iss [])) ∧
        (dist ≠ 0 → exec (.barWait cs b r) s =
          .next ((v.logged g.gid t.lane 3 (n.setWidth 64) (n.setWidth 64) []).2.2.acquireCore g.pcore)) ∧
        (let over_ : Bool := match v.nextRec g t.lane with | some y => decide (y.kind = 3) | none => decide (dist ≠ 0)
         let l := v.logged g.gid t.lane (if over_ then 3 else 4) (n.setWidth 64) (if over_ then n.setWidth 64 else 0) []
         let u := owes l.2.2 [.g a (if over_ then 1 else 0)]
         exec (.barTry cs a b r) s = .next (if over_ then u.acquireCore g.pcore else u)))) ∧
    (∀ fid p, s.objPlace g h off 64 = .ok (fid, p) →
      let v := if (s.spool fid p).cap = 0 then s else s.settleSpool fid p
      let x := v.spool fid p
      let cap := (rd t r).toNat
      let np := (rd t (r + 1)).toNat
      let ring := (rd t (r + 2)).toNat
      let al := (rd t (r + 3)).toNat
      let i := (rd t r).toNat
      let e := rd2 t a
      let status : W64 := if x.allowOf i = 0 then 1 else if x.cap ≤ x.count then 2 else 0
      (∀ f, v.flock? fid = some f → 0 < cap → cap ≤ 4096 → 0 < np → np ≤ 32 → al ≤ 255 → ring % 8 = 0 → heBase h.ent ≤ ring →
        ring + 8 * cap ≤ heBase h.ent + heLen h.ent → ring + 8 * cap ≤ f.scrLen → v.waitersAt fid (p + 10) = [] →
        v.waitersAt fid (p + 16) = [] →
        exec (.sinit cs b r) s = .next (v.setSpool fid p ⟨cap, 0, 0, 0, np, 0, ring, List.replicate 32 al⟩)) ∧
      (x.cap ≠ 0 → i < x.nprod → e ≠ noEntry →
        (status = 0 → exec (.spush cs a b r) s = .next ((v.pushEntry fid p i e).settleSpool fid p)) ∧
        (status ≠ 0 → exec (.spush cs a b r) s = .next (((v.addWaiter fid ⟨p, p + 16, g.gid, t.lane⟩).updT g.gid t.lane fun y =>
          y.block (.spush fid p e i) iss []).settleSpool fid p)) ∧
        (let l := v.logged g.gid t.lane 4 (BitVec.ofNat 64 off) status []
         let u := owes l.2.2 [.g (r + 1) (l.1.setWidth 32)]
         exec (.spushTry cs a b r) s = .next ((if l.1 = 0 then u.pushEntry fid p i e else u).settleSpool fid p))) ∧
      (x.cap ≠ 0 → x.count = 0 →
        exec (.spop cs a b) s = .next (((v.addWaiter fid ⟨p, p + 10, g.gid, t.lane⟩).updT g.gid t.lane fun y =>
          y.block (.spop fid p a) iss [.g a, .g (a + 1)]).settleSpool fid p) ∧
        (let l := v.logged g.gid t.lane 4 (BitVec.ofNat 64 off) noEntry []
         exec (.spopTry cs a b) s = .next ((owes l.2.2 (wr2 a l.1)).settleSpool fid p))) ∧
      (x.cap ≠ 0 → x.count ≠ 0 →
        let l := (v.popEntry fid p).2.logged g.gid t.lane 4 (BitVec.ofNat 64 off) (v.popEntry fid p).1 []
        let u := ((owes l.2.2 (wr2 a l.1)).settleSpool fid p).acquireCore g.pcore
        exec (.spop cs a b) s = .next u ∧ exec (.spopTry cs a b) s = .next u) ∧
      (x.cap ≠ 0 → i < x.nprod → x.allowOf i + (rd t (r + 1)).toNat ≤ 255 → exec (.sallow cs b r) s =
        .next ((v.setSpool fid p { x with allow := x.allow.set i (x.allowOf i + (rd t (r + 1)).toNat) }).settleSpool fid p))) ∧
    (∀ x, s.seam? g.fid k.toNat = some x →
      exec (.smRd cs a k) s = .next (s.updT t.gid t.lane fun y => y.await (Result.known y.nextRes [.g a x.word] 0 false)) ∧
      (let n := (rd t r).toNat
       0 < n → n ≤ 1024 → n ≤ (s.liveOf g.fid).length → x.signers = [] →
        exec (.smInit cs k r) s = .next (s.setSeam g.fid k.toNat { x with need := n, cancel := false }))) ∧
    (∀ u, (u = match s.gate g.fid k.toNat with
        | .armed w => if w ≤ s.ptime then (s.setGate g.fid k.toNat (.fired w)).releaseGate g.fid k.toNat 0 else s
        | _ => s) →
      let v := rd2 t r
      (v = 0 → exec (.tgate cs k r) s = .next ((u.setGate g.fid k.toNat .idle).releaseGate g.fid k.toNat 2)) ∧
      (u.ptime < v → exec (.tgate cs k r) s = .next (u.setGate g.fid k.toNat (.armed v))) ∧
      (v ≠ 0 → v ≤ u.ptime → exec (.tgate cs k r) s = .next ((u.setGate g.fid k.toNat (.fired v)).releaseGate g.fid k.toNat 0)) ∧
      (∀ v, u.gate g.fid k.toNat = .armed v →
        exec (.twait cs a k) s = .next (u.updT g.gid t.lane fun y => y.block (.gate k.toNat a) iss [.g a])) ∧
      (∀ v, (u.gate g.fid k.toNat = .idle ∧ v = 2) ∨ ((∃ w, u.gate g.fid k.toNat = .fired w) ∧ v = 1) →
        let l := u.logged g.gid t.lane 5 (BitVec.ofNat 64 k.toNat) v []
        exec (.twait cs a k) s = .next (owes l.2.2 [.g a (l.1.setWidth 32)])))) ∧
  (∀ (s : State) (fid n : Nat) (v : W64), s.gate fid n = .armed v →
    (v ≤ s.ptime → exec (.gateFire fid n) s = .next ((s.setGate fid n (.fired v)).releaseGate fid n 0)) ∧
    (s.ptime < v → exec (.gateFire fid n) s = .next s))

/-- Each engine command is checked as R272 gives and then queues one operation that its group counts, or traps with the first failure. Which offset a failure reports, and the order of checks that the spec does not order, are the model's choices, log entries 33 and 74 (spec/10_copy.md R272, spec/10_copy.md R273, spec/10_copy.md R274, spec/10_copy.md R278, spec/10_copy.md R279, spec/10_copy.md R280, spec/10_copy.md R281, spec/10_copy.md R282, spec/10_copy.md R287). -/
def Obligations.EngineCommands : Prop :=
  ∀ (s : State) (iss : Issue) (t : Thread), s.Solo iss t →
    ∀ (cs : CS) (a b r : BitVec 6) (m : BitVec 2),
    let g := s.group iss.gid
    let raw := octNat t a
    let bar := s.barRegs g t r
    let d := CD.ofNat raw 0 0
    let big := bitsOf raw 89 88 = 2
    let d3 := CD.ofNat raw (if big then (rd t b).toInt else 0) (if big then (rd t (b + 1)).toInt else 0)
    let sh := s.engHandle g d.sh
    let dh := s.engHandle g d.dh
    let bo := s.copyOp iss g t.lane d (some .copy) (.bld d) bar
    let w := (rd t b).toNat
    let off := (rd t a).toNat
    let fp := s.fatPtr g t a
    let tot := d.row * d.rows
    let first := d.row * (d.start / d.row)
    let ix := bitsOf raw 191 160
    let ih := s.engHandle g (ix % 4096)
    let run := fun (i : Instr) (bad : Option (Byte × W64)) (u : State) =>
      (∀ c x, bad = some (c, x) → exec i s = .next (s.trapLane ⟨t.lane, c, x, 0, 0⟩)) ∧ (bad = none → exec i s = .next u)
    let put := fun (o : Op) => s.issueOp g o
    let cpm := d.reason raw 1 false false
    let pow := (List.range 13).any fun k => d.row = 2 ^ k
    let gath : Nat := if d.dims ≠ 0 then 1 else if d.codec ≠ 0 then 2 else if !pow ∨ d.rows = 0 ∨ tot ≤ d.start then 3
      else if raw.testBit 91 ∨ bitsOf raw 127 120 ≠ 0 ∨ 1 < d.planes ∨ 4096 ≤ ix ∨ d.dstr ≠ 0 then 4 else 0
    let coll := fun (i : Instr) (op : CollOp) =>
      let roff := (rd t (a + 1)).toNat
      let hs := (rd t (a + 2)).toNat
      let count := (rd t (a + 3)).toNat
      let len : Nat := count * op.bytes
      let ch := s.engHandle g (hs % 4096)
      let eh := s.engHandle g (hs / 4096 % 4096)
      run i (firstFail [failIf (count = 0 ∨ 2 ^ 24 ≤ count ∨ w / 65536 = 0) 0x28 3, failIf (2 ^ 25 ≤ hs) 0x28 4,
          failIf (w / 65536 ≤ w % 65536) 0x13 (w % 65536), s.chkUsable g ch, s.chkUsable g eh, chkSpace ch (engSpace ch) 0,
          chkSpace eh (engSpace eh) 1, s.chkSpan g ch (off, (off : Int) + len), s.chkSpan g eh (roff, (roff : Int) + len),
          chkBar (hs.testBit 24) (decide ((heBase eh.ent + roff) % 32 = 0) && decide (len % 32 = 0)) bar])
        (put { Op.fresh s.nextId (some .coll) (.coll ⟨op, m, off, roff, count, w % 65536, w / 65536, rd t (b + 1)⟩) g t.lane iss with
          sh := ch, dh := eh, bar := barOf (hs.testBit 24) bar, secs := len / 32 })
    run (.cpy cs a b r) (s.copyChecks g d3 raw 2 true false bar) (put { s.copyOp iss g t.lane d3 (some .copy) (.copy d3) bar with at_ := none }) ∧
    run (.cpyAt cs a b r) (s.copyChecks g d raw 1 false false bar)
      (put { s.copyOp iss g t.lane d (some .copy) (.copy d) bar with at_ := some (rd2 t b) }) ∧
    run (.bld cs a r) (s.copyChecks g d raw 1 true true bar)
      ({ s.issueOp g bo with tileOrder := (s.issueOp g bo).tileOrder ++ [bo.id] }.setSlots g.fid bo.fills fun x =>
        { x with st := .filling, gen := x.gen + 1 }) ∧
    run (.cpm cs a b r)
      (firstFail [failIf (cpm ≠ 0) 0x28 cpm, failIf (16384 < d.total) 0x28 3, failIf (255 < w ∨ 65535 < (rd t r).toNat) 0x28 4,
        s.chkUsable g sh, chkSpace sh (engSpace sh) 0, s.chkSpan g sh d.srcSpan,
        failIf (w = 0 ∨ 2 ^ (s.herdFlocks g).length ≤ w) 0x25 w])
      (put { Op.fresh s.nextId (some .copy) (.cpm d (BitVec.ofNat 8 w) (BitVec.ofNat 16 (rd t r).toNat)) g t.lane iss with
        sh := sh, off := d.start, soffDone := d.start }) ∧
    run (.drn cs a b r)
      (firstFail [failIf (2 ^ 17 ≤ w) 0x28 4, s.chkUsable g fp, chkSpace fp (decide (heSpace fp.ent = .scratch)) 1,
        s.chkSpan g fp (off, (off : Int) + 1), chkBar (w.testBit 16) (decide ((heBase fp.ent + off) % 32 = 0)) bar])
      (put { Op.fresh s.nextId (some .copy) (.drn off (BitVec.ofNat 16 w)) g t.lane iss with dh := fp, bar := barOf (w.testBit 16) bar }) ∧
    run (.gath cs a r)
      (firstFail [failIf (gath ≠ 0) 0x28 gath, s.chkUsable g sh, s.chkUsable g dh, s.chkUsable g ih, chkSpace sh (engSpace sh) 0,
        chkSpace dh (engSpace dh) 1, chkSpace ih (engSpace ih) 0,
        s.chkSpan g ih (d.soff + d.idxBytes * (d.start / d.row), d.soff + d.idxBytes * d.rows),
        s.chkSpan g dh (d.doff + first, d.doff + tot),
        chkBar d.bar (decide ((heBase dh.ent + d.doff) % 32 = 0) && decide (d.row % 32 = 0)) bar])
      (put { Op.fresh s.nextId (some .gather) (.gath d ih) g t.lane iss with
        sh := sh, dh := dh, off := first, soffDone := first, bar := barOf d.bar bar, secs := tot / 32 - first / 32 }) ∧
    coll (.collBcast cs a b r m) .bcast ∧
    coll (.collRedAddF32 cs a b r m) .addF32 ∧
    coll (.collRedAddF64 cs a b r m) .addF64 ∧
    coll (.collRedAddI32 cs a b r m) .addI32 ∧
    coll (.collRedAddI64 cs a b r m) .addI64 ∧
    coll (.collRedMinF32 cs a b r m) .minF32 ∧
    coll (.collRedMaxF32 cs a b r m) .maxF32 ∧
    coll (.collRedMinF64 cs a b r m) .minF64 ∧
    coll (.collRedMaxF64 cs a b r m) .maxF64 ∧
    coll (.collRedMinI64 cs a b r m) .minI64 ∧
    coll (.collRedMaxI64 cs a b r m) .maxI64 ∧
    coll (.collRedMinN64 cs a b r m) .minN64 ∧
    coll (.collRedMaxN64 cs a b r m) .maxN64

/-- A covering word takes the oldest undelivered fault that it covers; without one waitc waits for its counter and chain starts its channel (spec/10_copy.md R275, spec/10_copy.md R276, spec/10_copy.md R277, spec/10_copy.md R286). -/
def Obligations.CoveringWords : Prop :=
  ∀ (s : State) (iss : Issue) (t : Thread), s.Solo iss t →
    ∀ (cs : CS) (a b r n : BitVec 6) (l : BitVec 2),
    let g := s.group iss.gid
    let c := Cls.ofBits l
    let covW := if c = Cls.tile && t.tileErr ≠ [] then [] else s.coveredBy (s.group t.gid) c n.toNat
    let takes := fun (i : Instr) (cov : List Op) => ∀ o, oldest (cov.filter Op.pending) = some o →
      let v := (s.restartOps cov).trapOp t.lane o
      exec i s = .next (match v.op? o.id with | some x => (v.markDelivered x).settleOp x | none => v)
    let ch := (rd t b).toNat
    let k := s.chan g.fid ch
    let h := s.fatPtr g t a
    let off := (rd t a).toNat
    takes (.barWait cs b r) (s.coverBarLane t b r) ∧ takes (.barTry cs a b r) (s.coverBarLane t b r) ∧
    takes (.waitc cs n l) covW ∧ takes (.chain cs a b) (s.coverChain t b) ∧
    (covW = [] → (c = Cls.tile → t.tileErr = []) →
      ((s.group iss.gid).counter c ≤ n.toNat → exec (.waitc cs n l) s = .next (s.acquireCore g.pcore)) ∧
      (n.toNat < (s.group iss.gid).counter c →
        exec (.waitc cs n l) s = .next (s.updT iss.gid t.lane fun y => y.block (.waitc c n.toNat) iss []))) ∧
    (3 < ch → exec (.chain cs a b) s = .next (s.trapLane ⟨t.lane, 0x28, 6, 0, 0⟩)) ∧
    (ch ≤ 3 →
      (k.st = .waiting → exec (.chain cs a b) s = .next (s.setChan g.fid ch
        { k with st := .walking, after := s.underWay g.gid (laneBit t.lane) })) ∧
      (k.st = .walking →
        let more := s.underWay g.gid (laneBit t.lane)
        let behind := fun (o : Op) => if o.fid = g.fid ∧ o.chan? = some ch then { o with after := o.after ++ more } else o
        exec (.chain cs a b) s = .next ({ s with ops := s.ops.map behind }.setChan g.fid ch
          { k with after := k.after ++ more })) ∧
      (k.st = .idle →
        firstFail [s.chkUsable g h, chkSpace h ([Space.global, .near, .scratch].contains (heSpace h.ent) && heRight h.ent 1) 0,
          failIf ((heBase h.ent + off) % 64 ≠ 0) 0x15 (heBase h.ent + off), s.chkSpan g h (off, (off : Int) + 64)] = none →
        exec (.chain cs a b) s = .next (s.setChan g.fid ch ⟨.walking, h, off, none, g.gid, t.lane, false, iss.word, iss.pkt, iss.slot,
          s.underWay g.gid (laneBit t.lane)⟩)))

/-- The engine's events move an operation through the states of R276 as its transfer goes on (spec/09_barrier.md R257, spec/10_copy.md R271, spec/10_copy.md R276, spec/10_copy.md R280, spec/10_copy.md R281, spec/10_copy.md R286, spec/10_copy.md R287, spec/08_page.md R244). -/
def Obligations.EngineEvents : Prop :=
  ∀ (s : State) (o : Op) (n fid ch : Nat), s.op? o.id = some o →
    let runs := (s.updOp o.id fun x => { x with st := .running }).registerAhead o
    let fill := fun (h : HoldSlot) => if h.op = o.id ∧ h.st = .filling then { h with st := .held } else h
    let keep := fun (h : HoldSlot) => !(decide (h.st = .held) && decide (h.mask = 0))
    let full := o.st = .running ∧ s.opTotal o ≤ o.off
    (∀ d, o.kind = .copy d → o.st = .queued → s.released o.after = true →
      (o.at_ = none → exec (.engineTake o.id) s = .next runs) ∧
      (∀ v, o.at_ = some v → v ≤ s.ptime →
        exec (.engineTake o.id) s = .next runs ∧ exec (.cpyAtStart o.id) s = .next runs) ∧
      (∀ v, o.at_ = some v → s.ptime < v → exec (.cpyAtStart o.id) s = .next s)) ∧
    (o.bursts = true → exec (.engineWriteBurst o.id n) s = .next (State.burst o.id (n + 1) n true s)) ∧
    (∀ d, (o.kind = .copy d ∨ o.kind = .bld d) → full → s.engBusy o = false →
      exec (.engineDone o.id) s = .next (s.finishOp o.id true).endOperandWaits) ∧
    (∀ f p ph, o.bar = some (f, p, ph) → o.st ≠ .done → 0 < min n (s.owed o) →
      exec (.barrierSectorCredit o.id n) s =
        .next ((s.updOp o.id fun x => { x with secs := x.secs - min n (s.owed o) }).creditBar f p (min n (s.owed o)) false)) ∧
    ((s.bounce.filter fun b => b.ctx = o.ctx).length < s.bounceRoom o.ctx →
      exec (.bounceStallEnd o.id) s = .next (s.updOp o.id fun x => { x with stalled := false })) ∧
    (o.st = .running → o.stalled = false → o.bursts = true → o.off < s.opTotal o → s.released o.after = true →
      ∀ u c q va, s.nextChunk o 512 = .bad u c q va → exec (.engineFault o.id c) s = .next (u.opFault o.id c q va)) ∧
    (∀ d m k, o.kind = .cpm d m k → full → exec (.cpmFillDone o.id) s =
      .next ({ s with holds := (s.holds.map fill).filter keep }.finishOp o.id true)) ∧
    (∀ a, o.kind = .coll a → full → s.engBusy o = false → exec (.collDeliveryDone o.id) s = .next (s.finishOp o.id true)) ∧
    exec (.chainRecordRead fid ch) s = .next (s.chanRead fid ch) ∧
    exec (.chainRecordComplete fid ch) s = .next (s.chanDone fid ch)

/-- mma signs a seam, the TILE forms act once for their fetch set, and a matrix operation computes in turn and writes its tile. The order of tret's and mst's checks and that an operation without bursts acts at one event are the model's choices, log entries 33, 37 and 74 (spec/09_barrier.md R261, spec/11_tile.md R294, spec/11_tile.md R300, spec/11_tile.md R303, spec/11_tile.md R304, spec/11_tile.md R306, spec/11_tile.md R308, spec/11_tile.md R297, spec/11_tile.md R299). -/
def Obligations.TileWords : Prop :=
  (∀ (s : State) (iss : Issue) (t : Thread), s.Solo iss t →
    ∀ (cs : CS) (a b r k : BitVec 6) (q : BitVec 4) (m : BitVec 2) (n : BitVec 6) (st : BitVec 1) (y : BitVec 2) (f : BitVec 4),
    let g := s.group iss.gid
    let p : BitVec 6 := f.setWidth 6 <<< 2
    let rows := 16 * 2 ^ m.toNat
    let cols := 16 * (n.toNat + 1)
    let signs := fun (i : Instr) (sr : Semiring) => ∀ x, s.seam? g.fid q.toNat = some x →
      let twice := x.signers.any fun z => decide (z.gid = t.gid) && decide (z.lane = t.lane)
      (x.need = 0 → exec i s = .next (s.trapLane ⟨t.lane, 0x21, seamAux q.toNat 0, 0, 0⟩)) ∧
      (x.need ≠ 0 → twice = true → exec i s = .next (s.trapLane ⟨t.lane, 0x21, seamAux q.toNat x.signers.length, 0, 0⟩)) ∧
      (x.need ≠ 0 → twice = false →
        let old := x.signers.find? fun z => z.gid = t.gid
        let sig : Signer := ⟨t.gid, t.lane, iss.word, iss.pkt, iss.slot, [rd t p, rd t (p + 1), rd t (p + 2), rd t (p + 3)],
          (match old with | some z => z.key | none => s.nextId), (match old with | some z => z.tile | none => g.cur),
          s.underWay t.gid (laneBit t.lane)⟩
        let u := if old.isSome then s else { s with nextId := s.nextId + 1 }.updGroup g.gid fun h => { h with tileN := h.tileN + 1 }
        let l := x.signers ++ [sig]
        (l.length < x.need → exec i s = .next (u.setSeam g.fid q.toNat { x with signers := l })) ∧
        (x.need ≤ l.length → exec i s = .next ((u.setSeam g.fid q.toNat { x with signers := [], gen := x.gen + 1 }).fireRound
          iss g sr rows cols (decide (st = 1)) (decide (y = 1)) l)))
    let run := fun (i : Instr) (bad : Option (Byte × W64)) (u : State) =>
      (∀ c x, bad = some (c, x) → exec i s = .next (s.trapLane ⟨t.lane, c, x, 0, 0⟩)) ∧ (bad = none → exec i s = .next u)
    let sh := rd t b
    let cw := rd t r
    let off := (rd t a).toNat
    let dO := (rd t (a + 1)).toNat
    let src := (cw.extractLsb' 0 4).toNat
    let dst := (cw.extractLsb' 4 4).toNat
    let hs := (rd t (a + 2)).toNat
    let stride := (rd t (a + 3)).toInt
    let rb := (rd t b).toNat
    let nr := (rd t (b + 1)).toNat
    let mh := s.engHandle g (hs % 4096)
    let th := s.engHandle g ((rd t (a + 1)).toNat % 4096)
    let op := fun (kind : OpKind) => Op.fresh s.nextId (some .tile) kind g t.lane iss
    signs (.mmaPt cs q m n st y f) .plusTimes ∧ signs (.mmaMinp cs q m n st y f) .minPlus ∧
    signs (.mmaMaxp cs q m n st y f) .maxPlus ∧ signs (.mmaMaxt cs q m n st y f) .maxTimes ∧
    signs (.mmaOrand cs q m n st y f) .orAnd ∧
    run (.mmz cs a b r) (firstFail (chkShape sh ++ [failIf (!([10, 12, 13, 15].contains (fwC cw))) 0x28 8,
        s.chkRegion g off (cBytes (fwC cw) (shapeM sh) (shapeN sh))]))
      (s.issueTile g (op (.mmz off (shapeM sh) (shapeN sh) (fwC cw))) false) ∧
    run (.mmcvt cs a b r) (firstFail (chkShape sh ++ [failIf (cw.extractLsb' 20 12 ≠ 0) 0x28 4,
        failIf ((src ≠ 10 ∧ src ≠ 12) ∨ 10 < dst ∨ 5 < (cw.extractLsb' 8 3).toNat ∨ (cw.getLsbD 11 = true ∧ dst ≠ 4 ∧ dst ≠ 5 ∧ dst ≠ 6)) 0x28 8,
        s.chkRegion g off (cBytes src (shapeM sh) (shapeN sh)), s.chkRegion g dO (cBytes dst (shapeM sh) (shapeN sh))]))
      (s.issueTile g (op (.mmcvt off dO (shapeM sh) (shapeN sh) cw)) false) ∧
    run (.mst cs a b) (firstFail [failIf (rb = 0 ∨ 65536 < rb ∨ nr = 0 ∨ 4096 < nr) 0x28 3, failIf (4096 ≤ hs) 0x28 4,
        s.chkUsable g mh, chkSpace mh ([Space.global, .near, .pod].contains (heSpace mh.ent)) 1, s.chkRegion g off (rb * nr),
        s.chkSpan g mh (mstSpan dO stride rb nr)])
      (s.issueTile g { op (.mst off dO stride rb nr) with dh := mh } true) ∧
    run (.tret cs a k) (firstFail [failIf (4096 ≤ (rd t (a + 1)).toNat) 0x28 4, s.chkUsable g th,
        chkSpace th ([Space.global, .near, .scratch].contains (heSpace th.ent)) 1,
        failIf ((heBase th.ent + off) % 64 ≠ 0) 0x15 off, s.chkSpan g th (off, (off : Int) + 64),
        failIf (!g.tiles.contains k.toNat) 0x13 k.toNat])
      ((s.issueTile g { op (.tret off k.toNat) with dh := th } false).updGroup g.gid fun h =>
        { h with tiles := h.tiles.erase k.toNat, cur := (h.tiles.erase k.toNat).getLast? }) ∧
    (g.tiles.contains k.toNat = true → exec (.tstamp cs k) s = .next (s.updGroup g.gid fun h => { h with cur := some k.toNat })) ∧
    (g.tiles.contains k.toNat = false → g.tiles.length < 8 → exec (.tstamp cs k) s =
      .next (s.updGroup g.gid fun h => { h with tiles := h.tiles ++ [k.toNat], cur := some k.toNat })) ∧
    (g.tiles.contains k.toNat = false → 8 ≤ g.tiles.length → exec (.tstamp cs k) s =
      .next (s.trapLane ⟨t.lane, 0x13, BitVec.ofNat 64 k.toNat, 0, 0⟩))) ∧
  (∀ (s : State) (o : Op), s.op? o.id = some o →
    (∀ a, o.kind = .mma a →
      (o.st = .queued ∨ o.st = .waiting → s.tileTurn o = true → s.released o.after = true → s.badSlot o a = none →
        (s.operandWait o = true → exec (.mmaReachArray o.id) s = .next (s.updOp o.id fun x =>
          { x with st := .waiting, t0 := if x.t0 = 0 then s.ptime else x.t0 })) ∧
        (s.operandWait o = false → exec (.mmaReachArray o.id) s = .next (s.updOp o.id fun x =>
          { x with st := .computing, out := s.mmaTile o.fid a, t1 := if x.st = .waiting then s.ptime else x.t1, t2 := s.ptime }))) ∧
      (o.st = .computing → exec (.mmaComputeDone o.id) s =
        .next (((s.scrWrite o.fid a.co o.out).updOp o.id fun x =>
          { x with st := .done, out := [], t3 := (s.scrWrite o.fid a.co o.out).ptime }).settleOp o).endOperandWaits)) ∧
    (∀ off k, o.kind = .tret off k → o.st = .running → o.stalled = false → s.engBusy o = false →
      let low := s.tileFrom o.gid k o.id
      let mine := s.ops.filter fun x => x.tagged o.gid k low o.id
      let ms := mine.filter Op.isMma
      let ended := fun (u : State) => (u.updKernel o.ctx o.kid fun y =>
        { y with opWait := y.opWait + (lastStamp (ms.map Op.t1) - firstStamp (ms.map Op.t0)) }).finishOp o.id true
      (∀ f, s.flock? o.fid = some f → ∀ x ∈ f.seams.toList, ∀ z ∈ x.signers, z.gid = o.gid → z.tile = some k → low < z.key → o.id ≤ z.key) →
      (∀ x ∈ mine, x.st = .done) →
      (o.off = 64 → exec (.tretRecordWrite o.id) s = .next (ended s)) ∧
      (o.off ≠ 64 → ∀ u, s.engWriteAll o o.dh off (stampBytes mine) = .ok u →
        let v := u.updOp o.id fun x => { x with off := 64 }
        (v.engBusy o = true → exec (.tretRecordWrite o.id) s = .next v) ∧
        (v.engBusy o = false → exec (.tretRecordWrite o.id) s = .next (ended v)))))

/-- osend stamps and injects a packet or answers a status, orecv pops, waits behind those who wait or traps, wmrd reads a watermark; the remote forms queue their operation, whose sources and targets are the model's choice where log entry 37 says so (spec/15_link.md R375, spec/15_link.md R386, spec/15_link.md R387, spec/15_link.md R389, spec/15_link.md R390, spec/15_link.md R391, spec/15_link.md R376). -/
def Obligations.FabricWords : Prop :=
  ∀ (s : State) (iss : Issue) (t : Thread), s.Solo iss t →
    ∀ (cs : CS) (a b r k : BitVec 6),
    let g := s.group iss.gid
    let owes := fun (u : State) (ws : List Wr) => u.updT t.gid t.lane fun y => y.await (Result.known y.nextRes ws 0 false)
    let e := s.ocEnt g.ctx
    let w := rd t r
    let dst : BitVec 12 := w.extractLsb' 0 12
    let off := s.fab.mesh = false ∨ e.en = false ∨ sendEnd ≤ s.ptime
    let good := w.extractLsb' 16 16 = 0 ∧ (dst = 0xFFF ∨ s.fab.inPod dst.toNat = true)
    let answers := fun (v : W32) => exec (.osend cs a b r) s = .next (owes s [.g a v])
    (off → answers 3) ∧
    (¬off → ¬good → answers 4) ∧
    (¬off → good → ∀ p, s.fab.recovering = some p → exec (.osend cs a b r) s = .next (s.trapLane ⟨t.lane, 0x30, ordAux 1 p, 0, 0⟩)) ∧
    (¬off → good → s.fab.recovering = none →
      (e.tokens = 0 → answers 1) ∧
      (e.tokens ≠ 0 → 16384 ≤ s.fab.retained.length → answers 2) ∧
      (e.tokens ≠ 0 → s.fab.retained.length < 16384 →
        let p : OrdPkt :=
          { t := s.ptime, src := BitVec.ofNat 12 s.fab.dev, seq := s.fab.seq, dst := dst, q := w.extractLsb' 12 4,
            job := (match s.ctx? g.ctx with | some c => c.job | none => 0), stage := 1,
            payload := (List.range 8).map fun i => rd t (b + BitVec.ofNat 6 i) }
        let keep : Retained := ⟨p, if dst = 0xFFF then s.fab.pod else [dst.toNat], if dst = 0xFFF then 24 else (s.fab.route s.fab.dev dst.toNat).getD 24⟩
        let u := s.setOc { e with tokens := e.tokens - 1 }
        exec (.osend cs a b r) s = .next (owes ({ u with ptime := if s.fab.seq = BitVec.allOnes 20 then s.ptime + 1 else s.ptime,
                                                          fab := { u.fab with seq := s.fab.seq + 1, retained := u.fab.retained ++ [keep] } }.inject p)
          [.g a (s.fab.seq.setWidth 32 <<< 12)]))) ∧
    (∀ q, s.oqEnt? g.ctx k.toNat = some q → s.fab.mesh = true → e.en = true → q.on = true → s.nextRec g t.lane = none →
      let waits := exec (.orecv cs a b k) s =
        .next ((s.updOq g.ctx k.toNat fun x => { x with waiters := x.waiters ++ [(t.gid, t.lane)] }).updT t.gid t.lane
          fun y => y.block (.orecv k.toNat a b) iss (destsOf (recordWrites a b [])))
      (q.count = 0 → ∀ p, s.fab.recovering = some p →
        exec (.orecv cs a b k) s = .next (s.trapLane ⟨t.lane, 0x30, ordAux 1 p, 0, 0⟩) ∧
        exec (.orecvTry cs a b k) s = .next (s.trapLane ⟨t.lane, 0x30, ordAux 1 p, 0, 0⟩)) ∧
      (q.count = 0 → s.fab.recovering = none → waits ∧
        exec (.orecvTry cs a b k) s = .next (owes (s.logged t.gid t.lane 4 (BitVec.ofNat 64 k.toNat) (BitVec.ofNat 64 (2 ^ 31)) []).2.2
          (wrs32 a (List.replicate 8 0) ++ wrs32 b [0, 0, 0x80000000, 0]))) ∧
      (q.count ≠ 0 →
        let l := (s.popRecord q).2.logged t.gid t.lane 6 (BitVec.ofNat 64 k.toNat) 0 (s.popRecord q).1
        let u := (owes l.2.2 (recordWrites a b l.2.1)).acquireCore g.pcore
        (q.waiters = [] → exec (.orecv cs a b k) s = .next u) ∧ (q.waiters ≠ [] → waits) ∧ exec (.orecvTry cs a b k) s = .next u)) ∧
    (s.fab.mesh = false ∨ e.en = false ∨ (∀ q, s.oqEnt? g.ctx k.toNat = some q → q.on = false) →
      exec (.orecv cs a b k) s = .next (s.trapLane ⟨t.lane, 0x30, ordAux 2 k.toNat, 0, 0⟩) ∧
      exec (.orecvTry cs a b k) s = .next (s.trapLane ⟨t.lane, 0x30, ordAux 2 k.toNat, 0, 0⟩)) ∧
    (k.toNat ≤ 25 → exec (.wmrd cs a k) s = .next (owes s (wr2 a (s.wmValue k.toNat)))) ∧
    (let run := fun (i : Instr) (bad : Option (Byte × W64)) (u : State) =>
       (∀ c x, bad = some (c, x) → exec i s = .next (s.trapLane ⟨t.lane, c, x, 0, 0⟩)) ∧ (bad = none → exec i s = .next u)
     let lo := (rd t a).toNat
     let ro := (rd t (a + 1)).toNat
     let hs := (rd t (a + 2)).toNat
     let n := (rd t (a + 3)).toNat
     let lh := s.engHandle g (hs % 4096)
     let ph := s.engHandle g (hs / 4096 % 4096)
     let bar := s.barRegs g t b
     let checks := fun (put : Bool) => firstFail [failIf (n = 0 ∨ 2 ^ 24 < n) 0x28 3, failIf (2 ^ 25 ≤ hs) 0x28 4, s.chkUsable g lh,
       s.chkUsable g ph, chkSpace lh (engSpace lh) (if put then 0 else 1), chkSpace ph (decide (heSpace ph.ent = .pod)) (if put then 1 else 0),
       s.chkSpan g lh (lo, (lo : Int) + n), s.chkSpan g ph (ro, (ro : Int) + n),
       chkBar (hs.testBit 24) (decide ((if put then heBase ph.ent + ro else heBase lh.ent + lo) % 32 = 0) && decide (n % 32 = 0)) bar]
     let op := fun (kind : OpKind) (x y : HReg) => s.issueOp g { Op.fresh s.nextId (some .copy) kind g t.lane iss with
       sh := x, dh := y, bar := barOf (hs.testBit 24) bar, secs := n / 32 }
     run (.rput cs a b) (checks true) (op (.rput lo ro n) lh ph) ∧ run (.rget cs a b) (checks false) (op (.rget lo ro n) ph lh) ∧
     (let m := rmwBytes (ratmOp k.toNat)
      let qh := s.engHandle g (ro % 4096)
      let rw := rd t (b + 1)
      let res := (rd t b).toNat
      let rh := s.engHandle g (rw.toNat % 4096)
      let want := !rw.getLsbD 31
      let opt := fun (x : Option (Byte × W64)) => if want then x else none
      run (.ratm cs a b k) (firstFail [s.chkUsable g qh, opt (s.chkUsable g rh), chkSpace qh (decide (heSpace qh.ent = .pod)) 3,
          opt (chkSpace rh (engSpace rh) 1), failIf ((heBase qh.ent + lo) % m ≠ 0) 0x15 (heBase qh.ent + lo),
          s.chkSpan g qh (lo, (lo : Int) + m), opt (s.chkSpan g rh (res, (res : Int) + m))])
        (s.issueOp g { Op.fresh s.nextId (some .copy) (.ratm lo (ratmOp k.toNat) (rd2 t (a + 2)) (if want then some res else none)) g t.lane iss
          with sh := qh, dh := rh })))

/-- lnch creates a kernel or waits for a place, qput appends to a queue, cont appends to the kernel's ring or waits (spec/12_kernel.md R319, spec/12_kernel.md R321, spec/12_kernel.md R322, spec/13_queue.md R324). -/
def Obligations.WorkWords : Prop :=
  ∀ (s : State) (iss : Issue) (t : Thread), s.Solo iss t →
    ∀ (cs : CS) (a b r : BitVec 6),
    let g := s.group iss.gid
    let x := s.actGroup iss t
    (∀ e, s.recordAt x t b = .error e → exec (.lnch cs a b) s = .next (s.trapLane ⟨t.lane, e.1, e.2, 0, 0⟩)) ∧
    (∀ va, s.recordAt x t b = .ok va →
      (256 ≤ s.kernelCount x.ctx → exec (.lnch cs a b) s =
        .next { (s.updT t.gid t.lane fun y => y.block (.lnch a va) iss [.g a]) with lnchq := s.lnchq ++ [(t.gid, t.lane)] }) ∧
      (s.kernelCount x.ctx < 256 → exec (.lnch cs a b) s = .next ((s.launch x.ctx va).2.give t a (s.launch x.ctx va).1))) ∧
    (∀ e, s.recordAt x t r = .error e → exec (.qput cs a b r) s = .next (s.trapLane ⟨t.lane, e.1, e.2, 0, 0⟩)) ∧
    (∀ va c, s.recordAt x t r = .ok va → s.ctx? x.ctx = some c →
      (63 < (rd t b).toNat → exec (.qput cs a b r) s = .next (s.give t a 2)) ∧
      ((rd t b).toNat ≤ 63 → exec (.qput cs a b r) s =
        .next ((s.append c (rd t b).toNat va).2.give t a (BitVec.ofNat 32 (s.append c (rd t b).toNat va).1)))) ∧
    (∀ k, s.kernel? g.ctx g.kid = some k →
      let e := rd t a
      let payload := (List.range 14).map fun i => rd t (b + BitVec.ofNat 6 i)
      (k.r.ncont ≤ e.toNat → exec (.cont cs a b) s = .next (s.trapLane ⟨t.lane, 0x13, e.setWidth 64, 0, 0⟩)) ∧
      (e.toNat < k.r.ncont → k.ring.length < k.ringSize → k.waiters = [] →
        exec (.cont cs a b) s = .next (s.contPush k t.gid t.lane e payload)) ∧
      (e.toNat < k.r.ncont → k.ringSize ≤ k.ring.length ∨ k.waiters ≠ [] → exec (.cont cs a b) s =
        .next ((s.updT t.gid t.lane fun y => y.block (.cont e payload) iss []).updKernel g.ctx g.kid fun y =>
          { y with waiters := y.waiters ++ [(t.gid, t.lane)] })))

/-- The events of ports, flits, watermarks and ordered packets change the port and the ordered class as R372 to R391 give. Where a rule is silent the model chooses, log entries 57, 58 and 59 (spec/15_link.md R366, spec/15_link.md R368, spec/15_link.md R372, spec/15_link.md R373, spec/15_link.md R374, spec/15_link.md R375, spec/15_link.md R380, spec/15_link.md R381, spec/15_link.md R382, spec/15_link.md R383, spec/15_link.md R387, spec/15_link.md R389). -/
def Obligations.FabricEvents : Prop :=
  ∀ (s : State) (n : Nat),
    let p := s.port n
    let setP := fun (f : Port → Port) => { s with fab := s.fab.setPort n (f p) }
    let counts := fun (q : Port) => if q.retry = BitVec.allOnes 16 then q.retry else q.retry + 1
    exec .hostLinkTrained s = .next { s with plat := { s.plat with hostUp := true } } ∧
    ((∀ r ∈ s.reqs, r.pa < hostBase) → exec .hostLinkDown s = .next { s with plat := { s.plat with hostUp := false } }) ∧
    (p.st = .down → exec (.portEnable n) s = .next (setP fun q => { q with st := .training, en := true, fails := 0 })) ∧
    (∃ u, exec (.portDisable n) s = .next u ∧ u.fab.routePending = true ∧ (∀ o ∈ u.fab.out, o.port ≠ n) ∧
      (n < 24 → (u.port n).st = .down ∧ (u.port n).en = false ∧ (u.port n).unacked = [] ∧ (u.port n).routed = false)) ∧
    (p.st = .training →
      (let u := setP fun q => { q with st := .up, fails := 0, since := s.ptime }
       let again := fun (x : Nat × Nat) => decide (x = (s.fab.dev, n)) || decide (x = s.fab.faces s.fab.dev n)
       exec (.portTrained n) s = .next { u with fab := { u.fab with
         routePending := true, lost := s.fab.lost.filter fun x => !again x } }) ∧
      (p.fails + 1 < 3 → exec (.portTrainingFailed n) s = .next (setP fun q => { q with st := .training, fails := q.fails + 1 })) ∧
      (3 ≤ p.fails + 1 → exec (.portTrainingFailed n) s = .next ((setP fun q => { q with st := .failed, fails := 0 }).post 13 n 0 [1]))) ∧
    (p.st = .up ∨ p.st = .stalled →
      exec (.flitError n) s = .next (setP fun q => { q with st := .retry, asked := true, fromStall := decide (q.st = .stalled), fails := 0, retry := counts q }) ∧
      (∀ x : Flit, x.body ≠ .replay → x.seq ≠ p.inSeq → s.fab.reorder.length < reorderSize → exec (.flitReceive n x) s = exec (.flitError n) s) ∧
      (∀ x : Flit, x.body ≠ .replay → x.seq = p.inSeq →
        let taken := (setP fun q => { q with inSeq := q.inSeq + 1, recv := q.recv + 1, unacked := ackFlits x.ack q.unacked }).flush n
        (∀ c dst bs, x.body = .other c dst bs → exec (.flitReceive n x) s = .next (taken.forward c dst bs)) ∧
        (∀ w h, x.body = .beacon w h → exec (.flitReceive n x) s = .next (taken.takeBeacon n w h)) ∧
        (∀ q, x.body = .ord q → s.fab.reorder.length < reorderSize → exec (.flitReceive n x) s = .next (taken.takeOrd n q)) ∧
        (∀ c, x.body = .pause c true → exec (.flitReceive n x) s = .next ((taken.updPort n fun q =>
          { q with paused := c :: q.paused.filter fun y => decide (y ≠ c) }).flush n)) ∧
        (∀ c, x.body = .pause c false → exec (.flitReceive n x) s = .next ((taken.updPort n fun q =>
          { q with paused := q.paused.filter fun y => decide (y ≠ c) }).flush n))) ∧
      (∀ w h, p.beacon = true → fallen p.w w = true → exec (.beaconReceive n w h) s = exec (.flitError n) s) ∧
      (∀ w h, p.beacon = false ∨ fallen p.w w = false → n < 24 → ∃ u, exec (.beaconReceive n w h) s = .next u ∧
        (u.port n).w = (w ++ List.replicate 7 0).take 7 ∧ (u.port n).beacon = true ∧ (u.port n).held = h ∧
        (p.beacon = true → h = false → p.st = .up → s.fab.reorder.length < reorderSize →
          (u.port n).since = if p.wm < (u.port n).wm then s.ptime else p.since))) ∧
    (p.st = .up ∨ p.st = .stalled ∨ p.st = .retry → ∀ x : Flit, x.body = .replay →
      exec (.flitReceive n x) s = .next ((setP fun q =>
        { q with unacked := ackFlits x.ack q.unacked, sent := q.sent + (ackFlits x.ack q.unacked).length }).flush n)) ∧
    (p.st = .retry →
      exec (.replayAccepted n) s = .next ((setP fun q =>
        { q with st := if q.fromStall then .stalled else .up, fails := 0, asked := false, fromStall := false, since := s.ptime }).flush n) ∧
      (p.fails + 1 < 8 → exec (.replayFailed n) s = .next (setP fun q => { q with fails := q.fails + 1, retry := counts q })) ∧
      (8 ≤ p.fails + 1 → exec (.replayFailed n) s = .next ((s.portLost n .failed p.en).post 13 n 0 [2]))) ∧
    (p.st = .up → p.unacked.length < 512 → exec (.beaconSend n) s = .next ((setP fun q =>
      { q with wOut := s.outMarks n, outSeq := q.outSeq + 1, sent := q.sent + 1, greeted := q.routed,
               unacked := q.unacked ++ [⟨q.outSeq, q.inSeq - 1, .beacon (s.outMarks n) (s.heldDown n)⟩] }).flush n)) ∧
    (∀ x : OrdPkt, p.st = .up ∨ p.st = .stalled ∨ p.st = .retry → s.fab.reorder.length < reorderSize →
      exec (.ordPacketReceive n x) s = .next (s.arrived ((n / 4) ^^^ 1) x)) ∧
    ((∀ q ∈ s.fab.reorder, s.watermark ≤ q.t ∨ s.roomFor q = false) → exec .ordRelease s = .next s) ∧
    (∀ q, s.fab.reorder.length < reorderSize → (s.fab.reorder.find? fun q => decide (q.t < s.watermark) && s.roomFor q) = some q →
      let u := { s with fab := { s.fab with
        reorder := s.fab.reorder.erase q
        released := (q.src.toNat, s.fab.lastReleased q) :: s.fab.released.filter fun x => x.1 ≠ q.src.toNat } }
      (u.queueFor q = none → exec .ordRelease s = .next (u.countDrop 0)) ∧
      (∀ e, u.queueFor q = some e →
        let put := u.vaWrite e.ctx (e.base + 64 * (e.tail.toNat % e.size)) (recordBytes q)
        (put = none → exec .ordRelease s = .next (u.countDrop e.ctx)) ∧
        (∀ w, put = some w → exec .ordRelease s = .next (State.serveOrecv e.ctx e.q (e.waiters.length + 1)
          (w.updOq e.ctx e.q fun e => { e with tail := e.tail + 1 }))))) ∧
    (p.st = .up → p.routed = true → p.held = false → p.since ≤ s.ptime → 512 * 256 ≤ (s.ptime - p.since).toNat →
      s.fab.reorder.length < reorderSize →
      let u := setP fun q => { q with st := .stalled, frozen := some (minTime p.announced), routed := false }
      exec (.ordStallDeclared n) s = .next ({ u with fab := { u.fab with markers := [], told := s.fab.told ++ [(s.fab.dev, n)] } }.beginRecovery n (minTime p.announced)
        (u.fab.neighbour u.fab.dev (n / 4)))) ∧
    (∀ d, exec (.stallNotice s.fab.dev d) s = .next s) ∧
    (∀ d, d ≠ s.fab.dev →
      let u := { s with fab := { s.fab with
        told := s.fab.told ++ [(d, n)], routePending := true
        retained := s.fab.retained.map fun r => if s.fab.mustResend r d n then { r with port := 24 } else r } }
      let off := fun (l : List (Nat × Nat)) => l.filter fun x => decide (x ≠ (d, n)) && decide (x ≠ s.fab.faces d n)
      exec (.stallNotice d ⟨n, .stalled⟩) s = .next (u.beginRecovery n 0 d) ∧ exec (.stallNotice d ⟨n, .lost⟩) s = .next u ∧
      exec (.stallNotice d ⟨n, .back⟩) s = .next { s with fab := { s.fab with
        lost := off s.fab.lost, told := off s.fab.told, routePending := true } }) ∧
    (let f : Fabric := { s.fab with markers := if n ∈ s.fab.markers then s.fab.markers else s.fab.markers ++ [n] };
      (f.allMarkers = false → s.fab.markersSent = false → exec (.endMarker n) s = .next { s with fab := f }) ∧
      (f.allMarkers = true → exec (.endMarker n) s = .next { s with fab := { f with
        ports := f.ports.map fun (p : Port) => { p with frozen := none }
        markers := [] } }.endRecovery)) ∧
    exec .routeTrigger s = .next { s with fab := { s.fab with routePending := true } } ∧
    (s.fab.routePending = false → exec .routeInstall s = .next s) ∧
    (s.fab.routePending = true → s.fab.recovering = none → s.fab.retained = [] → (∀ o ∈ s.fab.fwd, o.port ≠ 24) →
      let c := s.fab.cfg
      let f : Fabric := { s.fab with lost := s.fab.relost, told := [], sx := c.sx, sy := c.sy, sz := c.sz, dev := c.dev }
      exec .routeInstall s = .next { s with fab := { f with routePending := false, ports := Vector.ofFn fun i =>
        let q := s.fab.ports[i]
        let on := decide (q.st = .up ∨ q.st = .retry) && decide (1 < f.size (i.val / 4 / 2)) && f.linkOpen f.dev i.val
        if on && !q.routed then { q with routed := true, beacon := false, greeted := false, since := s.ptime } else { q with routed := on } } }) ∧
    (∀ q,
      let acked := { s with fab := { s.fab with retained := (s.fab.retained.map fun r =>
        if (q - r.pkt.seq).toNat < 2 ^ 19 then { r with waiting := r.waiting.erase n } else r).filter fun r => r.waiting ≠ [] } }
      exec (.ordAck n q) s = .next acked ∧
      (s.fab.released.lookup n = some q → (∀ x ∈ s.fab.reorder, x.src.toNat ≠ n) → exec (.ordAckSend n) s = .next (if n = s.fab.dev then acked else s))) ∧
    (s.fab.released.lookup n = none → exec (.ordAckSend n) s = .next s) ∧
    exec (.ocTokenRefill n) s = .next { s with fab := { s.fab with oc := s.fab.oc.map fun e =>
      { e with tokens := min (max 1 e.burst.toNat) (e.tokens + e.rate.toNat * n) } } } ∧
    (∀ d m e, p.st = .up ∨ p.st = .stalled → n < 24 → ∃ u, exec (.ptimeDelayMeasure n d m e) s = .next u ∧ (u.port n).delay = d ∧
      u.fab.err = e ∧ u.fab.locked = (s.fab.locked || s.fab.mesh) ∧
      u.ptime = (if s.fab.locked = true ∨ s.fab.mesh = false then s.ptime else if m.dev ≠ s.fab.dev ∧ s.ptime < m.time then m.time else s.ptime)) ∧
    (s.fab.horizon = false → 2 ^ 64 - 2 ^ 56 ≤ s.ptime.toNat → exec .ptimeHorizon s =
      .next ({ s with fab := { s.fab with horizon := true } }.post 18 0xFFFF 0 [s.ptime])) ∧
    (∀ v, s.fab.mesh = false → exec (.precisionTimeMeasurement v) s =
      .next { s with fab := { s.fab with err := if s.ptime < v then v - s.ptime else s.ptime - v } })

/-- Submission, intake, dispatch, placement, pre-emption, retirement, the gatherer, promotion of issue and the overrun events: each event's next state where its rule's condition holds, and no change where it does not. The model's choices stand in log entries 46, 67 and 68 (spec/13_queue.md R325, spec/13_queue.md R326, spec/13_queue.md R329, spec/13_queue.md R330, spec/13_queue.md R331, spec/13_queue.md R335, spec/13_queue.md R336, spec/12_kernel.md R315, spec/12_kernel.md R318, spec/12_kernel.md R320, spec/05_group.md R150). -/
def Obligations.WorkEvents : Prop :=
  ∀ (s : State) (ctx kid n : Nat) (v : W64),
    -- submission windows (R325)
    (∀ c, s.ctx? ctx = some c → c.alive = true → s.plat.hostUp = true → n ≤ 63 →
      let z := s.touchRead ctx (c.queue n) 64
      ∀ raw, z.queueBits c n = some raw →
        let d := z.queueNow ctx n raw
        (d.on = false → ∀ off size, exec (.submissionWindowWrite ctx n ⟨off, size⟩ v) s = .next z) ∧
        exec (.submissionWindowWrite ctx n ⟨8, 8⟩ v) s = .next z ∧
        (d.on = true → ∀ u, z.queueDrop c n raw = some u →
          (2 ^ 57 ≤ v.toNat → exec (.submissionWindowWrite ctx n ⟨0, 8⟩ v) s = .next u) ∧
          (∀ off size, size ≠ 8 ∨ off ≠ 0 ∧ off ≠ 8 → exec (.submissionWindowWrite ctx n ⟨off, size⟩ v) s = .next u)) ∧
        -- an append (R324)
        (d.on = true → v.toNat < 2 ^ 57 →
          let y := z.touchRead ctx (c.queue n) 64
          ∀ r, y.queueBits c n = some r →
            let e := y.queueNow ctx n r
            let w := y.takeQueue ctx n e
            (e.on = true → e.count = 2 ^ e.lg → ∀ u, w.queueDrop c n r = some u →
              exec (.submissionWindowWrite ctx n ⟨0, 8⟩ v) s = .next u) ∧
            (e.on = true → e.count ≠ 2 ^ e.lg → ∀ u x, w.vaWrite ctx (e.slot e.tail) (bytesOf 8 v.toNat) = some u →
              u.setEnds c n r e.head (e.tail + 1) = some x → exec (.submissionWindowWrite ctx n ⟨0, 8⟩ v) s = .next x))) ∧
    -- intake (R326)
    (s.queueTurn ≠ some (ctx, n) → exec (.dispatcherIntake ctx n) s = .next s) ∧
    (∀ c, s.queueTurn = some (ctx, n) → s.ctx? ctx = some c →
      let z := { s with qlast := (ctx, n) }.touchRead ctx (c.queue n) 64
      (z.queueBits c n = none → exec (.dispatcherIntake ctx n) s = .next (z.queueError3 ctx n)) ∧
      (∀ raw, z.queueBits c n = some raw →
        let d := QDesc.ofNat raw
        let u := z.takeQueue ctx n d
        let y := u.touchRead ctx (d.slot d.head) 8
        (d.on = false ∨ d.count = 0 → exec (.dispatcherIntake ctx n) s = .next u) ∧
        (∀ bs w, d.on = true → d.count ≠ 0 → y.vaRead ctx (d.slot d.head) 8 = some bs → y.setEnds c n raw (d.head + 1) d.tail = some w →
          let va := natOf bs
          let x := w.touchRecord c va
          let refuses := fun (u : State) (why : Nat) => exec (.dispatcherIntake ctx n) s =
            .next (u.post 10 n ctx [BitVec.ofNat 64 d.head, BitVec.ofNat 64 va, BitVec.ofNat 64 why])
          (2 ^ 57 ≤ va → refuses w 1) ∧
          (va < 2 ^ 57 → x.vaRead ctx va 256 = none → refuses x 2) ∧
          (∀ rec, va < 2 ^ 57 → x.vaRead ctx va 256 = some rec →
            (x.launchReason c (natOf rec) = 0 → exec (.dispatcherIntake ctx n) s = .next (x.newKernel c (natOf rec)).2) ∧
            (x.launchReason c (natOf rec) ≠ 0 → exec (.dispatcherIntake ctx n) s = .next
              (x.complete ctx 0 (bitsOf (natOf rec) 767 704) (BitVec.ofNat 64 (4 + x.launchReason c (natOf rec) * 256)))))))) ∧
    -- kernels (R318, R330, R336)
    (∀ k, s.kernel? ctx kid = some k →
      let due := k.st = .admitted ∧ k.killed = false ∧ k.r.start.toNat ≤ s.ptime.toNat
      (due → exec (.kernelDispatch ctx kid) s = .next (s.updKernel ctx kid fun k => { k with st := .placing })) ∧
      (¬due → exec (.kernelDispatch ctx kid) s = .next s) ∧
      let goes := k.r.dclass = 0 ∧ k.st = .placing ∧ s.placeable k = true ∧ ∀ c ∈ k.cores, (s.pen c 0).st = .empty ∧ (s.pen c 1).st = .empty
      let blocks := (List.range k.h).map fun i => (k.cores.drop (k.r.herd * i)).take k.r.herd
      (goes → exec (.d0Placement ctx kid) s = .next (((blocks.zipIdx.foldl (fun s b =>
        s.placeHerd k b.2 false b.1 (List.replicate k.r.herd 0)) s).updKernel ctx kid fun k => { k with st := .draining }).serveLnch ctx)) ∧
      (¬goes → exec (.d0Placement ctx kid) s = .next s) ∧
      let late := k.r.dclass ≤ 1 ∧ k.r.dl ≠ 0 ∧ k.st ≠ .submitted ∧ k.st ≠ .done ∧ k.st ≠ .faulted ∧ k.overrun = false ∧ k.r.dl.toNat ≤ s.ptime.toNat
      let told := s.updKernel ctx kid fun k => { k with overrun := true }
      let data := [BitVec.ofNat 64 kid, k.r.dl, k.opWait]
      (late → (k.r.dclass = 0 → exec (.d0Overrun ctx kid) s = .next (told.post 8 0xFFFF ctx data)) ∧
        (k.r.dclass = 1 → exec (.d0Overrun ctx kid) s = .next (told.queueEvent ⟨8, 0xFFFF, ctx, s.ptime, data⟩))) ∧
      (¬late → exec (.d0Overrun ctx kid) s = .next s) ∧
      (∀ x, (k.recordsOf n).head? = some x →
        let waited := x.2.2.1.toNat + 256000 * k.r.cwait ≤ s.ptime.toNat ∧ n ∉ k.flush
        (waited → exec (.gathererFlushTimeout ctx kid n) s = .next (s.updKernel ctx kid fun k => { k with flush := k.flush ++ [n] })) ∧
        (¬waited → exec (.gathererFlushTimeout ctx kid n) s = .next s)) ∧
      (k.recordsOf n = [] → exec (.gathererFlushTimeout ctx kid n) s = .next s) ∧
      (∀ h, s.herd? ctx kid n = some h →
        let spent := k.r.dclass = 0 ∧ h.budgetEv = false ∧ k.r.budget < h.issues
        (spent → exec (.budgetExceeded ctx kid n) s = .next ((s.updHerd ctx kid n fun h => { h with budgetEv := true }).post 9 0xFFFF ctx
          [BitVec.ofNat 64 kid, BitVec.ofNat 64 n, BitVec.ofNat 64 h.issues])) ∧
        (¬spent → exec (.budgetExceeded ctx kid n) s = .next s)) ∧
      -- the gatherer (R320)
      let batch := (k.st = .running ∨ k.st = .draining) ∧ k.killed = false ∧ k.batchDue n = true
      (¬batch → exec (.gathererBatchLaunch ctx kid n) s = .next s) ∧
      (batch → (∀ f ∈ s.flocks, f.ctx = ctx → f.kid ≠ kid) →
        (∀ h ∈ s.herds, h.ctx = ctx → h.kid = kid → h.cont = true → h.st ≠ .waiting ∧ h.st ≠ .resident) →
        let h : Herd :=
          { ctx, kid, herd := k.h + k.contN, st := .waiting, cores := [], cont := true, runnable := false, gens := [], since := s.ptime,
            expired := false, issues := 0, budgetEv := false, after := none, due := false, faults := [], owed := [] }
        exec (.gathererBatchLaunch ctx kid n) s =
          .next ({ s with herds := s.herds ++ [h] }.updKernel ctx kid fun k => { k with contN := k.contN + 1 })) ∧
      (batch → ∀ f i, s.flocks.filter (fun f => decide (f.ctx = ctx) && decide (f.kid = kid)) = [f] →
        (s.herdOfFlock f).map Herd.st = some .resident → s.freeGrps k f = [i] →
        let taken := (k.recordsOf n).take 32
        let u := s.takeFree.2.clearGrp f i
        exec (.gathererBatchLaunch ctx kid n) s = .next ((((u.newGroup k f i ((u.freeGroupSlots f.pcore f.pen).headD 0)
          (0 :: List.replicate 7 (BitVec.allOnes 32)) ((k.ctab[n]?).getD 0) (BitVec.ofNat 32 (2 ^ taken.length - 1))
          fun j => match taken[j]? with | some x => wrs32 0 x.2.1 ++ u.preloads k | none => []).updKernel ctx kid fun k =>
            { k with ring := dropRecords n taken.length k.ring, flush := k.flush.erase n }).acquireCore f.pcore).serveCont ctx kid))) ∧
    -- herds (R315, R330, R331)
    (∀ h, s.herd? ctx kid n = some h →
      (h.st = .resident → s.quantumOver h = true → exec (.quantumExpiry ctx kid n) s =
        .next (s.updHerd ctx kid n fun h => { h with expired := true })) ∧
      (h.st ≠ .resident ∨ s.quantumOver h = false → exec (.quantumExpiry ctx kid n) s = .next s) ∧
      let gids := (s.herdGroups ctx kid n).map Group.gid
      let freed := s.freeHerd ctx kid n
      let u := { freed with threads := freed.threads.filter fun t => !gids.contains t.gid }
      ((∃ t ∈ s.threads, gids.contains t.gid = true ∧ t.st ≠ .exited) ∨ (∃ o ∈ s.ops, o.ofHerd ctx kid n = true ∧ o.st ≠ .done) ∨
          (∃ r ∈ s.reqs, gids.contains r.gid = true) →
        exec (.herdRetire ctx kid n) s = .next s) ∧
      (h.st = .resident ∨ h.st = .saved → s.issue = none → (∀ t ∈ s.threads, gids.contains t.gid = true → t.st = .exited) →
        (∀ o ∈ s.ops, o.ofHerd ctx kid n = true → o.st = .done) → (∀ r ∈ s.reqs, gids.contains r.gid = false) →
        (∀ f ∈ s.herdFlocksOf ctx kid n, ∀ c ∈ f.chans, c.st ≠ .walking) → h.cont = false ∨ gids ≠ [] →
        (u.kernel? ctx kid = none → exec (.herdRetire ctx kid n) s = .next u) ∧
        (∀ k, u.kernel? ctx kid = some k →
          let last := k.st = .draining ∧ (∀ x ∈ u.herds, x.ctx = ctx → x.kid = kid → x.st = .retired) ∧ k.ring = [] ∧ k.waiters = []
          (last → exec (.herdRetire ctx kid n) s = .next (u.kernelOver ctx kid .done (some 1))) ∧
          (¬last → exec (.herdRetire ctx kid n) s = .next u)))) ∧
    -- the placer of a pasture (R330, R331)
    (let all := s.waiting fun k i => (s.fitIn k i false n).isSome
      let best := leastBy (rankIn all) (all.filter fun c => (s.fitIn c.k c.idx c.saved n).isSome)
      (best = none → exec (.herdPlace n) s = .next s) ∧
      (∀ c block pens, best = some c → s.fitIn c.k c.idx c.saved n = some (block, pens) →
        let u := { s with rot := s.rot.setIfInBounds n ((block.headD 0 / 8 % 64 + 1) % 64) }
        (c.saved = true → exec (.herdPlace n) s = .next (u.startLoad c.k c.idx block pens)) ∧
        (c.saved = false → exec (.herdPlace n) s = .next ((u.placeHerd c.k c.idx c.cont block pens).placed c.k.ctx c.k.kid)))) ∧
    (let all := s.waiting fun _ _ => true
      let leaving := fun (c : Cand) => s.herds.any fun h => (h.st = .saving || h.due) && (match h.after with | some x => c.is x | none => false)
      let stuck := fun (c : Cand) => (∀ p < 4, s.fitIn c.k c.idx c.saved p = none) ∧ leaving c = false ∧ (s.victims c n).isSome = true
      ((∀ c ∈ all, ¬stuck c) → exec (.preempt n) s = .next s) ∧
      (∀ c l, all = [c] → stuck c → s.victims c n = some l → exec (.preempt n) s =
        .next (l.foldl (fun s h => s.commitSwap h (some (c.k.ctx, c.k.kid, c.idx))) s))) ∧
    -- issue (R150, R335) and the scheduler control (R329)
    (∀ g lanes,
      let go := fun (f : FSet) => if f.lanes = lanes ∧ s.eligible (s.group g) f = true then { f with promoted := true } else f
      exec (.issuePromotion g lanes) s = .next (s.updGroup g fun x => { x with fsets := x.fsets.map go })) ∧
    (∀ core, (∀ b ∈ s.waitingSubs core, s.freeEntry (s.group b.gid) = none) → exec (.replayEntryFreed core) s = .next s) ∧
    (∀ core b i, (s.waitingSubs core).find? (fun b => (s.freeEntry (s.group b.gid)).isSome) = some b →
      (s.subs.find? fun x => x.id = b.id) = some b → s.freeEntry (s.group b.gid) = some i →
      let b' := { b with idx := some i, taken := false, collecting := false }
      let u := { s with subs := s.subs.map fun x => if x.id = b.id then b' else x }
      exec (.replayEntryFreed core) s = .next (if b.taken then u else u.postSub b')) ∧
    exec (.scWrite true v) s = .next s ∧
    exec (.scWrite false v) s = .next { s with sched := ⟨v.extractLsb' 0 32, v.extractLsb' 32 12, v.extractLsb' 44 5, v.extractLsb' 49 15⟩ }

/-- Writebacks, recalls, invalidations and their answers change copies, directory and memory as R174, R178, R181 and R182 give (spec/06_memory.md R174, spec/06_memory.md R178, spec/06_memory.md R181, spec/06_memory.md R182). -/
def Obligations.HomeMessages : Prop :=
  ∀ (s : State) (c w : Nat) (v : W32),
    let next := fun (m : Msg) => ∃ l r, s.msgs = l ++ m :: r ∧
      ∀ x ∈ l, ¬(x.agent = m.agent ∧ x.down = m.down ∧ s.homeOf x.word = s.homeOf m.word)
    let taken := fun (m : Msg) => { s with msgs := s.msgs.erase m }
    let here := fun (x : L1Word) => decide (x.core = c ∧ x.addr / 64 = w / 64)
    exec (.l1Evict c w) s = .next { s with
      l1 := s.l1.filter fun x => !here x,
      msgs := s.msgs ++ ((s.l1.filter here).filter fun x => decide (x.st = .own)).map fun x => .writeback c x.addr x.val } ∧
    (next (.writeback c w v) →
      (s.dirOf w = .owned c → exec (.ownerWriteback c w) s = .next ({ taken (.writeback c w v) with
        mem := memWrite s.mem w (bytesOf 4 v.toNat) }.setDir w (.clean []))) ∧
      (∀ h, s.dirOf w = .kept c h →
        let home := { taken (.writeback c w v) with mem := memWrite s.mem w (bytesOf 4 v.toNat) }.setDir w (.inval [] [] h)
        (s.req? h = none → exec (.ownerWriteback c w) s = .next (home.setDir w (.clean []))) ∧
        (∀ r, s.req? h = some r →
          (home.stillOpen r = true → exec (.ownerWriteback c w) s = .next home) ∧
          (home.stillOpen r = false → exec (.ownerWriteback c w) s = .next (home.takeReq r)))) ∧
      (∀ h, s.dirOf w = .recall c h → exec (.ownerWriteback c w) s = .next ((taken (.writeback c w v)).recalled w (some v)) ∧
        (s.req? h = none → exec (.ownerWriteback c w) s = .next ({ taken (.writeback c w v) with
          mem := memWrite s.mem w (bytesOf 4 v.toNat) }.setDir w (.clean []))))) ∧
    (next (.recall c w) →
      (∀ x, s.l1? c w = some x → x.st = .own → exec (.recallTaken c w) s = .next { s with
        l1 := s.l1.filter fun y => !y.is c w, msgs := s.msgs.erase (.recall c w) ++ [.response c w (some x.val)] }) ∧
      ((∀ x, s.l1? c w = some x → x.st ≠ .own) → exec (.recallTaken c w) s = .next (taken (.recall c w)))) ∧
    (∀ o h, next (.response c w o) → s.dirOf w = .recall c h →
      exec (.recallResponse c w) s = .next ((taken (.response c w o)).recalled w o) ∧
      (s.req? h = none → o = some v → exec (.recallResponse c w) s = .next ({ taken (.response c w o) with
        mem := memWrite s.mem w (bytesOf 4 v.toNat) }.setDir w (.clean [])))) ∧
    (next (.invalidate c w) → exec (.invalidate c w) s = .next { s with
      l1 := s.l1.filter fun x => !(x.is c w && decide (x.st ≠ .own)), msgs := s.msgs.erase (.invalidate c w) ++ [.ack c w] }) ∧
    (∀ left keep h, next (.ack c w) → s.dirOf w = .inval left keep h →
      exec (.invalidationAck c w) s = .next ((taken (.ack c w)).acked c w) ∧
      (left.erase c ≠ [] → (∀ r, s.req? h = some r → w ∈ r.words) → exec (.invalidationAck c w) s = .next { taken (.ack c w) with
        dir := (w, .inval (left.erase c) keep h) :: s.dir.filter fun x => x.1 ≠ w })) ∧
    (∀ r, s.req? r.id = some r →
      let again := s.updReq r.id fun x => { x with refused := false }
      (r.persistent = false ∨ r.id ∈ s.persist → exec (.requestRetry r.id) s = .next again) ∧
      (r.persistent = true → s.persist = [] → exec (.requestRetry r.id) s = .next { again with persist := [r.id] }))

/-- Accesses of the host, the service die, peers and storage become requests that their homes take, a snoop and an eviction clear their line, a window takes its snapshot and updates, and a remote home's answers complete their accesses. That an access past HBM does nothing, the pieces of a peer's access and its answer are the model's choices, log entries 65, 66 and 30 (spec/06_memory.md R183, spec/06_memory.md R185, spec/06_memory.md R186, spec/06_memory.md R189, spec/06_memory.md R190, spec/06_memory.md R199, spec/15_link.md R369, spec/15_link.md R370, spec/06_memory.md R417). -/
def Obligations.OutsideAccesses : Prop :=
  ∀ (s : State) (pa id win n : Nat) (bs : List Byte) (job : W32),
    let line := pa / 64 * 64
    let takes := fun (i : Instr) (r : Req) =>
      exec i s = .next ({ s with nextId := s.nextId + 1, reqs := s.reqs ++ [r] }.tryTake s.nextId)
    let sends := fun (i : Instr) (src : Agent) (k : ReqKind) (at_ n : Nat) (d : List Byte) =>
      takes i { id := s.nextId, src, gid := 0, lane := 0, ctx := 0, kind := k, pa := at_, va := 0, n, data := d, rid := none, off := 0,
                refusals := 0, persistent := false, refused := false, dev := none, ft := false, rel := false, word := 0, pkt := 0, slot := 0,
                rslot := 0, eng := none, acq := false, wrs := false }
    let hbm := fun (at_ n : Nat) => 0 < n ∧ at_ + n ≤ 2 ^ 39
    -- the host, the service die and storage (R185, R369)
    (hbm line 64 → sends (.hostCxlMemRead pa) hostAgent .hostRead line 64 []) ∧
    (¬hbm line 64 → exec (.hostCxlMemRead pa) s = .next s) ∧
    (hbm pa bs.length →
      sends (.hostCxlMemWrite pa bs) hostAgent .hostWrite pa bs.length bs ∧
      sends (.nvmeStagingWrite pa bs) sdAgent .sdWrite pa bs.length bs) ∧
    (¬hbm pa bs.length → exec (.hostCxlMemWrite pa bs) s = .next s ∧ exec (.nvmeStagingWrite pa bs) s = .next s) ∧
    (∀ (core : Nat) (acq rel : Bool),
      let die := fun (op : AgentOp) (k : ReqKind) (m : Nat) (d : List Byte) =>
        (hbm pa m → takes (.serviceDieAccess pa (.access core op acq rel))
          { Req.outsider s.nextId sdAgent 0 k pa m d with lane := core, acq := acq, rel := rel }) ∧
        (¬hbm pa m → exec (.serviceDieAccess pa (.access core op acq rel)) s = .next s)
      die (.write bs) .sdWrite bs.length bs ∧ die (.read n) .sdRead n [] ∧
      (∀ op b c, die (.rmw op b c) (.rmw op b c) (rmwBytes op) []) ∧
      ∃ u, exec (.serviceDieAccess pa (.fence core acq rel)) s = .next u ∧ { u with reqs := s.reqs } = s ∧
        u.reqs.length = s.reqs.length ∧ ∀ (i : Nat) (x y : Req), s.reqs[i]? = some x → u.reqs[i]? = some y →
          let mine := x.src = sdAgent ∧ x.lane = core
          { y with acq := x.acq, wrs := x.wrs } = x ∧ (¬mine → y = x) ∧
          (mine → (y.acq = true ↔ x.acq = true ∨ (acq = true ∧ (rel = true ∨ x.kind ≠ .sdWrite))) ∧
            (y.wrs = true ↔ x.wrs = true ∨ rel = true))) ∧
    -- the proxy home (R186)
    (exec (.hostSnoop pa) s = .next (s.snoop line) ∧ (∀ x ∈ (s.snoop line).proxy, x.line ≠ line) ∧
      ((∃ x ∈ s.proxy, x.line = line) → exec (.proxyLineEvict pa) s = .next (s.snoop line)) ∧
      ((∀ x ∈ s.proxy, x.line ≠ line) → exec (.proxyLineEvict pa) s = .next s)) ∧
    ((∀ r ∈ s.reqs, r.pa / 64 * 64 ≠ line) → exec (.proxyHostResponse pa bs) s = .next s) ∧
    (∀ r, (s.reqs.find? fun r => decide (hostBase ≤ r.pa) && r.pa / 64 * 64 = line && s.mayTake r && !s.proxyHolds r) = some r →
      s.proxyLine? line = none → s.servedKind r = .ownLoad ∨ s.servedKind r = .ownStore →
      exec (.proxyHostResponse pa bs) s = .next ({ s with
        mem := memWrite s.mem line (takeBytes 64 bs), proxy := ⟨line, true, false⟩ :: s.proxy.filter fun l => l.line ≠ line }.tryTake r.id)) ∧
    -- mirror windows (R189, R190)
    (∀ w, s.window? id win = some w →
      (∀ u rest, w.st = .active → w.updates = u :: rest → exec (.mirrorUpdate id win) s =
        .next (((s.updFlock id fun f => f.setWin win { w with updates := rest, applied := u.seq }).scrWrite id (w.scr + u.off)
          (u.data.take (w.len - u.off))).wakeSyncs id win)) ∧
      (w.st ≠ .active ∨ w.updates = [] → exec (.mirrorUpdate id win) s = .next s) ∧
      (w.st ≠ .loading → exec (.mirrorSnapshotApplied id win) s = .next s) ∧
      (∀ f m, s.flock? id = some f → w.st = .loading → (s.mirrors.find? fun m => m.ctx = f.ctx && m.binds w) = some m →
        let home := m.grains.foldl (fun s g => (wordsOf g 512).foldl State.pullWord s) s
        let v := (home.updFlock id fun f => f.setWin win
          { w with st := if w.detachOnResume then .detached else .active, detachOnResume := false, applied := m.seq, updates := [], ret := none }).scrWrite
            id w.scr ((m.grains.flatMap fun g => home.cohRead g 512).take w.len)
        (w.ret = none → exec (.mirrorSnapshotApplied id win) s = .next (v.wakeSyncs id win)) ∧
        (∀ gid lane rid, w.ret = some (gid, lane, rid) → exec (.mirrorSnapshotApplied id win) s =
          .next ((v.feed gid lane rid 0 (bytesOf 4 win) 0 w.va).wakeSyncs id win)))) ∧
    -- accesses from peers (R370, R417)
    (∀ op, s.jobCtx job = none → exec (.podRemoteAccess (.incoming job pa op)) s = .next s) ∧
    (∀ c, s.jobCtx job = some c → 0 < n → n ≤ 8 → (s.peek c.id (pa + n - 1) .read).isSome = true →
      ∀ a, s.peek c.id pa .read = some a →
        let used := s.markUsed c.id pa .read
        let asks := Host.Outcome.next ({ used with
          nextId := s.nextId + 1
          reqs := used.reqs ++ [Req.outsider s.nextId engineAgent c.id (.read false) a n []] }.tryTake s.nextId)
        exec (.podRemoteAccess (.incoming job pa (.read n))) s = asks ∧
        (s.fab.mesh = false → exec (.ualinkRequest job pa (.read n)) s = asks)) ∧
    (s.fab.mesh = true ∨ 256 < n → exec (.ualinkRequest job pa (.read n)) s = .next s) ∧
    -- answers of remote homes (R199, R209, R223)
    (∀ r, s.req? id = some r → r.dev.isSome = true →
      (s.devWaits r = true → exec (.podRemoteAccess (.answered id bs)) s = .next s ∧ exec (.podStoreAck id) s = .next s) ∧
      (s.devWaits r = false →
      (∀ rid, r.eng = none → r.kind = .read false → r.rid = some rid → exec (.podRemoteAccess (.answered id bs)) s =
        .next ((s.dropReq id).feed r.gid r.lane rid r.off (takeBytes r.n bs) 0 (r.va - r.off))) ∧
      (r.kind.isWrite = true ∨ r.kind.isOwn = true → exec (.podStoreAck id) s = .next ((s.mergeCopies r.src r.ctx r.pa r.data).dropReq id))) ∧
      (r.eng = none → exec (.remoteErrorResponse id) s = .next (s.reqFault r 0x31 1 0)) ∧
      (∀ op, r.eng = some op → exec (.remoteErrorResponse id) s = .next ((s.opFault op 0x31 0 r.va).dropReq id)))

/-- repl, sigdl, penx, swp, kill and kterm of a privileged thread answer the status of R354 and R362 with its effect; which herds a swap cannot take out, and what a herd that does not exist is, are the model's choices of log entry 45 (spec/14_context.md R354, spec/14_context.md R362, spec/14_context.md R360). -/
def Obligations.ContextWords : Prop :=
  ∀ (s : State) (iss : Issue) (t : Thread), s.Solo iss t →
    (s.group iss.gid).priv = true → ∀ (cs : CS) (a b r : BitVec 6),
    let g := s.group iss.gid
    let tells := fun (i : Instr) (v : W32) => exec i s = .next (s.give t a v)
    let x := (rd t b).toNat
    let own := g.shep = false ∧ g.ctx = x
    let op := x
    let cx := (rd t r).toNat
    let kid := (rd t (r + 1)).toNat
    let herd := (rd t (r + 2)).toNat
    let hit := fun (y : Herd) => decide (y.ctx = cx) && y.st.inPens && (decide (op ≠ 0) || (decide (y.kid = kid) && decide (y.herd = herd)))
    let l := s.herds.filter hit
    let d0 := ∃ k ∈ s.kernels, k.ctx = cx ∧ k.r.dclass = 0 ∧ k.st ≠ .done ∧ k.st ≠ .faulted ∧ (op = 0 → k.kid = kid)
    (63 < x ∨ s.entryAt g.pcore x = none → tells (.repl cs a b) 1) ∧
    (∀ e, x ≤ 63 → s.entryAt g.pcore x = some e →
      (e.cause = 0x10 → tells (.repl cs a b) 2) ∧
      (e.cause ≠ 0x10 → e.cause ≠ 5 → exec (.repl cs a b) s = .next ((s.releaseSub e.id).give t a 0)) ∧
      (e.cause = 5 → exec (.repl cs a b) s = .next (((s.releaseSub e.id).acquireCore g.pcore).give t a 0))) ∧
    (rd t b = 0 ∨ 63 < x → tells (.sigdl cs a b r) 4) ∧
    (1 ≤ x → x ≤ 63 → (s.target g t = none ∨ ∃ y, s.target g t = some y ∧ y.st = .exited) → tells (.sigdl cs a b r) 1) ∧
    (∀ y, 1 ≤ x → x ≤ 63 → s.target g t = some y → y.st ≠ .exited →
      let u := (s.fireWait y).takeOwn y.gid y.lane
      let z := (u.thread? y.gid y.lane).getD y
      let d := (u.leaveChain z.gid (if z.st = .parked then 0 else laneBit z.lane)).deliverSignal z x (rd2 t r)
      exec (.sigdl cs a b r) s = .next (d.2.give t a d.1)) ∧
    (1 < x → tells (.penx cs a b) 3) ∧
    (x ≤ 1 →
      ((s.pen g.pcore x).st = .active → tells (.penx cs a b) 0) ∧
      ((s.pen g.pcore x).st ≠ .active → (s.pen g.pcore x).st ≠ .shadow → tells (.penx cs a b) 1) ∧
      ((s.pen g.pcore x).st = .shadow →
        let held := (s.pen g.pcore (1 - x)).st = .active ∧ s.penHeld g.pcore (1 - x) = true
        (held → tells (.penx cs a b) 2) ∧
        (¬held → exec (.penx cs a b) s = .next ((s.switchPen g.pcore x).give t a 0)))) ∧
    (3 < op → tells (.swp cs a b r) 3) ∧
    (op ≤ 3 → s.ctx? cx = none → tells (.swp cs a b r) 1) ∧
    (∀ c, op ≤ 3 → s.ctx? cx = some c →
      (c.st = .dying → tells (.swp cs a b r) 5) ∧
      (c.st = .dead ∨ (c.st ≠ .dying ∧ op = 0 ∧ s.hasHerd cx kid herd = false) → tells (.swp cs a b r) 1) ∧
      (c.alive = true → (op = 0 → s.hasHerd cx kid herd = true) →
        (op = 3 → c.st = .stopped → exec (.swp cs a b r) s = .next ((s.updCtx cx fun c => { c with st := .live }).give t a 0)) ∧
        (op = 3 → c.st ≠ .stopped → tells (.swp cs a b r) 0) ∧
        (op = 2 → c.st = .stopped → tells (.swp cs a b r) 0) ∧
        (op ≠ 3 → ¬(op = 2 ∧ c.st = .stopped) →
          (d0 ∨ (∃ h ∈ l, s.fixedHerd h = true) → tells (.swp cs a b r) 2) ∧
          (¬d0 → (∀ h ∈ l, s.fixedHerd h = false) →
            (s.slotsFor l = false → tells (.swp cs a b r) 4) ∧
            (s.slotsFor l = true →
              (op = 2 → exec (.swp cs a b r) s =
                .next (((s.updCtx cx fun c => { c with st := .stopping }).swapFor iss t a l).settleStop cx)) ∧
              (op ≠ 2 → exec (.swp cs a b r) s = .next (s.swapFor iss t a l))))))) ∧
    (own → tells (.kill cs a b r) 3) ∧
    (¬own → s.ctx? x = none → tells (.kill cs a b r) 2 ∧ tells (.kterm cs a b r) 2) ∧
    (∀ c, s.ctx? x = some c →
      (¬own → c.st = .dead → tells (.kill cs a b r) 2) ∧ (¬own → c.st = .dying → tells (.kill cs a b r) 1) ∧
      (¬own → c.st ≠ .dead → c.st ≠ .dying → exec (.kill cs a b r) s = .next ((s.killCtx c ((rd t r).setWidth 8)).give t a 0)) ∧
      (c.alive = false → tells (.kterm cs a b r) 2) ∧
      (c.alive = true → s.kernel? x cx = none → tells (.kterm cs a b r) 1) ∧
      (∀ k, c.alive = true → s.kernel? x cx = some k →
        (k.st = .done ∨ k.st = .faulted → tells (.kterm cs a b r) 1) ∧
        (k.st ≠ .done → k.st ≠ .faulted →
          (own → g.kid = cx → tells (.kterm cs a b r) 3) ∧
          (¬(own ∧ g.kid = cx) → k.killed = true → tells (.kterm cs a b r) 0) ∧
          (¬(own ∧ g.kid = cx) → k.killed = false → exec (.kterm cs a b r) s =
            .next (((s.endKernelHerds x cx).updKernel x cx fun k =>
              { k with killed := true, ring := [], flush := [], waiters := [], cores := [] }).give t a 0)))))

/-- Contexts are created, released, switched, swapped, served and ended as R337 to R362 and R367 give; what makes a descriptor valid and how a service core finds, ends and recovers calls are the model's choices of log entries 48 and 50 (spec/14_context.md R337, spec/14_context.md R341, spec/14_context.md R342, spec/14_context.md R347, spec/14_context.md R357, spec/14_context.md R359, spec/14_context.md R360, spec/14_context.md R362, spec/15_link.md R367). -/
def Obligations.ContextEvents : Prop :=
  ∀ (s : State) (core x kid herd seq : Nat) (ret : W64) (err : W32),
    let stat := fun (u : State) (v : W64) => Host.Outcome.next { u with plat := { u.plat with ctxStat := v } }
    let pa := s.plat.ctxArg.toNat
    let d := natOf (s.cohRead pa 128)
    let c := Context.ofNat d pa
    let sel := s.plat.ctxSel.toNat
    ((s.ctx? c.id).isSome = true → exec .ctxCreate s = stat s 1) ∧
    ((s.ctx? c.id) = none → hbmBytes < pa + 128 ∨ descOk d = false → exec .ctxCreate s = stat s 2) ∧
    ((s.ctx? c.id) = none → pa + 128 ≤ hbmBytes → descOk d = true → exec .ctxCreate s = stat
      { s with ctxs := s.ctxs ++ [c], plat := { s.plat with everDbg := s.plat.everDbg || c.dbg, everRec := s.plat.everRec || c.rec_ } } 0) ∧
    (s.ctx? sel = none → exec .ctxRelease s = stat s 0) ∧
    (∀ k, s.ctx? sel = some k →
      (k.st ≠ .dead → exec .ctxRelease s = stat s 1) ∧
      (k.st = .dead → ∃ u, exec .ctxRelease s = stat u 0 ∧ u.ctx? sel = none ∧ (∀ y ∈ u.kernels, y.ctx ≠ sel) ∧
        u.ctxs = s.ctxs.filter fun y => y.id ≠ sel)) ∧
    (s.shadowOf core = none → exec (.penSwitch core) s = .next s ∧ exec (.penIdleSwitch core) s = .next s) ∧
    (∀ p out, s.shadowOf core = some (p, out) →
      (s.penDue core p out = true → s.penHeld core out = false → exec (.penSwitch core) s = .next (s.switchPen core p)) ∧
      (s.penDue core p out = false ∨ s.penHeld core out = true → exec (.penSwitch core) s = .next s) ∧
      (s.bestClass core out = none → s.bestClass core p ≠ none → s.holdsD0 core out = false →
        exec (.penIdleSwitch core) s = .next (s.switchPen core p)) ∧
      (s.bestClass core out ≠ none ∨ s.bestClass core p = none ∨ s.holdsD0 core out = true →
        exec (.penIdleSwitch core) s = .next s)) ∧
    exec (.swapSaveDone x kid herd) s = .next (s.saveDone x kid herd) ∧
    exec (.swapLoadDone x kid herd) s = .next (s.loadDone x kid herd) ∧
    exec (.shepherdEntryTake core) s = .next (s.takeEntry core) ∧
    ((s.core core).entries = [] → exec (.shepherdEntryTake core) s = .next s) ∧
    (let r := s.refreshCtx x
     let send := fun (k : Call) => if k.ctx = x ∧ k.st = .logged then { k with st := .sent } else k
     let u := if r.plat.hostUp then { r with calls := r.calls.map send } else r
     (u.ctx? x = none → exec (.syscallForward x) s = .next u) ∧
     (∀ k, u.ctx? x = some k →
       (u.nextCall k = none → exec (.syscallForward x) s = .next u) ∧
       (∀ va who z, u.nextCall k = some (va, who) →
         ((u.touchRead x k.scqPlace 16).updCtx x fun k => { k with scqN := k.scqN + 1 }).vaWrite x k.scqPlace (List.replicate 16 0) = some z →
         (z.callerOf x who = none → exec (.syscallForward x) s = .next z) ∧
         (∀ t, z.callerOf x who = some t → exec (.syscallForward x) s = .next (z.forwardCall t va))))) ∧
    ((∀ k ∈ s.calls, k.seq ≠ seq) → exec (.syscallReply seq ret err) s = .next s ∧ exec (.syscallTimeout seq) s = .next s) ∧
    (∀ k, (s.calls.find? fun k => k.seq = seq) = some k →
      (k.st = .sent ∨ k.st = .acked → exec (.syscallReply seq ret err) s =
        .next ((s.endCall k (some ret) err).2.callDone k (!(s.endCall k (some ret) err).1))) ∧
      (k.st = .logged ∨ k.st = .done → exec (.syscallReply seq ret err) s = .next s) ∧
      (k.st = .done → exec (.syscallTimeout seq) s = .next s) ∧
      (∀ y, k.st ≠ .done → s.ctx? k.ctx = some y →
        (y.sctmo ≠ 0 → exec (.syscallTimeout seq) s = .next ((s.endCall k none 0xFFFF0002).2.watchdogTrap k.gid k.lane)) ∧
        (y.sctmo = 0 → exec (.syscallTimeout seq) s = .next s))) ∧
    (let mark := fun (k : Call) => if k.seq = seq ∧ k.st = .sent then { k with st := .acked } else k
     exec (.syscallReceiptAck seq) s = .next { s with calls := s.calls.map mark }) ∧
    exec .serviceCoreWatchdog s = .next (s.calls.foldl State.recoverCall s) ∧
    (∀ k, s.ctx? x = some k →
      (k.st = .dying → (∀ r ∈ s.reqs, r.ctx ≠ x) →
        let owned := (s.l1.filter fun l => decide (l.ctx = x) && decide (l.st = .own)).map L1Word.addr
        let home := owned.foldl State.pullWord s
        let u := { home with tlb := home.tlb.filter fun t => t.ctx ≠ x, l1 := home.l1.filter fun l => l.ctx ≠ x }
        exec (.killComplete x) s = .next (((u.updCtx x fun c => { c with st := .dead }).followCtx { k with st := .dead }).post 11 0xFFFF x
          [BitVec.ofNat 64 k.root, k.reason.setWidth 64])) ∧
      (k.st ≠ .dying ∨ (∃ r ∈ s.reqs, r.ctx = x) → exec (.killComplete x) s = .next s)) ∧
    (∀ k, s.kernel? x kid = some k →
      (k.killed = false ∨ k.st = .done ∨ k.st = .faulted → exec (.ktermComplete x kid) s = .next s) ∧
      (k.killed = true → k.st ≠ .done → k.st ≠ .faulted → (∀ r ∈ s.reqs, r.ctx ≠ x) →
        exec (.ktermComplete x kid) s = .next ((s.kernelOver x kid .faulted (some 3)).serveLnch x)))

/-- The PAGE words of a privileged thread act on translations, shoot-downs, pins and fault queues as R247 to R249 give. The order of address and context, and the aux of a pin count that would leave its range, are the model's choices, log entries 32, 40 and 73 (spec/08_page.md R247, spec/08_page.md R248, spec/08_page.md R249, spec/08_page.md R245). -/
def Obligations.PageWords : Prop :=
  ∀ (s : State) (iss : Issue) (t : Thread), s.Solo iss t →
    (s.group iss.gid).priv = true → ∀ (cs : CS) (a b r k : BitVec 6),
    let g := s.group iss.gid
    let va := (rd2 t a).toNat
    let trap := fun (i : Instr) (c : Byte) => exec i s = .next (s.trapLane ⟨t.lane, c, rd2 t a, 0, 0⟩)
    let range : Nat → Sdn := fun x => ⟨s.nextId, x, va, (rd t r).toNat, decide (rd t r = 0), t.gid, t.lane⟩
    let p := pastureOf g.pcore
    let pops := fun (u : State) (ws : List W32) (c : Option Nat) => Host.Outcome.next ((u.updT t.gid t.lane fun y =>
      { y.await (Result.known y.nextRes (wrs32 a ws) 0 false) with popCore := c }).acquireCore g.pcore)
    (2 ^ 57 ≤ va → trap (.tlbinv cs a b r) 0x13 ∧ trap (.sdn cs a b r) 0x13 ∧ trap (.pin cs a b k) 0x13 ∧ trap (.unpin cs a b k) 0x13 ∧
      trap (.migr cs a b k) 0x13 ∧ trap (.fqdone cs a b k) 0x13) ∧
    (va < 2 ^ 57 → (∀ c, s.ctx? (rd t b).toNat = some c → c.alive = false) →
      exec (.tlbinv cs a b r) s = .next s ∧ exec (.sdn cs a b r) s = .next s ∧ exec (.pin cs a b k) s = .next s ∧
      exec (.unpin cs a b k) s = .next s ∧ exec (.migr cs a b k) s = .next s ∧ exec (.fqdone cs a b k) s = .next s) ∧
    (∀ c, va < 2 ^ 57 → s.ctx? (rd t b).toNat = some c → c.alive = true →
      exec (.tlbinv cs a b r) s = .next { s with tlb := s.tlb.filter fun y =>
        !(decide (y.ctx = c.id) && decide (y.core = g.pcore) && (range c.id).hits (4096 * y.vpn) (4096 * y.pages)) } ∧
      (2 ^ 57 < va + 4096 * (rd t r).toNat → trap (.sdn cs a b r) 0x13) ∧
      (va + 4096 * (rd t r).toNat ≤ 2 ^ 57 → exec (.sdn cs a b r) s =
        .next ({ s with nextId := s.nextId + 1, sdns := s.sdns ++ [range c.id] }.updT t.gid t.lane fun y => y.block (.sdn s.nextId) iss [])) ∧
      exec (.fqdone cs a b k) s = .next (s.fqDone c.id va (pageBytes k.toNat)) ∧
      (va % 65536 ≠ 0 → trap (.pin cs a b k) 0x15 ∧ trap (.unpin cs a b k) 0x15 ∧ trap (.migr cs a b k) 0x15) ∧
      (va % 65536 = 0 →
        ((∀ lvl q e, s.walk c.id va ≠ .leaf lvl q e) →
          trap (.pin cs a b k) 0x11 ∧ trap (.unpin cs a b k) 0x11 ∧ trap (.migr cs a b k) 0x11) ∧
        (∀ lvl q e, s.walk c.id va = .leaf lvl q e →
          (s.bounced c.id va (leafPages lvl e) = true ∨ pteHost e = true →
            trap (.pin cs a b k) 0x11 ∧ trap (.unpin cs a b k) 0x11 ∧ trap (.migr cs a b k) 0x11) ∧
          (s.bounced c.id va (leafPages lvl e) = false → pteHost e = false →
            let n := leafPa (leafPages lvl e) e va / 65536
            let f := s.frame n
            (255 ≤ f.pins k.toNat → trap (.pin cs a b k) 0x13) ∧
            (f.tierPins < 255 → k = 0 → exec (.pin cs a b k) s =
              .next (s.updFrame n fun f => { f with tierPins := f.tierPins + 1 })) ∧
            (f.nearPins < 255 → k = 1 → exec (.pin cs a b k) s =
              .next (s.updFrame n fun f => { f with nearPins := f.nearPins + 1, heldPromote := f.heldPromote || decide (f.st = .hbm) })) ∧
            (f.l2Pins < 255 → k = 2 → exec (.pin cs a b k) s =
              .next (s.updFrame n fun f => { f with l2Pins := f.l2Pins + 1, l2Ctx := f.l2Ctx ++ [c.id] })) ∧
            (f.pins k.toNat = 0 → trap (.unpin cs a b k) 0x13) ∧
            (0 < f.tierPins → k = 0 → f.heldEvict = false → f.waiting = false → exec (.unpin cs a b k) s =
              .next (s.updFrame n fun f => { f with tierPins := f.tierPins - 1 })) ∧
            (0 < f.nearPins → k = 1 → f.heldEvict = false → f.waiting = false → exec (.unpin cs a b k) s =
              .next (s.updFrame n fun f => { f with nearPins := f.nearPins - 1 })) ∧
            (k = 0 → exec (.migr cs a b k) s = .next (s.updFrame n fun f => { f with heldEvict := true })) ∧
            (k = 1 → exec (.migr cs a b k) s = .next (s.updFrame n fun f => { f with heldPromote := true })) ∧
            (k = 2 → exec (.migr cs a b k) s = .next (s.updFrame n fun f => { f with hot := f.hot + 1 })) ∧
            (k = 3 → exec (.migr cs a b k) s = .next (s.updFrame n fun f => { f with hot := f.hot - 1 })))))) ∧
    (∀ q e rest, s.fq[p]? = some q → q.entries = e :: rest →
      let u := { s with fq := s.fq.setIfInBounds p { q with entries := rest } }
      let l := u.logged t.gid t.lane 4 (BitVec.ofNat 64 p) (entryTag e.words) []
      exec (.fqpop cs a) s = pops u e.words (some e.pcore) ∧
      (l.1 ≠ entryTag emptyEntry → exec (.fqpopTry cs a) s = pops l.2.2 (withTag e.words l.1) (some e.pcore)) ∧
      (l.1 = entryTag emptyEntry → exec (.fqpopTry cs a) s = pops { l.2.2 with fq := s.fq } emptyEntry t.popCore)) ∧
    (∀ l : List W32, 4 ≤ l.length → withTag l (entryTag l) = l) ∧
    (∀ q, s.fq[p]? = some q → q.entries = [] →
      (let l := s.logged t.gid t.lane 4 (BitVec.ofNat 64 p) 0x0000000F00000000 []
       exec (.fqpopTry cs a) s = pops l.2.2 (withTag [0, 0, 0, 0xF, 0, 0, 0, 0] l.1) t.popCore) ∧
      exec (.fqpop cs a) s =
        .next ({ s with fq := s.fq.setIfInBounds p { q with waiters := q.waiters ++ [(t.gid, t.lane)] } }.updT t.gid t.lane fun y =>
          y.block (.fqpop a) iss (destsOf (wrs32 a [0, 0, 0, 0xF, 0, 0, 0, 0]))))

/-- First touch, ring writes, migration, L2 pin time-outs and shoot-downs: each event's next state where its rule's condition holds, and no change where it does not. Which page states count as served, the near bank, the merging of an evict with a demotion, and the order in which a frame's words switch are the model's choices of log entries 53, 55 and 73 (spec/08_page.md R237, spec/08_page.md R238, spec/08_page.md R245, spec/08_page.md R246, spec/08_page.md R247). -/
def Obligations.PageEvents : Prop :=
  ∀ (s : State) (n id : Nat) (v : W64),
    let f := s.frame n
    let sets := fun (i : Instr) (g : Frame → Frame) => exec i s = .next (s.updFrame n g)
    -- first touch (R238)
    (s.req? id = none → exec (.firstTouchServed id) s = .next s) ∧
    (∀ r, s.req? id = some r →
      (r.ft = false → exec (.firstTouchServed id) s = .next s) ∧
      (r.ft = true → ∀ acc, (acc = .read ∧ (r.kind = .read false ∨ r.kind = .ownLoad)) ∨ (acc = .write ∧ (r.kind.isWrite = true ∨ r.kind = .ownStore)) →
        (∀ pa, s.xlWalk r.ctx r.va acc = .ok pa → exec (.firstTouchServed id) s = .next (s.touched r pa acc)) ∧
        (∀ lvl k e, s.xlWalk r.ctx r.va acc = .zero lvl k e → lvl ≠ 0 ∨ s.ringReady r.src e = false →
          exec (.firstTouchServed id) s = .next (s.reqFault r 0x10 acc.bit 1)) ∧
        (∀ k e pa, s.xlWalk r.ctx r.va acc = .zero 0 k e → s.ringReady r.src e = true →
          let u := s.serveFirstTouch r.src r.ctx r.va (acc = .write)
          u.xlWalk r.ctx r.va acc = .ok pa → exec (.firstTouchServed id) s = .next (u.touched r pa acc)) ∧
        (∀ c k, s.xlWalk r.ctx r.va acc = .fault c k → exec (.firstTouchServed id) s = .next (s.reqFault r c acc.bit k)))) ∧
    (∀ r pa acc, pa < hostBase →
      let u := (s.markUsed r.ctx r.va acc).updReq r.id fun x => { x with pa := pa, ft := false }
      (∀ t, u.thread? r.gid r.lane = some t → t.hold = false) → s.touched r pa acc = u) ∧
    -- the rings (R237)
    (∀ p g, p < 4 → g < 2 →
      let q := s.ftuRing p g
      let ring := fun (r : FtuRing) => Host.Outcome.next { s with ftu := s.ftu.setIfInBounds (2 * p + g) r }
      exec (.ftuRingWrite p g true v) s =
        ring { q with tail := v.extractLsb' 21 21, low := v.extractLsb' 42 21, lowev := q.lowev && !v.getLsbD 63 } ∧
      exec (.ftuRingWrite p g false v) s = ring { q with base := v.extractLsb' 0 39, lg := v.extractLsb' 40 5 }) ∧
    (∀ p g hi, 4 ≤ p ∨ 2 ≤ g → exec (.ftuRingWrite p g hi v) s = .next s) ∧
    -- promotion (R245)
    (f.heldPromote = false → exec (.promote n) s = .next s) ∧
    (f.heldPromote = true →
      (f.st = .hbm → (s.frames.filter fun f => f.st ≠ .hbm).length < 32768 →
        exec (.promote n) s = .next (s.takeFree.2.updFrame n fun f =>
          { f with st := .promoting, bank := (s.roomyBanks[s.takeFree.1.toNat % s.roomyBanks.length]?).getD 0, heldPromote := false, waiting := false })) ∧
      (f.st = .hbm → 32768 ≤ (s.frames.filter fun f => f.st ≠ .hbm).length →
        let u := s.updFrame n fun f => { f with heldPromote := true }
        let waits := (u.frames.filter fun f => f.st = .hbm ∧ f.heldPromote).length
        let leaves := (u.frames.filter fun f => f.st = .demoting).length
        (waits ≤ leaves ∨ u.coldest = none → exec (.promote n) s = .next u) ∧
        (∀ c, leaves < waits → u.coldest = some c → exec (.promote n) s = .next (u.takeEvict c.frame))) ∧
      (f.st = .promoting ∨ f.st = .near → sets (.promote n) fun f => { f with heldPromote := false }) ∧
      (f.st = .demoting → sets (.promote n) fun f => { f with heldPromote := true })) ∧
    -- eviction (R245)
    (f.heldEvict = false → exec (.evict n) s = .next s) ∧
    (f.heldEvict = true →
      (f.st = .near → f.tierPins = 0 → f.nearPins = 0 → sets (.evict n) fun f => { f with st := .demoting, heldEvict := false }) ∧
      (f.st = .near → f.tierPins ≠ 0 ∨ f.nearPins ≠ 0 → sets (.evict n) fun f => { f with st := .near, heldEvict := false }) ∧
      (f.st = .promoting → sets (.evict n) fun f => { f with heldEvict := true }) ∧
      (f.st = .hbm ∨ f.st = .demoting → sets (.evict n) fun f => { f with heldEvict := false })) ∧
    -- the end of a copy (R245, R246)
    (f.st = .hbm ∨ f.st = .near → exec (.migrationCopyDone n) s = .next s) ∧
    (let k := f.moved + f.mid
     let waits := f.st = .promoting ∧ k = 0 ∧ f.l2Pins ≠ 0
     (waits → sets (.migrationCopyDone n) fun f => { f with waiting := true }) ∧
     (f.st = .promoting ∨ f.st = .demoting → ¬waits →
       (k < 16384 → sets (.migrationCopyDone n) fun f => { f with waiting := false, moved := k, mid := if s.wordStable n k then 1 else 0 }) ∧
       (16384 ≤ k → f.st = .demoting → sets (.migrationCopyDone n) fun f =>
         { f with moved := 0, mid := 0, st := .hbm, bank := 0, heldEvict := false }) ∧
       (16384 ≤ k → f.st = .promoting → f.heldEvict = false → sets (.migrationCopyDone n) fun f =>
         { f with moved := 0, mid := 0, st := .near, waiting := false }))) ∧
    (f.st ≠ .promoting ∨ f.waiting = false → exec (.l2PinTimeout n) s = .next s) ∧
    (f.st = .promoting → f.waiting = true → exec (.l2PinTimeout n) s = exec (.migrationCopyDone n)
      (s.updFrame n fun f => { f with fna := (f.fna ++ f.l2Ctx).dedup, l2Ctx := [], l2Pins := 0 })) ∧
    -- shoot-downs (R247)
    ((∀ x ∈ s.sdns, x.id ≠ id) → exec (.sdnComplete id) s = .next s) ∧
    (∀ x, (s.sdns.find? fun x => x.id = id) = some x →
      let ready := (∃ y ∈ s.sdns.take 16, y.id = id) ∧ ∀ r ∈ s.reqs, r.ctx = x.ctx → r.ft = false → r.dev = none → x.hits r.va r.n = false
      let u := { s with
        tlb := s.tlb.filter fun t => !(decide (t.ctx = x.ctx) && x.hits (4096 * t.vpn) (4096 * t.pages)),
        sdns := s.sdns.filter fun y => y.id ≠ id }
      (¬ready → exec (.sdnComplete id) s = .next s) ∧
      (ready → (∀ f ∈ s.flocks, f.ctx ≠ x.ctx) →
        ((s.thread? x.gid x.lane).bind Thread.wait = some (.sdn id) → exec (.sdnComplete id) s = .next (u.wake x.gid [(x.lane, [])])) ∧
        ((s.thread? x.gid x.lane).bind Thread.wait ≠ some (.sdn id) → exec (.sdnComplete id) s = .next u)) ∧
      (ready → ∀ w, w = u.flocks.foldl (fun s f => (List.range 8).foldl (fun s i => s.detachWindow x f i) s) u →
        (w.thread? x.gid x.lane).bind Thread.wait = some (.sdn id) → exec (.sdnComplete id) s = .next (w.wake x.gid [(x.lane, [])])))

/-- step, snap and ckpt of a privileged thread answer the status of R403 with its effect; a word that decodes to none traps. That snap needs no armed source, and the order of ckpt's answers, are the model's choices, log entries 71 and 42 (spec/16_debug.md R402, spec/16_debug.md R403, spec/16_debug.md R395, spec/16_debug.md R397, spec/02_encoding.md R53). -/
def Obligations.DebugWords : Prop :=
  (∀ (s : State) (w : W32), exec (.illegalInstruction w) s = .next (s.decodeTrap 0x01)) ∧
  (∀ (s : State) (iss : Issue) (t : Thread), s.Solo iss t →
    (s.group iss.gid).priv = true → ∀ (cs : CS) (a b r : BitVec 6),
    let g := s.group iss.gid
    let tells := fun (i : Instr) (v : W32) => exec i s = .next (s.give t a v)
    let x := (rd t b).toNat
    let w := fun (i : Nat) => rd t (r + BitVec.ofNat 6 i)
    let n := (w 0).toNat
    let u := s.refreshCtx n
    let answers := fun (v : W32) => exec (.ckpt cs a b r) s = .next (u.give t a v)
    (63 < x ∨ s.entryAt g.pcore x = none → tells (.step cs a b) 1) ∧
    (∀ e, x ≤ 63 → s.entryAt g.pcore x = some e →
      (e.cause ≠ 3 → e.cause ≠ 4 → tells (.step cs a b) 2) ∧
      (e.cause = 3 ∨ e.cause = 4 → exec (.step cs a b) s =
        .next (((s.updGroup e.gid fun g => { g with step := true }).releaseSub e.id).give t a 0))) ∧
    (s.trig.full = true → exec (.snap cs a b) s = .next ((s.trigger 69).give t a 1) ∧
      (s.trigger 69).trig.miss = (if s.trig.miss = BitVec.allOnes 32 then s.trig.miss else s.trig.miss + 1) ∧ (s.trigger 69).trig.recs = s.trig.recs) ∧
    (s.trig.full = false → rd2 t b = 0 → exec (.snap cs a b) s = .next ((s.trigger 69).give t a 0) ∧
      s.trigger 69 = { s with trig := { s.trig with full := true, recs := s.latch, idx := 0 } }.queueEvent ⟨6, 0xFFFF, 0, s.ptime, [s.ptime, 69]⟩) ∧
    (s.trig.full = false → rd2 t b ≠ 0 → exec (.snap cs a b) s = .next ({ s with
      trig := { s.trig with time := rd2 t b, arm := true, fired := false } }.give t a 0)) ∧
    ((∀ c, u.ctx? n = some c → c.alive = false) → answers 1) ∧
    (∀ c, u.ctx? n = some c → c.alive = true →
      (c.rec_ = false ∨ u.recording n = false → answers 2) ∧
      (c.rec_ = true → u.recording n = true →
        (1 < x → answers 4) ∧
        (x = 0 → exec (.ckpt cs a b r) s =
          .next ((u.updCtx n fun c => { c with ck := true }).updT t.gid t.lane fun y => y.block (.ckpt a n) iss [.g a])) ∧
        let halted := c.st = .stopped ∨ (c.st = .stopping ∧ (u.recCtl n).redo = true)
        (x = 1 → ¬halted → answers 5) ∧
        (x = 1 → halted →
          ((∀ k ∈ u.ckpts, ¬(k.ctx = n ∧ k.seq = w 1)) → answers 3) ∧
          (∀ k, (u.ckpts.find? fun k => k.ctx = n && k.seq = w 1) = some k →
            let go : Replay := ⟨n, w 1, (w 2).toNat, (w 3).toNat, ((w 4).extractLsb' 8 3).toNat, ((w 4).extractLsb' 0 5).toNat,
              w 6 ++ w 5, [], t.gid, t.lane, a, false, false⟩
            let past := ∃ p ∈ k.groups, go.names p = true ∧ ∃ y ∈ k.threads, y.gid = p.gid ∧ y.st ≠ .exited ∧ go.count.toNat < y.rwc.toNat
            (past → answers 5) ∧
            (¬past → exec (.ckpt cs a b r) s = .next ({ u with replays := (u.replays.filter fun (y : Replay) => y.ctx ≠ n) ++ [go] }.updT t.gid t.lane
              fun y => y.block (.ckpt a n) iss [.g a])))))))

/-- Reset, boot, power, events, snapshots, checkpoints, gating and register writes: each event's next state. The values that the model chooses at a reset, at a boot and at a register write, and the order of two power events of one reading, stand in log entries 7, 56, 62, 63 and 64 (spec/01_device.md R17, spec/01_device.md R30, spec/15_link.md R367, spec/16_debug.md R394, spec/16_debug.md R395, spec/16_debug.md R400, spec/16_debug.md R404, spec/16_debug.md R405, spec/16_debug.md R406, spec/16_debug.md R407, spec/16_debug.md R409). -/
def Obligations.PlatformEvents : Prop :=
  ∀ (s : State) (v : W64) (img : Image) (now : BitVec 16) (tj : Byte) (x : Nat),
    let capOf := fun (l : BitVec 16) => min 2800 (max 100 l.toNat)
    let cap := capOf s.pw.lim
    let data := fun (p : Power) => [p.now.setWidth 64, p.lim.setWidth 64, p.tj.setWidth 64]
    let to_ := fun (p : Power) => { s with pw := p }
    -- boot and reset (R404, R405, R406)
    (s.plat.recovery = false → exec (.recoveryImageWrite img) s = .next s) ∧
    (s.plat.recovery = true →
      (verifies img s.plat.minVersion = true → exec (.recoveryImageWrite img) s = .next { s with
        fw := memWrite [] 0 img.code, plat := { s.plat with image := some img, recovery := false }, fab := { s.fab with mesh := img.mesh } }) ∧
      (verifies img s.plat.minVersion = false → exec (.recoveryImageWrite img) s = .next { s with
        fw := [], plat := { s.plat with image := none, recovery := true } })) ∧
    (∃ u, exec (.coldReset img) s = .next u ∧ u.ctxs = [] ∧ u.threads = [] ∧ u.mem = [] ∧ u.ptime = State.reset.ptime ∧
      u.plat.minVersion = s.plat.minVersion ∧ (u.plat.image = if verifies img s.plat.minVersion then some img else none) ∧
      (verifies img s.plat.minVersion = true → u.fab.mesh = img.mesh)) ∧
    (∀ scrub, ∃ u, exec (.warmReset scrub) s = .next u ∧ u.threads = [] ∧ u.reqs = [] ∧ u.issue = none ∧
      u.ctxs.length = s.ctxs.length ∧ (∀ c ∈ u.ctxs, c.st = .dead) ∧ (∀ p ∈ u.fab.ports, p.st = .down) ∧
      (scrub = true → ∀ c ∈ u.mem, 2 ^ 39 ≤ c.1)) ∧
    (∀ nonce, exec (.spdmGetMeasurements nonce) s = .next { s with plat := { s.plat with spdm := s.plat.spdm ++ [(nonce, s.measure, Config.spdmSignature nonce s.measure)] } }) ∧
    -- power (R30, R407)
    (now.toNat ≤ cap → exec (.powerCap now) s = .next (to_ { s.pw with now := now })) ∧
    (cap < now.toNat →
      let p := { s.pw with now := now, withhold := true, capev := true }
      (s.pw.capev = true → exec (.powerCap now) s = .next (to_ p)) ∧
      (s.pw.capev = false → exec (.powerCap now) s = .next ((to_ p).post 1 0xFFFF 0 (data p)))) ∧
    (let hot := { s.pw with tj := tj }
      let p := { hot with withhold := true, thev := true }
      let q := { p with tripped := true }
      (tj.toNat < 105 → exec (.thermalThrottle tj) s = .next (to_ hot)) ∧
      (105 ≤ tj.toNat → s.pw.thev = true → exec (.thermalThrottle tj) s = .next (to_ p)) ∧
      (105 ≤ tj.toNat → s.pw.thev = false → exec (.thermalThrottle tj) s = .next ((to_ p).post 2 0xFFFF 0 (data p))) ∧
      (tj.toNat < 120 ∨ s.pw.tripped = true → exec (.thermalTrip tj) s = exec (.thermalThrottle tj) s) ∧
      (120 ≤ tj.toNat → s.pw.tripped = false → s.pw.thev = true → exec (.thermalTrip tj) s = .next ((to_ q).post 7 0xFFFF 0 (data q))) ∧
      (120 ≤ tj.toNat → s.pw.tripped = false → s.pw.thev = false → exec (.thermalTrip tj) s =
        .next ({ (to_ p).post 2 0xFFFF 0 (data p) with pw := q }.post 7 0xFFFF 0 (data q))) ∧
      exec (.thermalTripEnd tj) s = .next (to_ { hot with tripped := s.pw.tripped && decide (95 ≤ tj.toNat) })) ∧
    (let free := { s.pw with now := now, tj := tj, withhold := false }
      let held := { free with withhold := true, thev := true }
      let capped := { s.pw with now := now, withhold := true, capev := true }
      (now.toNat ≤ cap → tj.toNat < 105 → exec (.issueWithholdEnd now tj) s = .next (to_ free)) ∧
      (now.toNat ≤ cap → 105 ≤ tj.toNat → s.pw.thev = true → exec (.issueWithholdEnd now tj) s = .next (to_ held)) ∧
      (now.toNat ≤ cap → 105 ≤ tj.toNat → s.pw.thev = false → exec (.issueWithholdEnd now tj) s =
        .next ((to_ held).post 2 0xFFFF 0 (data held))) ∧
      (cap < now.toNat → tj.toNat < 105 → s.pw.capev = true → exec (.issueWithholdEnd now tj) s = .next (to_ { capped with tj := tj })) ∧
      (cap < now.toNat → tj.toNat < 105 → s.pw.capev = false → exec (.issueWithholdEnd now tj) s =
        .next { (to_ capped).post 1 0xFFFF 0 (data capped) with pw := { capped with tj := tj } })) ∧
    (let w := { s.pw with lim := v.extractLsb' 0 16, capev := s.pw.capev && !v.getLsbD 40, thev := s.pw.thev && !v.getLsbD 41 }
      let p := { w with withhold := true, capev := true }
      (cap < s.pw.now.toNat ∨ s.pw.now.toNat ≤ capOf w.lim → exec (.pwWrite v) s = .next (to_ w)) ∧
      (s.pw.now.toNat ≤ cap → capOf w.lim < s.pw.now.toNat →
        (w.capev = true → exec (.pwWrite v) s = .next (to_ p)) ∧
        (w.capev = false → exec (.pwWrite v) s = .next ((to_ p).post 1 0xFFFF 0 (data p))))) ∧
    -- snapshots (R400)
    exec (.tgWrite false v) s = .next { s with trig := { s.trig with time := v, fired := false } } ∧
    (let t := { s.trig with arm := v.getLsbD 0, src := v.extractLsb' 1 8, miss := v.extractLsb' 32 32 };
      (v.getLsbD 9 = false → exec (.tgWrite true v) s = .next { s with trig := t }) ∧
      (v.getLsbD 9 = true → exec (.tgWrite true v) s = .next { s with trig := { t with full := false, recs := [] } })) ∧
    exec .tgFullClear s = .next { s with trig := { s.trig with full := false, recs := [] } } ∧
    exec (.snapshotIndexWrite v) s = .next { s with trig := { s.trig with idx := v } } ∧
    (s.trig.arm = false ∨ s.trig.time = 0 ∨ s.trig.fired = true ∨ s.ptime.toNat < s.trig.time.toNat → exec .snapshotTimeTrigger s = .next s) ∧
    (s.trig.arm = true → s.trig.time ≠ 0 → s.trig.fired = false → s.trig.time.toNat ≤ s.ptime.toNat →
      (s.trig.full = true → exec .snapshotTimeTrigger s = .next { s with trig := { s.trig with
        fired := true, miss := if s.trig.miss = BitVec.allOnes 32 then s.trig.miss else s.trig.miss + 1 } }) ∧
      (s.trig.full = false → exec .snapshotTimeTrigger s = .next ({ s with trig := { s.trig with
        fired := true, full := true, recs := { s with trig := { s.trig with fired := true } }.latch, idx := 0 } }.queueEvent
          ⟨6, 0xFFFF, 0, s.ptime, [s.ptime, 0]⟩))) ∧
    -- the event ring (R409)
    exec (.evHeadWrite v) s = .next { s with ev := { s.ev with head := v.extractLsb' 0 17 } } ∧
    exec (.evLostClear x) s = .next { s with ev := { s.ev with lost := s.ev.lost.filter fun y => y.1 ≠ x } } ∧
    (s.evRoom = false ∨ s.ev.held = [] → exec .eventRingDrain s = .next s) ∧
    (∀ e rest, s.evRoom = true → s.ev.held = e :: rest → exec .eventRingDrain s = exec .eventRingDrain { s with
      mem := memWrite s.mem (hostBase + s.ev.base.toNat + 64 * (s.ev.tail.toNat % 2 ^ s.ev.lg)) e.bytes
      ev := { s.ev with held := rest, tail := s.ev.tail + 1, msix := s.ev.msix + 1 } }) ∧
    -- checkpoints of the record's own accord (R394, R395)
    (s.ctx? x = none → exec (.checkpointAuto x) s = .next s) ∧
    (let u := s.refreshCtx x;
      ((∀ c, u.ctx? x = some c → c.st ≠ .live ∨ c.ck = true) ∨ u.recording x = false ∨ u.replaying x = true ∨ u.rwcSum x < (u.recCtl x).next →
        exec (.checkpointAuto x) s = .next u) ∧
      (∀ c, u.ctx? x = some c → c.st = .live → c.ck = false → u.recording x = true → u.replaying x = false → (u.recCtl x).next ≤ u.rwcSum x →
        exec (.checkpointAuto x) s =
          .next ((u.setRec { u.recCtl x with next := (u.rwcSum x / 2 ^ 24 + 1) * 2 ^ 24 }).updCtx x fun c => { c with ck := true }))) ∧
    -- power gates (R17)
    (32 ≤ x → exec (.coreGateWrite x v) s = .next s) ∧
    (x < 32 →
      let mine := (List.range 64).map fun i => 64 * x + i
      exec (.coreGateWrite x v) s = .next ((List.range 64).foldl (fun u i => u.gateCore (64 * x + i) (v.getLsbD i)) { s with
        plat := { s.plat with gateReq := (s.plat.gateReq.filter fun c => !mine.contains c) ++ mine.filter fun c => v.getLsbD (c % 64) } })) ∧
    ((s.core x).gated = true → s.gateCore x false = s.updCore x fun c => { c with gated := false }) ∧
    ((s.core x).gated = false → s.gateCore x false = s) ∧
    ((s.core x).gated = true ∨ (s.core x).pen0.st ≠ .empty ∨ (s.core x).pen1.st ≠ .empty → s.gateCore x true = s) ∧
    ((s.core x).gated = false → (s.core x).pen0.st = .empty → (s.core x).pen1.st = .empty → (∀ l ∈ s.l1, l.core ≠ x) → s.gateCore x true =
      { s.updCore x fun c => { c with gated := true } with tlb := s.tlb.filter fun t => t.core ≠ x }) ∧
    -- registers that only hold a value (R367)
    (x % 8 ≠ 0 → exec (.registerWrite x v) s = .next s) ∧
    (s.plat.image.isSome = true →
      exec (.registerWrite 0x500 v) s = .next { s with ev := { s.ev with base := v } } ∧
      exec (.registerWrite 0x508 v) s = .next { s with ev := { s.ev with lg := v.toNat } } ∧
      (∀ n, n < 24 → ∃ u, exec (.registerWrite (0x900 + 16 * n) v) s = .next u ∧ (u.port n).retry = v.extractLsb' 16 16 ∧
        (u.port n).en = v.getLsbD 3 ∧ (v.getLsbD 3 = false → (u.port n).st = .down) ∧
        (v.getLsbD 3 = true → (u.port n).st = if (s.port n).st = .down then .training else (s.port n).st)) ∧
      exec (.registerWrite 0xA80 v) s = .next { s with fab := { s.fab with cfg := { s.fab.cfg with sx := v.toNat } } } ∧
      exec (.registerWrite 0xA98 v) s = .next { s with fab := { s.fab with cfg := { s.fab.cfg with dev := v.toNat % 4096 } } } ∧
      exec (.registerWrite 0x1000 v) s = .next { s with plat := { s.plat with ctxSel := v } } ∧
      exec (.registerWrite 0x1010 v) s = .next { s with plat := { s.plat with ctxArg := v } })

/-- Every well-formed instruction decodes from its encoded word to itself, and every word that decodes is the encoding of what it decodes to (spec/02_encoding.md R31, spec/02_encoding.md R48, spec/02_encoding.md R53). -/
def Obligations.DecodeEncode : Prop :=
  (∀ (i : Instr) (w : W32), wf i = true → encode i = some w → decode w = .ok i) ∧
  (∀ (i : Instr) (w : W32), decode w = .ok i → encode i = some w) ∧
  (∀ (i j : Instr) (w : W32), wf i = true → wf j = true → encode i = some w → encode j = some w → i = j)

/-- Words written out from the encoding tables decode to the instructions that they stand for (spec/02_encoding.md R48, spec/02_encoding.md R53). -/
def Obligations.SampleWords : Prop :=
  let is := fun (w : W32) (i : Instr) => decode w = .ok i
  is 0x08185100 (.add ⟨false, false⟩ 6 5 4) ∧
  is 0x8600048D (.imx ⟨true, false⟩ 0x48D) ∧
  is 0x07145678 (.movi ⟨false, false⟩ 5 0x5678) ∧
  is 0x090C31FF (.addi ⟨false, false⟩ 3 3 0x1FF) ∧
  is 0x0F10518A (.sel ⟨false, false⟩ 4 5 6 1 2) ∧
  is 0x17042112 (.fcmpF64 ⟨false, false⟩ 1 2 4 2) ∧
  is 0x19105083 (.frndF32 ⟨false, false⟩ 4 5 2) ∧
  is 0x1A105263 (.cvtTd8F32 ⟨false, false⟩ 4 5 1 1) ∧
  is 0x2010312C (.ld ⟨false, false⟩ 4 3 2 2 3 0) ∧
  is 0x60206124 (.ld ⟨false, true⟩ 8 6 2 2 1 0) ∧
  is 0x2128613E (.st ⟨false, false⟩ 10 6 2 3 3 2) ∧
  is 0x24106201 (.atomAddN32 ⟨false, false⟩ 4 6 8 1) ∧
  is 0x26000000 (.fence ⟨false, false⟩) ∧
  is 0x40040006 (.rds ⟨false, true⟩ 1 0) ∧
  is 0x013FFFFE (.br ⟨false, false⟩ 0 3 0xFFFFE) ∧
  is 0x03000005 (.call ⟨false, false⟩ 5) ∧
  is 0x0510519A (.redAddF32 ⟨false, false⟩ 4 5 6) ∧
  is 0x0520C0A8 (.vmrgLoN64 ⟨false, false⟩ 8 12 2) ∧
  is 0x280C5000 (.hsel ⟨false, false⟩ 3 5) ∧
  is 0x29006140 (.barInit ⟨false, false⟩ 6 5) ∧
  is 0x2D408180 (.cpy ⟨false, false⟩ 16 8 6) ∧
  is 0x2E000082 (.waitc ⟨false, false⟩ 2 2) ∧
  is 0x3028F048 (.mmaPt ⟨false, false⟩ 2 2 15 0 1 2) ∧
  is 0x32108140 (.osend ⟨false, false⟩ 4 8 5) ∧
  is 0x33106001 (.lnch ⟨false, false⟩ 4 6) ∧
  is 0x38105181 (.sigdl ⟨false, false⟩ 4 5 6) ∧
  is 0x39106042 (.pin ⟨false, false⟩ 4 6 1) ∧
  is 0x3A105202 (.ckpt ⟨false, false⟩ 4 5 8) ∧
  decode 0x3F000000 = .error .major

/-- A cold reset leaves the pod time, the scheduler control, the ports and the power limit at the values of their tables, and nothing else listed. That unlisted memory is all of memory, and what firmware the device holds, are the model's choices, log entries 6 and 7 (spec/15_link.md R375, spec/16_debug.md R405, spec/15_link.md R365, spec/13_queue.md R329, spec/16_debug.md R407, spec/16_debug.md R400, spec/03_formats.md R77, spec/05_group.md R143). -/
def Obligations.ResetValues : Prop :=
  let s := State.reset
  s.ptime = 0 ∧ s.Canonical ∧ s.mem = [] ∧ s.ctxs = [] ∧ s.kernels = [] ∧ s.threads = [] ∧ s.reqs = [] ∧ s.dir = [] ∧ s.ev.held = [] ∧
  (∀ n, n < 24 → (s.port n).st = .down ∧ (s.port n).en = true ∧ (s.port n).retry = 0 ∧ (s.port n).delay = 0) ∧
  (s.sched.quantum = 2000 ∧ s.sched.d0cores = 1024 ∧ s.sched.d0bw = 12 ∧ s.sched.d0pw = 1400) ∧
  (s.pw.lim = 2800 ∧ s.pw.capev = false ∧ s.pw.thev = false) ∧
  (s.trig.time = 0 ∧ s.trig.arm = false ∧ s.trig.src = 0 ∧ s.trig.full = false ∧ s.trig.miss = 0) ∧
  (∀ gid lane pkt, let t := Thread.fresh gid lane pkt
    t.fpctl = 0 ∧ t.fpstat = 0 ∧ t.rwc = 0 ∧ (∀ r, t.regs.g.get r = 0) ∧ (∀ r, t.regs.p.get r = decide (r = 7)))

/-- Every store to device memory keeps its canonical form, reads back its bytes, and leaves every other address as it was; so does the copy of a mirrored write in a scratchpad. The canonical form, the addresses of host memory and what unlisted memory reads as are the model's own, of log entries 6 and 7 (spec/00_scope.md R3, spec/06_memory.md R181). -/
def Obligations.StoresKeepMemoryCanonical : Prop :=
  (∀ (m : Memory) (a : Nat) (bs : List Byte), Memory.wf m = true →
    Memory.wf (memWrite m a bs) = true ∧ memRead (memWrite m a bs) a bs.length = bs ∧
    (∀ b, b < a ∨ a + bs.length ≤ b → memGet (memWrite m a bs) b = memGet m b)) ∧
  (∀ m n : Memory, Memory.wf m = true → Memory.wf n = true → (∀ a, memGet m a = memGet n a) → m = n) ∧
  (∀ (s : State) (w : Nat), s.Canonical → (s.pullWord w).Canonical ∧
    ∀ b, b < w ∨ w + 4 ≤ b → memGet (s.pullWord w).mem b = memGet s.mem b) ∧
  (∀ (s : State) (ctx pa : Nat) (bs : List Byte), s.Canonical →
    let u := s.cohWrite ctx pa bs
    u.Canonical ∧
    (s.recording ctx = false → (∀ m ∈ s.mons, m.fid = none → m.addr + m.n ≤ pa ∨ pa + bs.length ≤ m.addr) →
      memRead u.mem pa bs.length = bs ∧
      ∀ b, b < pa / 4 * 4 ∨ (pa + bs.length + 3) / 4 * 4 ≤ b → memGet u.mem b = memGet s.mem b)) ∧
  (∀ (s : State) (fid win : Nat) (f : Flock) (w : Window) (v : Update) (rest : List Update),
    s.flock? fid = some f → f.wins[win]? = some w → w.st = .active → w.updates = v :: rest → f.waiters = [] → s.mons = [] →
    (∀ x ∈ s.flocks, Memory.wf x.scr = true) → (∀ t ∈ s.threads, ∀ i q, t.wait ≠ some (.mwsync i q)) →
    let d := v.data.take (w.len - v.off)
    let off := w.scr + v.off
    ∃ k, (s.mirrorUpdate fid win).flock? fid = some k ∧ Memory.wf k.scr = true ∧
      (∀ i, i < d.length → k.scrByte (off + i) = (d[i]?).getD 0) ∧
      (∀ a, a < off ∨ off + d.length ≤ a → k.scrByte a = f.scrByte a) ∧ (s.mirrorUpdate fid win).mem = s.mem) ∧
  State.reset.Canonical ∧ State.reset.mem = []

/-- A step runs the instruction that the next word decodes to: of the open chain, or of the chain that a core's turn opens. What one step is, and the order of turns, are the model's choices, log entries 1, 2 and 10 (spec/02_encoding.md R33, spec/02_encoding.md R35, spec/02_encoding.md R70, spec/13_queue.md R334). -/
def Obligations.StepRunsDecodedWord : Prop :=
  ∀ (s : State), s.plat.image.isSome = true → s.pw.tripped = false → s.urgent = [] → (∀ t ∈ s.threads, t.podErr = []) →
    let after := fun (o : Out) => match o with
      | .next t => Host.Outcome.next t.nextWord.settle
      | r => r
    (∀ iss, s.issue = some iss → iss.lanes ≠ 0 → s.openWaits = false →
      (∀ i, decode iss.word = .ok i → step s = after (exec i s)) ∧
      (∀ e, decode iss.word = .error e → step s = after (exec (.illegalInstruction iss.word) s))) ∧
    (∀ core rest g f t ws u w l, s.issue = none → s.agenda = .core core :: rest → (∀ x ∈ s.threads, x.pend = [] ∧ x.conts = []) →
      let b := { s with agenda := rest }
      b.pick core = some (g, f) → b.thread? g.gid (lowestLane f.lanes) = some t → b.fetch g t.pkt = (.words ws, u) →
      chainFrom ws t.slot = w :: l → chainTrap g.priv g.regsN (w :: l) t.slot = none → f.lanes ≠ 0 → u.threads = s.threads →
      let opened := { (u.countIssue g f.lanes).snapLanes g.gid f.lanes with issue := some { Issue.start g.gid f.lanes t.pkt t.slot (w :: l) with step := g.step } }
      ∀ i, decode w = .ok i → step s = after (exec i opened)) ∧
    (∀ (g : Group) (pkt : W32), let off := 12 * pkt.toNat
      (∀ img, g.shep = true → s.plat.image = some img → off + 12 ≤ img.size → s.fetch g pkt = (.words (wordsOfBytes (memRead s.fw off 12)), s)) ∧
      (∀ pa u, g.shep = false → s.usable g g.code = true → off + 12 ≤ heLen g.code.ent → heRight g.code.ent 2 = true →
        (heBase g.code.ent + off) % 4096 ≤ 4084 → s.codeByte g (heBase g.code.ent + off) = (.ok pa, u) →
        s.fetch g pkt = (.words (wordsOfBytes (u.cohRead pa 12)), u)))

/-- An integer word that the examination of its chain admits changes only its destination registers, in the issuing lanes (spec/02_encoding.md R45, spec/02_encoding.md R49, spec/04_arith.md R112). -/
def Obligations.IntegerFrame : Prop :=
  ∀ (s : State) (iss : Issue), s.issue = some iss → ∀ (i : Instr) (w : W32), encode i = some w →
    7 ≤ (majOf w).toNat → (majOf w).toNat ≤ 15 →
    (∀ cs d a j, i = .shli cs d a j ∨ i = .shri cs d a j ∨ i = .sari cs d a j →
      let imm : Int := match iss.imm with | some p => (p ++ j).toInt | none => j.toInt
      0 ≤ imm ∧ imm ≤ 31) →
    (∀ cs d a b, i = .bfn3 cs d a b → iss.imm.isSome = true) →
    ∃ u, exec i s = .next u ∧ OnlyThreads s u ∧ u.threads.length = s.threads.length ∧
      ∀ (k : Nat) (t v : Thread), s.threads[k]? = some t → u.threads[k]? = some v →
        (t.inMask iss.gid iss.lanes = false → v = t) ∧
        SameStanding t v ∧ RegsOutside (dests i) t.regs v.regs ∧
        v.fpstat = t.fpstat ∧ v.outst = t.outst ∧ v.pend = t.pend ∧ v.regs.p.get 7 = t.regs.p.get 7
end

