-- ==== Sys2Proof/Laws/Encoding.lean ====
section
/-! SUPPORT. The fields of a packed word, and a word as its fields pack it. -/
namespace Sys2Proof

@[simp] theorem majOf_pack (cs : CS) (m d a b f : Fld) : majOf (pack cs m d a b f) = m := by
  apply BitVec.eq_of_getLsbD_eq; intro i hi; interval_cases i <;> simp only [majOf, pack, BitVec.getLsbD_extractLsb', BitVec.getLsbD_append] <;> simp
@[simp] theorem fldD_pack (cs : CS) (m d a b f : Fld) : fldD (pack cs m d a b f) = d := by
  apply BitVec.eq_of_getLsbD_eq; intro i hi; interval_cases i <;> simp only [fldD, pack, BitVec.getLsbD_extractLsb', BitVec.getLsbD_append] <;> simp
@[simp] theorem fldA_pack (cs : CS) (m d a b f : Fld) : fldA (pack cs m d a b f) = a := by
  apply BitVec.eq_of_getLsbD_eq; intro i hi; interval_cases i <;> simp only [fldA, pack, BitVec.getLsbD_extractLsb', BitVec.getLsbD_append] <;> simp
@[simp] theorem fldB_pack (cs : CS) (m d a b f : Fld) : fldB (pack cs m d a b f) = b := by
  apply BitVec.eq_of_getLsbD_eq; intro i hi; interval_cases i <;> simp only [fldB, pack, BitVec.getLsbD_extractLsb', BitVec.getLsbD_append] <;> simp
@[simp] theorem fldF_pack (cs : CS) (m d a b f : Fld) : fldF (pack cs m d a b f) = f := by
  apply BitVec.eq_of_getLsbD_eq; intro i hi; interval_cases i <;> simp only [fldF, pack, BitVec.getLsbD_extractLsb', BitVec.getLsbD_append] <;> simp
@[simp] theorem csOf_pack (cs : CS) (m d a b f : Fld) : csOf (pack cs m d a b f) = cs := by
  cases cs with | mk c s => cases c <;> cases s <;> simp only [csOf, pack, BitVec.getLsbD_append] <;> simp
/-- A word is what its fields pack to. -/
theorem pack_fields (w : W32) : pack (csOf w) (majOf w) (fldD w) (fldA w) (fldB w) (fldF w) = w := by
  apply BitVec.eq_of_getLsbD_eq; intro i hi
  interval_cases i <;> simp only [pack, csOf, majOf, fldD, fldA, fldB, fldF, BitVec.getLsbD_append, BitVec.getLsbD_extractLsb'] <;> simp

/-! The parts of fields side by side; the widths are those of the encodings. -/

theorem extract_hi {n m : Nat} (a : BitVec n) (b : BitVec m) : (a ++ b).extractLsb' m n = a := by
  apply BitVec.eq_of_getLsbD_eq; intro i hi
  simp [BitVec.getLsbD_append, hi]
theorem extract_lo {n m : Nat} (a : BitVec n) (b : BitVec m) : (a ++ b).extractLsb' 0 m = b := by
  apply BitVec.eq_of_getLsbD_eq; intro i hi
  simp [BitVec.getLsbD_append, hi]
@[simp] theorem hi_3_3 (a : BitVec 3) (b : BitVec 3) : BitVec.extractLsb' 3 3 (a ++ b : BitVec 6) = a := extract_hi a b
@[simp] theorem lo_3_3 (a : BitVec 3) (b : BitVec 3) : BitVec.extractLsb' 0 3 (a ++ b : BitVec 6) = b := extract_lo a b
@[simp] theorem hi_1_5 (a : BitVec 1) (b : BitVec 5) : BitVec.extractLsb' 5 1 (a ++ b : BitVec 6) = a := extract_hi a b
@[simp] theorem lo_1_5 (a : BitVec 1) (b : BitVec 5) : BitVec.extractLsb' 0 5 (a ++ b : BitVec 6) = b := extract_lo a b
@[simp] theorem hi_2_4 (a : BitVec 2) (b : BitVec 4) : BitVec.extractLsb' 4 2 (a ++ b : BitVec 6) = a := extract_hi a b
@[simp] theorem lo_2_4 (a : BitVec 2) (b : BitVec 4) : BitVec.extractLsb' 0 4 (a ++ b : BitVec 6) = b := extract_lo a b
@[simp] theorem hi_4_2 (a : BitVec 4) (b : BitVec 2) : BitVec.extractLsb' 2 4 (a ++ b : BitVec 6) = a := extract_hi a b
@[simp] theorem lo_4_2 (a : BitVec 4) (b : BitVec 2) : BitVec.extractLsb' 0 2 (a ++ b : BitVec 6) = b := extract_lo a b
@[simp] theorem hi_5_1 (a : BitVec 5) (b : BitVec 1) : BitVec.extractLsb' 1 5 (a ++ b : BitVec 6) = a := extract_hi a b
@[simp] theorem lo_5_1 (a : BitVec 5) (b : BitVec 1) : BitVec.extractLsb' 0 1 (a ++ b : BitVec 6) = b := extract_lo a b
@[simp] theorem top_1_3_2 (x : BitVec 1) (y : BitVec 3) (z : BitVec 2) : BitVec.extractLsb' 5 1 (x ++ y ++ z : BitVec 6) = x := by
  revert x y z; decide
@[simp] theorem mid_1_3_2 (x : BitVec 1) (y : BitVec 3) (z : BitVec 2) : BitVec.extractLsb' 2 3 (x ++ y ++ z : BitVec 6) = y := by
  revert x y z; decide
@[simp] theorem low_1_3_2 (x : BitVec 1) (y : BitVec 3) (z : BitVec 2) : BitVec.extractLsb' 0 2 (x ++ y ++ z : BitVec 6) = z := by
  revert x y z; decide
@[simp] theorem top_2_1_3 (x : BitVec 2) (y : BitVec 1) (z : BitVec 3) : BitVec.extractLsb' 4 2 (x ++ y ++ z : BitVec 6) = x := by
  revert x y z; decide
@[simp] theorem mid_2_1_3 (x : BitVec 2) (y : BitVec 1) (z : BitVec 3) : BitVec.extractLsb' 3 1 (x ++ y ++ z : BitVec 6) = y := by
  revert x y z; decide
@[simp] theorem low_2_1_3 (x : BitVec 2) (y : BitVec 1) (z : BitVec 3) : BitVec.extractLsb' 0 3 (x ++ y ++ z : BitVec 6) = z := by
  revert x y z; decide
@[simp] theorem top_2_2_2 (x : BitVec 2) (y : BitVec 2) (z : BitVec 2) : BitVec.extractLsb' 4 2 (x ++ y ++ z : BitVec 6) = x := by
  revert x y z; decide
@[simp] theorem mid_2_2_2 (x : BitVec 2) (y : BitVec 2) (z : BitVec 2) : BitVec.extractLsb' 2 2 (x ++ y ++ z : BitVec 6) = y := by
  revert x y z; decide
@[simp] theorem low_2_2_2 (x : BitVec 2) (y : BitVec 2) (z : BitVec 2) : BitVec.extractLsb' 0 2 (x ++ y ++ z : BitVec 6) = z := by
  revert x y z; decide
@[simp] theorem top_1_2_3 (x : BitVec 1) (y : BitVec 2) (z : BitVec 3) : BitVec.extractLsb' 5 1 (x ++ y ++ z : BitVec 6) = x := by
  revert x y z; decide
@[simp] theorem mid_1_2_3 (x : BitVec 1) (y : BitVec 2) (z : BitVec 3) : BitVec.extractLsb' 3 2 (x ++ y ++ z : BitVec 6) = y := by
  revert x y z; decide
@[simp] theorem low_1_2_3 (x : BitVec 1) (y : BitVec 2) (z : BitVec 3) : BitVec.extractLsb' 0 3 (x ++ y ++ z : BitVec 6) = z := by
  revert x y z; decide
@[simp] theorem top_3_1_2 (x : BitVec 3) (y : BitVec 1) (z : BitVec 2) : BitVec.extractLsb' 3 3 (x ++ y ++ z : BitVec 6) = x := by
  revert x y z; decide
@[simp] theorem mid_3_1_2 (x : BitVec 3) (y : BitVec 1) (z : BitVec 2) : BitVec.extractLsb' 2 1 (x ++ y ++ z : BitVec 6) = y := by
  revert x y z; decide
@[simp] theorem low_3_1_2 (x : BitVec 3) (y : BitVec 1) (z : BitVec 2) : BitVec.extractLsb' 0 2 (x ++ y ++ z : BitVec 6) = z := by
  revert x y z; decide
@[simp] theorem top_2_3_1 (x : BitVec 2) (y : BitVec 3) (z : BitVec 1) : BitVec.extractLsb' 4 2 (x ++ y ++ z : BitVec 6) = x := by
  revert x y z; decide
@[simp] theorem mid_2_3_1 (x : BitVec 2) (y : BitVec 3) (z : BitVec 1) : BitVec.extractLsb' 1 3 (x ++ y ++ z : BitVec 6) = y := by
  revert x y z; decide
@[simp] theorem low_2_3_1 (x : BitVec 2) (y : BitVec 3) (z : BitVec 1) : BitVec.extractLsb' 0 1 (x ++ y ++ z : BitVec 6) = z := by
  revert x y z; decide
@[simp] theorem cut_24 (x : BitVec 24) : x.extractLsb' 18 6 ++ x.extractLsb' 12 6 ++ x.extractLsb' 6 6 ++ x.extractLsb' 0 6 = x := by
  apply BitVec.eq_of_getLsbD_eq; intro i hi
  interval_cases i <;> simp only [BitVec.getLsbD_append, BitVec.getLsbD_extractLsb'] <;> simp
@[simp] theorem cut_20 (x : BitVec 20) : x.extractLsb' 18 2 ++ x.extractLsb' 12 6 ++ x.extractLsb' 6 6 ++ x.extractLsb' 0 6 = x := by
  apply BitVec.eq_of_getLsbD_eq; intro i hi
  interval_cases i <;> simp only [BitVec.getLsbD_append, BitVec.getLsbD_extractLsb'] <;> simp
@[simp] theorem cut_18 (x : BitVec 18) : x.extractLsb' 12 6 ++ x.extractLsb' 6 6 ++ x.extractLsb' 0 6 = x := by
  apply BitVec.eq_of_getLsbD_eq; intro i hi
  interval_cases i <;> simp only [BitVec.getLsbD_append, BitVec.getLsbD_extractLsb'] <;> simp
@[simp] theorem cut_9 (x : BitVec 9) : x.extractLsb' 6 3 ++ x.extractLsb' 0 6 = x := by
  apply BitVec.eq_of_getLsbD_eq; intro i hi
  interval_cases i <;> simp only [BitVec.getLsbD_append, BitVec.getLsbD_extractLsb'] <;> simp
@[simp] theorem cut_3 (x : BitVec 3) : x.extractLsb' 2 1 ++ x.extractLsb' 0 2 = x := by
  apply BitVec.eq_of_getLsbD_eq; intro i hi
  interval_cases i <;> simp only [BitVec.getLsbD_append, BitVec.getLsbD_extractLsb'] <;> simp

/-! A field put together from its parts. -/

theorem join_3_3 (x : BitVec 6) : x.extractLsb' 3 3 ++ x.extractLsb' 0 3 = x := by revert x; decide
theorem join_1_5 (x : BitVec 6) : x.extractLsb' 5 1 ++ x.extractLsb' 0 5 = x := by revert x; decide
theorem join_2_4 (x : BitVec 6) : x.extractLsb' 4 2 ++ x.extractLsb' 0 4 = x := by revert x; decide
theorem join_4_2 (x : BitVec 6) : x.extractLsb' 2 4 ++ x.extractLsb' 0 2 = x := by revert x; decide
theorem join_5_1 (x : BitVec 6) : x.extractLsb' 1 5 ++ x.extractLsb' 0 1 = x := by revert x; decide
theorem join_1_3_2 (x : BitVec 6) : x.extractLsb' 5 1 ++ x.extractLsb' 2 3 ++ x.extractLsb' 0 2 = x := by revert x; decide
theorem join_2_1_3 (x : BitVec 6) : x.extractLsb' 4 2 ++ x.extractLsb' 3 1 ++ x.extractLsb' 0 3 = x := by revert x; decide
theorem join_2_2_2 (x : BitVec 6) : x.extractLsb' 4 2 ++ x.extractLsb' 2 2 ++ x.extractLsb' 0 2 = x := by revert x; decide

end Sys2Proof
end

