-- ==== Sys2Proof/Laws/State.lean ====
section
/-! SUPPORT. The fields of the state after each named update: one lemma per field, so that no proof unfolds an update. -/
namespace Sys2Proof.Machine

/-! ### `updT` -/

@[simp] theorem State.updT_agenda (s : State) (gid lane : Nat) (f : Thread → Thread) : (s.updT gid lane f).agenda = s.agenda := rfl
@[simp] theorem State.updT_issue (s : State) (gid lane : Nat) (f : Thread → Thread) : (s.updT gid lane f).issue = s.issue := rfl
@[simp] theorem State.updT_ptime (s : State) (gid lane : Nat) (f : Thread → Thread) : (s.updT gid lane f).ptime = s.ptime := rfl
@[simp] theorem State.updT_clock (s : State) (gid lane : Nat) (f : Thread → Thread) : (s.updT gid lane f).clock = s.clock := rfl
@[simp] theorem State.updT_free (s : State) (gid lane : Nat) (f : Thread → Thread) : (s.updT gid lane f).free = s.free := rfl
@[simp] theorem State.updT_nextId (s : State) (gid lane : Nat) (f : Thread → Thread) : (s.updT gid lane f).nextId = s.nextId := rfl
@[simp] theorem State.updT_mem (s : State) (gid lane : Nat) (f : Thread → Thread) : (s.updT gid lane f).mem = s.mem := rfl
@[simp] theorem State.updT_fw (s : State) (gid lane : Nat) (f : Thread → Thread) : (s.updT gid lane f).fw = s.fw := rfl
@[simp] theorem State.updT_threads (s : State) (gid lane : Nat) (f : Thread → Thread) : (s.updT gid lane f).threads = s.threads.map fun t => if t.is gid lane then f t else t := rfl
@[simp] theorem State.updT_groups (s : State) (gid lane : Nat) (f : Thread → Thread) : (s.updT gid lane f).groups = s.groups := rfl
@[simp] theorem State.updT_insts (s : State) (gid lane : Nat) (f : Thread → Thread) : (s.updT gid lane f).insts = s.insts := rfl
@[simp] theorem State.updT_subs (s : State) (gid lane : Nat) (f : Thread → Thread) : (s.updT gid lane f).subs = s.subs := rfl
@[simp] theorem State.updT_recorded (s : State) (gid lane : Nat) (f : Thread → Thread) : (s.updT gid lane f).recorded = s.recorded := rfl
@[simp] theorem State.updT_flocks (s : State) (gid lane : Nat) (f : Thread → Thread) : (s.updT gid lane f).flocks = s.flocks := rfl
@[simp] theorem State.updT_herds (s : State) (gid lane : Nat) (f : Thread → Thread) : (s.updT gid lane f).herds = s.herds := rfl
@[simp] theorem State.updT_kernels (s : State) (gid lane : Nat) (f : Thread → Thread) : (s.updT gid lane f).kernels = s.kernels := rfl
@[simp] theorem State.updT_ctxs (s : State) (gid lane : Nat) (f : Thread → Thread) : (s.updT gid lane f).ctxs = s.ctxs := rfl
@[simp] theorem State.updT_cores (s : State) (gid lane : Nat) (f : Thread → Thread) : (s.updT gid lane f).cores = s.cores := rfl
@[simp] theorem State.updT_l1 (s : State) (gid lane : Nat) (f : Thread → Thread) : (s.updT gid lane f).l1 = s.l1 := rfl
@[simp] theorem State.updT_tlb (s : State) (gid lane : Nat) (f : Thread → Thread) : (s.updT gid lane f).tlb = s.tlb := rfl
@[simp] theorem State.updT_reqs (s : State) (gid lane : Nat) (f : Thread → Thread) : (s.updT gid lane f).reqs = s.reqs := rfl
@[simp] theorem State.updT_dir (s : State) (gid lane : Nat) (f : Thread → Thread) : (s.updT gid lane f).dir = s.dir := rfl
@[simp] theorem State.updT_persist (s : State) (gid lane : Nat) (f : Thread → Thread) : (s.updT gid lane f).persist = s.persist := rfl
@[simp] theorem State.updT_refusals (s : State) (gid lane : Nat) (f : Thread → Thread) : (s.updT gid lane f).refusals = s.refusals := rfl
@[simp] theorem State.updT_msgs (s : State) (gid lane : Nat) (f : Thread → Thread) : (s.updT gid lane f).msgs = s.msgs := rfl
@[simp] theorem State.updT_grains (s : State) (gid lane : Nat) (f : Thread → Thread) : (s.updT gid lane f).grains = s.grains := rfl
@[simp] theorem State.updT_mons (s : State) (gid lane : Nat) (f : Thread → Thread) : (s.updT gid lane f).mons = s.mons := rfl
@[simp] theorem State.updT_proxy (s : State) (gid lane : Nat) (f : Thread → Thread) : (s.updT gid lane f).proxy = s.proxy := rfl
@[simp] theorem State.updT_mirrors (s : State) (gid lane : Nat) (f : Thread → Thread) : (s.updT gid lane f).mirrors = s.mirrors := rfl
@[simp] theorem State.updT_ops (s : State) (gid lane : Nat) (f : Thread → Thread) : (s.updT gid lane f).ops = s.ops := rfl
@[simp] theorem State.updT_tileOrder (s : State) (gid lane : Nat) (f : Thread → Thread) : (s.updT gid lane f).tileOrder = s.tileOrder := rfl
@[simp] theorem State.updT_holds (s : State) (gid lane : Nat) (f : Thread → Thread) : (s.updT gid lane f).holds = s.holds := rfl
@[simp] theorem State.updT_ftu (s : State) (gid lane : Nat) (f : Thread → Thread) : (s.updT gid lane f).ftu = s.ftu := rfl
@[simp] theorem State.updT_fq (s : State) (gid lane : Nat) (f : Thread → Thread) : (s.updT gid lane f).fq = s.fq := rfl
@[simp] theorem State.updT_bounce (s : State) (gid lane : Nat) (f : Thread → Thread) : (s.updT gid lane f).bounce = s.bounce := rfl
@[simp] theorem State.updT_frames (s : State) (gid lane : Nat) (f : Thread → Thread) : (s.updT gid lane f).frames = s.frames := rfl
@[simp] theorem State.updT_sdns (s : State) (gid lane : Nat) (f : Thread → Thread) : (s.updT gid lane f).sdns = s.sdns := rfl
@[simp] theorem State.updT_calls (s : State) (gid lane : Nat) (f : Thread → Thread) : (s.updT gid lane f).calls = s.calls := rfl
@[simp] theorem State.updT_callSeq (s : State) (gid lane : Nat) (f : Thread → Thread) : (s.updT gid lane f).callSeq = s.callSeq := rfl
@[simp] theorem State.updT_sched (s : State) (gid lane : Nat) (f : Thread → Thread) : (s.updT gid lane f).sched = s.sched := rfl
@[simp] theorem State.updT_rot (s : State) (gid lane : Nat) (f : Thread → Thread) : (s.updT gid lane f).rot = s.rot := rfl
@[simp] theorem State.updT_qlast (s : State) (gid lane : Nat) (f : Thread → Thread) : (s.updT gid lane f).qlast = s.qlast := rfl
@[simp] theorem State.updT_lnchq (s : State) (gid lane : Nat) (f : Thread → Thread) : (s.updT gid lane f).lnchq = s.lnchq := rfl
@[simp] theorem State.updT_qerr (s : State) (gid lane : Nat) (f : Thread → Thread) : (s.updT gid lane f).qerr = s.qerr := rfl
@[simp] theorem State.updT_qeff (s : State) (gid lane : Nat) (f : Thread → Thread) : (s.updT gid lane f).qeff = s.qeff := rfl
@[simp] theorem State.updT_cpls (s : State) (gid lane : Nat) (f : Thread → Thread) : (s.updT gid lane f).cpls = s.cpls := rfl
@[simp] theorem State.updT_fab (s : State) (gid lane : Nat) (f : Thread → Thread) : (s.updT gid lane f).fab = s.fab := rfl
@[simp] theorem State.updT_recs (s : State) (gid lane : Nat) (f : Thread → Thread) : (s.updT gid lane f).recs = s.recs := rfl
@[simp] theorem State.updT_ckpts (s : State) (gid lane : Nat) (f : Thread → Thread) : (s.updT gid lane f).ckpts = s.ckpts := rfl
@[simp] theorem State.updT_replays (s : State) (gid lane : Nat) (f : Thread → Thread) : (s.updT gid lane f).replays = s.replays := rfl
@[simp] theorem State.updT_ev (s : State) (gid lane : Nat) (f : Thread → Thread) : (s.updT gid lane f).ev = s.ev := rfl
@[simp] theorem State.updT_trig (s : State) (gid lane : Nat) (f : Thread → Thread) : (s.updT gid lane f).trig = s.trig := rfl
@[simp] theorem State.updT_pw (s : State) (gid lane : Nat) (f : Thread → Thread) : (s.updT gid lane f).pw = s.pw := rfl
@[simp] theorem State.updT_plat (s : State) (gid lane : Nat) (f : Thread → Thread) : (s.updT gid lane f).plat = s.plat := rfl

/-! ### `mapLanes` -/

@[simp] theorem State.mapLanes_agenda (s : State) (gid : Nat) (m : Mask) (f : Thread → Thread) : (s.mapLanes gid m f).agenda = s.agenda := rfl
@[simp] theorem State.mapLanes_issue (s : State) (gid : Nat) (m : Mask) (f : Thread → Thread) : (s.mapLanes gid m f).issue = s.issue := rfl
@[simp] theorem State.mapLanes_ptime (s : State) (gid : Nat) (m : Mask) (f : Thread → Thread) : (s.mapLanes gid m f).ptime = s.ptime := rfl
@[simp] theorem State.mapLanes_clock (s : State) (gid : Nat) (m : Mask) (f : Thread → Thread) : (s.mapLanes gid m f).clock = s.clock := rfl
@[simp] theorem State.mapLanes_free (s : State) (gid : Nat) (m : Mask) (f : Thread → Thread) : (s.mapLanes gid m f).free = s.free := rfl
@[simp] theorem State.mapLanes_nextId (s : State) (gid : Nat) (m : Mask) (f : Thread → Thread) : (s.mapLanes gid m f).nextId = s.nextId := rfl
@[simp] theorem State.mapLanes_mem (s : State) (gid : Nat) (m : Mask) (f : Thread → Thread) : (s.mapLanes gid m f).mem = s.mem := rfl
@[simp] theorem State.mapLanes_fw (s : State) (gid : Nat) (m : Mask) (f : Thread → Thread) : (s.mapLanes gid m f).fw = s.fw := rfl
@[simp] theorem State.mapLanes_threads (s : State) (gid : Nat) (m : Mask) (f : Thread → Thread) : (s.mapLanes gid m f).threads = s.threads.map fun t => if t.inMask gid m then f t else t := rfl
@[simp] theorem State.mapLanes_groups (s : State) (gid : Nat) (m : Mask) (f : Thread → Thread) : (s.mapLanes gid m f).groups = s.groups := rfl
@[simp] theorem State.mapLanes_insts (s : State) (gid : Nat) (m : Mask) (f : Thread → Thread) : (s.mapLanes gid m f).insts = s.insts := rfl
@[simp] theorem State.mapLanes_subs (s : State) (gid : Nat) (m : Mask) (f : Thread → Thread) : (s.mapLanes gid m f).subs = s.subs := rfl
@[simp] theorem State.mapLanes_recorded (s : State) (gid : Nat) (m : Mask) (f : Thread → Thread) : (s.mapLanes gid m f).recorded = s.recorded := rfl
@[simp] theorem State.mapLanes_flocks (s : State) (gid : Nat) (m : Mask) (f : Thread → Thread) : (s.mapLanes gid m f).flocks = s.flocks := rfl
@[simp] theorem State.mapLanes_herds (s : State) (gid : Nat) (m : Mask) (f : Thread → Thread) : (s.mapLanes gid m f).herds = s.herds := rfl
@[simp] theorem State.mapLanes_kernels (s : State) (gid : Nat) (m : Mask) (f : Thread → Thread) : (s.mapLanes gid m f).kernels = s.kernels := rfl
@[simp] theorem State.mapLanes_ctxs (s : State) (gid : Nat) (m : Mask) (f : Thread → Thread) : (s.mapLanes gid m f).ctxs = s.ctxs := rfl
@[simp] theorem State.mapLanes_cores (s : State) (gid : Nat) (m : Mask) (f : Thread → Thread) : (s.mapLanes gid m f).cores = s.cores := rfl
@[simp] theorem State.mapLanes_l1 (s : State) (gid : Nat) (m : Mask) (f : Thread → Thread) : (s.mapLanes gid m f).l1 = s.l1 := rfl
@[simp] theorem State.mapLanes_tlb (s : State) (gid : Nat) (m : Mask) (f : Thread → Thread) : (s.mapLanes gid m f).tlb = s.tlb := rfl
@[simp] theorem State.mapLanes_reqs (s : State) (gid : Nat) (m : Mask) (f : Thread → Thread) : (s.mapLanes gid m f).reqs = s.reqs := rfl
@[simp] theorem State.mapLanes_dir (s : State) (gid : Nat) (m : Mask) (f : Thread → Thread) : (s.mapLanes gid m f).dir = s.dir := rfl
@[simp] theorem State.mapLanes_persist (s : State) (gid : Nat) (m : Mask) (f : Thread → Thread) : (s.mapLanes gid m f).persist = s.persist := rfl
@[simp] theorem State.mapLanes_refusals (s : State) (gid : Nat) (m : Mask) (f : Thread → Thread) : (s.mapLanes gid m f).refusals = s.refusals := rfl
@[simp] theorem State.mapLanes_msgs (s : State) (gid : Nat) (m : Mask) (f : Thread → Thread) : (s.mapLanes gid m f).msgs = s.msgs := rfl
@[simp] theorem State.mapLanes_grains (s : State) (gid : Nat) (m : Mask) (f : Thread → Thread) : (s.mapLanes gid m f).grains = s.grains := rfl
@[simp] theorem State.mapLanes_mons (s : State) (gid : Nat) (m : Mask) (f : Thread → Thread) : (s.mapLanes gid m f).mons = s.mons := rfl
@[simp] theorem State.mapLanes_proxy (s : State) (gid : Nat) (m : Mask) (f : Thread → Thread) : (s.mapLanes gid m f).proxy = s.proxy := rfl
@[simp] theorem State.mapLanes_mirrors (s : State) (gid : Nat) (m : Mask) (f : Thread → Thread) : (s.mapLanes gid m f).mirrors = s.mirrors := rfl
@[simp] theorem State.mapLanes_ops (s : State) (gid : Nat) (m : Mask) (f : Thread → Thread) : (s.mapLanes gid m f).ops = s.ops := rfl
@[simp] theorem State.mapLanes_tileOrder (s : State) (gid : Nat) (m : Mask) (f : Thread → Thread) : (s.mapLanes gid m f).tileOrder = s.tileOrder := rfl
@[simp] theorem State.mapLanes_holds (s : State) (gid : Nat) (m : Mask) (f : Thread → Thread) : (s.mapLanes gid m f).holds = s.holds := rfl
@[simp] theorem State.mapLanes_ftu (s : State) (gid : Nat) (m : Mask) (f : Thread → Thread) : (s.mapLanes gid m f).ftu = s.ftu := rfl
@[simp] theorem State.mapLanes_fq (s : State) (gid : Nat) (m : Mask) (f : Thread → Thread) : (s.mapLanes gid m f).fq = s.fq := rfl
@[simp] theorem State.mapLanes_bounce (s : State) (gid : Nat) (m : Mask) (f : Thread → Thread) : (s.mapLanes gid m f).bounce = s.bounce := rfl
@[simp] theorem State.mapLanes_frames (s : State) (gid : Nat) (m : Mask) (f : Thread → Thread) : (s.mapLanes gid m f).frames = s.frames := rfl
@[simp] theorem State.mapLanes_sdns (s : State) (gid : Nat) (m : Mask) (f : Thread → Thread) : (s.mapLanes gid m f).sdns = s.sdns := rfl
@[simp] theorem State.mapLanes_calls (s : State) (gid : Nat) (m : Mask) (f : Thread → Thread) : (s.mapLanes gid m f).calls = s.calls := rfl
@[simp] theorem State.mapLanes_callSeq (s : State) (gid : Nat) (m : Mask) (f : Thread → Thread) : (s.mapLanes gid m f).callSeq = s.callSeq := rfl
@[simp] theorem State.mapLanes_sched (s : State) (gid : Nat) (m : Mask) (f : Thread → Thread) : (s.mapLanes gid m f).sched = s.sched := rfl
@[simp] theorem State.mapLanes_rot (s : State) (gid : Nat) (m : Mask) (f : Thread → Thread) : (s.mapLanes gid m f).rot = s.rot := rfl
@[simp] theorem State.mapLanes_qlast (s : State) (gid : Nat) (m : Mask) (f : Thread → Thread) : (s.mapLanes gid m f).qlast = s.qlast := rfl
@[simp] theorem State.mapLanes_lnchq (s : State) (gid : Nat) (m : Mask) (f : Thread → Thread) : (s.mapLanes gid m f).lnchq = s.lnchq := rfl
@[simp] theorem State.mapLanes_qerr (s : State) (gid : Nat) (m : Mask) (f : Thread → Thread) : (s.mapLanes gid m f).qerr = s.qerr := rfl
@[simp] theorem State.mapLanes_qeff (s : State) (gid : Nat) (m : Mask) (f : Thread → Thread) : (s.mapLanes gid m f).qeff = s.qeff := rfl
@[simp] theorem State.mapLanes_cpls (s : State) (gid : Nat) (m : Mask) (f : Thread → Thread) : (s.mapLanes gid m f).cpls = s.cpls := rfl
@[simp] theorem State.mapLanes_fab (s : State) (gid : Nat) (m : Mask) (f : Thread → Thread) : (s.mapLanes gid m f).fab = s.fab := rfl
@[simp] theorem State.mapLanes_recs (s : State) (gid : Nat) (m : Mask) (f : Thread → Thread) : (s.mapLanes gid m f).recs = s.recs := rfl
@[simp] theorem State.mapLanes_ckpts (s : State) (gid : Nat) (m : Mask) (f : Thread → Thread) : (s.mapLanes gid m f).ckpts = s.ckpts := rfl
@[simp] theorem State.mapLanes_replays (s : State) (gid : Nat) (m : Mask) (f : Thread → Thread) : (s.mapLanes gid m f).replays = s.replays := rfl
@[simp] theorem State.mapLanes_ev (s : State) (gid : Nat) (m : Mask) (f : Thread → Thread) : (s.mapLanes gid m f).ev = s.ev := rfl
@[simp] theorem State.mapLanes_trig (s : State) (gid : Nat) (m : Mask) (f : Thread → Thread) : (s.mapLanes gid m f).trig = s.trig := rfl
@[simp] theorem State.mapLanes_pw (s : State) (gid : Nat) (m : Mask) (f : Thread → Thread) : (s.mapLanes gid m f).pw = s.pw := rfl
@[simp] theorem State.mapLanes_plat (s : State) (gid : Nat) (m : Mask) (f : Thread → Thread) : (s.mapLanes gid m f).plat = s.plat := rfl

/-! ### `updGroup` -/

@[simp] theorem State.updGroup_agenda (s : State) (gid : Nat) (f : Group → Group) : (s.updGroup gid f).agenda = s.agenda := rfl
@[simp] theorem State.updGroup_issue (s : State) (gid : Nat) (f : Group → Group) : (s.updGroup gid f).issue = s.issue := rfl
@[simp] theorem State.updGroup_ptime (s : State) (gid : Nat) (f : Group → Group) : (s.updGroup gid f).ptime = s.ptime := rfl
@[simp] theorem State.updGroup_clock (s : State) (gid : Nat) (f : Group → Group) : (s.updGroup gid f).clock = s.clock := rfl
@[simp] theorem State.updGroup_free (s : State) (gid : Nat) (f : Group → Group) : (s.updGroup gid f).free = s.free := rfl
@[simp] theorem State.updGroup_nextId (s : State) (gid : Nat) (f : Group → Group) : (s.updGroup gid f).nextId = s.nextId := rfl
@[simp] theorem State.updGroup_mem (s : State) (gid : Nat) (f : Group → Group) : (s.updGroup gid f).mem = s.mem := rfl
@[simp] theorem State.updGroup_fw (s : State) (gid : Nat) (f : Group → Group) : (s.updGroup gid f).fw = s.fw := rfl
@[simp] theorem State.updGroup_threads (s : State) (gid : Nat) (f : Group → Group) : (s.updGroup gid f).threads = s.threads := rfl
@[simp] theorem State.updGroup_groups (s : State) (gid : Nat) (f : Group → Group) : (s.updGroup gid f).groups = s.groups.map fun g => if g.gid = gid then f g else g := rfl
@[simp] theorem State.updGroup_insts (s : State) (gid : Nat) (f : Group → Group) : (s.updGroup gid f).insts = s.insts := rfl
@[simp] theorem State.updGroup_subs (s : State) (gid : Nat) (f : Group → Group) : (s.updGroup gid f).subs = s.subs := rfl
@[simp] theorem State.updGroup_recorded (s : State) (gid : Nat) (f : Group → Group) : (s.updGroup gid f).recorded = s.recorded := rfl
@[simp] theorem State.updGroup_flocks (s : State) (gid : Nat) (f : Group → Group) : (s.updGroup gid f).flocks = s.flocks := rfl
@[simp] theorem State.updGroup_herds (s : State) (gid : Nat) (f : Group → Group) : (s.updGroup gid f).herds = s.herds := rfl
@[simp] theorem State.updGroup_kernels (s : State) (gid : Nat) (f : Group → Group) : (s.updGroup gid f).kernels = s.kernels := rfl
@[simp] theorem State.updGroup_ctxs (s : State) (gid : Nat) (f : Group → Group) : (s.updGroup gid f).ctxs = s.ctxs := rfl
@[simp] theorem State.updGroup_cores (s : State) (gid : Nat) (f : Group → Group) : (s.updGroup gid f).cores = s.cores := rfl
@[simp] theorem State.updGroup_l1 (s : State) (gid : Nat) (f : Group → Group) : (s.updGroup gid f).l1 = s.l1 := rfl
@[simp] theorem State.updGroup_tlb (s : State) (gid : Nat) (f : Group → Group) : (s.updGroup gid f).tlb = s.tlb := rfl
@[simp] theorem State.updGroup_reqs (s : State) (gid : Nat) (f : Group → Group) : (s.updGroup gid f).reqs = s.reqs := rfl
@[simp] theorem State.updGroup_dir (s : State) (gid : Nat) (f : Group → Group) : (s.updGroup gid f).dir = s.dir := rfl
@[simp] theorem State.updGroup_persist (s : State) (gid : Nat) (f : Group → Group) : (s.updGroup gid f).persist = s.persist := rfl
@[simp] theorem State.updGroup_refusals (s : State) (gid : Nat) (f : Group → Group) : (s.updGroup gid f).refusals = s.refusals := rfl
@[simp] theorem State.updGroup_msgs (s : State) (gid : Nat) (f : Group → Group) : (s.updGroup gid f).msgs = s.msgs := rfl
@[simp] theorem State.updGroup_grains (s : State) (gid : Nat) (f : Group → Group) : (s.updGroup gid f).grains = s.grains := rfl
@[simp] theorem State.updGroup_mons (s : State) (gid : Nat) (f : Group → Group) : (s.updGroup gid f).mons = s.mons := rfl
@[simp] theorem State.updGroup_proxy (s : State) (gid : Nat) (f : Group → Group) : (s.updGroup gid f).proxy = s.proxy := rfl
@[simp] theorem State.updGroup_mirrors (s : State) (gid : Nat) (f : Group → Group) : (s.updGroup gid f).mirrors = s.mirrors := rfl
@[simp] theorem State.updGroup_ops (s : State) (gid : Nat) (f : Group → Group) : (s.updGroup gid f).ops = s.ops := rfl
@[simp] theorem State.updGroup_tileOrder (s : State) (gid : Nat) (f : Group → Group) : (s.updGroup gid f).tileOrder = s.tileOrder := rfl
@[simp] theorem State.updGroup_holds (s : State) (gid : Nat) (f : Group → Group) : (s.updGroup gid f).holds = s.holds := rfl
@[simp] theorem State.updGroup_ftu (s : State) (gid : Nat) (f : Group → Group) : (s.updGroup gid f).ftu = s.ftu := rfl
@[simp] theorem State.updGroup_fq (s : State) (gid : Nat) (f : Group → Group) : (s.updGroup gid f).fq = s.fq := rfl
@[simp] theorem State.updGroup_bounce (s : State) (gid : Nat) (f : Group → Group) : (s.updGroup gid f).bounce = s.bounce := rfl
@[simp] theorem State.updGroup_frames (s : State) (gid : Nat) (f : Group → Group) : (s.updGroup gid f).frames = s.frames := rfl
@[simp] theorem State.updGroup_sdns (s : State) (gid : Nat) (f : Group → Group) : (s.updGroup gid f).sdns = s.sdns := rfl
@[simp] theorem State.updGroup_calls (s : State) (gid : Nat) (f : Group → Group) : (s.updGroup gid f).calls = s.calls := rfl
@[simp] theorem State.updGroup_callSeq (s : State) (gid : Nat) (f : Group → Group) : (s.updGroup gid f).callSeq = s.callSeq := rfl
@[simp] theorem State.updGroup_sched (s : State) (gid : Nat) (f : Group → Group) : (s.updGroup gid f).sched = s.sched := rfl
@[simp] theorem State.updGroup_rot (s : State) (gid : Nat) (f : Group → Group) : (s.updGroup gid f).rot = s.rot := rfl
@[simp] theorem State.updGroup_qlast (s : State) (gid : Nat) (f : Group → Group) : (s.updGroup gid f).qlast = s.qlast := rfl
@[simp] theorem State.updGroup_lnchq (s : State) (gid : Nat) (f : Group → Group) : (s.updGroup gid f).lnchq = s.lnchq := rfl
@[simp] theorem State.updGroup_qerr (s : State) (gid : Nat) (f : Group → Group) : (s.updGroup gid f).qerr = s.qerr := rfl
@[simp] theorem State.updGroup_qeff (s : State) (gid : Nat) (f : Group → Group) : (s.updGroup gid f).qeff = s.qeff := rfl
@[simp] theorem State.updGroup_cpls (s : State) (gid : Nat) (f : Group → Group) : (s.updGroup gid f).cpls = s.cpls := rfl
@[simp] theorem State.updGroup_fab (s : State) (gid : Nat) (f : Group → Group) : (s.updGroup gid f).fab = s.fab := rfl
@[simp] theorem State.updGroup_recs (s : State) (gid : Nat) (f : Group → Group) : (s.updGroup gid f).recs = s.recs := rfl
@[simp] theorem State.updGroup_ckpts (s : State) (gid : Nat) (f : Group → Group) : (s.updGroup gid f).ckpts = s.ckpts := rfl
@[simp] theorem State.updGroup_replays (s : State) (gid : Nat) (f : Group → Group) : (s.updGroup gid f).replays = s.replays := rfl
@[simp] theorem State.updGroup_ev (s : State) (gid : Nat) (f : Group → Group) : (s.updGroup gid f).ev = s.ev := rfl
@[simp] theorem State.updGroup_trig (s : State) (gid : Nat) (f : Group → Group) : (s.updGroup gid f).trig = s.trig := rfl
@[simp] theorem State.updGroup_pw (s : State) (gid : Nat) (f : Group → Group) : (s.updGroup gid f).pw = s.pw := rfl
@[simp] theorem State.updGroup_plat (s : State) (gid : Nat) (f : Group → Group) : (s.updGroup gid f).plat = s.plat := rfl

/-! ### `updFlock` -/

@[simp] theorem State.updFlock_agenda (s : State) (fid : Nat) (f : Flock → Flock) : (s.updFlock fid f).agenda = s.agenda := rfl
@[simp] theorem State.updFlock_issue (s : State) (fid : Nat) (f : Flock → Flock) : (s.updFlock fid f).issue = s.issue := rfl
@[simp] theorem State.updFlock_ptime (s : State) (fid : Nat) (f : Flock → Flock) : (s.updFlock fid f).ptime = s.ptime := rfl
@[simp] theorem State.updFlock_clock (s : State) (fid : Nat) (f : Flock → Flock) : (s.updFlock fid f).clock = s.clock := rfl
@[simp] theorem State.updFlock_free (s : State) (fid : Nat) (f : Flock → Flock) : (s.updFlock fid f).free = s.free := rfl
@[simp] theorem State.updFlock_nextId (s : State) (fid : Nat) (f : Flock → Flock) : (s.updFlock fid f).nextId = s.nextId := rfl
@[simp] theorem State.updFlock_mem (s : State) (fid : Nat) (f : Flock → Flock) : (s.updFlock fid f).mem = s.mem := rfl
@[simp] theorem State.updFlock_fw (s : State) (fid : Nat) (f : Flock → Flock) : (s.updFlock fid f).fw = s.fw := rfl
@[simp] theorem State.updFlock_threads (s : State) (fid : Nat) (f : Flock → Flock) : (s.updFlock fid f).threads = s.threads := rfl
@[simp] theorem State.updFlock_groups (s : State) (fid : Nat) (f : Flock → Flock) : (s.updFlock fid f).groups = s.groups := rfl
@[simp] theorem State.updFlock_insts (s : State) (fid : Nat) (f : Flock → Flock) : (s.updFlock fid f).insts = s.insts := rfl
@[simp] theorem State.updFlock_subs (s : State) (fid : Nat) (f : Flock → Flock) : (s.updFlock fid f).subs = s.subs := rfl
@[simp] theorem State.updFlock_recorded (s : State) (fid : Nat) (f : Flock → Flock) : (s.updFlock fid f).recorded = s.recorded := rfl
@[simp] theorem State.updFlock_flocks (s : State) (fid : Nat) (f : Flock → Flock) : (s.updFlock fid f).flocks = s.flocks.map fun k => if k.fid = fid then f k else k := rfl
@[simp] theorem State.updFlock_herds (s : State) (fid : Nat) (f : Flock → Flock) : (s.updFlock fid f).herds = s.herds := rfl
@[simp] theorem State.updFlock_kernels (s : State) (fid : Nat) (f : Flock → Flock) : (s.updFlock fid f).kernels = s.kernels := rfl
@[simp] theorem State.updFlock_ctxs (s : State) (fid : Nat) (f : Flock → Flock) : (s.updFlock fid f).ctxs = s.ctxs := rfl
@[simp] theorem State.updFlock_cores (s : State) (fid : Nat) (f : Flock → Flock) : (s.updFlock fid f).cores = s.cores := rfl
@[simp] theorem State.updFlock_l1 (s : State) (fid : Nat) (f : Flock → Flock) : (s.updFlock fid f).l1 = s.l1 := rfl
@[simp] theorem State.updFlock_tlb (s : State) (fid : Nat) (f : Flock → Flock) : (s.updFlock fid f).tlb = s.tlb := rfl
@[simp] theorem State.updFlock_reqs (s : State) (fid : Nat) (f : Flock → Flock) : (s.updFlock fid f).reqs = s.reqs := rfl
@[simp] theorem State.updFlock_dir (s : State) (fid : Nat) (f : Flock → Flock) : (s.updFlock fid f).dir = s.dir := rfl
@[simp] theorem State.updFlock_persist (s : State) (fid : Nat) (f : Flock → Flock) : (s.updFlock fid f).persist = s.persist := rfl
@[simp] theorem State.updFlock_refusals (s : State) (fid : Nat) (f : Flock → Flock) : (s.updFlock fid f).refusals = s.refusals := rfl
@[simp] theorem State.updFlock_msgs (s : State) (fid : Nat) (f : Flock → Flock) : (s.updFlock fid f).msgs = s.msgs := rfl
@[simp] theorem State.updFlock_grains (s : State) (fid : Nat) (f : Flock → Flock) : (s.updFlock fid f).grains = s.grains := rfl
@[simp] theorem State.updFlock_mons (s : State) (fid : Nat) (f : Flock → Flock) : (s.updFlock fid f).mons = s.mons := rfl
@[simp] theorem State.updFlock_proxy (s : State) (fid : Nat) (f : Flock → Flock) : (s.updFlock fid f).proxy = s.proxy := rfl
@[simp] theorem State.updFlock_mirrors (s : State) (fid : Nat) (f : Flock → Flock) : (s.updFlock fid f).mirrors = s.mirrors := rfl
@[simp] theorem State.updFlock_ops (s : State) (fid : Nat) (f : Flock → Flock) : (s.updFlock fid f).ops = s.ops := rfl
@[simp] theorem State.updFlock_tileOrder (s : State) (fid : Nat) (f : Flock → Flock) : (s.updFlock fid f).tileOrder = s.tileOrder := rfl
@[simp] theorem State.updFlock_holds (s : State) (fid : Nat) (f : Flock → Flock) : (s.updFlock fid f).holds = s.holds := rfl
@[simp] theorem State.updFlock_ftu (s : State) (fid : Nat) (f : Flock → Flock) : (s.updFlock fid f).ftu = s.ftu := rfl
@[simp] theorem State.updFlock_fq (s : State) (fid : Nat) (f : Flock → Flock) : (s.updFlock fid f).fq = s.fq := rfl
@[simp] theorem State.updFlock_bounce (s : State) (fid : Nat) (f : Flock → Flock) : (s.updFlock fid f).bounce = s.bounce := rfl
@[simp] theorem State.updFlock_frames (s : State) (fid : Nat) (f : Flock → Flock) : (s.updFlock fid f).frames = s.frames := rfl
@[simp] theorem State.updFlock_sdns (s : State) (fid : Nat) (f : Flock → Flock) : (s.updFlock fid f).sdns = s.sdns := rfl
@[simp] theorem State.updFlock_calls (s : State) (fid : Nat) (f : Flock → Flock) : (s.updFlock fid f).calls = s.calls := rfl
@[simp] theorem State.updFlock_callSeq (s : State) (fid : Nat) (f : Flock → Flock) : (s.updFlock fid f).callSeq = s.callSeq := rfl
@[simp] theorem State.updFlock_sched (s : State) (fid : Nat) (f : Flock → Flock) : (s.updFlock fid f).sched = s.sched := rfl
@[simp] theorem State.updFlock_rot (s : State) (fid : Nat) (f : Flock → Flock) : (s.updFlock fid f).rot = s.rot := rfl
@[simp] theorem State.updFlock_qlast (s : State) (fid : Nat) (f : Flock → Flock) : (s.updFlock fid f).qlast = s.qlast := rfl
@[simp] theorem State.updFlock_lnchq (s : State) (fid : Nat) (f : Flock → Flock) : (s.updFlock fid f).lnchq = s.lnchq := rfl
@[simp] theorem State.updFlock_qerr (s : State) (fid : Nat) (f : Flock → Flock) : (s.updFlock fid f).qerr = s.qerr := rfl
@[simp] theorem State.updFlock_qeff (s : State) (fid : Nat) (f : Flock → Flock) : (s.updFlock fid f).qeff = s.qeff := rfl
@[simp] theorem State.updFlock_cpls (s : State) (fid : Nat) (f : Flock → Flock) : (s.updFlock fid f).cpls = s.cpls := rfl
@[simp] theorem State.updFlock_fab (s : State) (fid : Nat) (f : Flock → Flock) : (s.updFlock fid f).fab = s.fab := rfl
@[simp] theorem State.updFlock_recs (s : State) (fid : Nat) (f : Flock → Flock) : (s.updFlock fid f).recs = s.recs := rfl
@[simp] theorem State.updFlock_ckpts (s : State) (fid : Nat) (f : Flock → Flock) : (s.updFlock fid f).ckpts = s.ckpts := rfl
@[simp] theorem State.updFlock_replays (s : State) (fid : Nat) (f : Flock → Flock) : (s.updFlock fid f).replays = s.replays := rfl
@[simp] theorem State.updFlock_ev (s : State) (fid : Nat) (f : Flock → Flock) : (s.updFlock fid f).ev = s.ev := rfl
@[simp] theorem State.updFlock_trig (s : State) (fid : Nat) (f : Flock → Flock) : (s.updFlock fid f).trig = s.trig := rfl
@[simp] theorem State.updFlock_pw (s : State) (fid : Nat) (f : Flock → Flock) : (s.updFlock fid f).pw = s.pw := rfl
@[simp] theorem State.updFlock_plat (s : State) (fid : Nat) (f : Flock → Flock) : (s.updFlock fid f).plat = s.plat := rfl

/-! ### `updCtx` -/

@[simp] theorem State.updCtx_agenda (s : State) (id : Nat) (f : Context → Context) : (s.updCtx id f).agenda = s.agenda := rfl
@[simp] theorem State.updCtx_issue (s : State) (id : Nat) (f : Context → Context) : (s.updCtx id f).issue = s.issue := rfl
@[simp] theorem State.updCtx_ptime (s : State) (id : Nat) (f : Context → Context) : (s.updCtx id f).ptime = s.ptime := rfl
@[simp] theorem State.updCtx_clock (s : State) (id : Nat) (f : Context → Context) : (s.updCtx id f).clock = s.clock := rfl
@[simp] theorem State.updCtx_free (s : State) (id : Nat) (f : Context → Context) : (s.updCtx id f).free = s.free := rfl
@[simp] theorem State.updCtx_nextId (s : State) (id : Nat) (f : Context → Context) : (s.updCtx id f).nextId = s.nextId := rfl
@[simp] theorem State.updCtx_mem (s : State) (id : Nat) (f : Context → Context) : (s.updCtx id f).mem = s.mem := rfl
@[simp] theorem State.updCtx_fw (s : State) (id : Nat) (f : Context → Context) : (s.updCtx id f).fw = s.fw := rfl
@[simp] theorem State.updCtx_threads (s : State) (id : Nat) (f : Context → Context) : (s.updCtx id f).threads = s.threads := rfl
@[simp] theorem State.updCtx_groups (s : State) (id : Nat) (f : Context → Context) : (s.updCtx id f).groups = s.groups := rfl
@[simp] theorem State.updCtx_insts (s : State) (id : Nat) (f : Context → Context) : (s.updCtx id f).insts = s.insts := rfl
@[simp] theorem State.updCtx_subs (s : State) (id : Nat) (f : Context → Context) : (s.updCtx id f).subs = s.subs := rfl
@[simp] theorem State.updCtx_recorded (s : State) (id : Nat) (f : Context → Context) : (s.updCtx id f).recorded = s.recorded := rfl
@[simp] theorem State.updCtx_flocks (s : State) (id : Nat) (f : Context → Context) : (s.updCtx id f).flocks = s.flocks := rfl
@[simp] theorem State.updCtx_herds (s : State) (id : Nat) (f : Context → Context) : (s.updCtx id f).herds = s.herds := rfl
@[simp] theorem State.updCtx_kernels (s : State) (id : Nat) (f : Context → Context) : (s.updCtx id f).kernels = s.kernels := rfl
@[simp] theorem State.updCtx_ctxs (s : State) (id : Nat) (f : Context → Context) : (s.updCtx id f).ctxs = s.ctxs.map fun c => if c.id = id then f c else c := rfl
@[simp] theorem State.updCtx_cores (s : State) (id : Nat) (f : Context → Context) : (s.updCtx id f).cores = s.cores := rfl
@[simp] theorem State.updCtx_l1 (s : State) (id : Nat) (f : Context → Context) : (s.updCtx id f).l1 = s.l1 := rfl
@[simp] theorem State.updCtx_tlb (s : State) (id : Nat) (f : Context → Context) : (s.updCtx id f).tlb = s.tlb := rfl
@[simp] theorem State.updCtx_reqs (s : State) (id : Nat) (f : Context → Context) : (s.updCtx id f).reqs = s.reqs := rfl
@[simp] theorem State.updCtx_dir (s : State) (id : Nat) (f : Context → Context) : (s.updCtx id f).dir = s.dir := rfl
@[simp] theorem State.updCtx_persist (s : State) (id : Nat) (f : Context → Context) : (s.updCtx id f).persist = s.persist := rfl
@[simp] theorem State.updCtx_refusals (s : State) (id : Nat) (f : Context → Context) : (s.updCtx id f).refusals = s.refusals := rfl
@[simp] theorem State.updCtx_msgs (s : State) (id : Nat) (f : Context → Context) : (s.updCtx id f).msgs = s.msgs := rfl
@[simp] theorem State.updCtx_grains (s : State) (id : Nat) (f : Context → Context) : (s.updCtx id f).grains = s.grains := rfl
@[simp] theorem State.updCtx_mons (s : State) (id : Nat) (f : Context → Context) : (s.updCtx id f).mons = s.mons := rfl
@[simp] theorem State.updCtx_proxy (s : State) (id : Nat) (f : Context → Context) : (s.updCtx id f).proxy = s.proxy := rfl
@[simp] theorem State.updCtx_mirrors (s : State) (id : Nat) (f : Context → Context) : (s.updCtx id f).mirrors = s.mirrors := rfl
@[simp] theorem State.updCtx_ops (s : State) (id : Nat) (f : Context → Context) : (s.updCtx id f).ops = s.ops := rfl
@[simp] theorem State.updCtx_tileOrder (s : State) (id : Nat) (f : Context → Context) : (s.updCtx id f).tileOrder = s.tileOrder := rfl
@[simp] theorem State.updCtx_holds (s : State) (id : Nat) (f : Context → Context) : (s.updCtx id f).holds = s.holds := rfl
@[simp] theorem State.updCtx_ftu (s : State) (id : Nat) (f : Context → Context) : (s.updCtx id f).ftu = s.ftu := rfl
@[simp] theorem State.updCtx_fq (s : State) (id : Nat) (f : Context → Context) : (s.updCtx id f).fq = s.fq := rfl
@[simp] theorem State.updCtx_bounce (s : State) (id : Nat) (f : Context → Context) : (s.updCtx id f).bounce = s.bounce := rfl
@[simp] theorem State.updCtx_frames (s : State) (id : Nat) (f : Context → Context) : (s.updCtx id f).frames = s.frames := rfl
@[simp] theorem State.updCtx_sdns (s : State) (id : Nat) (f : Context → Context) : (s.updCtx id f).sdns = s.sdns := rfl
@[simp] theorem State.updCtx_calls (s : State) (id : Nat) (f : Context → Context) : (s.updCtx id f).calls = s.calls := rfl
@[simp] theorem State.updCtx_callSeq (s : State) (id : Nat) (f : Context → Context) : (s.updCtx id f).callSeq = s.callSeq := rfl
@[simp] theorem State.updCtx_sched (s : State) (id : Nat) (f : Context → Context) : (s.updCtx id f).sched = s.sched := rfl
@[simp] theorem State.updCtx_rot (s : State) (id : Nat) (f : Context → Context) : (s.updCtx id f).rot = s.rot := rfl
@[simp] theorem State.updCtx_qlast (s : State) (id : Nat) (f : Context → Context) : (s.updCtx id f).qlast = s.qlast := rfl
@[simp] theorem State.updCtx_lnchq (s : State) (id : Nat) (f : Context → Context) : (s.updCtx id f).lnchq = s.lnchq := rfl
@[simp] theorem State.updCtx_qerr (s : State) (id : Nat) (f : Context → Context) : (s.updCtx id f).qerr = s.qerr := rfl
@[simp] theorem State.updCtx_qeff (s : State) (id : Nat) (f : Context → Context) : (s.updCtx id f).qeff = s.qeff := rfl
@[simp] theorem State.updCtx_cpls (s : State) (id : Nat) (f : Context → Context) : (s.updCtx id f).cpls = s.cpls := rfl
@[simp] theorem State.updCtx_fab (s : State) (id : Nat) (f : Context → Context) : (s.updCtx id f).fab = s.fab := rfl
@[simp] theorem State.updCtx_recs (s : State) (id : Nat) (f : Context → Context) : (s.updCtx id f).recs = s.recs := rfl
@[simp] theorem State.updCtx_ckpts (s : State) (id : Nat) (f : Context → Context) : (s.updCtx id f).ckpts = s.ckpts := rfl
@[simp] theorem State.updCtx_replays (s : State) (id : Nat) (f : Context → Context) : (s.updCtx id f).replays = s.replays := rfl
@[simp] theorem State.updCtx_ev (s : State) (id : Nat) (f : Context → Context) : (s.updCtx id f).ev = s.ev := rfl
@[simp] theorem State.updCtx_trig (s : State) (id : Nat) (f : Context → Context) : (s.updCtx id f).trig = s.trig := rfl
@[simp] theorem State.updCtx_pw (s : State) (id : Nat) (f : Context → Context) : (s.updCtx id f).pw = s.pw := rfl
@[simp] theorem State.updCtx_plat (s : State) (id : Nat) (f : Context → Context) : (s.updCtx id f).plat = s.plat := rfl

/-! ### `updKernel` -/

@[simp] theorem State.updKernel_agenda (s : State) (ctx kid : Nat) (f : Kernel → Kernel) : (s.updKernel ctx kid f).agenda = s.agenda := rfl
@[simp] theorem State.updKernel_issue (s : State) (ctx kid : Nat) (f : Kernel → Kernel) : (s.updKernel ctx kid f).issue = s.issue := rfl
@[simp] theorem State.updKernel_ptime (s : State) (ctx kid : Nat) (f : Kernel → Kernel) : (s.updKernel ctx kid f).ptime = s.ptime := rfl
@[simp] theorem State.updKernel_clock (s : State) (ctx kid : Nat) (f : Kernel → Kernel) : (s.updKernel ctx kid f).clock = s.clock := rfl
@[simp] theorem State.updKernel_free (s : State) (ctx kid : Nat) (f : Kernel → Kernel) : (s.updKernel ctx kid f).free = s.free := rfl
@[simp] theorem State.updKernel_nextId (s : State) (ctx kid : Nat) (f : Kernel → Kernel) : (s.updKernel ctx kid f).nextId = s.nextId := rfl
@[simp] theorem State.updKernel_mem (s : State) (ctx kid : Nat) (f : Kernel → Kernel) : (s.updKernel ctx kid f).mem = s.mem := rfl
@[simp] theorem State.updKernel_fw (s : State) (ctx kid : Nat) (f : Kernel → Kernel) : (s.updKernel ctx kid f).fw = s.fw := rfl
@[simp] theorem State.updKernel_threads (s : State) (ctx kid : Nat) (f : Kernel → Kernel) : (s.updKernel ctx kid f).threads = s.threads := rfl
@[simp] theorem State.updKernel_groups (s : State) (ctx kid : Nat) (f : Kernel → Kernel) : (s.updKernel ctx kid f).groups = s.groups := rfl
@[simp] theorem State.updKernel_insts (s : State) (ctx kid : Nat) (f : Kernel → Kernel) : (s.updKernel ctx kid f).insts = s.insts := rfl
@[simp] theorem State.updKernel_subs (s : State) (ctx kid : Nat) (f : Kernel → Kernel) : (s.updKernel ctx kid f).subs = s.subs := rfl
@[simp] theorem State.updKernel_recorded (s : State) (ctx kid : Nat) (f : Kernel → Kernel) : (s.updKernel ctx kid f).recorded = s.recorded := rfl
@[simp] theorem State.updKernel_flocks (s : State) (ctx kid : Nat) (f : Kernel → Kernel) : (s.updKernel ctx kid f).flocks = s.flocks := rfl
@[simp] theorem State.updKernel_herds (s : State) (ctx kid : Nat) (f : Kernel → Kernel) : (s.updKernel ctx kid f).herds = s.herds := rfl
@[simp] theorem State.updKernel_kernels (s : State) (ctx kid : Nat) (f : Kernel → Kernel) : (s.updKernel ctx kid f).kernels = s.kernels.map fun k => if k.ctx = ctx && k.kid = kid then f k else k := rfl
@[simp] theorem State.updKernel_ctxs (s : State) (ctx kid : Nat) (f : Kernel → Kernel) : (s.updKernel ctx kid f).ctxs = s.ctxs := rfl
@[simp] theorem State.updKernel_cores (s : State) (ctx kid : Nat) (f : Kernel → Kernel) : (s.updKernel ctx kid f).cores = s.cores := rfl
@[simp] theorem State.updKernel_l1 (s : State) (ctx kid : Nat) (f : Kernel → Kernel) : (s.updKernel ctx kid f).l1 = s.l1 := rfl
@[simp] theorem State.updKernel_tlb (s : State) (ctx kid : Nat) (f : Kernel → Kernel) : (s.updKernel ctx kid f).tlb = s.tlb := rfl
@[simp] theorem State.updKernel_reqs (s : State) (ctx kid : Nat) (f : Kernel → Kernel) : (s.updKernel ctx kid f).reqs = s.reqs := rfl
@[simp] theorem State.updKernel_dir (s : State) (ctx kid : Nat) (f : Kernel → Kernel) : (s.updKernel ctx kid f).dir = s.dir := rfl
@[simp] theorem State.updKernel_persist (s : State) (ctx kid : Nat) (f : Kernel → Kernel) : (s.updKernel ctx kid f).persist = s.persist := rfl
@[simp] theorem State.updKernel_refusals (s : State) (ctx kid : Nat) (f : Kernel → Kernel) : (s.updKernel ctx kid f).refusals = s.refusals := rfl
@[simp] theorem State.updKernel_msgs (s : State) (ctx kid : Nat) (f : Kernel → Kernel) : (s.updKernel ctx kid f).msgs = s.msgs := rfl
@[simp] theorem State.updKernel_grains (s : State) (ctx kid : Nat) (f : Kernel → Kernel) : (s.updKernel ctx kid f).grains = s.grains := rfl
@[simp] theorem State.updKernel_mons (s : State) (ctx kid : Nat) (f : Kernel → Kernel) : (s.updKernel ctx kid f).mons = s.mons := rfl
@[simp] theorem State.updKernel_proxy (s : State) (ctx kid : Nat) (f : Kernel → Kernel) : (s.updKernel ctx kid f).proxy = s.proxy := rfl
@[simp] theorem State.updKernel_mirrors (s : State) (ctx kid : Nat) (f : Kernel → Kernel) : (s.updKernel ctx kid f).mirrors = s.mirrors := rfl
@[simp] theorem State.updKernel_ops (s : State) (ctx kid : Nat) (f : Kernel → Kernel) : (s.updKernel ctx kid f).ops = s.ops := rfl
@[simp] theorem State.updKernel_tileOrder (s : State) (ctx kid : Nat) (f : Kernel → Kernel) : (s.updKernel ctx kid f).tileOrder = s.tileOrder := rfl
@[simp] theorem State.updKernel_holds (s : State) (ctx kid : Nat) (f : Kernel → Kernel) : (s.updKernel ctx kid f).holds = s.holds := rfl
@[simp] theorem State.updKernel_ftu (s : State) (ctx kid : Nat) (f : Kernel → Kernel) : (s.updKernel ctx kid f).ftu = s.ftu := rfl
@[simp] theorem State.updKernel_fq (s : State) (ctx kid : Nat) (f : Kernel → Kernel) : (s.updKernel ctx kid f).fq = s.fq := rfl
@[simp] theorem State.updKernel_bounce (s : State) (ctx kid : Nat) (f : Kernel → Kernel) : (s.updKernel ctx kid f).bounce = s.bounce := rfl
@[simp] theorem State.updKernel_frames (s : State) (ctx kid : Nat) (f : Kernel → Kernel) : (s.updKernel ctx kid f).frames = s.frames := rfl
@[simp] theorem State.updKernel_sdns (s : State) (ctx kid : Nat) (f : Kernel → Kernel) : (s.updKernel ctx kid f).sdns = s.sdns := rfl
@[simp] theorem State.updKernel_calls (s : State) (ctx kid : Nat) (f : Kernel → Kernel) : (s.updKernel ctx kid f).calls = s.calls := rfl
@[simp] theorem State.updKernel_callSeq (s : State) (ctx kid : Nat) (f : Kernel → Kernel) : (s.updKernel ctx kid f).callSeq = s.callSeq := rfl
@[simp] theorem State.updKernel_sched (s : State) (ctx kid : Nat) (f : Kernel → Kernel) : (s.updKernel ctx kid f).sched = s.sched := rfl
@[simp] theorem State.updKernel_rot (s : State) (ctx kid : Nat) (f : Kernel → Kernel) : (s.updKernel ctx kid f).rot = s.rot := rfl
@[simp] theorem State.updKernel_qlast (s : State) (ctx kid : Nat) (f : Kernel → Kernel) : (s.updKernel ctx kid f).qlast = s.qlast := rfl
@[simp] theorem State.updKernel_lnchq (s : State) (ctx kid : Nat) (f : Kernel → Kernel) : (s.updKernel ctx kid f).lnchq = s.lnchq := rfl
@[simp] theorem State.updKernel_qerr (s : State) (ctx kid : Nat) (f : Kernel → Kernel) : (s.updKernel ctx kid f).qerr = s.qerr := rfl
@[simp] theorem State.updKernel_qeff (s : State) (ctx kid : Nat) (f : Kernel → Kernel) : (s.updKernel ctx kid f).qeff = s.qeff := rfl
@[simp] theorem State.updKernel_cpls (s : State) (ctx kid : Nat) (f : Kernel → Kernel) : (s.updKernel ctx kid f).cpls = s.cpls := rfl
@[simp] theorem State.updKernel_fab (s : State) (ctx kid : Nat) (f : Kernel → Kernel) : (s.updKernel ctx kid f).fab = s.fab := rfl
@[simp] theorem State.updKernel_recs (s : State) (ctx kid : Nat) (f : Kernel → Kernel) : (s.updKernel ctx kid f).recs = s.recs := rfl
@[simp] theorem State.updKernel_ckpts (s : State) (ctx kid : Nat) (f : Kernel → Kernel) : (s.updKernel ctx kid f).ckpts = s.ckpts := rfl
@[simp] theorem State.updKernel_replays (s : State) (ctx kid : Nat) (f : Kernel → Kernel) : (s.updKernel ctx kid f).replays = s.replays := rfl
@[simp] theorem State.updKernel_ev (s : State) (ctx kid : Nat) (f : Kernel → Kernel) : (s.updKernel ctx kid f).ev = s.ev := rfl
@[simp] theorem State.updKernel_trig (s : State) (ctx kid : Nat) (f : Kernel → Kernel) : (s.updKernel ctx kid f).trig = s.trig := rfl
@[simp] theorem State.updKernel_pw (s : State) (ctx kid : Nat) (f : Kernel → Kernel) : (s.updKernel ctx kid f).pw = s.pw := rfl
@[simp] theorem State.updKernel_plat (s : State) (ctx kid : Nat) (f : Kernel → Kernel) : (s.updKernel ctx kid f).plat = s.plat := rfl

/-! ### `updHerd` -/

@[simp] theorem State.updHerd_agenda (s : State) (ctx kid herd : Nat) (f : Herd → Herd) : (s.updHerd ctx kid herd f).agenda = s.agenda := rfl
@[simp] theorem State.updHerd_issue (s : State) (ctx kid herd : Nat) (f : Herd → Herd) : (s.updHerd ctx kid herd f).issue = s.issue := rfl
@[simp] theorem State.updHerd_ptime (s : State) (ctx kid herd : Nat) (f : Herd → Herd) : (s.updHerd ctx kid herd f).ptime = s.ptime := rfl
@[simp] theorem State.updHerd_clock (s : State) (ctx kid herd : Nat) (f : Herd → Herd) : (s.updHerd ctx kid herd f).clock = s.clock := rfl
@[simp] theorem State.updHerd_free (s : State) (ctx kid herd : Nat) (f : Herd → Herd) : (s.updHerd ctx kid herd f).free = s.free := rfl
@[simp] theorem State.updHerd_nextId (s : State) (ctx kid herd : Nat) (f : Herd → Herd) : (s.updHerd ctx kid herd f).nextId = s.nextId := rfl
@[simp] theorem State.updHerd_mem (s : State) (ctx kid herd : Nat) (f : Herd → Herd) : (s.updHerd ctx kid herd f).mem = s.mem := rfl
@[simp] theorem State.updHerd_fw (s : State) (ctx kid herd : Nat) (f : Herd → Herd) : (s.updHerd ctx kid herd f).fw = s.fw := rfl
@[simp] theorem State.updHerd_threads (s : State) (ctx kid herd : Nat) (f : Herd → Herd) : (s.updHerd ctx kid herd f).threads = s.threads := rfl
@[simp] theorem State.updHerd_groups (s : State) (ctx kid herd : Nat) (f : Herd → Herd) : (s.updHerd ctx kid herd f).groups = s.groups := rfl
@[simp] theorem State.updHerd_insts (s : State) (ctx kid herd : Nat) (f : Herd → Herd) : (s.updHerd ctx kid herd f).insts = s.insts := rfl
@[simp] theorem State.updHerd_subs (s : State) (ctx kid herd : Nat) (f : Herd → Herd) : (s.updHerd ctx kid herd f).subs = s.subs := rfl
@[simp] theorem State.updHerd_recorded (s : State) (ctx kid herd : Nat) (f : Herd → Herd) : (s.updHerd ctx kid herd f).recorded = s.recorded := rfl
@[simp] theorem State.updHerd_flocks (s : State) (ctx kid herd : Nat) (f : Herd → Herd) : (s.updHerd ctx kid herd f).flocks = s.flocks := rfl
@[simp] theorem State.updHerd_herds (s : State) (ctx kid herd : Nat) (f : Herd → Herd) : (s.updHerd ctx kid herd f).herds = s.herds.map fun h => if h.is ctx kid herd then f h else h := rfl
@[simp] theorem State.updHerd_kernels (s : State) (ctx kid herd : Nat) (f : Herd → Herd) : (s.updHerd ctx kid herd f).kernels = s.kernels := rfl
@[simp] theorem State.updHerd_ctxs (s : State) (ctx kid herd : Nat) (f : Herd → Herd) : (s.updHerd ctx kid herd f).ctxs = s.ctxs := rfl
@[simp] theorem State.updHerd_cores (s : State) (ctx kid herd : Nat) (f : Herd → Herd) : (s.updHerd ctx kid herd f).cores = s.cores := rfl
@[simp] theorem State.updHerd_l1 (s : State) (ctx kid herd : Nat) (f : Herd → Herd) : (s.updHerd ctx kid herd f).l1 = s.l1 := rfl
@[simp] theorem State.updHerd_tlb (s : State) (ctx kid herd : Nat) (f : Herd → Herd) : (s.updHerd ctx kid herd f).tlb = s.tlb := rfl
@[simp] theorem State.updHerd_reqs (s : State) (ctx kid herd : Nat) (f : Herd → Herd) : (s.updHerd ctx kid herd f).reqs = s.reqs := rfl
@[simp] theorem State.updHerd_dir (s : State) (ctx kid herd : Nat) (f : Herd → Herd) : (s.updHerd ctx kid herd f).dir = s.dir := rfl
@[simp] theorem State.updHerd_persist (s : State) (ctx kid herd : Nat) (f : Herd → Herd) : (s.updHerd ctx kid herd f).persist = s.persist := rfl
@[simp] theorem State.updHerd_refusals (s : State) (ctx kid herd : Nat) (f : Herd → Herd) : (s.updHerd ctx kid herd f).refusals = s.refusals := rfl
@[simp] theorem State.updHerd_msgs (s : State) (ctx kid herd : Nat) (f : Herd → Herd) : (s.updHerd ctx kid herd f).msgs = s.msgs := rfl
@[simp] theorem State.updHerd_grains (s : State) (ctx kid herd : Nat) (f : Herd → Herd) : (s.updHerd ctx kid herd f).grains = s.grains := rfl
@[simp] theorem State.updHerd_mons (s : State) (ctx kid herd : Nat) (f : Herd → Herd) : (s.updHerd ctx kid herd f).mons = s.mons := rfl
@[simp] theorem State.updHerd_proxy (s : State) (ctx kid herd : Nat) (f : Herd → Herd) : (s.updHerd ctx kid herd f).proxy = s.proxy := rfl
@[simp] theorem State.updHerd_mirrors (s : State) (ctx kid herd : Nat) (f : Herd → Herd) : (s.updHerd ctx kid herd f).mirrors = s.mirrors := rfl
@[simp] theorem State.updHerd_ops (s : State) (ctx kid herd : Nat) (f : Herd → Herd) : (s.updHerd ctx kid herd f).ops = s.ops := rfl
@[simp] theorem State.updHerd_tileOrder (s : State) (ctx kid herd : Nat) (f : Herd → Herd) : (s.updHerd ctx kid herd f).tileOrder = s.tileOrder := rfl
@[simp] theorem State.updHerd_holds (s : State) (ctx kid herd : Nat) (f : Herd → Herd) : (s.updHerd ctx kid herd f).holds = s.holds := rfl
@[simp] theorem State.updHerd_ftu (s : State) (ctx kid herd : Nat) (f : Herd → Herd) : (s.updHerd ctx kid herd f).ftu = s.ftu := rfl
@[simp] theorem State.updHerd_fq (s : State) (ctx kid herd : Nat) (f : Herd → Herd) : (s.updHerd ctx kid herd f).fq = s.fq := rfl
@[simp] theorem State.updHerd_bounce (s : State) (ctx kid herd : Nat) (f : Herd → Herd) : (s.updHerd ctx kid herd f).bounce = s.bounce := rfl
@[simp] theorem State.updHerd_frames (s : State) (ctx kid herd : Nat) (f : Herd → Herd) : (s.updHerd ctx kid herd f).frames = s.frames := rfl
@[simp] theorem State.updHerd_sdns (s : State) (ctx kid herd : Nat) (f : Herd → Herd) : (s.updHerd ctx kid herd f).sdns = s.sdns := rfl
@[simp] theorem State.updHerd_calls (s : State) (ctx kid herd : Nat) (f : Herd → Herd) : (s.updHerd ctx kid herd f).calls = s.calls := rfl
@[simp] theorem State.updHerd_callSeq (s : State) (ctx kid herd : Nat) (f : Herd → Herd) : (s.updHerd ctx kid herd f).callSeq = s.callSeq := rfl
@[simp] theorem State.updHerd_sched (s : State) (ctx kid herd : Nat) (f : Herd → Herd) : (s.updHerd ctx kid herd f).sched = s.sched := rfl
@[simp] theorem State.updHerd_rot (s : State) (ctx kid herd : Nat) (f : Herd → Herd) : (s.updHerd ctx kid herd f).rot = s.rot := rfl
@[simp] theorem State.updHerd_qlast (s : State) (ctx kid herd : Nat) (f : Herd → Herd) : (s.updHerd ctx kid herd f).qlast = s.qlast := rfl
@[simp] theorem State.updHerd_lnchq (s : State) (ctx kid herd : Nat) (f : Herd → Herd) : (s.updHerd ctx kid herd f).lnchq = s.lnchq := rfl
@[simp] theorem State.updHerd_qerr (s : State) (ctx kid herd : Nat) (f : Herd → Herd) : (s.updHerd ctx kid herd f).qerr = s.qerr := rfl
@[simp] theorem State.updHerd_qeff (s : State) (ctx kid herd : Nat) (f : Herd → Herd) : (s.updHerd ctx kid herd f).qeff = s.qeff := rfl
@[simp] theorem State.updHerd_cpls (s : State) (ctx kid herd : Nat) (f : Herd → Herd) : (s.updHerd ctx kid herd f).cpls = s.cpls := rfl
@[simp] theorem State.updHerd_fab (s : State) (ctx kid herd : Nat) (f : Herd → Herd) : (s.updHerd ctx kid herd f).fab = s.fab := rfl
@[simp] theorem State.updHerd_recs (s : State) (ctx kid herd : Nat) (f : Herd → Herd) : (s.updHerd ctx kid herd f).recs = s.recs := rfl
@[simp] theorem State.updHerd_ckpts (s : State) (ctx kid herd : Nat) (f : Herd → Herd) : (s.updHerd ctx kid herd f).ckpts = s.ckpts := rfl
@[simp] theorem State.updHerd_replays (s : State) (ctx kid herd : Nat) (f : Herd → Herd) : (s.updHerd ctx kid herd f).replays = s.replays := rfl
@[simp] theorem State.updHerd_ev (s : State) (ctx kid herd : Nat) (f : Herd → Herd) : (s.updHerd ctx kid herd f).ev = s.ev := rfl
@[simp] theorem State.updHerd_trig (s : State) (ctx kid herd : Nat) (f : Herd → Herd) : (s.updHerd ctx kid herd f).trig = s.trig := rfl
@[simp] theorem State.updHerd_pw (s : State) (ctx kid herd : Nat) (f : Herd → Herd) : (s.updHerd ctx kid herd f).pw = s.pw := rfl
@[simp] theorem State.updHerd_plat (s : State) (ctx kid herd : Nat) (f : Herd → Herd) : (s.updHerd ctx kid herd f).plat = s.plat := rfl

/-! ### `updOp` -/

@[simp] theorem State.updOp_agenda (s : State) (id : Nat) (f : Op → Op) : (s.updOp id f).agenda = s.agenda := rfl
@[simp] theorem State.updOp_issue (s : State) (id : Nat) (f : Op → Op) : (s.updOp id f).issue = s.issue := rfl
@[simp] theorem State.updOp_ptime (s : State) (id : Nat) (f : Op → Op) : (s.updOp id f).ptime = s.ptime := rfl
@[simp] theorem State.updOp_clock (s : State) (id : Nat) (f : Op → Op) : (s.updOp id f).clock = s.clock := rfl
@[simp] theorem State.updOp_free (s : State) (id : Nat) (f : Op → Op) : (s.updOp id f).free = s.free := rfl
@[simp] theorem State.updOp_nextId (s : State) (id : Nat) (f : Op → Op) : (s.updOp id f).nextId = s.nextId := rfl
@[simp] theorem State.updOp_mem (s : State) (id : Nat) (f : Op → Op) : (s.updOp id f).mem = s.mem := rfl
@[simp] theorem State.updOp_fw (s : State) (id : Nat) (f : Op → Op) : (s.updOp id f).fw = s.fw := rfl
@[simp] theorem State.updOp_threads (s : State) (id : Nat) (f : Op → Op) : (s.updOp id f).threads = s.threads := rfl
@[simp] theorem State.updOp_groups (s : State) (id : Nat) (f : Op → Op) : (s.updOp id f).groups = s.groups := rfl
@[simp] theorem State.updOp_insts (s : State) (id : Nat) (f : Op → Op) : (s.updOp id f).insts = s.insts := rfl
@[simp] theorem State.updOp_subs (s : State) (id : Nat) (f : Op → Op) : (s.updOp id f).subs = s.subs := rfl
@[simp] theorem State.updOp_recorded (s : State) (id : Nat) (f : Op → Op) : (s.updOp id f).recorded = s.recorded := rfl
@[simp] theorem State.updOp_flocks (s : State) (id : Nat) (f : Op → Op) : (s.updOp id f).flocks = s.flocks := rfl
@[simp] theorem State.updOp_herds (s : State) (id : Nat) (f : Op → Op) : (s.updOp id f).herds = s.herds := rfl
@[simp] theorem State.updOp_kernels (s : State) (id : Nat) (f : Op → Op) : (s.updOp id f).kernels = s.kernels := rfl
@[simp] theorem State.updOp_ctxs (s : State) (id : Nat) (f : Op → Op) : (s.updOp id f).ctxs = s.ctxs := rfl
@[simp] theorem State.updOp_cores (s : State) (id : Nat) (f : Op → Op) : (s.updOp id f).cores = s.cores := rfl
@[simp] theorem State.updOp_l1 (s : State) (id : Nat) (f : Op → Op) : (s.updOp id f).l1 = s.l1 := rfl
@[simp] theorem State.updOp_tlb (s : State) (id : Nat) (f : Op → Op) : (s.updOp id f).tlb = s.tlb := rfl
@[simp] theorem State.updOp_reqs (s : State) (id : Nat) (f : Op → Op) : (s.updOp id f).reqs = s.reqs := rfl
@[simp] theorem State.updOp_dir (s : State) (id : Nat) (f : Op → Op) : (s.updOp id f).dir = s.dir := rfl
@[simp] theorem State.updOp_persist (s : State) (id : Nat) (f : Op → Op) : (s.updOp id f).persist = s.persist := rfl
@[simp] theorem State.updOp_refusals (s : State) (id : Nat) (f : Op → Op) : (s.updOp id f).refusals = s.refusals := rfl
@[simp] theorem State.updOp_msgs (s : State) (id : Nat) (f : Op → Op) : (s.updOp id f).msgs = s.msgs := rfl
@[simp] theorem State.updOp_grains (s : State) (id : Nat) (f : Op → Op) : (s.updOp id f).grains = s.grains := rfl
@[simp] theorem State.updOp_mons (s : State) (id : Nat) (f : Op → Op) : (s.updOp id f).mons = s.mons := rfl
@[simp] theorem State.updOp_proxy (s : State) (id : Nat) (f : Op → Op) : (s.updOp id f).proxy = s.proxy := rfl
@[simp] theorem State.updOp_mirrors (s : State) (id : Nat) (f : Op → Op) : (s.updOp id f).mirrors = s.mirrors := rfl
@[simp] theorem State.updOp_ops (s : State) (id : Nat) (f : Op → Op) : (s.updOp id f).ops = s.ops.map fun o => if o.id = id then f o else o := rfl
@[simp] theorem State.updOp_tileOrder (s : State) (id : Nat) (f : Op → Op) : (s.updOp id f).tileOrder = s.tileOrder := rfl
@[simp] theorem State.updOp_holds (s : State) (id : Nat) (f : Op → Op) : (s.updOp id f).holds = s.holds := rfl
@[simp] theorem State.updOp_ftu (s : State) (id : Nat) (f : Op → Op) : (s.updOp id f).ftu = s.ftu := rfl
@[simp] theorem State.updOp_fq (s : State) (id : Nat) (f : Op → Op) : (s.updOp id f).fq = s.fq := rfl
@[simp] theorem State.updOp_bounce (s : State) (id : Nat) (f : Op → Op) : (s.updOp id f).bounce = s.bounce := rfl
@[simp] theorem State.updOp_frames (s : State) (id : Nat) (f : Op → Op) : (s.updOp id f).frames = s.frames := rfl
@[simp] theorem State.updOp_sdns (s : State) (id : Nat) (f : Op → Op) : (s.updOp id f).sdns = s.sdns := rfl
@[simp] theorem State.updOp_calls (s : State) (id : Nat) (f : Op → Op) : (s.updOp id f).calls = s.calls := rfl
@[simp] theorem State.updOp_callSeq (s : State) (id : Nat) (f : Op → Op) : (s.updOp id f).callSeq = s.callSeq := rfl
@[simp] theorem State.updOp_sched (s : State) (id : Nat) (f : Op → Op) : (s.updOp id f).sched = s.sched := rfl
@[simp] theorem State.updOp_rot (s : State) (id : Nat) (f : Op → Op) : (s.updOp id f).rot = s.rot := rfl
@[simp] theorem State.updOp_qlast (s : State) (id : Nat) (f : Op → Op) : (s.updOp id f).qlast = s.qlast := rfl
@[simp] theorem State.updOp_lnchq (s : State) (id : Nat) (f : Op → Op) : (s.updOp id f).lnchq = s.lnchq := rfl
@[simp] theorem State.updOp_qerr (s : State) (id : Nat) (f : Op → Op) : (s.updOp id f).qerr = s.qerr := rfl
@[simp] theorem State.updOp_qeff (s : State) (id : Nat) (f : Op → Op) : (s.updOp id f).qeff = s.qeff := rfl
@[simp] theorem State.updOp_cpls (s : State) (id : Nat) (f : Op → Op) : (s.updOp id f).cpls = s.cpls := rfl
@[simp] theorem State.updOp_fab (s : State) (id : Nat) (f : Op → Op) : (s.updOp id f).fab = s.fab := rfl
@[simp] theorem State.updOp_recs (s : State) (id : Nat) (f : Op → Op) : (s.updOp id f).recs = s.recs := rfl
@[simp] theorem State.updOp_ckpts (s : State) (id : Nat) (f : Op → Op) : (s.updOp id f).ckpts = s.ckpts := rfl
@[simp] theorem State.updOp_replays (s : State) (id : Nat) (f : Op → Op) : (s.updOp id f).replays = s.replays := rfl
@[simp] theorem State.updOp_ev (s : State) (id : Nat) (f : Op → Op) : (s.updOp id f).ev = s.ev := rfl
@[simp] theorem State.updOp_trig (s : State) (id : Nat) (f : Op → Op) : (s.updOp id f).trig = s.trig := rfl
@[simp] theorem State.updOp_pw (s : State) (id : Nat) (f : Op → Op) : (s.updOp id f).pw = s.pw := rfl
@[simp] theorem State.updOp_plat (s : State) (id : Nat) (f : Op → Op) : (s.updOp id f).plat = s.plat := rfl

/-! ### `updReq` -/

@[simp] theorem State.updReq_agenda (s : State) (id : Nat) (f : Req → Req) : (s.updReq id f).agenda = s.agenda := rfl
@[simp] theorem State.updReq_issue (s : State) (id : Nat) (f : Req → Req) : (s.updReq id f).issue = s.issue := rfl
@[simp] theorem State.updReq_ptime (s : State) (id : Nat) (f : Req → Req) : (s.updReq id f).ptime = s.ptime := rfl
@[simp] theorem State.updReq_clock (s : State) (id : Nat) (f : Req → Req) : (s.updReq id f).clock = s.clock := rfl
@[simp] theorem State.updReq_free (s : State) (id : Nat) (f : Req → Req) : (s.updReq id f).free = s.free := rfl
@[simp] theorem State.updReq_nextId (s : State) (id : Nat) (f : Req → Req) : (s.updReq id f).nextId = s.nextId := rfl
@[simp] theorem State.updReq_mem (s : State) (id : Nat) (f : Req → Req) : (s.updReq id f).mem = s.mem := rfl
@[simp] theorem State.updReq_fw (s : State) (id : Nat) (f : Req → Req) : (s.updReq id f).fw = s.fw := rfl
@[simp] theorem State.updReq_threads (s : State) (id : Nat) (f : Req → Req) : (s.updReq id f).threads = s.threads := rfl
@[simp] theorem State.updReq_groups (s : State) (id : Nat) (f : Req → Req) : (s.updReq id f).groups = s.groups := rfl
@[simp] theorem State.updReq_insts (s : State) (id : Nat) (f : Req → Req) : (s.updReq id f).insts = s.insts := rfl
@[simp] theorem State.updReq_subs (s : State) (id : Nat) (f : Req → Req) : (s.updReq id f).subs = s.subs := rfl
@[simp] theorem State.updReq_recorded (s : State) (id : Nat) (f : Req → Req) : (s.updReq id f).recorded = s.recorded := rfl
@[simp] theorem State.updReq_flocks (s : State) (id : Nat) (f : Req → Req) : (s.updReq id f).flocks = s.flocks := rfl
@[simp] theorem State.updReq_herds (s : State) (id : Nat) (f : Req → Req) : (s.updReq id f).herds = s.herds := rfl
@[simp] theorem State.updReq_kernels (s : State) (id : Nat) (f : Req → Req) : (s.updReq id f).kernels = s.kernels := rfl
@[simp] theorem State.updReq_ctxs (s : State) (id : Nat) (f : Req → Req) : (s.updReq id f).ctxs = s.ctxs := rfl
@[simp] theorem State.updReq_cores (s : State) (id : Nat) (f : Req → Req) : (s.updReq id f).cores = s.cores := rfl
@[simp] theorem State.updReq_l1 (s : State) (id : Nat) (f : Req → Req) : (s.updReq id f).l1 = s.l1 := rfl
@[simp] theorem State.updReq_tlb (s : State) (id : Nat) (f : Req → Req) : (s.updReq id f).tlb = s.tlb := rfl
@[simp] theorem State.updReq_reqs (s : State) (id : Nat) (f : Req → Req) : (s.updReq id f).reqs = s.reqs.map fun r => if r.id = id then f r else r := rfl
@[simp] theorem State.updReq_dir (s : State) (id : Nat) (f : Req → Req) : (s.updReq id f).dir = s.dir := rfl
@[simp] theorem State.updReq_persist (s : State) (id : Nat) (f : Req → Req) : (s.updReq id f).persist = s.persist := rfl
@[simp] theorem State.updReq_refusals (s : State) (id : Nat) (f : Req → Req) : (s.updReq id f).refusals = s.refusals := rfl
@[simp] theorem State.updReq_msgs (s : State) (id : Nat) (f : Req → Req) : (s.updReq id f).msgs = s.msgs := rfl
@[simp] theorem State.updReq_grains (s : State) (id : Nat) (f : Req → Req) : (s.updReq id f).grains = s.grains := rfl
@[simp] theorem State.updReq_mons (s : State) (id : Nat) (f : Req → Req) : (s.updReq id f).mons = s.mons := rfl
@[simp] theorem State.updReq_proxy (s : State) (id : Nat) (f : Req → Req) : (s.updReq id f).proxy = s.proxy := rfl
@[simp] theorem State.updReq_mirrors (s : State) (id : Nat) (f : Req → Req) : (s.updReq id f).mirrors = s.mirrors := rfl
@[simp] theorem State.updReq_ops (s : State) (id : Nat) (f : Req → Req) : (s.updReq id f).ops = s.ops := rfl
@[simp] theorem State.updReq_tileOrder (s : State) (id : Nat) (f : Req → Req) : (s.updReq id f).tileOrder = s.tileOrder := rfl
@[simp] theorem State.updReq_holds (s : State) (id : Nat) (f : Req → Req) : (s.updReq id f).holds = s.holds := rfl
@[simp] theorem State.updReq_ftu (s : State) (id : Nat) (f : Req → Req) : (s.updReq id f).ftu = s.ftu := rfl
@[simp] theorem State.updReq_fq (s : State) (id : Nat) (f : Req → Req) : (s.updReq id f).fq = s.fq := rfl
@[simp] theorem State.updReq_bounce (s : State) (id : Nat) (f : Req → Req) : (s.updReq id f).bounce = s.bounce := rfl
@[simp] theorem State.updReq_frames (s : State) (id : Nat) (f : Req → Req) : (s.updReq id f).frames = s.frames := rfl
@[simp] theorem State.updReq_sdns (s : State) (id : Nat) (f : Req → Req) : (s.updReq id f).sdns = s.sdns := rfl
@[simp] theorem State.updReq_calls (s : State) (id : Nat) (f : Req → Req) : (s.updReq id f).calls = s.calls := rfl
@[simp] theorem State.updReq_callSeq (s : State) (id : Nat) (f : Req → Req) : (s.updReq id f).callSeq = s.callSeq := rfl
@[simp] theorem State.updReq_sched (s : State) (id : Nat) (f : Req → Req) : (s.updReq id f).sched = s.sched := rfl
@[simp] theorem State.updReq_rot (s : State) (id : Nat) (f : Req → Req) : (s.updReq id f).rot = s.rot := rfl
@[simp] theorem State.updReq_qlast (s : State) (id : Nat) (f : Req → Req) : (s.updReq id f).qlast = s.qlast := rfl
@[simp] theorem State.updReq_lnchq (s : State) (id : Nat) (f : Req → Req) : (s.updReq id f).lnchq = s.lnchq := rfl
@[simp] theorem State.updReq_qerr (s : State) (id : Nat) (f : Req → Req) : (s.updReq id f).qerr = s.qerr := rfl
@[simp] theorem State.updReq_qeff (s : State) (id : Nat) (f : Req → Req) : (s.updReq id f).qeff = s.qeff := rfl
@[simp] theorem State.updReq_cpls (s : State) (id : Nat) (f : Req → Req) : (s.updReq id f).cpls = s.cpls := rfl
@[simp] theorem State.updReq_fab (s : State) (id : Nat) (f : Req → Req) : (s.updReq id f).fab = s.fab := rfl
@[simp] theorem State.updReq_recs (s : State) (id : Nat) (f : Req → Req) : (s.updReq id f).recs = s.recs := rfl
@[simp] theorem State.updReq_ckpts (s : State) (id : Nat) (f : Req → Req) : (s.updReq id f).ckpts = s.ckpts := rfl
@[simp] theorem State.updReq_replays (s : State) (id : Nat) (f : Req → Req) : (s.updReq id f).replays = s.replays := rfl
@[simp] theorem State.updReq_ev (s : State) (id : Nat) (f : Req → Req) : (s.updReq id f).ev = s.ev := rfl
@[simp] theorem State.updReq_trig (s : State) (id : Nat) (f : Req → Req) : (s.updReq id f).trig = s.trig := rfl
@[simp] theorem State.updReq_pw (s : State) (id : Nat) (f : Req → Req) : (s.updReq id f).pw = s.pw := rfl
@[simp] theorem State.updReq_plat (s : State) (id : Nat) (f : Req → Req) : (s.updReq id f).plat = s.plat := rfl

/-! ### `dropReq` -/

@[simp] theorem State.dropReq_agenda (s : State) (id : Nat) : (s.dropReq id).agenda = s.agenda := rfl
@[simp] theorem State.dropReq_issue (s : State) (id : Nat) : (s.dropReq id).issue = s.issue := rfl
@[simp] theorem State.dropReq_ptime (s : State) (id : Nat) : (s.dropReq id).ptime = s.ptime := rfl
@[simp] theorem State.dropReq_clock (s : State) (id : Nat) : (s.dropReq id).clock = s.clock := rfl
@[simp] theorem State.dropReq_free (s : State) (id : Nat) : (s.dropReq id).free = s.free := rfl
@[simp] theorem State.dropReq_nextId (s : State) (id : Nat) : (s.dropReq id).nextId = s.nextId := rfl
@[simp] theorem State.dropReq_mem (s : State) (id : Nat) : (s.dropReq id).mem = s.mem := rfl
@[simp] theorem State.dropReq_fw (s : State) (id : Nat) : (s.dropReq id).fw = s.fw := rfl
@[simp] theorem State.dropReq_threads (s : State) (id : Nat) : (s.dropReq id).threads = s.threads := rfl
@[simp] theorem State.dropReq_groups (s : State) (id : Nat) : (s.dropReq id).groups = s.groups := rfl
@[simp] theorem State.dropReq_insts (s : State) (id : Nat) : (s.dropReq id).insts = s.insts := rfl
@[simp] theorem State.dropReq_subs (s : State) (id : Nat) : (s.dropReq id).subs = s.subs := rfl
@[simp] theorem State.dropReq_recorded (s : State) (id : Nat) : (s.dropReq id).recorded = s.recorded := rfl
@[simp] theorem State.dropReq_flocks (s : State) (id : Nat) : (s.dropReq id).flocks = s.flocks := rfl
@[simp] theorem State.dropReq_herds (s : State) (id : Nat) : (s.dropReq id).herds = s.herds := rfl
@[simp] theorem State.dropReq_kernels (s : State) (id : Nat) : (s.dropReq id).kernels = s.kernels := rfl
@[simp] theorem State.dropReq_ctxs (s : State) (id : Nat) : (s.dropReq id).ctxs = s.ctxs := rfl
@[simp] theorem State.dropReq_cores (s : State) (id : Nat) : (s.dropReq id).cores = s.cores := rfl
@[simp] theorem State.dropReq_l1 (s : State) (id : Nat) : (s.dropReq id).l1 = s.l1 := rfl
@[simp] theorem State.dropReq_tlb (s : State) (id : Nat) : (s.dropReq id).tlb = s.tlb := rfl
@[simp] theorem State.dropReq_reqs (s : State) (id : Nat) : (s.dropReq id).reqs = s.reqs.filter fun r => r.id ≠ id := rfl
@[simp] theorem State.dropReq_dir (s : State) (id : Nat) : (s.dropReq id).dir = s.dir := rfl
@[simp] theorem State.dropReq_persist (s : State) (id : Nat) : (s.dropReq id).persist = s.persist.filter (· ≠ id) := rfl
@[simp] theorem State.dropReq_refusals (s : State) (id : Nat) : (s.dropReq id).refusals = s.refusals := rfl
@[simp] theorem State.dropReq_msgs (s : State) (id : Nat) : (s.dropReq id).msgs = s.msgs := rfl
@[simp] theorem State.dropReq_grains (s : State) (id : Nat) : (s.dropReq id).grains = s.grains := rfl
@[simp] theorem State.dropReq_mons (s : State) (id : Nat) : (s.dropReq id).mons = s.mons := rfl
@[simp] theorem State.dropReq_proxy (s : State) (id : Nat) : (s.dropReq id).proxy = s.proxy := rfl
@[simp] theorem State.dropReq_mirrors (s : State) (id : Nat) : (s.dropReq id).mirrors = s.mirrors := rfl
@[simp] theorem State.dropReq_ops (s : State) (id : Nat) : (s.dropReq id).ops = s.ops := rfl
@[simp] theorem State.dropReq_tileOrder (s : State) (id : Nat) : (s.dropReq id).tileOrder = s.tileOrder := rfl
@[simp] theorem State.dropReq_holds (s : State) (id : Nat) : (s.dropReq id).holds = s.holds := rfl
@[simp] theorem State.dropReq_ftu (s : State) (id : Nat) : (s.dropReq id).ftu = s.ftu := rfl
@[simp] theorem State.dropReq_fq (s : State) (id : Nat) : (s.dropReq id).fq = s.fq := rfl
@[simp] theorem State.dropReq_bounce (s : State) (id : Nat) : (s.dropReq id).bounce = s.bounce := rfl
@[simp] theorem State.dropReq_frames (s : State) (id : Nat) : (s.dropReq id).frames = s.frames := rfl
@[simp] theorem State.dropReq_sdns (s : State) (id : Nat) : (s.dropReq id).sdns = s.sdns := rfl
@[simp] theorem State.dropReq_calls (s : State) (id : Nat) : (s.dropReq id).calls = s.calls := rfl
@[simp] theorem State.dropReq_callSeq (s : State) (id : Nat) : (s.dropReq id).callSeq = s.callSeq := rfl
@[simp] theorem State.dropReq_sched (s : State) (id : Nat) : (s.dropReq id).sched = s.sched := rfl
@[simp] theorem State.dropReq_rot (s : State) (id : Nat) : (s.dropReq id).rot = s.rot := rfl
@[simp] theorem State.dropReq_qlast (s : State) (id : Nat) : (s.dropReq id).qlast = s.qlast := rfl
@[simp] theorem State.dropReq_lnchq (s : State) (id : Nat) : (s.dropReq id).lnchq = s.lnchq := rfl
@[simp] theorem State.dropReq_qerr (s : State) (id : Nat) : (s.dropReq id).qerr = s.qerr := rfl
@[simp] theorem State.dropReq_qeff (s : State) (id : Nat) : (s.dropReq id).qeff = s.qeff := rfl
@[simp] theorem State.dropReq_cpls (s : State) (id : Nat) : (s.dropReq id).cpls = s.cpls := rfl
@[simp] theorem State.dropReq_fab (s : State) (id : Nat) : (s.dropReq id).fab = s.fab := rfl
@[simp] theorem State.dropReq_recs (s : State) (id : Nat) : (s.dropReq id).recs = s.recs := rfl
@[simp] theorem State.dropReq_ckpts (s : State) (id : Nat) : (s.dropReq id).ckpts = s.ckpts := rfl
@[simp] theorem State.dropReq_replays (s : State) (id : Nat) : (s.dropReq id).replays = s.replays := rfl
@[simp] theorem State.dropReq_ev (s : State) (id : Nat) : (s.dropReq id).ev = s.ev := rfl
@[simp] theorem State.dropReq_trig (s : State) (id : Nat) : (s.dropReq id).trig = s.trig := rfl
@[simp] theorem State.dropReq_pw (s : State) (id : Nat) : (s.dropReq id).pw = s.pw := rfl
@[simp] theorem State.dropReq_plat (s : State) (id : Nat) : (s.dropReq id).plat = s.plat := rfl

/-! ### `acquireCore` -/

@[simp] theorem State.acquireCore_agenda (s : State) (core : Nat) : (s.acquireCore core).agenda = s.agenda := rfl
@[simp] theorem State.acquireCore_issue (s : State) (core : Nat) : (s.acquireCore core).issue = s.issue := rfl
@[simp] theorem State.acquireCore_ptime (s : State) (core : Nat) : (s.acquireCore core).ptime = s.ptime := rfl
@[simp] theorem State.acquireCore_clock (s : State) (core : Nat) : (s.acquireCore core).clock = s.clock := rfl
@[simp] theorem State.acquireCore_free (s : State) (core : Nat) : (s.acquireCore core).free = s.free := rfl
@[simp] theorem State.acquireCore_nextId (s : State) (core : Nat) : (s.acquireCore core).nextId = s.nextId := rfl
@[simp] theorem State.acquireCore_mem (s : State) (core : Nat) : (s.acquireCore core).mem = s.mem := rfl
@[simp] theorem State.acquireCore_fw (s : State) (core : Nat) : (s.acquireCore core).fw = s.fw := rfl
@[simp] theorem State.acquireCore_threads (s : State) (core : Nat) : (s.acquireCore core).threads = s.threads := rfl
@[simp] theorem State.acquireCore_groups (s : State) (core : Nat) : (s.acquireCore core).groups = s.groups := rfl
@[simp] theorem State.acquireCore_insts (s : State) (core : Nat) : (s.acquireCore core).insts = s.insts := rfl
@[simp] theorem State.acquireCore_subs (s : State) (core : Nat) : (s.acquireCore core).subs = s.subs := rfl
@[simp] theorem State.acquireCore_recorded (s : State) (core : Nat) : (s.acquireCore core).recorded = s.recorded := rfl
@[simp] theorem State.acquireCore_flocks (s : State) (core : Nat) : (s.acquireCore core).flocks = s.flocks := rfl
@[simp] theorem State.acquireCore_herds (s : State) (core : Nat) : (s.acquireCore core).herds = s.herds := rfl
@[simp] theorem State.acquireCore_kernels (s : State) (core : Nat) : (s.acquireCore core).kernels = s.kernels := rfl
@[simp] theorem State.acquireCore_ctxs (s : State) (core : Nat) : (s.acquireCore core).ctxs = s.ctxs := rfl
@[simp] theorem State.acquireCore_cores (s : State) (core : Nat) : (s.acquireCore core).cores = s.cores := rfl
@[simp] theorem State.acquireCore_l1 (s : State) (core : Nat) : (s.acquireCore core).l1 = s.l1.filter fun l => !(l.core = core && l.st ≠ .own) := rfl
@[simp] theorem State.acquireCore_tlb (s : State) (core : Nat) : (s.acquireCore core).tlb = s.tlb := rfl
@[simp] theorem State.acquireCore_reqs (s : State) (core : Nat) : (s.acquireCore core).reqs = s.reqs := rfl
@[simp] theorem State.acquireCore_dir (s : State) (core : Nat) : (s.acquireCore core).dir = s.dir := rfl
@[simp] theorem State.acquireCore_persist (s : State) (core : Nat) : (s.acquireCore core).persist = s.persist := rfl
@[simp] theorem State.acquireCore_refusals (s : State) (core : Nat) : (s.acquireCore core).refusals = s.refusals := rfl
@[simp] theorem State.acquireCore_msgs (s : State) (core : Nat) : (s.acquireCore core).msgs = s.msgs := rfl
@[simp] theorem State.acquireCore_grains (s : State) (core : Nat) : (s.acquireCore core).grains = s.grains := rfl
@[simp] theorem State.acquireCore_mons (s : State) (core : Nat) : (s.acquireCore core).mons = s.mons := rfl
@[simp] theorem State.acquireCore_proxy (s : State) (core : Nat) : (s.acquireCore core).proxy = s.proxy := rfl
@[simp] theorem State.acquireCore_mirrors (s : State) (core : Nat) : (s.acquireCore core).mirrors = s.mirrors := rfl
@[simp] theorem State.acquireCore_ops (s : State) (core : Nat) : (s.acquireCore core).ops = s.ops := rfl
@[simp] theorem State.acquireCore_tileOrder (s : State) (core : Nat) : (s.acquireCore core).tileOrder = s.tileOrder := rfl
@[simp] theorem State.acquireCore_holds (s : State) (core : Nat) : (s.acquireCore core).holds = s.holds := rfl
@[simp] theorem State.acquireCore_ftu (s : State) (core : Nat) : (s.acquireCore core).ftu = s.ftu := rfl
@[simp] theorem State.acquireCore_fq (s : State) (core : Nat) : (s.acquireCore core).fq = s.fq := rfl
@[simp] theorem State.acquireCore_bounce (s : State) (core : Nat) : (s.acquireCore core).bounce = s.bounce := rfl
@[simp] theorem State.acquireCore_frames (s : State) (core : Nat) : (s.acquireCore core).frames = s.frames := rfl
@[simp] theorem State.acquireCore_sdns (s : State) (core : Nat) : (s.acquireCore core).sdns = s.sdns := rfl
@[simp] theorem State.acquireCore_calls (s : State) (core : Nat) : (s.acquireCore core).calls = s.calls := rfl
@[simp] theorem State.acquireCore_callSeq (s : State) (core : Nat) : (s.acquireCore core).callSeq = s.callSeq := rfl
@[simp] theorem State.acquireCore_sched (s : State) (core : Nat) : (s.acquireCore core).sched = s.sched := rfl
@[simp] theorem State.acquireCore_rot (s : State) (core : Nat) : (s.acquireCore core).rot = s.rot := rfl
@[simp] theorem State.acquireCore_qlast (s : State) (core : Nat) : (s.acquireCore core).qlast = s.qlast := rfl
@[simp] theorem State.acquireCore_lnchq (s : State) (core : Nat) : (s.acquireCore core).lnchq = s.lnchq := rfl
@[simp] theorem State.acquireCore_qerr (s : State) (core : Nat) : (s.acquireCore core).qerr = s.qerr := rfl
@[simp] theorem State.acquireCore_qeff (s : State) (core : Nat) : (s.acquireCore core).qeff = s.qeff := rfl
@[simp] theorem State.acquireCore_cpls (s : State) (core : Nat) : (s.acquireCore core).cpls = s.cpls := rfl
@[simp] theorem State.acquireCore_fab (s : State) (core : Nat) : (s.acquireCore core).fab = s.fab := rfl
@[simp] theorem State.acquireCore_recs (s : State) (core : Nat) : (s.acquireCore core).recs = s.recs := rfl
@[simp] theorem State.acquireCore_ckpts (s : State) (core : Nat) : (s.acquireCore core).ckpts = s.ckpts := rfl
@[simp] theorem State.acquireCore_replays (s : State) (core : Nat) : (s.acquireCore core).replays = s.replays := rfl
@[simp] theorem State.acquireCore_ev (s : State) (core : Nat) : (s.acquireCore core).ev = s.ev := rfl
@[simp] theorem State.acquireCore_trig (s : State) (core : Nat) : (s.acquireCore core).trig = s.trig := rfl
@[simp] theorem State.acquireCore_pw (s : State) (core : Nat) : (s.acquireCore core).pw = s.pw := rfl
@[simp] theorem State.acquireCore_plat (s : State) (core : Nat) : (s.acquireCore core).plat = s.plat := rfl

/-! ### `enset` -/

@[simp] theorem State.enset_agenda (s : State) (gid : Nat) (m : Mask) : (s.enset gid m).agenda = s.agenda := rfl
@[simp] theorem State.enset_issue (s : State) (gid : Nat) (m : Mask) : (s.enset gid m).issue = s.issue := rfl
@[simp] theorem State.enset_ptime (s : State) (gid : Nat) (m : Mask) : (s.enset gid m).ptime = s.ptime := rfl
@[simp] theorem State.enset_clock (s : State) (gid : Nat) (m : Mask) : (s.enset gid m).clock = s.clock := rfl
@[simp] theorem State.enset_free (s : State) (gid : Nat) (m : Mask) : (s.enset gid m).free = s.free := rfl
@[simp] theorem State.enset_nextId (s : State) (gid : Nat) (m : Mask) : (s.enset gid m).nextId = s.nextId := rfl
@[simp] theorem State.enset_mem (s : State) (gid : Nat) (m : Mask) : (s.enset gid m).mem = s.mem := rfl
@[simp] theorem State.enset_fw (s : State) (gid : Nat) (m : Mask) : (s.enset gid m).fw = s.fw := rfl
@[simp] theorem State.enset_threads (s : State) (gid : Nat) (m : Mask) : (s.enset gid m).threads = s.threads := rfl
@[simp] theorem State.enset_insts (s : State) (gid : Nat) (m : Mask) : (s.enset gid m).insts = s.insts := rfl
@[simp] theorem State.enset_subs (s : State) (gid : Nat) (m : Mask) : (s.enset gid m).subs = s.subs := rfl
@[simp] theorem State.enset_recorded (s : State) (gid : Nat) (m : Mask) : (s.enset gid m).recorded = s.recorded := rfl
@[simp] theorem State.enset_flocks (s : State) (gid : Nat) (m : Mask) : (s.enset gid m).flocks = s.flocks := rfl
@[simp] theorem State.enset_herds (s : State) (gid : Nat) (m : Mask) : (s.enset gid m).herds = s.herds := rfl
@[simp] theorem State.enset_kernels (s : State) (gid : Nat) (m : Mask) : (s.enset gid m).kernels = s.kernels := rfl
@[simp] theorem State.enset_ctxs (s : State) (gid : Nat) (m : Mask) : (s.enset gid m).ctxs = s.ctxs := rfl
@[simp] theorem State.enset_cores (s : State) (gid : Nat) (m : Mask) : (s.enset gid m).cores = s.cores := rfl
@[simp] theorem State.enset_l1 (s : State) (gid : Nat) (m : Mask) : (s.enset gid m).l1 = s.l1 := rfl
@[simp] theorem State.enset_tlb (s : State) (gid : Nat) (m : Mask) : (s.enset gid m).tlb = s.tlb := rfl
@[simp] theorem State.enset_reqs (s : State) (gid : Nat) (m : Mask) : (s.enset gid m).reqs = s.reqs := rfl
@[simp] theorem State.enset_dir (s : State) (gid : Nat) (m : Mask) : (s.enset gid m).dir = s.dir := rfl
@[simp] theorem State.enset_persist (s : State) (gid : Nat) (m : Mask) : (s.enset gid m).persist = s.persist := rfl
@[simp] theorem State.enset_refusals (s : State) (gid : Nat) (m : Mask) : (s.enset gid m).refusals = s.refusals := rfl
@[simp] theorem State.enset_msgs (s : State) (gid : Nat) (m : Mask) : (s.enset gid m).msgs = s.msgs := rfl
@[simp] theorem State.enset_grains (s : State) (gid : Nat) (m : Mask) : (s.enset gid m).grains = s.grains := rfl
@[simp] theorem State.enset_mons (s : State) (gid : Nat) (m : Mask) : (s.enset gid m).mons = s.mons := rfl
@[simp] theorem State.enset_proxy (s : State) (gid : Nat) (m : Mask) : (s.enset gid m).proxy = s.proxy := rfl
@[simp] theorem State.enset_mirrors (s : State) (gid : Nat) (m : Mask) : (s.enset gid m).mirrors = s.mirrors := rfl
@[simp] theorem State.enset_ops (s : State) (gid : Nat) (m : Mask) : (s.enset gid m).ops = s.ops := rfl
@[simp] theorem State.enset_tileOrder (s : State) (gid : Nat) (m : Mask) : (s.enset gid m).tileOrder = s.tileOrder := rfl
@[simp] theorem State.enset_holds (s : State) (gid : Nat) (m : Mask) : (s.enset gid m).holds = s.holds := rfl
@[simp] theorem State.enset_ftu (s : State) (gid : Nat) (m : Mask) : (s.enset gid m).ftu = s.ftu := rfl
@[simp] theorem State.enset_fq (s : State) (gid : Nat) (m : Mask) : (s.enset gid m).fq = s.fq := rfl
@[simp] theorem State.enset_bounce (s : State) (gid : Nat) (m : Mask) : (s.enset gid m).bounce = s.bounce := rfl
@[simp] theorem State.enset_frames (s : State) (gid : Nat) (m : Mask) : (s.enset gid m).frames = s.frames := rfl
@[simp] theorem State.enset_sdns (s : State) (gid : Nat) (m : Mask) : (s.enset gid m).sdns = s.sdns := rfl
@[simp] theorem State.enset_calls (s : State) (gid : Nat) (m : Mask) : (s.enset gid m).calls = s.calls := rfl
@[simp] theorem State.enset_callSeq (s : State) (gid : Nat) (m : Mask) : (s.enset gid m).callSeq = s.callSeq := rfl
@[simp] theorem State.enset_sched (s : State) (gid : Nat) (m : Mask) : (s.enset gid m).sched = s.sched := rfl
@[simp] theorem State.enset_rot (s : State) (gid : Nat) (m : Mask) : (s.enset gid m).rot = s.rot := rfl
@[simp] theorem State.enset_qlast (s : State) (gid : Nat) (m : Mask) : (s.enset gid m).qlast = s.qlast := rfl
@[simp] theorem State.enset_lnchq (s : State) (gid : Nat) (m : Mask) : (s.enset gid m).lnchq = s.lnchq := rfl
@[simp] theorem State.enset_qerr (s : State) (gid : Nat) (m : Mask) : (s.enset gid m).qerr = s.qerr := rfl
@[simp] theorem State.enset_qeff (s : State) (gid : Nat) (m : Mask) : (s.enset gid m).qeff = s.qeff := rfl
@[simp] theorem State.enset_cpls (s : State) (gid : Nat) (m : Mask) : (s.enset gid m).cpls = s.cpls := rfl
@[simp] theorem State.enset_fab (s : State) (gid : Nat) (m : Mask) : (s.enset gid m).fab = s.fab := rfl
@[simp] theorem State.enset_recs (s : State) (gid : Nat) (m : Mask) : (s.enset gid m).recs = s.recs := rfl
@[simp] theorem State.enset_ckpts (s : State) (gid : Nat) (m : Mask) : (s.enset gid m).ckpts = s.ckpts := rfl
@[simp] theorem State.enset_replays (s : State) (gid : Nat) (m : Mask) : (s.enset gid m).replays = s.replays := rfl
@[simp] theorem State.enset_ev (s : State) (gid : Nat) (m : Mask) : (s.enset gid m).ev = s.ev := rfl
@[simp] theorem State.enset_trig (s : State) (gid : Nat) (m : Mask) : (s.enset gid m).trig = s.trig := rfl
@[simp] theorem State.enset_pw (s : State) (gid : Nat) (m : Mask) : (s.enset gid m).pw = s.pw := rfl
@[simp] theorem State.enset_plat (s : State) (gid : Nat) (m : Mask) : (s.enset gid m).plat = s.plat := rfl

/-! ### `recordRelease` -/

@[simp] theorem State.recordRelease_agenda (s : State) (g : Group) : (s.recordRelease g).agenda = s.agenda := rfl
@[simp] theorem State.recordRelease_issue (s : State) (g : Group) : (s.recordRelease g).issue = s.issue := rfl
@[simp] theorem State.recordRelease_ptime (s : State) (g : Group) : (s.recordRelease g).ptime = s.ptime := rfl
@[simp] theorem State.recordRelease_clock (s : State) (g : Group) : (s.recordRelease g).clock = s.clock := rfl
@[simp] theorem State.recordRelease_free (s : State) (g : Group) : (s.recordRelease g).free = s.free := rfl
@[simp] theorem State.recordRelease_nextId (s : State) (g : Group) : (s.recordRelease g).nextId = s.nextId := rfl
@[simp] theorem State.recordRelease_mem (s : State) (g : Group) : (s.recordRelease g).mem = s.mem := rfl
@[simp] theorem State.recordRelease_fw (s : State) (g : Group) : (s.recordRelease g).fw = s.fw := rfl
@[simp] theorem State.recordRelease_threads (s : State) (g : Group) : (s.recordRelease g).threads = s.threads := rfl
@[simp] theorem State.recordRelease_groups (s : State) (g : Group) : (s.recordRelease g).groups = s.groups := rfl
@[simp] theorem State.recordRelease_insts (s : State) (g : Group) : (s.recordRelease g).insts = s.insts := rfl
@[simp] theorem State.recordRelease_subs (s : State) (g : Group) : (s.recordRelease g).subs = s.subs := rfl
@[simp] theorem State.recordRelease_recorded (s : State) (g : Group) : (s.recordRelease g).recorded = s.recorded := rfl
@[simp] theorem State.recordRelease_flocks (s : State) (g : Group) : (s.recordRelease g).flocks = s.flocks := rfl
@[simp] theorem State.recordRelease_kernels (s : State) (g : Group) : (s.recordRelease g).kernels = s.kernels := rfl
@[simp] theorem State.recordRelease_ctxs (s : State) (g : Group) : (s.recordRelease g).ctxs = s.ctxs := rfl
@[simp] theorem State.recordRelease_cores (s : State) (g : Group) : (s.recordRelease g).cores = s.cores := rfl
@[simp] theorem State.recordRelease_l1 (s : State) (g : Group) : (s.recordRelease g).l1 = s.l1 := rfl
@[simp] theorem State.recordRelease_tlb (s : State) (g : Group) : (s.recordRelease g).tlb = s.tlb := rfl
@[simp] theorem State.recordRelease_reqs (s : State) (g : Group) : (s.recordRelease g).reqs = s.reqs := rfl
@[simp] theorem State.recordRelease_dir (s : State) (g : Group) : (s.recordRelease g).dir = s.dir := rfl
@[simp] theorem State.recordRelease_persist (s : State) (g : Group) : (s.recordRelease g).persist = s.persist := rfl
@[simp] theorem State.recordRelease_refusals (s : State) (g : Group) : (s.recordRelease g).refusals = s.refusals := rfl
@[simp] theorem State.recordRelease_msgs (s : State) (g : Group) : (s.recordRelease g).msgs = s.msgs := rfl
@[simp] theorem State.recordRelease_grains (s : State) (g : Group) : (s.recordRelease g).grains = s.grains := rfl
@[simp] theorem State.recordRelease_mons (s : State) (g : Group) : (s.recordRelease g).mons = s.mons := rfl
@[simp] theorem State.recordRelease_proxy (s : State) (g : Group) : (s.recordRelease g).proxy = s.proxy := rfl
@[simp] theorem State.recordRelease_mirrors (s : State) (g : Group) : (s.recordRelease g).mirrors = s.mirrors := rfl
@[simp] theorem State.recordRelease_ops (s : State) (g : Group) : (s.recordRelease g).ops = s.ops := rfl
@[simp] theorem State.recordRelease_tileOrder (s : State) (g : Group) : (s.recordRelease g).tileOrder = s.tileOrder := rfl
@[simp] theorem State.recordRelease_holds (s : State) (g : Group) : (s.recordRelease g).holds = s.holds := rfl
@[simp] theorem State.recordRelease_ftu (s : State) (g : Group) : (s.recordRelease g).ftu = s.ftu := rfl
@[simp] theorem State.recordRelease_fq (s : State) (g : Group) : (s.recordRelease g).fq = s.fq := rfl
@[simp] theorem State.recordRelease_bounce (s : State) (g : Group) : (s.recordRelease g).bounce = s.bounce := rfl
@[simp] theorem State.recordRelease_frames (s : State) (g : Group) : (s.recordRelease g).frames = s.frames := rfl
@[simp] theorem State.recordRelease_sdns (s : State) (g : Group) : (s.recordRelease g).sdns = s.sdns := rfl
@[simp] theorem State.recordRelease_calls (s : State) (g : Group) : (s.recordRelease g).calls = s.calls := rfl
@[simp] theorem State.recordRelease_callSeq (s : State) (g : Group) : (s.recordRelease g).callSeq = s.callSeq := rfl
@[simp] theorem State.recordRelease_sched (s : State) (g : Group) : (s.recordRelease g).sched = s.sched := rfl
@[simp] theorem State.recordRelease_rot (s : State) (g : Group) : (s.recordRelease g).rot = s.rot := rfl
@[simp] theorem State.recordRelease_qlast (s : State) (g : Group) : (s.recordRelease g).qlast = s.qlast := rfl
@[simp] theorem State.recordRelease_lnchq (s : State) (g : Group) : (s.recordRelease g).lnchq = s.lnchq := rfl
@[simp] theorem State.recordRelease_qerr (s : State) (g : Group) : (s.recordRelease g).qerr = s.qerr := rfl
@[simp] theorem State.recordRelease_qeff (s : State) (g : Group) : (s.recordRelease g).qeff = s.qeff := rfl
@[simp] theorem State.recordRelease_cpls (s : State) (g : Group) : (s.recordRelease g).cpls = s.cpls := rfl
@[simp] theorem State.recordRelease_fab (s : State) (g : Group) : (s.recordRelease g).fab = s.fab := rfl
@[simp] theorem State.recordRelease_recs (s : State) (g : Group) : (s.recordRelease g).recs = s.recs := rfl
@[simp] theorem State.recordRelease_ckpts (s : State) (g : Group) : (s.recordRelease g).ckpts = s.ckpts := rfl
@[simp] theorem State.recordRelease_replays (s : State) (g : Group) : (s.recordRelease g).replays = s.replays := rfl
@[simp] theorem State.recordRelease_ev (s : State) (g : Group) : (s.recordRelease g).ev = s.ev := rfl
@[simp] theorem State.recordRelease_trig (s : State) (g : Group) : (s.recordRelease g).trig = s.trig := rfl
@[simp] theorem State.recordRelease_pw (s : State) (g : Group) : (s.recordRelease g).pw = s.pw := rfl
@[simp] theorem State.recordRelease_plat (s : State) (g : Group) : (s.recordRelease g).plat = s.plat := rfl

/-! ### `takeTrap` -/

@[simp] theorem State.takeTrap_agenda (s : State) (iss : Issue) (x : LTrap) (r : TrapRec) : (s.takeTrap iss x r).agenda = s.agenda := rfl
@[simp] theorem State.takeTrap_ptime (s : State) (iss : Issue) (x : LTrap) (r : TrapRec) : (s.takeTrap iss x r).ptime = s.ptime := rfl
@[simp] theorem State.takeTrap_clock (s : State) (iss : Issue) (x : LTrap) (r : TrapRec) : (s.takeTrap iss x r).clock = s.clock := rfl
@[simp] theorem State.takeTrap_free (s : State) (iss : Issue) (x : LTrap) (r : TrapRec) : (s.takeTrap iss x r).free = s.free := rfl
@[simp] theorem State.takeTrap_mem (s : State) (iss : Issue) (x : LTrap) (r : TrapRec) : (s.takeTrap iss x r).mem = s.mem := rfl
@[simp] theorem State.takeTrap_fw (s : State) (iss : Issue) (x : LTrap) (r : TrapRec) : (s.takeTrap iss x r).fw = s.fw := rfl
@[simp] theorem State.takeTrap_threads (s : State) (iss : Issue) (x : LTrap) (r : TrapRec) : (s.takeTrap iss x r).threads = s.threads.map fun t => if t.is iss.gid x.lane then t.park r else t := rfl
@[simp] theorem State.takeTrap_groups (s : State) (iss : Issue) (x : LTrap) (r : TrapRec) : (s.takeTrap iss x r).groups = s.groups := rfl
@[simp] theorem State.takeTrap_insts (s : State) (iss : Issue) (x : LTrap) (r : TrapRec) : (s.takeTrap iss x r).insts = s.insts := rfl
@[simp] theorem State.takeTrap_recorded (s : State) (iss : Issue) (x : LTrap) (r : TrapRec) : (s.takeTrap iss x r).recorded = s.recorded := rfl
@[simp] theorem State.takeTrap_flocks (s : State) (iss : Issue) (x : LTrap) (r : TrapRec) : (s.takeTrap iss x r).flocks = s.flocks := rfl
@[simp] theorem State.takeTrap_herds (s : State) (iss : Issue) (x : LTrap) (r : TrapRec) : (s.takeTrap iss x r).herds = s.herds := rfl
@[simp] theorem State.takeTrap_kernels (s : State) (iss : Issue) (x : LTrap) (r : TrapRec) : (s.takeTrap iss x r).kernels = s.kernels := rfl
@[simp] theorem State.takeTrap_ctxs (s : State) (iss : Issue) (x : LTrap) (r : TrapRec) : (s.takeTrap iss x r).ctxs = s.ctxs := rfl
@[simp] theorem State.takeTrap_cores (s : State) (iss : Issue) (x : LTrap) (r : TrapRec) : (s.takeTrap iss x r).cores = s.cores := rfl
@[simp] theorem State.takeTrap_l1 (s : State) (iss : Issue) (x : LTrap) (r : TrapRec) : (s.takeTrap iss x r).l1 = s.l1 := rfl
@[simp] theorem State.takeTrap_tlb (s : State) (iss : Issue) (x : LTrap) (r : TrapRec) : (s.takeTrap iss x r).tlb = s.tlb := rfl
@[simp] theorem State.takeTrap_reqs (s : State) (iss : Issue) (x : LTrap) (r : TrapRec) : (s.takeTrap iss x r).reqs = s.reqs := rfl
@[simp] theorem State.takeTrap_dir (s : State) (iss : Issue) (x : LTrap) (r : TrapRec) : (s.takeTrap iss x r).dir = s.dir := rfl
@[simp] theorem State.takeTrap_persist (s : State) (iss : Issue) (x : LTrap) (r : TrapRec) : (s.takeTrap iss x r).persist = s.persist := rfl
@[simp] theorem State.takeTrap_refusals (s : State) (iss : Issue) (x : LTrap) (r : TrapRec) : (s.takeTrap iss x r).refusals = s.refusals := rfl
@[simp] theorem State.takeTrap_msgs (s : State) (iss : Issue) (x : LTrap) (r : TrapRec) : (s.takeTrap iss x r).msgs = s.msgs := rfl
@[simp] theorem State.takeTrap_grains (s : State) (iss : Issue) (x : LTrap) (r : TrapRec) : (s.takeTrap iss x r).grains = s.grains := rfl
@[simp] theorem State.takeTrap_mons (s : State) (iss : Issue) (x : LTrap) (r : TrapRec) : (s.takeTrap iss x r).mons = s.mons := rfl
@[simp] theorem State.takeTrap_proxy (s : State) (iss : Issue) (x : LTrap) (r : TrapRec) : (s.takeTrap iss x r).proxy = s.proxy := rfl
@[simp] theorem State.takeTrap_mirrors (s : State) (iss : Issue) (x : LTrap) (r : TrapRec) : (s.takeTrap iss x r).mirrors = s.mirrors := rfl
@[simp] theorem State.takeTrap_ops (s : State) (iss : Issue) (x : LTrap) (r : TrapRec) : (s.takeTrap iss x r).ops = s.ops := rfl
@[simp] theorem State.takeTrap_tileOrder (s : State) (iss : Issue) (x : LTrap) (r : TrapRec) : (s.takeTrap iss x r).tileOrder = s.tileOrder := rfl
@[simp] theorem State.takeTrap_holds (s : State) (iss : Issue) (x : LTrap) (r : TrapRec) : (s.takeTrap iss x r).holds = s.holds := rfl
@[simp] theorem State.takeTrap_ftu (s : State) (iss : Issue) (x : LTrap) (r : TrapRec) : (s.takeTrap iss x r).ftu = s.ftu := rfl
@[simp] theorem State.takeTrap_fq (s : State) (iss : Issue) (x : LTrap) (r : TrapRec) : (s.takeTrap iss x r).fq = s.fq := rfl
@[simp] theorem State.takeTrap_bounce (s : State) (iss : Issue) (x : LTrap) (r : TrapRec) : (s.takeTrap iss x r).bounce = s.bounce := rfl
@[simp] theorem State.takeTrap_frames (s : State) (iss : Issue) (x : LTrap) (r : TrapRec) : (s.takeTrap iss x r).frames = s.frames := rfl
@[simp] theorem State.takeTrap_sdns (s : State) (iss : Issue) (x : LTrap) (r : TrapRec) : (s.takeTrap iss x r).sdns = s.sdns := rfl
@[simp] theorem State.takeTrap_calls (s : State) (iss : Issue) (x : LTrap) (r : TrapRec) : (s.takeTrap iss x r).calls = s.calls := rfl
@[simp] theorem State.takeTrap_callSeq (s : State) (iss : Issue) (x : LTrap) (r : TrapRec) : (s.takeTrap iss x r).callSeq = s.callSeq := rfl
@[simp] theorem State.takeTrap_sched (s : State) (iss : Issue) (x : LTrap) (r : TrapRec) : (s.takeTrap iss x r).sched = s.sched := rfl
@[simp] theorem State.takeTrap_rot (s : State) (iss : Issue) (x : LTrap) (r : TrapRec) : (s.takeTrap iss x r).rot = s.rot := rfl
@[simp] theorem State.takeTrap_qlast (s : State) (iss : Issue) (x : LTrap) (r : TrapRec) : (s.takeTrap iss x r).qlast = s.qlast := rfl
@[simp] theorem State.takeTrap_lnchq (s : State) (iss : Issue) (x : LTrap) (r : TrapRec) : (s.takeTrap iss x r).lnchq = s.lnchq := rfl
@[simp] theorem State.takeTrap_qerr (s : State) (iss : Issue) (x : LTrap) (r : TrapRec) : (s.takeTrap iss x r).qerr = s.qerr := rfl
@[simp] theorem State.takeTrap_qeff (s : State) (iss : Issue) (x : LTrap) (r : TrapRec) : (s.takeTrap iss x r).qeff = s.qeff := rfl
@[simp] theorem State.takeTrap_cpls (s : State) (iss : Issue) (x : LTrap) (r : TrapRec) : (s.takeTrap iss x r).cpls = s.cpls := rfl
@[simp] theorem State.takeTrap_fab (s : State) (iss : Issue) (x : LTrap) (r : TrapRec) : (s.takeTrap iss x r).fab = s.fab := rfl
@[simp] theorem State.takeTrap_recs (s : State) (iss : Issue) (x : LTrap) (r : TrapRec) : (s.takeTrap iss x r).recs = s.recs := rfl
@[simp] theorem State.takeTrap_ckpts (s : State) (iss : Issue) (x : LTrap) (r : TrapRec) : (s.takeTrap iss x r).ckpts = s.ckpts := rfl
@[simp] theorem State.takeTrap_replays (s : State) (iss : Issue) (x : LTrap) (r : TrapRec) : (s.takeTrap iss x r).replays = s.replays := rfl
@[simp] theorem State.takeTrap_ev (s : State) (iss : Issue) (x : LTrap) (r : TrapRec) : (s.takeTrap iss x r).ev = s.ev := rfl
@[simp] theorem State.takeTrap_trig (s : State) (iss : Issue) (x : LTrap) (r : TrapRec) : (s.takeTrap iss x r).trig = s.trig := rfl
@[simp] theorem State.takeTrap_pw (s : State) (iss : Issue) (x : LTrap) (r : TrapRec) : (s.takeTrap iss x r).pw = s.pw := rfl
@[simp] theorem State.takeTrap_plat (s : State) (iss : Issue) (x : LTrap) (r : TrapRec) : (s.takeTrap iss x r).plat = s.plat := rfl

/-! ### `tick` -/

@[simp] theorem State.tick_agenda (s : State) : (s.tick).agenda = s.agenda := rfl
@[simp] theorem State.tick_issue (s : State) : (s.tick).issue = s.issue := rfl
@[simp] theorem State.tick_clock (s : State) : (s.tick).clock = s.clock + 1 := rfl
@[simp] theorem State.tick_free (s : State) : (s.tick).free = s.free := rfl
@[simp] theorem State.tick_nextId (s : State) : (s.tick).nextId = s.nextId := rfl
@[simp] theorem State.tick_mem (s : State) : (s.tick).mem = s.mem := rfl
@[simp] theorem State.tick_fw (s : State) : (s.tick).fw = s.fw := rfl
@[simp] theorem State.tick_threads (s : State) : (s.tick).threads = s.threads := rfl
@[simp] theorem State.tick_groups (s : State) : (s.tick).groups = s.groups := rfl
@[simp] theorem State.tick_insts (s : State) : (s.tick).insts = s.insts := rfl
@[simp] theorem State.tick_subs (s : State) : (s.tick).subs = s.subs := rfl
@[simp] theorem State.tick_recorded (s : State) : (s.tick).recorded = s.recorded := rfl
@[simp] theorem State.tick_flocks (s : State) : (s.tick).flocks = s.flocks := rfl
@[simp] theorem State.tick_herds (s : State) : (s.tick).herds = s.herds := rfl
@[simp] theorem State.tick_kernels (s : State) : (s.tick).kernels = s.kernels := rfl
@[simp] theorem State.tick_ctxs (s : State) : (s.tick).ctxs = s.ctxs := rfl
@[simp] theorem State.tick_cores (s : State) : (s.tick).cores = s.cores := rfl
@[simp] theorem State.tick_l1 (s : State) : (s.tick).l1 = s.l1 := rfl
@[simp] theorem State.tick_tlb (s : State) : (s.tick).tlb = s.tlb := rfl
@[simp] theorem State.tick_reqs (s : State) : (s.tick).reqs = s.reqs := rfl
@[simp] theorem State.tick_dir (s : State) : (s.tick).dir = s.dir := rfl
@[simp] theorem State.tick_persist (s : State) : (s.tick).persist = s.persist := rfl
@[simp] theorem State.tick_refusals (s : State) : (s.tick).refusals = s.refusals := rfl
@[simp] theorem State.tick_msgs (s : State) : (s.tick).msgs = s.msgs := rfl
@[simp] theorem State.tick_grains (s : State) : (s.tick).grains = s.grains := rfl
@[simp] theorem State.tick_mons (s : State) : (s.tick).mons = s.mons := rfl
@[simp] theorem State.tick_proxy (s : State) : (s.tick).proxy = s.proxy := rfl
@[simp] theorem State.tick_mirrors (s : State) : (s.tick).mirrors = s.mirrors := rfl
@[simp] theorem State.tick_ops (s : State) : (s.tick).ops = s.ops := rfl
@[simp] theorem State.tick_tileOrder (s : State) : (s.tick).tileOrder = s.tileOrder := rfl
@[simp] theorem State.tick_holds (s : State) : (s.tick).holds = s.holds := rfl
@[simp] theorem State.tick_ftu (s : State) : (s.tick).ftu = s.ftu := rfl
@[simp] theorem State.tick_fq (s : State) : (s.tick).fq = s.fq := rfl
@[simp] theorem State.tick_bounce (s : State) : (s.tick).bounce = s.bounce := rfl
@[simp] theorem State.tick_frames (s : State) : (s.tick).frames = s.frames := rfl
@[simp] theorem State.tick_sdns (s : State) : (s.tick).sdns = s.sdns := rfl
@[simp] theorem State.tick_calls (s : State) : (s.tick).calls = s.calls := rfl
@[simp] theorem State.tick_callSeq (s : State) : (s.tick).callSeq = s.callSeq := rfl
@[simp] theorem State.tick_sched (s : State) : (s.tick).sched = s.sched := rfl
@[simp] theorem State.tick_rot (s : State) : (s.tick).rot = s.rot := rfl
@[simp] theorem State.tick_qlast (s : State) : (s.tick).qlast = s.qlast := rfl
@[simp] theorem State.tick_lnchq (s : State) : (s.tick).lnchq = s.lnchq := rfl
@[simp] theorem State.tick_qerr (s : State) : (s.tick).qerr = s.qerr := rfl
@[simp] theorem State.tick_qeff (s : State) : (s.tick).qeff = s.qeff := rfl
@[simp] theorem State.tick_cpls (s : State) : (s.tick).cpls = s.cpls := rfl
@[simp] theorem State.tick_fab (s : State) : (s.tick).fab = s.fab := rfl
@[simp] theorem State.tick_recs (s : State) : (s.tick).recs = s.recs := rfl
@[simp] theorem State.tick_ckpts (s : State) : (s.tick).ckpts = s.ckpts := rfl
@[simp] theorem State.tick_replays (s : State) : (s.tick).replays = s.replays := rfl
@[simp] theorem State.tick_ev (s : State) : (s.tick).ev = s.ev := rfl
@[simp] theorem State.tick_trig (s : State) : (s.tick).trig = s.trig := rfl
@[simp] theorem State.tick_pw (s : State) : (s.tick).pw = s.pw := rfl
@[simp] theorem State.tick_plat (s : State) : (s.tick).plat = s.plat := rfl

/-! ### `updCore` -/

@[simp] theorem State.updCore_agenda (s : State) (id : Nat) (f : Core → Core) : (s.updCore id f).agenda = s.agenda := by
  unfold State.updCore; split <;> rfl
@[simp] theorem State.updCore_issue (s : State) (id : Nat) (f : Core → Core) : (s.updCore id f).issue = s.issue := by
  unfold State.updCore; split <;> rfl
@[simp] theorem State.updCore_ptime (s : State) (id : Nat) (f : Core → Core) : (s.updCore id f).ptime = s.ptime := by
  unfold State.updCore; split <;> rfl
@[simp] theorem State.updCore_clock (s : State) (id : Nat) (f : Core → Core) : (s.updCore id f).clock = s.clock := by
  unfold State.updCore; split <;> rfl
@[simp] theorem State.updCore_free (s : State) (id : Nat) (f : Core → Core) : (s.updCore id f).free = s.free := by
  unfold State.updCore; split <;> rfl
@[simp] theorem State.updCore_nextId (s : State) (id : Nat) (f : Core → Core) : (s.updCore id f).nextId = s.nextId := by
  unfold State.updCore; split <;> rfl
@[simp] theorem State.updCore_mem (s : State) (id : Nat) (f : Core → Core) : (s.updCore id f).mem = s.mem := by
  unfold State.updCore; split <;> rfl
@[simp] theorem State.updCore_fw (s : State) (id : Nat) (f : Core → Core) : (s.updCore id f).fw = s.fw := by
  unfold State.updCore; split <;> rfl
@[simp] theorem State.updCore_threads (s : State) (id : Nat) (f : Core → Core) : (s.updCore id f).threads = s.threads := by
  unfold State.updCore; split <;> rfl
@[simp] theorem State.updCore_groups (s : State) (id : Nat) (f : Core → Core) : (s.updCore id f).groups = s.groups := by
  unfold State.updCore; split <;> rfl
@[simp] theorem State.updCore_insts (s : State) (id : Nat) (f : Core → Core) : (s.updCore id f).insts = s.insts := by
  unfold State.updCore; split <;> rfl
@[simp] theorem State.updCore_subs (s : State) (id : Nat) (f : Core → Core) : (s.updCore id f).subs = s.subs := by
  unfold State.updCore; split <;> rfl
@[simp] theorem State.updCore_recorded (s : State) (id : Nat) (f : Core → Core) : (s.updCore id f).recorded = s.recorded := by
  unfold State.updCore; split <;> rfl
@[simp] theorem State.updCore_flocks (s : State) (id : Nat) (f : Core → Core) : (s.updCore id f).flocks = s.flocks := by
  unfold State.updCore; split <;> rfl
@[simp] theorem State.updCore_herds (s : State) (id : Nat) (f : Core → Core) : (s.updCore id f).herds = s.herds := by
  unfold State.updCore; split <;> rfl
@[simp] theorem State.updCore_kernels (s : State) (id : Nat) (f : Core → Core) : (s.updCore id f).kernels = s.kernels := by
  unfold State.updCore; split <;> rfl
@[simp] theorem State.updCore_ctxs (s : State) (id : Nat) (f : Core → Core) : (s.updCore id f).ctxs = s.ctxs := by
  unfold State.updCore; split <;> rfl
@[simp] theorem State.updCore_l1 (s : State) (id : Nat) (f : Core → Core) : (s.updCore id f).l1 = s.l1 := by
  unfold State.updCore; split <;> rfl
@[simp] theorem State.updCore_tlb (s : State) (id : Nat) (f : Core → Core) : (s.updCore id f).tlb = s.tlb := by
  unfold State.updCore; split <;> rfl
@[simp] theorem State.updCore_reqs (s : State) (id : Nat) (f : Core → Core) : (s.updCore id f).reqs = s.reqs := by
  unfold State.updCore; split <;> rfl
@[simp] theorem State.updCore_dir (s : State) (id : Nat) (f : Core → Core) : (s.updCore id f).dir = s.dir := by
  unfold State.updCore; split <;> rfl
@[simp] theorem State.updCore_persist (s : State) (id : Nat) (f : Core → Core) : (s.updCore id f).persist = s.persist := by
  unfold State.updCore; split <;> rfl
@[simp] theorem State.updCore_refusals (s : State) (id : Nat) (f : Core → Core) : (s.updCore id f).refusals = s.refusals := by
  unfold State.updCore; split <;> rfl
@[simp] theorem State.updCore_msgs (s : State) (id : Nat) (f : Core → Core) : (s.updCore id f).msgs = s.msgs := by
  unfold State.updCore; split <;> rfl
@[simp] theorem State.updCore_grains (s : State) (id : Nat) (f : Core → Core) : (s.updCore id f).grains = s.grains := by
  unfold State.updCore; split <;> rfl
@[simp] theorem State.updCore_mons (s : State) (id : Nat) (f : Core → Core) : (s.updCore id f).mons = s.mons := by
  unfold State.updCore; split <;> rfl
@[simp] theorem State.updCore_proxy (s : State) (id : Nat) (f : Core → Core) : (s.updCore id f).proxy = s.proxy := by
  unfold State.updCore; split <;> rfl
@[simp] theorem State.updCore_mirrors (s : State) (id : Nat) (f : Core → Core) : (s.updCore id f).mirrors = s.mirrors := by
  unfold State.updCore; split <;> rfl
@[simp] theorem State.updCore_ops (s : State) (id : Nat) (f : Core → Core) : (s.updCore id f).ops = s.ops := by
  unfold State.updCore; split <;> rfl
@[simp] theorem State.updCore_tileOrder (s : State) (id : Nat) (f : Core → Core) : (s.updCore id f).tileOrder = s.tileOrder := by
  unfold State.updCore; split <;> rfl
@[simp] theorem State.updCore_holds (s : State) (id : Nat) (f : Core → Core) : (s.updCore id f).holds = s.holds := by
  unfold State.updCore; split <;> rfl
@[simp] theorem State.updCore_ftu (s : State) (id : Nat) (f : Core → Core) : (s.updCore id f).ftu = s.ftu := by
  unfold State.updCore; split <;> rfl
@[simp] theorem State.updCore_fq (s : State) (id : Nat) (f : Core → Core) : (s.updCore id f).fq = s.fq := by
  unfold State.updCore; split <;> rfl
@[simp] theorem State.updCore_bounce (s : State) (id : Nat) (f : Core → Core) : (s.updCore id f).bounce = s.bounce := by
  unfold State.updCore; split <;> rfl
@[simp] theorem State.updCore_frames (s : State) (id : Nat) (f : Core → Core) : (s.updCore id f).frames = s.frames := by
  unfold State.updCore; split <;> rfl
@[simp] theorem State.updCore_sdns (s : State) (id : Nat) (f : Core → Core) : (s.updCore id f).sdns = s.sdns := by
  unfold State.updCore; split <;> rfl
@[simp] theorem State.updCore_calls (s : State) (id : Nat) (f : Core → Core) : (s.updCore id f).calls = s.calls := by
  unfold State.updCore; split <;> rfl
@[simp] theorem State.updCore_callSeq (s : State) (id : Nat) (f : Core → Core) : (s.updCore id f).callSeq = s.callSeq := by
  unfold State.updCore; split <;> rfl
@[simp] theorem State.updCore_sched (s : State) (id : Nat) (f : Core → Core) : (s.updCore id f).sched = s.sched := by
  unfold State.updCore; split <;> rfl
@[simp] theorem State.updCore_rot (s : State) (id : Nat) (f : Core → Core) : (s.updCore id f).rot = s.rot := by
  unfold State.updCore; split <;> rfl
@[simp] theorem State.updCore_qlast (s : State) (id : Nat) (f : Core → Core) : (s.updCore id f).qlast = s.qlast := by
  unfold State.updCore; split <;> rfl
@[simp] theorem State.updCore_lnchq (s : State) (id : Nat) (f : Core → Core) : (s.updCore id f).lnchq = s.lnchq := by
  unfold State.updCore; split <;> rfl
@[simp] theorem State.updCore_qerr (s : State) (id : Nat) (f : Core → Core) : (s.updCore id f).qerr = s.qerr := by
  unfold State.updCore; split <;> rfl
@[simp] theorem State.updCore_qeff (s : State) (id : Nat) (f : Core → Core) : (s.updCore id f).qeff = s.qeff := by
  unfold State.updCore; split <;> rfl
@[simp] theorem State.updCore_cpls (s : State) (id : Nat) (f : Core → Core) : (s.updCore id f).cpls = s.cpls := by
  unfold State.updCore; split <;> rfl
@[simp] theorem State.updCore_fab (s : State) (id : Nat) (f : Core → Core) : (s.updCore id f).fab = s.fab := by
  unfold State.updCore; split <;> rfl
@[simp] theorem State.updCore_recs (s : State) (id : Nat) (f : Core → Core) : (s.updCore id f).recs = s.recs := by
  unfold State.updCore; split <;> rfl
@[simp] theorem State.updCore_ckpts (s : State) (id : Nat) (f : Core → Core) : (s.updCore id f).ckpts = s.ckpts := by
  unfold State.updCore; split <;> rfl
@[simp] theorem State.updCore_replays (s : State) (id : Nat) (f : Core → Core) : (s.updCore id f).replays = s.replays := by
  unfold State.updCore; split <;> rfl
@[simp] theorem State.updCore_ev (s : State) (id : Nat) (f : Core → Core) : (s.updCore id f).ev = s.ev := by
  unfold State.updCore; split <;> rfl
@[simp] theorem State.updCore_trig (s : State) (id : Nat) (f : Core → Core) : (s.updCore id f).trig = s.trig := by
  unfold State.updCore; split <;> rfl
@[simp] theorem State.updCore_pw (s : State) (id : Nat) (f : Core → Core) : (s.updCore id f).pw = s.pw := by
  unfold State.updCore; split <;> rfl
@[simp] theorem State.updCore_plat (s : State) (id : Nat) (f : Core → Core) : (s.updCore id f).plat = s.plat := by
  unfold State.updCore; split <;> rfl

/-! ### The outcome of a lane's word -/

@[simp] theorem LaneRes.thread_go (t u : Thread) : (LaneRes.go u).thread t = u := rfl
@[simp] theorem LaneRes.thread_trap (t : Thread) (c : Byte) (a : W64) : (LaneRes.trap c a).thread t = t := rfl
@[simp] theorem LaneRes.trap?_go (l : Nat) (u : Thread) : (LaneRes.go u).trap? l = none := rfl
@[simp] theorem LaneRes.trap?_trap (l : Nat) (c : Byte) (a : W64) : (LaneRes.trap c a).trap? l = some ⟨l, c, a, 0, 0⟩ := rfl
@[simp] theorem Thread.put_nil (t : Thread) : t.put [] = t := rfl

/-! ### Threads: `put` and `await` -/

@[simp] theorem Thread.put_gid (t : Thread) (ws : List Wr) : (t.put ws).gid = t.gid := rfl
@[simp] theorem Thread.put_lane (t : Thread) (ws : List Wr) : (t.put ws).lane = t.lane := rfl
@[simp] theorem Thread.put_pkt (t : Thread) (ws : List Wr) : (t.put ws).pkt = t.pkt := rfl
@[simp] theorem Thread.put_slot (t : Thread) (ws : List Wr) : (t.put ws).slot = t.slot := rfl
@[simp] theorem Thread.put_st (t : Thread) (ws : List Wr) : (t.put ws).st = t.st := rfl
@[simp] theorem Thread.put_old (t : Thread) (ws : List Wr) : (t.put ws).old = t.old := rfl
@[simp] theorem Thread.put_fpctl (t : Thread) (ws : List Wr) : (t.put ws).fpctl = t.fpctl := rfl
@[simp] theorem Thread.put_octl (t : Thread) (ws : List Wr) : (t.put ws).octl = t.octl := rfl
@[simp] theorem Thread.put_fpstat (t : Thread) (ws : List Wr) : (t.put ws).fpstat = t.fpstat := rfl
@[simp] theorem Thread.put_rwc (t : Thread) (ws : List Wr) : (t.put ws).rwc = t.rwc := rfl
@[simp] theorem Thread.put_depth (t : Thread) (ws : List Wr) : (t.put ws).depth = t.depth := rfl
@[simp] theorem Thread.put_trr (t : Thread) (ws : List Wr) : (t.put ws).trr = t.trr := rfl
@[simp] theorem Thread.put_pend (t : Thread) (ws : List Wr) : (t.put ws).pend = t.pend := rfl
@[simp] theorem Thread.put_outst (t : Thread) (ws : List Wr) : (t.put ws).outst = t.outst := rfl
@[simp] theorem Thread.put_coll (t : Thread) (ws : List Wr) : (t.put ws).coll = t.coll := rfl
@[simp] theorem Thread.put_hold (t : Thread) (ws : List Wr) : (t.put ws).hold = t.hold := rfl
@[simp] theorem Thread.put_then_ (t : Thread) (ws : List Wr) : (t.put ws).then_ = t.then_ := rfl
@[simp] theorem Thread.put_stepped (t : Thread) (ws : List Wr) : (t.put ws).stepped = t.stepped := rfl
@[simp] theorem Thread.put_wait (t : Thread) (ws : List Wr) : (t.put ws).wait = t.wait := rfl
@[simp] theorem Thread.put_podErr (t : Thread) (ws : List Wr) : (t.put ws).podErr = t.podErr := rfl
@[simp] theorem Thread.put_tileErr (t : Thread) (ws : List Wr) : (t.put ws).tileErr = t.tileErr := rfl
@[simp] theorem Thread.put_tgt (t : Thread) (ws : List Wr) : (t.put ws).tgt = t.tgt := rfl
@[simp] theorem Thread.put_popCore (t : Thread) (ws : List Wr) : (t.put ws).popCore = t.popCore := rfl
@[simp] theorem Thread.put_npkt (t : Thread) (ws : List Wr) : (t.put ws).npkt = t.npkt := rfl
@[simp] theorem Thread.put_nslot (t : Thread) (ws : List Wr) : (t.put ws).nslot = t.nslot := rfl
@[simp] theorem Thread.put_wword (t : Thread) (ws : List Wr) : (t.put ws).wword = t.wword := rfl
@[simp] theorem Thread.put_cword (t : Thread) (ws : List Wr) : (t.put ws).cword = t.cword := rfl
@[simp] theorem Thread.put_cslot (t : Thread) (ws : List Wr) : (t.put ws).cslot = t.cslot := rfl
@[simp] theorem Thread.put_exiting (t : Thread) (ws : List Wr) : (t.put ws).exiting = t.exiting := rfl
@[simp] theorem Thread.put_conts (t : Thread) (ws : List Wr) : (t.put ws).conts = t.conts := rfl
@[simp] theorem Thread.put_regs (t : Thread) (ws : List Wr) : (t.put ws).regs = t.regs.writes ws := rfl
@[simp] theorem Thread.await_gid (t : Thread) (r : Result) : (t.await r).gid = t.gid := rfl
@[simp] theorem Thread.await_lane (t : Thread) (r : Result) : (t.await r).lane = t.lane := rfl
@[simp] theorem Thread.await_pkt (t : Thread) (r : Result) : (t.await r).pkt = t.pkt := rfl
@[simp] theorem Thread.await_slot (t : Thread) (r : Result) : (t.await r).slot = t.slot := rfl
@[simp] theorem Thread.await_st (t : Thread) (r : Result) : (t.await r).st = t.st := rfl
@[simp] theorem Thread.await_regs (t : Thread) (r : Result) : (t.await r).regs = t.regs := rfl
@[simp] theorem Thread.await_old (t : Thread) (r : Result) : (t.await r).old = t.old := rfl
@[simp] theorem Thread.await_fpctl (t : Thread) (r : Result) : (t.await r).fpctl = t.fpctl := rfl
@[simp] theorem Thread.await_octl (t : Thread) (r : Result) : (t.await r).octl = t.octl := rfl
@[simp] theorem Thread.await_fpstat (t : Thread) (r : Result) : (t.await r).fpstat = t.fpstat := rfl
@[simp] theorem Thread.await_rwc (t : Thread) (r : Result) : (t.await r).rwc = t.rwc := rfl
@[simp] theorem Thread.await_depth (t : Thread) (r : Result) : (t.await r).depth = t.depth := rfl
@[simp] theorem Thread.await_trr (t : Thread) (r : Result) : (t.await r).trr = t.trr := rfl
@[simp] theorem Thread.await_coll (t : Thread) (r : Result) : (t.await r).coll = t.coll := rfl
@[simp] theorem Thread.await_hold (t : Thread) (r : Result) : (t.await r).hold = t.hold := rfl
@[simp] theorem Thread.await_then_ (t : Thread) (r : Result) : (t.await r).then_ = t.then_ := rfl
@[simp] theorem Thread.await_stepped (t : Thread) (r : Result) : (t.await r).stepped = t.stepped := rfl
@[simp] theorem Thread.await_wait (t : Thread) (r : Result) : (t.await r).wait = t.wait := rfl
@[simp] theorem Thread.await_podErr (t : Thread) (r : Result) : (t.await r).podErr = t.podErr := rfl
@[simp] theorem Thread.await_tileErr (t : Thread) (r : Result) : (t.await r).tileErr = t.tileErr := rfl
@[simp] theorem Thread.await_tgt (t : Thread) (r : Result) : (t.await r).tgt = t.tgt := rfl
@[simp] theorem Thread.await_popCore (t : Thread) (r : Result) : (t.await r).popCore = t.popCore := rfl
@[simp] theorem Thread.await_npkt (t : Thread) (r : Result) : (t.await r).npkt = t.npkt := rfl
@[simp] theorem Thread.await_nslot (t : Thread) (r : Result) : (t.await r).nslot = t.nslot := rfl
@[simp] theorem Thread.await_wword (t : Thread) (r : Result) : (t.await r).wword = t.wword := rfl
@[simp] theorem Thread.await_cword (t : Thread) (r : Result) : (t.await r).cword = t.cword := rfl
@[simp] theorem Thread.await_cslot (t : Thread) (r : Result) : (t.await r).cslot = t.cslot := rfl
@[simp] theorem Thread.await_exiting (t : Thread) (r : Result) : (t.await r).exiting = t.exiting := rfl
@[simp] theorem Thread.await_conts (t : Thread) (r : Result) : (t.await r).conts = t.conts := rfl
@[simp] theorem Thread.await_outst (t : Thread) (r : Result) : (t.await r).outst = t.outst ++ [r] := rfl
@[simp] theorem Thread.await_pend (t : Thread) (r : Result) : (t.await r).pend = t.pend ++ r.dests := rfl

end Sys2Proof.Machine
end

