-- ==== Sys2Proof/Laws/Lanes.lean ====
section
/-! SUPPORT. What the shared shapes of words do: each lane for itself, lanes one after another, privileged forms. One lemma says
once what each can do; a proof about a word cites it. -/
namespace Sys2Proof.Machine

@[simp] theorem trapLanes_nil (s : State) : s.trapLanes [] = s := rfl

/-- A word that traps no lane: every issuing lane becomes what the word makes of it. -/
theorem eachLane_go (s : State) (iss : Issue) (f : Issue → Thread → LaneRes) (g : Thread → Thread) (h : s.issue = some iss)
    (hf : ∀ t, s.Issues iss t → f iss t = .go (g t)) :
    s.eachLane f = { s with threads := s.threads.map fun t => if t.inMask iss.gid iss.lanes then g t else t } := by
  have h1 : (s.issuing iss).filterMap (fun t => (f iss t).trap? t.lane) = [] := by
    rw [List.filterMap_eq_nil_iff]
    intro t ht
    simp only [State.issuing, List.mem_filter] at ht
    rw [hf t ht]; rfl
  have h2 : s.threads.map (fun t => if t.inMask iss.gid iss.lanes then (f iss t).thread t else t) =
      s.threads.map fun t => if t.inMask iss.gid iss.lanes then g t else t := by
    apply List.map_congr_left
    intro t ht
    split
    · next hm => rw [hf t ⟨ht, hm⟩]; rfl
    · rfl
  simp only [State.eachLane, h, h1, h2, trapLanes_nil]

/-- A word that only writes registers. -/
theorem alu_eq (s : State) (iss : Issue) (f : Issue → Thread → List Wr) (h : s.issue = some iss) :
    alu s f = .next (s.lanesPut iss (f iss)) := by
  simp only [alu, State.lanesPut]
  rw [eachLane_go s iss _ (fun t => t.put (f iss t)) h (fun _ _ => rfl)]

/-- A floating word of fixed latency that raises no enabled exception. -/
theorem fpDone_eq (s : State) (iss : Issue) (ws : Thread → List Wr) (e0 e1 : Thread → Exc) (h : s.issue = some iss)
    (hx : s.Unmasked iss fun t => e0 t ||| e1 t) :
    s.eachLane (fun _ t => fpDone t (ws t) (e0 t) (e1 t)) = s.lanesFlag iss ws (fun t => e0 t ||| e1 t) := by
  rw [eachLane_go s iss _ (fun t => { t.put (ws t) with fpstat := t.fpstat ||| (e0 t ||| e1 t).setWidth 32 }) h]
  · rfl
  · intro t ht; simp only [fpDone, hx t ht, if_true]

/-- A word of the SX pipe that raises no enabled exception. -/
theorem sxDone_eq (s : State) (iss : Issue) (ws : Thread → List Wr) (e0 e1 : Thread → Exc) (h : s.issue = some iss)
    (hx : s.Unmasked iss fun t => e0 t ||| e1 t) :
    s.eachLane (fun _ t => sxDone t (ws t) (e0 t) (e1 t)) = s.lanesOwe iss ws (fun t => e0 t ||| e1 t) true := by
  rw [eachLane_go s iss _ (fun t => t.await (Result.known t.nextRes (ws t) (e0 t ||| e1 t) true)) h]
  · rfl
  · intro t ht; simp only [sxDone, hx t ht, if_true]

/-- A privileged form in a group that may run it. -/
theorem priv_allowed (s : State) (iss : Issue) (k : State → Out) (h : s.issue = some iss) (hp : (s.group iss.gid).priv = true) :
    priv s k = k s := by simp only [priv, h, hp, if_true]
/-- A privileged form in any other group: the privilege trap, and nothing else. -/
theorem priv_refused (s : State) (iss : Issue) (k : State → Out) (h : s.issue = some iss) (hp : (s.group iss.gid).priv = false) :
    priv s k = .next (s.decodeTrap 0x02) := by
  unfold priv; rw [h]; simp [hp]

/-- A word of one lane that acts on the whole state. -/
theorem laneFold_solo (s : State) (iss : Issue) (t : Thread) (f : Issue → State → Thread → StepRes) (h : s.Solo iss t) :
    s.laneFold f = (match f iss s t with | .ok s' => s' | .trap s' c a acc kind => s'.trapLane ⟨t.lane, c, a, acc, kind⟩) := by
  simp only [State.laneFold, h.isOpen, h.only, List.foldl_cons, List.foldl_nil, h.here] <;> rfl
/-- The same when the lane's word succeeds. -/
theorem laneFold_ok (s : State) (iss : Issue) (t : Thread) (f : Issue → State → Thread → StepRes) (u : State) (h : s.Solo iss t)
    (hf : f iss s t = .ok u) : s.laneFold f = u := by
  rw [laneFold_solo s iss t f h, hf]
/-- The same when it traps. -/
theorem laneFold_trap (s : State) (iss : Issue) (t : Thread) (f : Issue → State → Thread → StepRes) (u : State) (c : Byte) (a : W64)
    (acc : BitVec 3) (k : Nat) (h : s.Solo iss t) (hf : f iss s t = .trap u c a acc k) :
    s.laneFold f = u.trapLane ⟨t.lane, c, a, acc, k⟩ := by
  rw [laneFold_solo s iss t f h, hf]

end Sys2Proof.Machine
end

