-- ==== Sys2Proof/Laws/Memory.lean ====
section
/-! SUPPORT. Memory: every operation keeps the canonical form, a read after a write gives what was written and leaves every other
byte alone, and canonical memories that read alike are equal. -/
namespace Sys2Proof.Machine

theorem memWfFrom_mono : ∀ (m : Memory) (lo lo' : Nat), lo' ≤ lo → memWfFrom lo m = true → memWfFrom lo' m = true
  | [], _, _, _, _ => rfl
  | (k, v) :: l, lo, lo', h, w => by
    simp only [memWfFrom, Bool.and_eq_true, decide_eq_true_eq] at w ⊢
    exact ⟨⟨by omega, w.1.2⟩, w.2⟩

/-- A canonical memory lists nothing below its least address. -/
theorem memGet_below : ∀ (m : Memory) (lo a : Nat), memWfFrom lo m = true → a < lo → memGet m a = 0
  | [], _, _, _, _ => rfl
  | (k, v) :: l, lo, a, w, h => by
    simp only [memWfFrom, Bool.and_eq_true, decide_eq_true_eq] at w
    have hk : k ≠ a := by omega
    simp only [memGet, if_neg hk]
    exact memGet_below l (k + 1) a w.2 (by omega)

theorem memWfFrom_memSet : ∀ (m : Memory) (lo a : Nat) (v : Byte), memWfFrom lo m = true → lo ≤ a → memWfFrom lo (memSet m a v) = true
  | [], lo, a, v, _, h => by
    simp only [memSet]
    split
    · rfl
    · next hv => simpa [memWfFrom] using ⟨h, hv⟩
  | (k, w) :: l, lo, a, v, hw, h => by
    have hw' := hw
    simp only [memWfFrom, Bool.and_eq_true, decide_eq_true_eq] at hw'
    obtain ⟨⟨h1, h2⟩, h3⟩ := hw'
    simp only [memSet]
    split
    · next hlt =>
      split
      · exact hw
      · next hv =>
        simp only [memWfFrom, Bool.and_eq_true, decide_eq_true_eq]
        exact ⟨⟨h, hv⟩, ⟨⟨by omega, h2⟩, h3⟩⟩
    · split
      · next hk =>
        split
        · exact memWfFrom_mono l (k + 1) lo (by omega) h3
        · next hv =>
          simp only [memWfFrom, Bool.and_eq_true, decide_eq_true_eq]
          exact ⟨⟨h, hv⟩, by rw [hk]; exact h3⟩
      · next hlt hk =>
        simp only [memWfFrom, Bool.and_eq_true, decide_eq_true_eq]
        exact ⟨⟨h1, h2⟩, memWfFrom_memSet l (k + 1) a v h3 (by omega)⟩

/-- A write of one byte keeps the canonical form. -/
theorem memSet_wf (m : Memory) (a : Nat) (v : Byte) (h : Memory.wf m = true) : Memory.wf (memSet m a v) = true :=
  memWfFrom_memSet m 0 a v h (Nat.zero_le a)

/-- A write of bytes keeps the canonical form. -/
theorem memWrite_wf : ∀ (bs : List Byte) (m : Memory) (a : Nat), Memory.wf m = true → Memory.wf (memWrite m a bs) = true
  | [], _, _, h => h
  | b :: l, m, a, h => memWrite_wf l (memSet m a b) (a + 1) (memSet_wf m a b h)

theorem memWfFrom_filter (p : Host.Cell → Bool) : ∀ (m : Memory) (lo : Nat), memWfFrom lo m = true → memWfFrom lo (m.filter p) = true
  | [], _, _ => rfl
  | (k, v) :: l, lo, w => by
    simp only [memWfFrom, Bool.and_eq_true, decide_eq_true_eq] at w
    obtain ⟨⟨h1, h2⟩, h3⟩ := w
    have ih := memWfFrom_filter p l (k + 1) h3
    by_cases hp : p (k, v) = true
    · simp only [List.filter_cons_of_pos hp, memWfFrom, Bool.and_eq_true, decide_eq_true_eq]
      exact ⟨⟨h1, h2⟩, ih⟩
    · simp only [List.filter_cons_of_neg hp]
      exact memWfFrom_mono _ (k + 1) lo (by omega) ih

/-- Dropping a range keeps the canonical form. -/
theorem memClear_wf (m : Memory) (a n : Nat) (h : Memory.wf m = true) : Memory.wf (memClear m a n) = true :=
  memWfFrom_filter _ m 0 h

theorem memGet_memSet_from : ∀ (m : Memory) (lo a : Nat) (v : Byte), memWfFrom lo m = true → memGet (memSet m a v) a = v
  | [], _, a, v, _ => by
    simp only [memSet]
    split
    · next hv => simp [memGet, hv]
    · simp [memGet]
  | (k, w) :: l, lo, a, v, hw => by
    have hw' := hw
    simp only [memWfFrom, Bool.and_eq_true, decide_eq_true_eq] at hw'
    obtain ⟨⟨h1, h2⟩, h3⟩ := hw'
    simp only [memSet]
    split
    · next hlt =>
      split
      · next hv =>
        have hk : k ≠ a := by omega
        simp only [memGet, if_neg hk, hv]
        exact memGet_below l (k + 1) a h3 (by omega)
      · simp [memGet]
    · split
      · next hk =>
        split
        · next hv => rw [hv]; exact memGet_below l (k + 1) a h3 (by omega)
        · simp [memGet]
      · next hlt hk =>
        have hne : k ≠ a := by omega
        simp only [memGet, if_neg hne]
        exact memGet_memSet_from l (k + 1) a v h3

/-- A read of the byte just written. -/
theorem memGet_memSet_same (m : Memory) (a : Nat) (v : Byte) (h : Memory.wf m = true) : memGet (memSet m a v) a = v :=
  memGet_memSet_from m 0 a v h

/-- A write of one byte leaves every other byte alone. -/
theorem memGet_memSet_other : ∀ (m : Memory) (a b : Nat) (v : Byte), b ≠ a → memGet (memSet m a v) b = memGet m b
  | [], a, b, v, h => by
    simp only [memSet]
    split
    · rfl
    · simp [memGet, Ne.symm h]
  | (k, w) :: l, a, b, v, h => by
    simp only [memSet]
    split
    · split
      · rfl
      · simp [memGet, Ne.symm h]
    · split
      · next hk =>
        subst hk
        split <;> simp [memGet, Ne.symm h]
      · simp only [memGet]
        split
        · rfl
        · exact memGet_memSet_other l a b v h

/-- A write of bytes leaves every byte outside them alone. -/
theorem memGet_memWrite_outside : ∀ (bs : List Byte) (m : Memory) (a b : Nat), (b < a ∨ a + bs.length ≤ b) →
    memGet (memWrite m a bs) b = memGet m b
  | [], _, _, _, _ => rfl
  | x :: l, m, a, b, h => by
    simp only [List.length_cons] at h
    simp only [memWrite]
    rw [memGet_memWrite_outside l (memSet m a x) (a + 1) b (by omega)]
    exact memGet_memSet_other m a b x (by omega)

/-- A read of bytes just written. -/
theorem memRead_memWrite : ∀ (bs : List Byte) (m : Memory) (a : Nat), Memory.wf m = true → memRead (memWrite m a bs) a bs.length = bs
  | [], _, _, _ => rfl
  | x :: l, m, a, h => by
    simp only [List.length_cons, memRead, memWrite]
    rw [memRead_memWrite l (memSet m a x) (a + 1) (memSet_wf m a x h), memGet_memWrite_outside l _ (a + 1) a (by omega),
      memGet_memSet_same m a x h]

@[simp] theorem memRead_length (m : Memory) : ∀ (n a : Nat), (memRead m a n).length = n
  | 0, _ => rfl
  | n + 1, a => by simp [memRead, memRead_length m n (a + 1)]

/-- A byte inside a range that has been dropped reads as zero; every other is as before. -/
theorem memGet_memClear : ∀ (m : Memory) (a n b : Nat),
    memGet (memClear m a n) b = if a ≤ b ∧ b < a + n then 0 else memGet m b
  | [], a, n, b => by simp [memClear, memGet]
  | (k, v) :: l, a, n, b => by
    have ih := memGet_memClear l a n b
    simp only [memClear] at ih ⊢
    by_cases hk : k < a ∨ a + n ≤ k
    · rw [List.filter_cons_of_pos (by simpa using hk)]
      simp only [memGet]
      by_cases hb : k = b
      · subst hb
        simp only [if_true]
        rw [if_neg (by omega)]
      · simp only [if_neg hb]; exact ih
    · rw [List.filter_cons_of_neg (by simpa using hk), ih]
      by_cases hb : k = b
      · subst hb
        rw [if_pos (by omega), if_pos (by omega)]
      · simp [memGet, hb]

/-- Canonical memories that read alike are equal. -/
theorem mem_ext_from : ∀ (m m' : Memory) (lo : Nat), memWfFrom lo m = true → memWfFrom lo m' = true →
    (∀ a, memGet m a = memGet m' a) → m = m'
  | [], [], _, _, _, _ => rfl
  | [], (k, v) :: l, lo, _, w, h => by
    simp only [memWfFrom, Bool.and_eq_true, decide_eq_true_eq] at w
    exact absurd (by simpa [memGet] using (h k).symm) w.1.2
  | (k, v) :: l, [], lo, w, _, h => by
    simp only [memWfFrom, Bool.and_eq_true, decide_eq_true_eq] at w
    exact absurd (by simpa [memGet] using h k) w.1.2
  | (k, v) :: l, (k', v') :: l', lo, w, w', h => by
    simp only [memWfFrom, Bool.and_eq_true, decide_eq_true_eq] at w w'
    obtain ⟨⟨_, hv⟩, hl⟩ := w
    obtain ⟨⟨_, hv'⟩, hl'⟩ := w'
    have hkk : k = k' := by
      rcases Nat.lt_trichotomy k k' with c | c | c
      · have := h k
        simp only [memGet, if_true, if_neg (show ¬ k' = k by omega)] at this
        rw [memGet_below l' (k' + 1) k hl' (by omega)] at this
        exact absurd this hv
      · exact c
      · have := h k'
        simp only [memGet, if_true, if_neg (show ¬ k = k' by omega)] at this
        rw [memGet_below l (k + 1) k' hl (by omega)] at this
        exact absurd this.symm hv'
    subst hkk
    have hvv : v = v' := by simpa [memGet] using h k
    subst hvv
    have := mem_ext_from l l' (k + 1) hl hl' (fun a => by
      by_cases ha : k = a
      · subst ha; rw [memGet_below l _ _ hl (by omega), memGet_below l' _ _ hl' (by omega)]
      · simpa [memGet, ha] using h a)
    rw [this]

/-- Equal memories are equal data. -/
theorem mem_ext (m m' : Memory) (h : Memory.wf m = true) (h' : Memory.wf m' = true) (e : ∀ a, memGet m a = memGet m' a) : m = m' :=
  mem_ext_from m m' 0 h h' e

@[simp] theorem memClear_nil (a n : Nat) : memClear [] a n = [] := rfl
@[simp] theorem memWrite_nil (m : Memory) (a : Nat) : memWrite m a [] = m := rfl
@[simp] theorem bytesOf_length : ∀ (n v : Nat), (bytesOf n v).length = n
  | 0, _ => rfl
  | n + 1, v => by simp [bytesOf, bytesOf_length n]
/-- The number that n little-endian bytes of a number stand for. -/
theorem natOf_bytesOf : ∀ (n v : Nat), natOf (bytesOf n v) = v % 256 ^ n
  | 0, v => by simp [bytesOf, natOf, Nat.mod_one]
  | n + 1, v => by
    have h : v % 256 ^ (n + 1) = v % 256 + 256 * (v / 256 % 256 ^ n) := by rw [pow_succ', Nat.mod_mul]
    rw [h]
    simp only [bytesOf, natOf, natOf_bytesOf n, BitVec.toNat_ofNat]
@[simp] theorem takeBytes_length (n : Nat) (l : List Byte) : (takeBytes n l).length = n := by
  simp only [takeBytes, List.length_append, List.length_take, List.length_replicate]; omega

end Sys2Proof.Machine
end

