-- ==== Sys2Proof/Laws/PerInstr.lean ====
section
/-! SUPPORT. What holds of every instruction as syntax: a word encodes it, or it is an event, which names no register. -/
namespace Sys2Proof.Laws.Encoding
open Machine

/-- An instruction has a word, or it names no register (R53: an event row has no encoding and no operand field). -/
def Statement (i : Instr) : Prop := (encode i).isSome = true ∨ opnds i = []

theorem nop : ∀ x0, Statement (.nop x0) := fun _ => .inl rfl
theorem brk : ∀ x0 x1, Statement (.brk x0 x1) := fun _ _ => .inl rfl
theorem exit : ∀ x0, Statement (.exit x0) := fun _ => .inl rfl
theorem yld : ∀ x0, Statement (.yld x0) := fun _ => .inl rfl
theorem sys : ∀ x0, Statement (.sys x0) := fun _ => .inl rfl
theorem sigret : ∀ x0, Statement (.sigret x0) := fun _ => .inl rfl
theorem rds : ∀ x0 x1 x2, Statement (.rds x0 x1 x2) := fun _ _ _ => .inl rfl
theorem wrs : ∀ x0 x1 x2, Statement (.wrs x0 x1 x2) := fun _ _ _ => .inl rfl
theorem iret : ∀ x0, Statement (.iret x0) := fun _ => .inl rfl
theorem br : ∀ x0 x1 x2 x3, Statement (.br x0 x1 x2 x3) := fun _ _ _ _ => .inl rfl
theorem jmp : ∀ x0 x1, Statement (.jmp x0 x1) := fun _ _ => .inl rfl
theorem call : ∀ x0 x1, Statement (.call x0 x1) := fun _ _ => .inl rfl
theorem jmpi : ∀ x0 x1, Statement (.jmpi x0 x1) := fun _ _ => .inl rfl
theorem calli : ∀ x0 x1, Statement (.calli x0 x1) := fun _ _ => .inl rfl
theorem ret : ∀ x0, Statement (.ret x0) := fun _ => .inl rfl
theorem reconv : ∀ x0 x1, Statement (.reconv x0 x1) := fun _ _ => .inl rfl
theorem pollOr : ∀ x0 x1 x2 x3, Statement (.pollOr x0 x1 x2 x3) := fun _ _ _ _ => .inl rfl
theorem pollAnd : ∀ x0 x1 x2 x3, Statement (.pollAnd x0 x1 x2 x3) := fun _ _ _ _ => .inl rfl
theorem pollSame : ∀ x0 x1 x2 x3, Statement (.pollSame x0 x1 x2 x3) := fun _ _ _ _ => .inl rfl
theorem gmask : ∀ x0 x1 x2 x3, Statement (.gmask x0 x1 x2 x3) := fun _ _ _ _ => .inl rfl
theorem xchAt : ∀ x0 x1 x2 x3, Statement (.xchAt x0 x1 x2 x3) := fun _ _ _ _ => .inl rfl
theorem xchBack : ∀ x0 x1 x2 x3, Statement (.xchBack x0 x1 x2 x3) := fun _ _ _ _ => .inl rfl
theorem xchFwd : ∀ x0 x1 x2 x3, Statement (.xchFwd x0 x1 x2 x3) := fun _ _ _ _ => .inl rfl
theorem xchFlip : ∀ x0 x1 x2 x3, Statement (.xchFlip x0 x1 x2 x3) := fun _ _ _ _ => .inl rfl
theorem redAddI32 : ∀ x0 x1 x2 x3, Statement (.redAddI32 x0 x1 x2 x3) := fun _ _ _ _ => .inl rfl
theorem redAddI64 : ∀ x0 x1 x2 x3, Statement (.redAddI64 x0 x1 x2 x3) := fun _ _ _ _ => .inl rfl
theorem redMinI32 : ∀ x0 x1 x2 x3, Statement (.redMinI32 x0 x1 x2 x3) := fun _ _ _ _ => .inl rfl
theorem redMinN32 : ∀ x0 x1 x2 x3, Statement (.redMinN32 x0 x1 x2 x3) := fun _ _ _ _ => .inl rfl
theorem redMaxI32 : ∀ x0 x1 x2 x3, Statement (.redMaxI32 x0 x1 x2 x3) := fun _ _ _ _ => .inl rfl
theorem redMaxN32 : ∀ x0 x1 x2 x3, Statement (.redMaxN32 x0 x1 x2 x3) := fun _ _ _ _ => .inl rfl
theorem redMinI64 : ∀ x0 x1 x2 x3, Statement (.redMinI64 x0 x1 x2 x3) := fun _ _ _ _ => .inl rfl
theorem redMinN64 : ∀ x0 x1 x2 x3, Statement (.redMinN64 x0 x1 x2 x3) := fun _ _ _ _ => .inl rfl
theorem redMaxI64 : ∀ x0 x1 x2 x3, Statement (.redMaxI64 x0 x1 x2 x3) := fun _ _ _ _ => .inl rfl
theorem redMaxN64 : ∀ x0 x1 x2 x3, Statement (.redMaxN64 x0 x1 x2 x3) := fun _ _ _ _ => .inl rfl
theorem redAddF32 : ∀ x0 x1 x2 x3, Statement (.redAddF32 x0 x1 x2 x3) := fun _ _ _ _ => .inl rfl
theorem redMinF32 : ∀ x0 x1 x2 x3, Statement (.redMinF32 x0 x1 x2 x3) := fun _ _ _ _ => .inl rfl
theorem redMaxF32 : ∀ x0 x1 x2 x3, Statement (.redMaxF32 x0 x1 x2 x3) := fun _ _ _ _ => .inl rfl
theorem redAddF64 : ∀ x0 x1 x2 x3, Statement (.redAddF64 x0 x1 x2 x3) := fun _ _ _ _ => .inl rfl
theorem redMinF64 : ∀ x0 x1 x2 x3, Statement (.redMinF64 x0 x1 x2 x3) := fun _ _ _ _ => .inl rfl
theorem redMaxF64 : ∀ x0 x1 x2 x3, Statement (.redMaxF64 x0 x1 x2 x3) := fun _ _ _ _ => .inl rfl
theorem scanAddI32 : ∀ x0 x1 x2 x3, Statement (.scanAddI32 x0 x1 x2 x3) := fun _ _ _ _ => .inl rfl
theorem scanAddI64 : ∀ x0 x1 x2 x3, Statement (.scanAddI64 x0 x1 x2 x3) := fun _ _ _ _ => .inl rfl
theorem scanAddF32 : ∀ x0 x1 x2 x3, Statement (.scanAddF32 x0 x1 x2 x3) := fun _ _ _ _ => .inl rfl
theorem scanAddF64 : ∀ x0 x1 x2 x3, Statement (.scanAddF64 x0 x1 x2 x3) := fun _ _ _ _ => .inl rfl
theorem vmrgLoN64 : ∀ x0 x1 x2 x3, Statement (.vmrgLoN64 x0 x1 x2 x3) := fun _ _ _ _ => .inl rfl
theorem vmrgHiN64 : ∀ x0 x1 x2 x3, Statement (.vmrgHiN64 x0 x1 x2 x3) := fun _ _ _ _ => .inl rfl
theorem vmrgLoI64 : ∀ x0 x1 x2 x3, Statement (.vmrgLoI64 x0 x1 x2 x3) := fun _ _ _ _ => .inl rfl
theorem vmrgHiI64 : ∀ x0 x1 x2 x3, Statement (.vmrgHiI64 x0 x1 x2 x3) := fun _ _ _ _ => .inl rfl
theorem bsortN64 : ∀ x0 x1 x2 x3, Statement (.bsortN64 x0 x1 x2 x3) := fun _ _ _ _ => .inl rfl
theorem bsortI64 : ∀ x0 x1 x2 x3, Statement (.bsortI64 x0 x1 x2 x3) := fun _ _ _ _ => .inl rfl
theorem rankN64 : ∀ x0 x1 x2 x3, Statement (.rankN64 x0 x1 x2 x3) := fun _ _ _ _ => .inl rfl
theorem rankI64 : ∀ x0 x1 x2 x3, Statement (.rankI64 x0 x1 x2 x3) := fun _ _ _ _ => .inl rfl
theorem imx : ∀ x0 x1, Statement (.imx x0 x1) := fun _ _ => .inl rfl
theorem movi : ∀ x0 x1 x2, Statement (.movi x0 x1 x2) := fun _ _ _ => .inl rfl
theorem add : ∀ x0 x1 x2 x3, Statement (.add x0 x1 x2 x3) := fun _ _ _ _ => .inl rfl
theorem sub : ∀ x0 x1 x2 x3, Statement (.sub x0 x1 x2 x3) := fun _ _ _ _ => .inl rfl
theorem mul : ∀ x0 x1 x2 x3, Statement (.mul x0 x1 x2 x3) := fun _ _ _ _ => .inl rfl
theorem mulhI32 : ∀ x0 x1 x2 x3, Statement (.mulhI32 x0 x1 x2 x3) := fun _ _ _ _ => .inl rfl
theorem mulhN32 : ∀ x0 x1 x2 x3, Statement (.mulhN32 x0 x1 x2 x3) := fun _ _ _ _ => .inl rfl
theorem addSatI32 : ∀ x0 x1 x2 x3, Statement (.addSatI32 x0 x1 x2 x3) := fun _ _ _ _ => .inl rfl
theorem addSatN32 : ∀ x0 x1 x2 x3, Statement (.addSatN32 x0 x1 x2 x3) := fun _ _ _ _ => .inl rfl
theorem subSatI32 : ∀ x0 x1 x2 x3, Statement (.subSatI32 x0 x1 x2 x3) := fun _ _ _ _ => .inl rfl
theorem subSatN32 : ∀ x0 x1 x2 x3, Statement (.subSatN32 x0 x1 x2 x3) := fun _ _ _ _ => .inl rfl
theorem minI32 : ∀ x0 x1 x2 x3, Statement (.minI32 x0 x1 x2 x3) := fun _ _ _ _ => .inl rfl
theorem minN32 : ∀ x0 x1 x2 x3, Statement (.minN32 x0 x1 x2 x3) := fun _ _ _ _ => .inl rfl
theorem maxI32 : ∀ x0 x1 x2 x3, Statement (.maxI32 x0 x1 x2 x3) := fun _ _ _ _ => .inl rfl
theorem maxN32 : ∀ x0 x1 x2 x3, Statement (.maxN32 x0 x1 x2 x3) := fun _ _ _ _ => .inl rfl
theorem abs : ∀ x0 x1 x2, Statement (.abs x0 x1 x2) := fun _ _ _ => .inl rfl
theorem neg : ∀ x0 x1 x2, Statement (.neg x0 x1 x2) := fun _ _ _ => .inl rfl
theorem and : ∀ x0 x1 x2 x3, Statement (.and x0 x1 x2 x3) := fun _ _ _ _ => .inl rfl
theorem or : ∀ x0 x1 x2 x3, Statement (.or x0 x1 x2 x3) := fun _ _ _ _ => .inl rfl
theorem xor : ∀ x0 x1 x2 x3, Statement (.xor x0 x1 x2 x3) := fun _ _ _ _ => .inl rfl
theorem andn : ∀ x0 x1 x2 x3, Statement (.andn x0 x1 x2 x3) := fun _ _ _ _ => .inl rfl
theorem not : ∀ x0 x1 x2, Statement (.not x0 x1 x2) := fun _ _ _ => .inl rfl
theorem shl : ∀ x0 x1 x2 x3, Statement (.shl x0 x1 x2 x3) := fun _ _ _ _ => .inl rfl
theorem shr : ∀ x0 x1 x2 x3, Statement (.shr x0 x1 x2 x3) := fun _ _ _ _ => .inl rfl
theorem sar : ∀ x0 x1 x2 x3, Statement (.sar x0 x1 x2 x3) := fun _ _ _ _ => .inl rfl
theorem rotl : ∀ x0 x1 x2 x3, Statement (.rotl x0 x1 x2 x3) := fun _ _ _ _ => .inl rfl
theorem rotr : ∀ x0 x1 x2 x3, Statement (.rotr x0 x1 x2 x3) := fun _ _ _ _ => .inl rfl
theorem bcnt : ∀ x0 x1 x2, Statement (.bcnt x0 x1 x2) := fun _ _ _ => .inl rfl
theorem lzc : ∀ x0 x1 x2, Statement (.lzc x0 x1 x2) := fun _ _ _ => .inl rfl
theorem tzc : ∀ x0 x1 x2, Statement (.tzc x0 x1 x2) := fun _ _ _ => .inl rfl
theorem bitrev : ∀ x0 x1 x2, Statement (.bitrev x0 x1 x2) := fun _ _ _ => .inl rfl
theorem byterev : ∀ x0 x1 x2, Statement (.byterev x0 x1 x2) := fun _ _ _ => .inl rfl
theorem saddX2 : ∀ x0 x1 x2 x3, Statement (.saddX2 x0 x1 x2 x3) := fun _ _ _ _ => .inl rfl
theorem saddX4 : ∀ x0 x1 x2 x3, Statement (.saddX4 x0 x1 x2 x3) := fun _ _ _ _ => .inl rfl
theorem saddX8 : ∀ x0 x1 x2 x3, Statement (.saddX8 x0 x1 x2 x3) := fun _ _ _ _ => .inl rfl
theorem saddX16 : ∀ x0 x1 x2 x3, Statement (.saddX16 x0 x1 x2 x3) := fun _ _ _ _ => .inl rfl
theorem mov : ∀ x0 x1 x2, Statement (.mov x0 x1 x2) := fun _ _ _ => .inl rfl
theorem addi : ∀ x0 x1 x2 x3, Statement (.addi x0 x1 x2 x3) := fun _ _ _ _ => .inl rfl
theorem andi : ∀ x0 x1 x2 x3, Statement (.andi x0 x1 x2 x3) := fun _ _ _ _ => .inl rfl
theorem ori : ∀ x0 x1 x2 x3, Statement (.ori x0 x1 x2 x3) := fun _ _ _ _ => .inl rfl
theorem xori : ∀ x0 x1 x2 x3, Statement (.xori x0 x1 x2 x3) := fun _ _ _ _ => .inl rfl
theorem shli : ∀ x0 x1 x2 x3, Statement (.shli x0 x1 x2 x3) := fun _ _ _ _ => .inl rfl
theorem shri : ∀ x0 x1 x2 x3, Statement (.shri x0 x1 x2 x3) := fun _ _ _ _ => .inl rfl
theorem sari : ∀ x0 x1 x2 x3, Statement (.sari x0 x1 x2 x3) := fun _ _ _ _ => .inl rfl
theorem muli : ∀ x0 x1 x2 x3, Statement (.muli x0 x1 x2 x3) := fun _ _ _ _ => .inl rfl
theorem cmpEqI32 : ∀ x0 x1 x2 x3, Statement (.cmpEqI32 x0 x1 x2 x3) := fun _ _ _ _ => .inl rfl
theorem cmpNeI32 : ∀ x0 x1 x2 x3, Statement (.cmpNeI32 x0 x1 x2 x3) := fun _ _ _ _ => .inl rfl
theorem cmpLtI32 : ∀ x0 x1 x2 x3, Statement (.cmpLtI32 x0 x1 x2 x3) := fun _ _ _ _ => .inl rfl
theorem cmpLeI32 : ∀ x0 x1 x2 x3, Statement (.cmpLeI32 x0 x1 x2 x3) := fun _ _ _ _ => .inl rfl
theorem cmpGtI32 : ∀ x0 x1 x2 x3, Statement (.cmpGtI32 x0 x1 x2 x3) := fun _ _ _ _ => .inl rfl
theorem cmpGeI32 : ∀ x0 x1 x2 x3, Statement (.cmpGeI32 x0 x1 x2 x3) := fun _ _ _ _ => .inl rfl
theorem cmpLtN32 : ∀ x0 x1 x2 x3, Statement (.cmpLtN32 x0 x1 x2 x3) := fun _ _ _ _ => .inl rfl
theorem cmpLeN32 : ∀ x0 x1 x2 x3, Statement (.cmpLeN32 x0 x1 x2 x3) := fun _ _ _ _ => .inl rfl
theorem cmpGtN32 : ∀ x0 x1 x2 x3, Statement (.cmpGtN32 x0 x1 x2 x3) := fun _ _ _ _ => .inl rfl
theorem cmpGeN32 : ∀ x0 x1 x2 x3, Statement (.cmpGeN32 x0 x1 x2 x3) := fun _ _ _ _ => .inl rfl
theorem muladd : ∀ x0 x1 x2 x3 x4, Statement (.muladd x0 x1 x2 x3 x4) := fun _ _ _ _ _ => .inl rfl
theorem addI64 : ∀ x0 x1 x2 x3, Statement (.addI64 x0 x1 x2 x3) := fun _ _ _ _ => .inl rfl
theorem subI64 : ∀ x0 x1 x2 x3, Statement (.subI64 x0 x1 x2 x3) := fun _ _ _ _ => .inl rfl
theorem mulI64 : ∀ x0 x1 x2 x3, Statement (.mulI64 x0 x1 x2 x3) := fun _ _ _ _ => .inl rfl
theorem mulhI64 : ∀ x0 x1 x2 x3, Statement (.mulhI64 x0 x1 x2 x3) := fun _ _ _ _ => .inl rfl
theorem mulhN64 : ∀ x0 x1 x2 x3, Statement (.mulhN64 x0 x1 x2 x3) := fun _ _ _ _ => .inl rfl
theorem addSatI64 : ∀ x0 x1 x2 x3, Statement (.addSatI64 x0 x1 x2 x3) := fun _ _ _ _ => .inl rfl
theorem addSatN64 : ∀ x0 x1 x2 x3, Statement (.addSatN64 x0 x1 x2 x3) := fun _ _ _ _ => .inl rfl
theorem subSatI64 : ∀ x0 x1 x2 x3, Statement (.subSatI64 x0 x1 x2 x3) := fun _ _ _ _ => .inl rfl
theorem subSatN64 : ∀ x0 x1 x2 x3, Statement (.subSatN64 x0 x1 x2 x3) := fun _ _ _ _ => .inl rfl
theorem minI64 : ∀ x0 x1 x2 x3, Statement (.minI64 x0 x1 x2 x3) := fun _ _ _ _ => .inl rfl
theorem minN64 : ∀ x0 x1 x2 x3, Statement (.minN64 x0 x1 x2 x3) := fun _ _ _ _ => .inl rfl
theorem maxI64 : ∀ x0 x1 x2 x3, Statement (.maxI64 x0 x1 x2 x3) := fun _ _ _ _ => .inl rfl
theorem maxN64 : ∀ x0 x1 x2 x3, Statement (.maxN64 x0 x1 x2 x3) := fun _ _ _ _ => .inl rfl
theorem absI64 : ∀ x0 x1 x2, Statement (.absI64 x0 x1 x2) := fun _ _ _ => .inl rfl
theorem negI64 : ∀ x0 x1 x2, Statement (.negI64 x0 x1 x2) := fun _ _ _ => .inl rfl
theorem andI64 : ∀ x0 x1 x2 x3, Statement (.andI64 x0 x1 x2 x3) := fun _ _ _ _ => .inl rfl
theorem orI64 : ∀ x0 x1 x2 x3, Statement (.orI64 x0 x1 x2 x3) := fun _ _ _ _ => .inl rfl
theorem xorI64 : ∀ x0 x1 x2 x3, Statement (.xorI64 x0 x1 x2 x3) := fun _ _ _ _ => .inl rfl
theorem andnI64 : ∀ x0 x1 x2 x3, Statement (.andnI64 x0 x1 x2 x3) := fun _ _ _ _ => .inl rfl
theorem notI64 : ∀ x0 x1 x2, Statement (.notI64 x0 x1 x2) := fun _ _ _ => .inl rfl
theorem shlI64 : ∀ x0 x1 x2 x3, Statement (.shlI64 x0 x1 x2 x3) := fun _ _ _ _ => .inl rfl
theorem shrI64 : ∀ x0 x1 x2 x3, Statement (.shrI64 x0 x1 x2 x3) := fun _ _ _ _ => .inl rfl
theorem sarI64 : ∀ x0 x1 x2 x3, Statement (.sarI64 x0 x1 x2 x3) := fun _ _ _ _ => .inl rfl
theorem rotlI64 : ∀ x0 x1 x2 x3, Statement (.rotlI64 x0 x1 x2 x3) := fun _ _ _ _ => .inl rfl
theorem rotrI64 : ∀ x0 x1 x2 x3, Statement (.rotrI64 x0 x1 x2 x3) := fun _ _ _ _ => .inl rfl
theorem bcntI64 : ∀ x0 x1 x2, Statement (.bcntI64 x0 x1 x2) := fun _ _ _ => .inl rfl
theorem lzcI64 : ∀ x0 x1 x2, Statement (.lzcI64 x0 x1 x2) := fun _ _ _ => .inl rfl
theorem tzcI64 : ∀ x0 x1 x2, Statement (.tzcI64 x0 x1 x2) := fun _ _ _ => .inl rfl
theorem bitrevI64 : ∀ x0 x1 x2, Statement (.bitrevI64 x0 x1 x2) := fun _ _ _ => .inl rfl
theorem byterevI64 : ∀ x0 x1 x2, Statement (.byterevI64 x0 x1 x2) := fun _ _ _ => .inl rfl
theorem saddX2I64 : ∀ x0 x1 x2 x3, Statement (.saddX2I64 x0 x1 x2 x3) := fun _ _ _ _ => .inl rfl
theorem saddX4I64 : ∀ x0 x1 x2 x3, Statement (.saddX4I64 x0 x1 x2 x3) := fun _ _ _ _ => .inl rfl
theorem saddX8I64 : ∀ x0 x1 x2 x3, Statement (.saddX8I64 x0 x1 x2 x3) := fun _ _ _ _ => .inl rfl
theorem saddX16I64 : ∀ x0 x1 x2 x3, Statement (.saddX16I64 x0 x1 x2 x3) := fun _ _ _ _ => .inl rfl
theorem movI64 : ∀ x0 x1 x2, Statement (.movI64 x0 x1 x2) := fun _ _ _ => .inl rfl
theorem addwI32 : ∀ x0 x1 x2 x3, Statement (.addwI32 x0 x1 x2 x3) := fun _ _ _ _ => .inl rfl
theorem addwN32 : ∀ x0 x1 x2 x3, Statement (.addwN32 x0 x1 x2 x3) := fun _ _ _ _ => .inl rfl
theorem mulxI32 : ∀ x0 x1 x2 x3, Statement (.mulxI32 x0 x1 x2 x3) := fun _ _ _ _ => .inl rfl
theorem mulxN32 : ∀ x0 x1 x2 x3, Statement (.mulxN32 x0 x1 x2 x3) := fun _ _ _ _ => .inl rfl
theorem cmpEqI64 : ∀ x0 x1 x2 x3, Statement (.cmpEqI64 x0 x1 x2 x3) := fun _ _ _ _ => .inl rfl
theorem cmpNeI64 : ∀ x0 x1 x2 x3, Statement (.cmpNeI64 x0 x1 x2 x3) := fun _ _ _ _ => .inl rfl
theorem cmpLtI64 : ∀ x0 x1 x2 x3, Statement (.cmpLtI64 x0 x1 x2 x3) := fun _ _ _ _ => .inl rfl
theorem cmpLeI64 : ∀ x0 x1 x2 x3, Statement (.cmpLeI64 x0 x1 x2 x3) := fun _ _ _ _ => .inl rfl
theorem cmpGtI64 : ∀ x0 x1 x2 x3, Statement (.cmpGtI64 x0 x1 x2 x3) := fun _ _ _ _ => .inl rfl
theorem cmpGeI64 : ∀ x0 x1 x2 x3, Statement (.cmpGeI64 x0 x1 x2 x3) := fun _ _ _ _ => .inl rfl
theorem cmpLtN64 : ∀ x0 x1 x2 x3, Statement (.cmpLtN64 x0 x1 x2 x3) := fun _ _ _ _ => .inl rfl
theorem cmpLeN64 : ∀ x0 x1 x2 x3, Statement (.cmpLeN64 x0 x1 x2 x3) := fun _ _ _ _ => .inl rfl
theorem cmpGtN64 : ∀ x0 x1 x2 x3, Statement (.cmpGtN64 x0 x1 x2 x3) := fun _ _ _ _ => .inl rfl
theorem cmpGeN64 : ∀ x0 x1 x2 x3, Statement (.cmpGeN64 x0 x1 x2 x3) := fun _ _ _ _ => .inl rfl
theorem fextN32 : ∀ x0 x1 x2 x3, Statement (.fextN32 x0 x1 x2 x3) := fun _ _ _ _ => .inl rfl
theorem fextI32 : ∀ x0 x1 x2 x3, Statement (.fextI32 x0 x1 x2 x3) := fun _ _ _ _ => .inl rfl
theorem fins : ∀ x0 x1 x2 x3, Statement (.fins x0 x1 x2 x3) := fun _ _ _ _ => .inl rfl
theorem bpick : ∀ x0 x1 x2 x3, Statement (.bpick x0 x1 x2 x3) := fun _ _ _ _ => .inl rfl
theorem bfn3 : ∀ x0 x1 x2 x3, Statement (.bfn3 x0 x1 x2 x3) := fun _ _ _ _ => .inl rfl
theorem sel : ∀ x0 x1 x2 x3 x4 x5, Statement (.sel x0 x1 x2 x3 x4 x5) := fun _ _ _ _ _ _ => .inl rfl
theorem selI64 : ∀ x0 x1 x2 x3 x4 x5, Statement (.selI64 x0 x1 x2 x3 x4 x5) := fun _ _ _ _ _ _ => .inl rfl
theorem addF32 : ∀ x0 x1 x2 x3, Statement (.addF32 x0 x1 x2 x3) := fun _ _ _ _ => .inl rfl
theorem subF32 : ∀ x0 x1 x2 x3, Statement (.subF32 x0 x1 x2 x3) := fun _ _ _ _ => .inl rfl
theorem mulF32 : ∀ x0 x1 x2 x3, Statement (.mulF32 x0 x1 x2 x3) := fun _ _ _ _ => .inl rfl
theorem minF32 : ∀ x0 x1 x2 x3, Statement (.minF32 x0 x1 x2 x3) := fun _ _ _ _ => .inl rfl
theorem maxF32 : ∀ x0 x1 x2 x3, Statement (.maxF32 x0 x1 x2 x3) := fun _ _ _ _ => .inl rfl
theorem absF32 : ∀ x0 x1 x2, Statement (.absF32 x0 x1 x2) := fun _ _ _ => .inl rfl
theorem negF32 : ∀ x0 x1 x2, Statement (.negF32 x0 x1 x2) := fun _ _ _ => .inl rfl
theorem cpsgnF32 : ∀ x0 x1 x2 x3, Statement (.cpsgnF32 x0 x1 x2 x3) := fun _ _ _ _ => .inl rfl
theorem fmaF32 : ∀ x0 x1 x2 x3 x4, Statement (.fmaF32 x0 x1 x2 x3 x4) := fun _ _ _ _ _ => .inl rfl
theorem addF64 : ∀ x0 x1 x2 x3, Statement (.addF64 x0 x1 x2 x3) := fun _ _ _ _ => .inl rfl
theorem subF64 : ∀ x0 x1 x2 x3, Statement (.subF64 x0 x1 x2 x3) := fun _ _ _ _ => .inl rfl
theorem mulF64 : ∀ x0 x1 x2 x3, Statement (.mulF64 x0 x1 x2 x3) := fun _ _ _ _ => .inl rfl
theorem minF64 : ∀ x0 x1 x2 x3, Statement (.minF64 x0 x1 x2 x3) := fun _ _ _ _ => .inl rfl
theorem maxF64 : ∀ x0 x1 x2 x3, Statement (.maxF64 x0 x1 x2 x3) := fun _ _ _ _ => .inl rfl
theorem absF64 : ∀ x0 x1 x2, Statement (.absF64 x0 x1 x2) := fun _ _ _ => .inl rfl
theorem negF64 : ∀ x0 x1 x2, Statement (.negF64 x0 x1 x2) := fun _ _ _ => .inl rfl
theorem cpsgnF64 : ∀ x0 x1 x2 x3, Statement (.cpsgnF64 x0 x1 x2 x3) := fun _ _ _ _ => .inl rfl
theorem fmaF64 : ∀ x0 x1 x2 x3 x4, Statement (.fmaF64 x0 x1 x2 x3 x4) := fun _ _ _ _ _ => .inl rfl
theorem addF16x2 : ∀ x0 x1 x2 x3, Statement (.addF16x2 x0 x1 x2 x3) := fun _ _ _ _ => .inl rfl
theorem subF16x2 : ∀ x0 x1 x2 x3, Statement (.subF16x2 x0 x1 x2 x3) := fun _ _ _ _ => .inl rfl
theorem mulF16x2 : ∀ x0 x1 x2 x3, Statement (.mulF16x2 x0 x1 x2 x3) := fun _ _ _ _ => .inl rfl
theorem minF16x2 : ∀ x0 x1 x2 x3, Statement (.minF16x2 x0 x1 x2 x3) := fun _ _ _ _ => .inl rfl
theorem maxF16x2 : ∀ x0 x1 x2 x3, Statement (.maxF16x2 x0 x1 x2 x3) := fun _ _ _ _ => .inl rfl
theorem absF16x2 : ∀ x0 x1 x2, Statement (.absF16x2 x0 x1 x2) := fun _ _ _ => .inl rfl
theorem negF16x2 : ∀ x0 x1 x2, Statement (.negF16x2 x0 x1 x2) := fun _ _ _ => .inl rfl
theorem addBf16x2 : ∀ x0 x1 x2 x3, Statement (.addBf16x2 x0 x1 x2 x3) := fun _ _ _ _ => .inl rfl
theorem subBf16x2 : ∀ x0 x1 x2 x3, Statement (.subBf16x2 x0 x1 x2 x3) := fun _ _ _ _ => .inl rfl
theorem mulBf16x2 : ∀ x0 x1 x2 x3, Statement (.mulBf16x2 x0 x1 x2 x3) := fun _ _ _ _ => .inl rfl
theorem minBf16x2 : ∀ x0 x1 x2 x3, Statement (.minBf16x2 x0 x1 x2 x3) := fun _ _ _ _ => .inl rfl
theorem maxBf16x2 : ∀ x0 x1 x2 x3, Statement (.maxBf16x2 x0 x1 x2 x3) := fun _ _ _ _ => .inl rfl
theorem absBf16x2 : ∀ x0 x1 x2, Statement (.absBf16x2 x0 x1 x2) := fun _ _ _ => .inl rfl
theorem negBf16x2 : ∀ x0 x1 x2, Statement (.negBf16x2 x0 x1 x2) := fun _ _ _ => .inl rfl
theorem fmaF16x2 : ∀ x0 x1 x2 x3 x4, Statement (.fmaF16x2 x0 x1 x2 x3 x4) := fun _ _ _ _ _ => .inl rfl
theorem fmaBf16x2 : ∀ x0 x1 x2 x3 x4, Statement (.fmaBf16x2 x0 x1 x2 x3 x4) := fun _ _ _ _ _ => .inl rfl
theorem fcmpF32 : ∀ x0 x1 x2 x3 x4, Statement (.fcmpF32 x0 x1 x2 x3 x4) := fun _ _ _ _ _ => .inl rfl
theorem fcmpF64 : ∀ x0 x1 x2 x3 x4, Statement (.fcmpF64 x0 x1 x2 x3 x4) := fun _ _ _ _ _ => .inl rfl
theorem frcpF32 : ∀ x0 x1 x2, Statement (.frcpF32 x0 x1 x2) := fun _ _ _ => .inl rfl
theorem frsqF32 : ∀ x0 x1 x2, Statement (.frsqF32 x0 x1 x2) := fun _ _ _ => .inl rfl
theorem exp2F32 : ∀ x0 x1 x2, Statement (.exp2F32 x0 x1 x2) := fun _ _ _ => .inl rfl
theorem log2F32 : ∀ x0 x1 x2, Statement (.log2F32 x0 x1 x2) := fun _ _ _ => .inl rfl
theorem sinF32 : ∀ x0 x1 x2, Statement (.sinF32 x0 x1 x2) := fun _ _ _ => .inl rfl
theorem cosF32 : ∀ x0 x1 x2, Statement (.cosF32 x0 x1 x2) := fun _ _ _ => .inl rfl
theorem tanhF32 : ∀ x0 x1 x2, Statement (.tanhF32 x0 x1 x2) := fun _ _ _ => .inl rfl
theorem frcpF64 : ∀ x0 x1 x2, Statement (.frcpF64 x0 x1 x2) := fun _ _ _ => .inl rfl
theorem frsqF64 : ∀ x0 x1 x2, Statement (.frsqF64 x0 x1 x2) := fun _ _ _ => .inl rfl
theorem fdivfixF32 : ∀ x0 x1 x2 x3, Statement (.fdivfixF32 x0 x1 x2 x3) := fun _ _ _ _ => .inl rfl
theorem fsqrtfixF32 : ∀ x0 x1 x2, Statement (.fsqrtfixF32 x0 x1 x2) := fun _ _ _ => .inl rfl
theorem fclassF32 : ∀ x0 x1 x2, Statement (.fclassF32 x0 x1 x2) := fun _ _ _ => .inl rfl
theorem frndF32 : ∀ x0 x1 x2 x3, Statement (.frndF32 x0 x1 x2 x3) := fun _ _ _ _ => .inl rfl
theorem fscaleF32 : ∀ x0 x1 x2 x3, Statement (.fscaleF32 x0 x1 x2 x3) := fun _ _ _ _ => .inl rfl
theorem fexpoF32 : ∀ x0 x1 x2, Statement (.fexpoF32 x0 x1 x2) := fun _ _ _ => .inl rfl
theorem fdivfixF64 : ∀ x0 x1 x2 x3, Statement (.fdivfixF64 x0 x1 x2 x3) := fun _ _ _ _ => .inl rfl
theorem fsqrtfixF64 : ∀ x0 x1 x2, Statement (.fsqrtfixF64 x0 x1 x2) := fun _ _ _ => .inl rfl
theorem fclassF64 : ∀ x0 x1 x2, Statement (.fclassF64 x0 x1 x2) := fun _ _ _ => .inl rfl
theorem frndF64 : ∀ x0 x1 x2 x3, Statement (.frndF64 x0 x1 x2 x3) := fun _ _ _ _ => .inl rfl
theorem fscaleF64 : ∀ x0 x1 x2 x3, Statement (.fscaleF64 x0 x1 x2 x3) := fun _ _ _ _ => .inl rfl
theorem fexpoF64 : ∀ x0 x1 x2, Statement (.fexpoF64 x0 x1 x2) := fun _ _ _ => .inl rfl
theorem cvtF32F64 : ∀ x0 x1 x2 x3, Statement (.cvtF32F64 x0 x1 x2 x3) := fun _ _ _ _ => .inl rfl
theorem cvtF64F32 : ∀ x0 x1 x2 x3, Statement (.cvtF64F32 x0 x1 x2 x3) := fun _ _ _ _ => .inl rfl
theorem cvtF16F32 : ∀ x0 x1 x2 x3, Statement (.cvtF16F32 x0 x1 x2 x3) := fun _ _ _ _ => .inl rfl
theorem cvtF32F16 : ∀ x0 x1 x2 x3, Statement (.cvtF32F16 x0 x1 x2 x3) := fun _ _ _ _ => .inl rfl
theorem cvtBf16F32 : ∀ x0 x1 x2 x3, Statement (.cvtBf16F32 x0 x1 x2 x3) := fun _ _ _ _ => .inl rfl
theorem cvtF32Bf16 : ∀ x0 x1 x2 x3, Statement (.cvtF32Bf16 x0 x1 x2 x3) := fun _ _ _ _ => .inl rfl
theorem cvtF16x2F32 : ∀ x0 x1 x2 x3, Statement (.cvtF16x2F32 x0 x1 x2 x3) := fun _ _ _ _ => .inl rfl
theorem cvtBf16x2F32 : ∀ x0 x1 x2 x3, Statement (.cvtBf16x2F32 x0 x1 x2 x3) := fun _ _ _ _ => .inl rfl
theorem cvtF32I32 : ∀ x0 x1 x2 x3, Statement (.cvtF32I32 x0 x1 x2 x3) := fun _ _ _ _ => .inl rfl
theorem cvtF32N32 : ∀ x0 x1 x2 x3, Statement (.cvtF32N32 x0 x1 x2 x3) := fun _ _ _ _ => .inl rfl
theorem cvtI32F32 : ∀ x0 x1 x2 x3, Statement (.cvtI32F32 x0 x1 x2 x3) := fun _ _ _ _ => .inl rfl
theorem cvtN32F32 : ∀ x0 x1 x2 x3, Statement (.cvtN32F32 x0 x1 x2 x3) := fun _ _ _ _ => .inl rfl
theorem cvtF64I64 : ∀ x0 x1 x2 x3, Statement (.cvtF64I64 x0 x1 x2 x3) := fun _ _ _ _ => .inl rfl
theorem cvtF64N64 : ∀ x0 x1 x2 x3, Statement (.cvtF64N64 x0 x1 x2 x3) := fun _ _ _ _ => .inl rfl
theorem cvtI64F64 : ∀ x0 x1 x2 x3, Statement (.cvtI64F64 x0 x1 x2 x3) := fun _ _ _ _ => .inl rfl
theorem cvtN64F64 : ∀ x0 x1 x2 x3, Statement (.cvtN64F64 x0 x1 x2 x3) := fun _ _ _ _ => .inl rfl
theorem cvtF64I32 : ∀ x0 x1 x2 x3, Statement (.cvtF64I32 x0 x1 x2 x3) := fun _ _ _ _ => .inl rfl
theorem cvtF64N32 : ∀ x0 x1 x2 x3, Statement (.cvtF64N32 x0 x1 x2 x3) := fun _ _ _ _ => .inl rfl
theorem cvtI32F64 : ∀ x0 x1 x2 x3, Statement (.cvtI32F64 x0 x1 x2 x3) := fun _ _ _ _ => .inl rfl
theorem cvtN32F64 : ∀ x0 x1 x2 x3, Statement (.cvtN32F64 x0 x1 x2 x3) := fun _ _ _ _ => .inl rfl
theorem cvtF32I64 : ∀ x0 x1 x2 x3, Statement (.cvtF32I64 x0 x1 x2 x3) := fun _ _ _ _ => .inl rfl
theorem cvtF32N64 : ∀ x0 x1 x2 x3, Statement (.cvtF32N64 x0 x1 x2 x3) := fun _ _ _ _ => .inl rfl
theorem cvtI64F32 : ∀ x0 x1 x2 x3, Statement (.cvtI64F32 x0 x1 x2 x3) := fun _ _ _ _ => .inl rfl
theorem cvtN64F32 : ∀ x0 x1 x2 x3, Statement (.cvtN64F32 x0 x1 x2 x3) := fun _ _ _ _ => .inl rfl
theorem cvtI64I32 : ∀ x0 x1 x2 x3, Statement (.cvtI64I32 x0 x1 x2 x3) := fun _ _ _ _ => .inl rfl
theorem cvtN64N32 : ∀ x0 x1 x2 x3, Statement (.cvtN64N32 x0 x1 x2 x3) := fun _ _ _ _ => .inl rfl
theorem cvtSatI32I64 : ∀ x0 x1 x2 x3, Statement (.cvtSatI32I64 x0 x1 x2 x3) := fun _ _ _ _ => .inl rfl
theorem cvtSatN32N64 : ∀ x0 x1 x2 x3, Statement (.cvtSatN32N64 x0 x1 x2 x3) := fun _ _ _ _ => .inl rfl
theorem cvtF64Td8 : ∀ x0 x1 x2 x3, Statement (.cvtF64Td8 x0 x1 x2 x3) := fun _ _ _ _ => .inl rfl
theorem cvtTd8F64 : ∀ x0 x1 x2 x3 x4, Statement (.cvtTd8F64 x0 x1 x2 x3 x4) := fun _ _ _ _ _ => .inl rfl
theorem cvtF32Td8 : ∀ x0 x1 x2 x3, Statement (.cvtF32Td8 x0 x1 x2 x3) := fun _ _ _ _ => .inl rfl
theorem cvtTd8F32 : ∀ x0 x1 x2 x3 x4, Statement (.cvtTd8F32 x0 x1 x2 x3 x4) := fun _ _ _ _ _ => .inl rfl
theorem npk : ∀ x0 x1 x2 x3 x4, Statement (.npk x0 x1 x2 x3 x4) := fun _ _ _ _ _ => .inl rfl
theorem npkSat : ∀ x0 x1 x2 x3 x4, Statement (.npkSat x0 x1 x2 x3 x4) := fun _ _ _ _ _ => .inl rfl
theorem nupk : ∀ x0 x1 x2 x3 x4, Statement (.nupk x0 x1 x2 x3 x4) := fun _ _ _ _ _ => .inl rfl
theorem nscl : ∀ x0 x1 x2 x3, Statement (.nscl x0 x1 x2 x3) := fun _ _ _ _ => .inl rfl
theorem ld : ∀ x0 x1 x2 x3 x4 x5 x6, Statement (.ld x0 x1 x2 x3 x4 x5 x6) := fun _ _ _ _ _ _ _ => .inl rfl
theorem st : ∀ x0 x1 x2 x3 x4 x5 x6, Statement (.st x0 x1 x2 x3 x4 x5 x6) := fun _ _ _ _ _ _ _ => .inl rfl
theorem ldg : ∀ x0 x1 x2 x3 x4 x5 x6, Statement (.ldg x0 x1 x2 x3 x4 x5 x6) := fun _ _ _ _ _ _ _ => .inl rfl
theorem stg : ∀ x0 x1 x2 x3 x4 x5 x6, Statement (.stg x0 x1 x2 x3 x4 x5 x6) := fun _ _ _ _ _ _ _ => .inl rfl
theorem atomAddN32 : ∀ x0 x1 x2 x3 x4, Statement (.atomAddN32 x0 x1 x2 x3 x4) := fun _ _ _ _ _ => .inl rfl
theorem atomAndB32 : ∀ x0 x1 x2 x3 x4, Statement (.atomAndB32 x0 x1 x2 x3 x4) := fun _ _ _ _ _ => .inl rfl
theorem atomOrB32 : ∀ x0 x1 x2 x3 x4, Statement (.atomOrB32 x0 x1 x2 x3 x4) := fun _ _ _ _ _ => .inl rfl
theorem atomXorB32 : ∀ x0 x1 x2 x3 x4, Statement (.atomXorB32 x0 x1 x2 x3 x4) := fun _ _ _ _ _ => .inl rfl
theorem atomMinI32 : ∀ x0 x1 x2 x3 x4, Statement (.atomMinI32 x0 x1 x2 x3 x4) := fun _ _ _ _ _ => .inl rfl
theorem atomMaxI32 : ∀ x0 x1 x2 x3 x4, Statement (.atomMaxI32 x0 x1 x2 x3 x4) := fun _ _ _ _ _ => .inl rfl
theorem atomMinN32 : ∀ x0 x1 x2 x3 x4, Statement (.atomMinN32 x0 x1 x2 x3 x4) := fun _ _ _ _ _ => .inl rfl
theorem atomMaxN32 : ∀ x0 x1 x2 x3 x4, Statement (.atomMaxN32 x0 x1 x2 x3 x4) := fun _ _ _ _ _ => .inl rfl
theorem atomAddN64 : ∀ x0 x1 x2 x3 x4, Statement (.atomAddN64 x0 x1 x2 x3 x4) := fun _ _ _ _ _ => .inl rfl
theorem atomAndB64 : ∀ x0 x1 x2 x3 x4, Statement (.atomAndB64 x0 x1 x2 x3 x4) := fun _ _ _ _ _ => .inl rfl
theorem atomOrB64 : ∀ x0 x1 x2 x3 x4, Statement (.atomOrB64 x0 x1 x2 x3 x4) := fun _ _ _ _ _ => .inl rfl
theorem atomXorB64 : ∀ x0 x1 x2 x3 x4, Statement (.atomXorB64 x0 x1 x2 x3 x4) := fun _ _ _ _ _ => .inl rfl
theorem atomMinI64 : ∀ x0 x1 x2 x3 x4, Statement (.atomMinI64 x0 x1 x2 x3 x4) := fun _ _ _ _ _ => .inl rfl
theorem atomMaxI64 : ∀ x0 x1 x2 x3 x4, Statement (.atomMaxI64 x0 x1 x2 x3 x4) := fun _ _ _ _ _ => .inl rfl
theorem atomMinN64 : ∀ x0 x1 x2 x3 x4, Statement (.atomMinN64 x0 x1 x2 x3 x4) := fun _ _ _ _ _ => .inl rfl
theorem atomMaxN64 : ∀ x0 x1 x2 x3 x4, Statement (.atomMaxN64 x0 x1 x2 x3 x4) := fun _ _ _ _ _ => .inl rfl
theorem atomXchgB32 : ∀ x0 x1 x2 x3 x4, Statement (.atomXchgB32 x0 x1 x2 x3 x4) := fun _ _ _ _ _ => .inl rfl
theorem atomCasB32 : ∀ x0 x1 x2 x3 x4, Statement (.atomCasB32 x0 x1 x2 x3 x4) := fun _ _ _ _ _ => .inl rfl
theorem atomXchgB64 : ∀ x0 x1 x2 x3 x4, Statement (.atomXchgB64 x0 x1 x2 x3 x4) := fun _ _ _ _ _ => .inl rfl
theorem atomCasB64 : ∀ x0 x1 x2 x3 x4, Statement (.atomCasB64 x0 x1 x2 x3 x4) := fun _ _ _ _ _ => .inl rfl
theorem atomAddF32 : ∀ x0 x1 x2 x3 x4, Statement (.atomAddF32 x0 x1 x2 x3 x4) := fun _ _ _ _ _ => .inl rfl
theorem atomMinF32 : ∀ x0 x1 x2 x3 x4, Statement (.atomMinF32 x0 x1 x2 x3 x4) := fun _ _ _ _ _ => .inl rfl
theorem atomMaxF32 : ∀ x0 x1 x2 x3 x4, Statement (.atomMaxF32 x0 x1 x2 x3 x4) := fun _ _ _ _ _ => .inl rfl
theorem atomAddF64 : ∀ x0 x1 x2 x3 x4, Statement (.atomAddF64 x0 x1 x2 x3 x4) := fun _ _ _ _ _ => .inl rfl
theorem atomMinF64 : ∀ x0 x1 x2 x3 x4, Statement (.atomMinF64 x0 x1 x2 x3 x4) := fun _ _ _ _ _ => .inl rfl
theorem atomMaxF64 : ∀ x0 x1 x2 x3 x4, Statement (.atomMaxF64 x0 x1 x2 x3 x4) := fun _ _ _ _ _ => .inl rfl
theorem atomAddF16x2 : ∀ x0 x1 x2 x3 x4, Statement (.atomAddF16x2 x0 x1 x2 x3 x4) := fun _ _ _ _ _ => .inl rfl
theorem atomAddBf16x2 : ∀ x0 x1 x2 x3 x4, Statement (.atomAddBf16x2 x0 x1 x2 x3 x4) := fun _ _ _ _ _ => .inl rfl
theorem fence : ∀ x0, Statement (.fence x0) := fun _ => .inl rfl
theorem mwaitB32 : ∀ x0 x1 x2 x3, Statement (.mwaitB32 x0 x1 x2 x3) := fun _ _ _ _ => .inl rfl
theorem mwaitB64 : ∀ x0 x1 x2 x3, Statement (.mwaitB64 x0 x1 x2 x3) := fun _ _ _ _ => .inl rfl
theorem mwsub : ∀ x0 x1 x2 x3, Statement (.mwsub x0 x1 x2 x3) := fun _ _ _ _ => .inl rfl
theorem mwend : ∀ x0 x1, Statement (.mwend x0 x1) := fun _ _ => .inl rfl
theorem mwseq : ∀ x0 x1 x2, Statement (.mwseq x0 x1 x2) := fun _ _ _ => .inl rfl
theorem mwsync : ∀ x0 x1 x2, Statement (.mwsync x0 x1 x2) := fun _ _ _ => .inl rfl
theorem pfch : ∀ x0 x1 x2, Statement (.pfch x0 x1 x2) := fun _ _ _ => .inl rfl
theorem tlook : ∀ x0 x1 x2, Statement (.tlook x0 x1 x2) := fun _ _ _ => .inl rfl
theorem tset : ∀ x0 x1 x2, Statement (.tset x0 x1 x2) := fun _ _ _ => .inl rfl
theorem tclr : ∀ x0 x1, Statement (.tclr x0 x1) := fun _ _ => .inl rfl
theorem hsel : ∀ x0 x1 x2, Statement (.hsel x0 x1 x2) := fun _ _ _ => .inl rfl
theorem hget : ∀ x0 x1 x2 x3, Statement (.hget x0 x1 x2 x3) := fun _ _ _ _ => .inl rfl
theorem hnew : ∀ x0 x1 x2, Statement (.hnew x0 x1 x2) := fun _ _ _ => .inl rfl
theorem hrev : ∀ x0 x1, Statement (.hrev x0 x1) := fun _ _ => .inl rfl
theorem barInit : ∀ x0 x1 x2, Statement (.barInit x0 x1 x2) := fun _ _ _ => .inl rfl
theorem barChk : ∀ x0 x1 x2, Statement (.barChk x0 x1 x2) := fun _ _ _ => .inl rfl
theorem barOwe : ∀ x0 x1 x2 x3, Statement (.barOwe x0 x1 x2 x3) := fun _ _ _ _ => .inl rfl
theorem barWait : ∀ x0 x1 x2, Statement (.barWait x0 x1 x2) := fun _ _ _ => .inl rfl
theorem barTry : ∀ x0 x1 x2 x3, Statement (.barTry x0 x1 x2 x3) := fun _ _ _ _ => .inl rfl
theorem sinit : ∀ x0 x1 x2, Statement (.sinit x0 x1 x2) := fun _ _ _ => .inl rfl
theorem spush : ∀ x0 x1 x2 x3, Statement (.spush x0 x1 x2 x3) := fun _ _ _ _ => .inl rfl
theorem spop : ∀ x0 x1 x2, Statement (.spop x0 x1 x2) := fun _ _ _ => .inl rfl
theorem sallow : ∀ x0 x1 x2, Statement (.sallow x0 x1 x2) := fun _ _ _ => .inl rfl
theorem spushTry : ∀ x0 x1 x2 x3, Statement (.spushTry x0 x1 x2 x3) := fun _ _ _ _ => .inl rfl
theorem spopTry : ∀ x0 x1 x2, Statement (.spopTry x0 x1 x2) := fun _ _ _ => .inl rfl
theorem smInit : ∀ x0 x1 x2, Statement (.smInit x0 x1 x2) := fun _ _ _ => .inl rfl
theorem smRd : ∀ x0 x1 x2, Statement (.smRd x0 x1 x2) := fun _ _ _ => .inl rfl
theorem tgate : ∀ x0 x1 x2, Statement (.tgate x0 x1 x2) := fun _ _ _ => .inl rfl
theorem twait : ∀ x0 x1 x2, Statement (.twait x0 x1 x2) := fun _ _ _ => .inl rfl
theorem cpy : ∀ x0 x1 x2 x3, Statement (.cpy x0 x1 x2 x3) := fun _ _ _ _ => .inl rfl
theorem cpyAt : ∀ x0 x1 x2 x3, Statement (.cpyAt x0 x1 x2 x3) := fun _ _ _ _ => .inl rfl
theorem cpm : ∀ x0 x1 x2 x3, Statement (.cpm x0 x1 x2 x3) := fun _ _ _ _ => .inl rfl
theorem drn : ∀ x0 x1 x2 x3, Statement (.drn x0 x1 x2 x3) := fun _ _ _ _ => .inl rfl
theorem bld : ∀ x0 x1 x2, Statement (.bld x0 x1 x2) := fun _ _ _ => .inl rfl
theorem gath : ∀ x0 x1 x2, Statement (.gath x0 x1 x2) := fun _ _ _ => .inl rfl
theorem chain : ∀ x0 x1 x2, Statement (.chain x0 x1 x2) := fun _ _ _ => .inl rfl
theorem waitc : ∀ x0 x1 x2, Statement (.waitc x0 x1 x2) := fun _ _ _ => .inl rfl
theorem collBcast : ∀ x0 x1 x2 x3 x4, Statement (.collBcast x0 x1 x2 x3 x4) := fun _ _ _ _ _ => .inl rfl
theorem collRedAddF32 : ∀ x0 x1 x2 x3 x4, Statement (.collRedAddF32 x0 x1 x2 x3 x4) := fun _ _ _ _ _ => .inl rfl
theorem collRedAddF64 : ∀ x0 x1 x2 x3 x4, Statement (.collRedAddF64 x0 x1 x2 x3 x4) := fun _ _ _ _ _ => .inl rfl
theorem collRedAddI32 : ∀ x0 x1 x2 x3 x4, Statement (.collRedAddI32 x0 x1 x2 x3 x4) := fun _ _ _ _ _ => .inl rfl
theorem collRedAddI64 : ∀ x0 x1 x2 x3 x4, Statement (.collRedAddI64 x0 x1 x2 x3 x4) := fun _ _ _ _ _ => .inl rfl
theorem collRedMinF32 : ∀ x0 x1 x2 x3 x4, Statement (.collRedMinF32 x0 x1 x2 x3 x4) := fun _ _ _ _ _ => .inl rfl
theorem collRedMaxF32 : ∀ x0 x1 x2 x3 x4, Statement (.collRedMaxF32 x0 x1 x2 x3 x4) := fun _ _ _ _ _ => .inl rfl
theorem collRedMinF64 : ∀ x0 x1 x2 x3 x4, Statement (.collRedMinF64 x0 x1 x2 x3 x4) := fun _ _ _ _ _ => .inl rfl
theorem collRedMaxF64 : ∀ x0 x1 x2 x3 x4, Statement (.collRedMaxF64 x0 x1 x2 x3 x4) := fun _ _ _ _ _ => .inl rfl
theorem collRedMinI64 : ∀ x0 x1 x2 x3 x4, Statement (.collRedMinI64 x0 x1 x2 x3 x4) := fun _ _ _ _ _ => .inl rfl
theorem collRedMaxI64 : ∀ x0 x1 x2 x3 x4, Statement (.collRedMaxI64 x0 x1 x2 x3 x4) := fun _ _ _ _ _ => .inl rfl
theorem collRedMinN64 : ∀ x0 x1 x2 x3 x4, Statement (.collRedMinN64 x0 x1 x2 x3 x4) := fun _ _ _ _ _ => .inl rfl
theorem collRedMaxN64 : ∀ x0 x1 x2 x3 x4, Statement (.collRedMaxN64 x0 x1 x2 x3 x4) := fun _ _ _ _ _ => .inl rfl
theorem mmaPt : ∀ x0 x1 x2 x3 x4 x5 x6, Statement (.mmaPt x0 x1 x2 x3 x4 x5 x6) := fun _ _ _ _ _ _ _ => .inl rfl
theorem mmaMinp : ∀ x0 x1 x2 x3 x4 x5 x6, Statement (.mmaMinp x0 x1 x2 x3 x4 x5 x6) := fun _ _ _ _ _ _ _ => .inl rfl
theorem mmaMaxp : ∀ x0 x1 x2 x3 x4 x5 x6, Statement (.mmaMaxp x0 x1 x2 x3 x4 x5 x6) := fun _ _ _ _ _ _ _ => .inl rfl
theorem mmaMaxt : ∀ x0 x1 x2 x3 x4 x5 x6, Statement (.mmaMaxt x0 x1 x2 x3 x4 x5 x6) := fun _ _ _ _ _ _ _ => .inl rfl
theorem mmaOrand : ∀ x0 x1 x2 x3 x4 x5 x6, Statement (.mmaOrand x0 x1 x2 x3 x4 x5 x6) := fun _ _ _ _ _ _ _ => .inl rfl
theorem mmz : ∀ x0 x1 x2 x3, Statement (.mmz x0 x1 x2 x3) := fun _ _ _ _ => .inl rfl
theorem mmcvt : ∀ x0 x1 x2 x3, Statement (.mmcvt x0 x1 x2 x3) := fun _ _ _ _ => .inl rfl
theorem mst : ∀ x0 x1 x2, Statement (.mst x0 x1 x2) := fun _ _ _ => .inl rfl
theorem tstamp : ∀ x0 x1, Statement (.tstamp x0 x1) := fun _ _ => .inl rfl
theorem tret : ∀ x0 x1 x2, Statement (.tret x0 x1 x2) := fun _ _ _ => .inl rfl
theorem osend : ∀ x0 x1 x2 x3, Statement (.osend x0 x1 x2 x3) := fun _ _ _ _ => .inl rfl
theorem orecv : ∀ x0 x1 x2 x3, Statement (.orecv x0 x1 x2 x3) := fun _ _ _ _ => .inl rfl
theorem rput : ∀ x0 x1 x2, Statement (.rput x0 x1 x2) := fun _ _ _ => .inl rfl
theorem rget : ∀ x0 x1 x2, Statement (.rget x0 x1 x2) := fun _ _ _ => .inl rfl
theorem ratm : ∀ x0 x1 x2 x3, Statement (.ratm x0 x1 x2 x3) := fun _ _ _ _ => .inl rfl
theorem wmrd : ∀ x0 x1 x2, Statement (.wmrd x0 x1 x2) := fun _ _ _ => .inl rfl
theorem orecvTry : ∀ x0 x1 x2 x3, Statement (.orecvTry x0 x1 x2 x3) := fun _ _ _ _ => .inl rfl
theorem cont : ∀ x0 x1 x2, Statement (.cont x0 x1 x2) := fun _ _ _ => .inl rfl
theorem lnch : ∀ x0 x1 x2, Statement (.lnch x0 x1 x2) := fun _ _ _ => .inl rfl
theorem qput : ∀ x0 x1 x2 x3, Statement (.qput x0 x1 x2 x3) := fun _ _ _ _ => .inl rfl
theorem repl : ∀ x0 x1 x2, Statement (.repl x0 x1 x2) := fun _ _ _ => .inl rfl
theorem sigdl : ∀ x0 x1 x2 x3, Statement (.sigdl x0 x1 x2 x3) := fun _ _ _ _ => .inl rfl
theorem penx : ∀ x0 x1 x2, Statement (.penx x0 x1 x2) := fun _ _ _ => .inl rfl
theorem swp : ∀ x0 x1 x2 x3, Statement (.swp x0 x1 x2 x3) := fun _ _ _ _ => .inl rfl
theorem kill : ∀ x0 x1 x2 x3, Statement (.kill x0 x1 x2 x3) := fun _ _ _ _ => .inl rfl
theorem kterm : ∀ x0 x1 x2 x3, Statement (.kterm x0 x1 x2 x3) := fun _ _ _ _ => .inl rfl
theorem tlbinv : ∀ x0 x1 x2 x3, Statement (.tlbinv x0 x1 x2 x3) := fun _ _ _ _ => .inl rfl
theorem sdn : ∀ x0 x1 x2 x3, Statement (.sdn x0 x1 x2 x3) := fun _ _ _ _ => .inl rfl
theorem pin : ∀ x0 x1 x2 x3, Statement (.pin x0 x1 x2 x3) := fun _ _ _ _ => .inl rfl
theorem unpin : ∀ x0 x1 x2 x3, Statement (.unpin x0 x1 x2 x3) := fun _ _ _ _ => .inl rfl
theorem migr : ∀ x0 x1 x2 x3, Statement (.migr x0 x1 x2 x3) := fun _ _ _ _ => .inl rfl
theorem fqpop : ∀ x0 x1, Statement (.fqpop x0 x1) := fun _ _ => .inl rfl
theorem fqpopTry : ∀ x0 x1, Statement (.fqpopTry x0 x1) := fun _ _ => .inl rfl
theorem fqdone : ∀ x0 x1 x2 x3, Statement (.fqdone x0 x1 x2 x3) := fun _ _ _ _ => .inl rfl
theorem step : ∀ x0 x1 x2, Statement (.step x0 x1 x2) := fun _ _ _ => .inl rfl
theorem snap : ∀ x0 x1 x2, Statement (.snap x0 x1 x2) := fun _ _ _ => .inl rfl
theorem ckpt : ∀ x0 x1 x2 x3, Statement (.ckpt x0 x1 x2 x3) := fun _ _ _ _ => .inl rfl
theorem variableResultReturn : ∀ x0 x1 x2, Statement (.variableResultReturn x0 x1 x2) := fun _ _ _ => .inr rfl
theorem instanceComplete : ∀ x0, Statement (.instanceComplete x0) := fun _ => .inr rfl
theorem replayEntryFreed : ∀ x0, Statement (.replayEntryFreed x0) := fun _ => .inr rfl
theorem homeRead : ∀ x0, Statement (.homeRead x0) := fun _ => .inr rfl
theorem homeWiLoad : ∀ x0, Statement (.homeWiLoad x0) := fun _ => .inr rfl
theorem homeOwnRequest : ∀ x0, Statement (.homeOwnRequest x0) := fun _ => .inr rfl
theorem homeWriteThrough : ∀ x0, Statement (.homeWriteThrough x0) := fun _ => .inr rfl
theorem requestRetry : ∀ x0, Statement (.requestRetry x0) := fun _ => .inr rfl
theorem l1Evict : ∀ x0 x1, Statement (.l1Evict x0 x1) := fun _ _ => .inr rfl
theorem ownerWriteback : ∀ x0 x1, Statement (.ownerWriteback x0 x1) := fun _ _ => .inr rfl
theorem recallTaken : ∀ x0 x1, Statement (.recallTaken x0 x1) := fun _ _ => .inr rfl
theorem recallResponse : ∀ x0 x1, Statement (.recallResponse x0 x1) := fun _ _ => .inr rfl
theorem invalidate : ∀ x0 x1, Statement (.invalidate x0 x1) := fun _ _ => .inr rfl
theorem invalidationAck : ∀ x0 x1, Statement (.invalidationAck x0 x1) := fun _ _ => .inr rfl
theorem hostCxlMemRead : ∀ x0, Statement (.hostCxlMemRead x0) := fun _ => .inr rfl
theorem hostCxlMemWrite : ∀ x0 x1, Statement (.hostCxlMemWrite x0 x1) := fun _ _ => .inr rfl
theorem serviceDieAccess : ∀ x0 x1, Statement (.serviceDieAccess x0 x1) := fun _ _ => .inr rfl
theorem hostSnoop : ∀ x0, Statement (.hostSnoop x0) := fun _ => .inr rfl
theorem proxyHostResponse : ∀ x0 x1, Statement (.proxyHostResponse x0 x1) := fun _ _ => .inr rfl
theorem atomicService : ∀ x0, Statement (.atomicService x0) := fun _ => .inr rfl
theorem mirrorUpdate : ∀ x0 x1, Statement (.mirrorUpdate x0 x1) := fun _ _ => .inr rfl
theorem mirrorSnapshotApplied : ∀ x0 x1, Statement (.mirrorSnapshotApplied x0 x1) := fun _ _ => .inr rfl
theorem podRemoteAccess : ∀ x0, Statement (.podRemoteAccess x0) := fun _ => .inr rfl
theorem podStoreAck : ∀ x0, Statement (.podStoreAck x0) := fun _ => .inr rfl
theorem remoteErrorResponse : ∀ x0, Statement (.remoteErrorResponse x0) := fun _ => .inr rfl
theorem firstTouchServed : ∀ x0, Statement (.firstTouchServed x0) := fun _ => .inr rfl
theorem ftuRingWrite : ∀ x0 x1 x2 x3, Statement (.ftuRingWrite x0 x1 x2 x3) := fun _ _ _ _ => .inr rfl
theorem promote : ∀ x0, Statement (.promote x0) := fun _ => .inr rfl
theorem evict : ∀ x0, Statement (.evict x0) := fun _ => .inr rfl
theorem migrationCopyDone : ∀ x0, Statement (.migrationCopyDone x0) := fun _ => .inr rfl
theorem l2PinTimeout : ∀ x0, Statement (.l2PinTimeout x0) := fun _ => .inr rfl
theorem sdnComplete : ∀ x0, Statement (.sdnComplete x0) := fun _ => .inr rfl
theorem bounceStallEnd : ∀ x0, Statement (.bounceStallEnd x0) := fun _ => .inr rfl
theorem barrierSectorCredit : ∀ x0 x1, Statement (.barrierSectorCredit x0 x1) := fun _ _ => .inr rfl
theorem gateFire : ∀ x0 x1, Statement (.gateFire x0 x1) := fun _ _ => .inr rfl
theorem engineTake : ∀ x0, Statement (.engineTake x0) := fun _ => .inr rfl
theorem engineWriteBurst : ∀ x0 x1, Statement (.engineWriteBurst x0 x1) := fun _ _ => .inr rfl
theorem engineFault : ∀ x0 x1, Statement (.engineFault x0 x1) := fun _ _ => .inr rfl
theorem engineDone : ∀ x0, Statement (.engineDone x0) := fun _ => .inr rfl
theorem cpyAtStart : ∀ x0, Statement (.cpyAtStart x0) := fun _ => .inr rfl
theorem cpmFillDone : ∀ x0, Statement (.cpmFillDone x0) := fun _ => .inr rfl
theorem chainRecordRead : ∀ x0 x1, Statement (.chainRecordRead x0 x1) := fun _ _ => .inr rfl
theorem chainRecordComplete : ∀ x0 x1, Statement (.chainRecordComplete x0 x1) := fun _ _ => .inr rfl
theorem collDeliveryDone : ∀ x0, Statement (.collDeliveryDone x0) := fun _ => .inr rfl
theorem mmaReachArray : ∀ x0, Statement (.mmaReachArray x0) := fun _ => .inr rfl
theorem mmaComputeDone : ∀ x0, Statement (.mmaComputeDone x0) := fun _ => .inr rfl
theorem tretRecordWrite : ∀ x0, Statement (.tretRecordWrite x0) := fun _ => .inr rfl
theorem submissionWindowWrite : ∀ x0 x1 x2 x3, Statement (.submissionWindowWrite x0 x1 x2 x3) := fun _ _ _ _ => .inr rfl
theorem dispatcherIntake : ∀ x0 x1, Statement (.dispatcherIntake x0 x1) := fun _ _ => .inr rfl
theorem kernelDispatch : ∀ x0 x1, Statement (.kernelDispatch x0 x1) := fun _ _ => .inr rfl
theorem herdPlace : ∀ x0, Statement (.herdPlace x0) := fun _ => .inr rfl
theorem d0Placement : ∀ x0 x1, Statement (.d0Placement x0 x1) := fun _ _ => .inr rfl
theorem preempt : ∀ x0, Statement (.preempt x0) := fun _ => .inr rfl
theorem quantumExpiry : ∀ x0 x1 x2, Statement (.quantumExpiry x0 x1 x2) := fun _ _ _ => .inr rfl
theorem herdRetire : ∀ x0 x1 x2, Statement (.herdRetire x0 x1 x2) := fun _ _ _ => .inr rfl
theorem gathererBatchLaunch : ∀ x0 x1 x2, Statement (.gathererBatchLaunch x0 x1 x2) := fun _ _ _ => .inr rfl
theorem gathererFlushTimeout : ∀ x0 x1 x2, Statement (.gathererFlushTimeout x0 x1 x2) := fun _ _ _ => .inr rfl
theorem issuePromotion : ∀ x0 x1, Statement (.issuePromotion x0 x1) := fun _ _ => .inr rfl
theorem d0Overrun : ∀ x0 x1, Statement (.d0Overrun x0 x1) := fun _ _ => .inr rfl
theorem budgetExceeded : ∀ x0 x1 x2, Statement (.budgetExceeded x0 x1 x2) := fun _ _ _ => .inr rfl
theorem scWrite : ∀ x0 x1, Statement (.scWrite x0 x1) := fun _ _ => .inr rfl
theorem ctxCreate : Statement .ctxCreate := .inr rfl
theorem ctxRelease : Statement .ctxRelease := .inr rfl
theorem penSwitch : ∀ x0, Statement (.penSwitch x0) := fun _ => .inr rfl
theorem penIdleSwitch : ∀ x0, Statement (.penIdleSwitch x0) := fun _ => .inr rfl
theorem swapSaveDone : ∀ x0 x1 x2, Statement (.swapSaveDone x0 x1 x2) := fun _ _ _ => .inr rfl
theorem swapLoadDone : ∀ x0 x1 x2, Statement (.swapLoadDone x0 x1 x2) := fun _ _ _ => .inr rfl
theorem shepherdEntryTake : ∀ x0, Statement (.shepherdEntryTake x0) := fun _ => .inr rfl
theorem syscallForward : ∀ x0, Statement (.syscallForward x0) := fun _ => .inr rfl
theorem syscallReply : ∀ x0 x1 x2, Statement (.syscallReply x0 x1 x2) := fun _ _ _ => .inr rfl
theorem syscallTimeout : ∀ x0, Statement (.syscallTimeout x0) := fun _ => .inr rfl
theorem serviceCoreWatchdog : Statement .serviceCoreWatchdog := .inr rfl
theorem killComplete : ∀ x0, Statement (.killComplete x0) := fun _ => .inr rfl
theorem ktermComplete : ∀ x0 x1, Statement (.ktermComplete x0 x1) := fun _ _ => .inr rfl
theorem hostLinkTrained : Statement .hostLinkTrained := .inr rfl
theorem hostLinkDown : Statement .hostLinkDown := .inr rfl
theorem portDisable : ∀ x0, Statement (.portDisable x0) := fun _ => .inr rfl
theorem portEnable : ∀ x0, Statement (.portEnable x0) := fun _ => .inr rfl
theorem portTrained : ∀ x0, Statement (.portTrained x0) := fun _ => .inr rfl
theorem portTrainingFailed : ∀ x0, Statement (.portTrainingFailed x0) := fun _ => .inr rfl
theorem flitReceive : ∀ x0 x1, Statement (.flitReceive x0 x1) := fun _ _ => .inr rfl
theorem flitError : ∀ x0, Statement (.flitError x0) := fun _ => .inr rfl
theorem replayAccepted : ∀ x0, Statement (.replayAccepted x0) := fun _ => .inr rfl
theorem replayFailed : ∀ x0, Statement (.replayFailed x0) := fun _ => .inr rfl
theorem beaconSend : ∀ x0, Statement (.beaconSend x0) := fun _ => .inr rfl
theorem beaconReceive : ∀ x0 x1 x2, Statement (.beaconReceive x0 x1 x2) := fun _ _ _ => .inr rfl
theorem ordPacketReceive : ∀ x0 x1, Statement (.ordPacketReceive x0 x1) := fun _ _ => .inr rfl
theorem ordRelease : Statement .ordRelease := .inr rfl
theorem ordStallDeclared : ∀ x0, Statement (.ordStallDeclared x0) := fun _ => .inr rfl
theorem stallNotice : ∀ x0 x1, Statement (.stallNotice x0 x1) := fun _ _ => .inr rfl
theorem endMarker : ∀ x0, Statement (.endMarker x0) := fun _ => .inr rfl
theorem routeTrigger : Statement .routeTrigger := .inr rfl
theorem routeInstall : Statement .routeInstall := .inr rfl
theorem ordAckSend : ∀ x0, Statement (.ordAckSend x0) := fun _ => .inr rfl
theorem ordAck : ∀ x0 x1, Statement (.ordAck x0 x1) := fun _ _ => .inr rfl
theorem ocTokenRefill : ∀ x0, Statement (.ocTokenRefill x0) := fun _ => .inr rfl
theorem ptimeDelayMeasure : ∀ x0 x1 x2 x3, Statement (.ptimeDelayMeasure x0 x1 x2 x3) := fun _ _ _ _ => .inr rfl
theorem ptimeHorizon : Statement .ptimeHorizon := .inr rfl
theorem ualinkRequest : ∀ x0 x1 x2, Statement (.ualinkRequest x0 x1 x2) := fun _ _ _ => .inr rfl
theorem checkpointAuto : ∀ x0, Statement (.checkpointAuto x0) := fun _ => .inr rfl
theorem snapshotTimeTrigger : Statement .snapshotTimeTrigger := .inr rfl
theorem tgWrite : ∀ x0 x1, Statement (.tgWrite x0 x1) := fun _ _ => .inr rfl
theorem tgFullClear : Statement .tgFullClear := .inr rfl
theorem snapshotIndexWrite : ∀ x0, Statement (.snapshotIndexWrite x0) := fun _ => .inr rfl
theorem coldReset : ∀ x0, Statement (.coldReset x0) := fun _ => .inr rfl
theorem recoveryImageWrite : ∀ x0, Statement (.recoveryImageWrite x0) := fun _ => .inr rfl
theorem warmReset : ∀ x0, Statement (.warmReset x0) := fun _ => .inr rfl
theorem spdmGetMeasurements : ∀ x0, Statement (.spdmGetMeasurements x0) := fun _ => .inr rfl
theorem powerCap : ∀ x0, Statement (.powerCap x0) := fun _ => .inr rfl
theorem thermalThrottle : ∀ x0, Statement (.thermalThrottle x0) := fun _ => .inr rfl
theorem thermalTrip : ∀ x0, Statement (.thermalTrip x0) := fun _ => .inr rfl
theorem thermalTripEnd : ∀ x0, Statement (.thermalTripEnd x0) := fun _ => .inr rfl
theorem pwWrite : ∀ x0, Statement (.pwWrite x0) := fun _ => .inr rfl
theorem eventRingDrain : Statement .eventRingDrain := .inr rfl
theorem evHeadWrite : ∀ x0, Statement (.evHeadWrite x0) := fun _ => .inr rfl
theorem evLostClear : ∀ x0, Statement (.evLostClear x0) := fun _ => .inr rfl
theorem coreGateWrite : ∀ x0 x1, Statement (.coreGateWrite x0 x1) := fun _ _ => .inr rfl
theorem registerWrite : ∀ x0 x1, Statement (.registerWrite x0 x1) := fun _ _ => .inr rfl
theorem illegalInstruction : ∀ x0, Statement (.illegalInstruction x0) := fun _ => .inr rfl
theorem syscallReceiptAck : ∀ x0, Statement (.syscallReceiptAck x0) := fun _ => .inr rfl
theorem nvmeStagingWrite : ∀ x0 x1, Statement (.nvmeStagingWrite x0 x1) := fun _ _ => .inr rfl
theorem precisionTimeMeasurement : ∀ x0, Statement (.precisionTimeMeasurement x0) := fun _ => .inr rfl
theorem proxyLineEvict : ∀ x0, Statement (.proxyLineEvict x0) := fun _ => .inr rfl
theorem issueWithholdEnd : ∀ x0 x1, Statement (.issueWithholdEnd x0 x1) := fun _ _ => .inr rfl

end Sys2Proof.Laws.Encoding
end

