-- ==== Sys2Proof/Laws/Traps.lean ====
section
/-! SUPPORT. Finding a thread after its group's threads have changed, and the sub-group that a trap joins. -/
namespace Sys2Proof.Laws
open Machine

theorem find_map_lane (l : List Thread) (gid lane : Nat) (f : Thread → Thread) (t : Thread)
    (hf : ∀ x, (f x).gid = x.gid ∧ (f x).lane = x.lane) (h : l.find? (fun t => t.is gid lane) = some t) :
    (l.map fun x => if x.is gid lane then f x else x).find? (fun t => t.is gid lane) = some (f t) := by
  induction l with
  | nil => simp at h
  | cons a l ih =>
    simp only [List.map_cons, List.find?_cons] at h ⊢
    by_cases ha : a.is gid lane = true
    · have : (f a).is gid lane = true := by simp only [Thread.is, hf] at ha ⊢; exact ha
      simp only [ha, if_true, this] at h ⊢; cases h; rfl
    · have ha' : a.is gid lane = false := by simpa using ha
      simp only [ha', if_false, Bool.false_eq_true] at h ⊢; exact ih h

theorem find_map_other (l : List Thread) (gid lane k m : Nat) (f : Thread → Thread)
    (hf : ∀ x, (f x).gid = x.gid ∧ (f x).lane = x.lane) (h : k ≠ gid ∨ m ≠ lane) :
    (l.map fun x => if x.is gid lane then f x else x).find? (fun t => t.is k m) = l.find? fun t => t.is k m := by
  induction l with
  | nil => rfl
  | cons a l ih =>
    simp only [List.map_cons, List.find?_cons]
    by_cases ha : a.is gid lane = true
    · have h1 : a.is k m = false := by
        simp only [Thread.is, Bool.and_eq_true, decide_eq_true_eq, Bool.and_eq_false_iff, decide_eq_false_iff_not] at ha ⊢
        omega
      have h2 : (f a).is k m = false := by simp only [Thread.is, hf] at h1 ⊢; exact h1
      simp only [ha, if_true, h1, h2]; exact ih
    · simp only [ha, ih]; rfl

/-- The thread that an update of one thread changes, after it. -/
theorem thread_updT (s : State) (gid lane : Nat) (f : Thread → Thread) (t : Thread)
    (hf : ∀ x, (f x).gid = x.gid ∧ (f x).lane = x.lane) (h : s.thread? gid lane = some t) :
    (s.updT gid lane f).thread? gid lane = some (f t) := find_map_lane s.threads gid lane f t hf h

/-- Every other thread, after it. -/
theorem thread_updT_other (s : State) (gid lane k m : Nat) (f : Thread → Thread)
    (hf : ∀ x, (f x).gid = x.gid ∧ (f x).lane = x.lane) (h : k ≠ gid ∨ m ≠ lane) :
    (s.updT gid lane f).thread? k m = s.thread? k m := find_map_other s.threads gid lane k m f hf h

/-- A trap's lane is in a sub-group of the trap's cause. -/
theorem join_mem (forming : List Nat) (subs : List SubGroup) (gid nid : Nat) (now : W64) (x : LTrap) (hl : x.lane < 32) :
    ∃ b ∈ (joinSub forming subs gid nid now x).1, b.gid = gid ∧ b.cause = x.cause ∧ hasLane b.lanes x.lane = true := by
  have hb : hasLane (laneBit x.lane) x.lane = true := by
    simp only [hasLane, laneBit]; rw [BitVec.getLsbD_ofNat]; simp [hl]
  unfold joinSub
  split
  · next b hf =>
    have hm := List.mem_of_find?_eq_some hf
    have hp := List.find?_some hf
    simp only [Bool.and_eq_true, decide_eq_true_eq] at hp
    refine ⟨_, List.mem_map.mpr ⟨b, hm, if_pos rfl⟩, hp.1.2, hp.2, ?_⟩
    simp only [hasLane, BitVec.getLsbD_or] at hb ⊢; rw [hb]; simp
  · exact ⟨_, List.mem_append_right _ (List.mem_singleton.mpr rfl), rfl, rfl, hb⟩

end Sys2Proof.Laws
end

