-- ==== Sys2Proof/Tests/Slice0.lean ====
section
/-! SUPPORT. The author's own tests: the static checks refuse, words decode, single steps on small states, and a witness for the
hypotheses of every statement. -/
namespace Sys2Proof.Tests
set_option Elab.async false
open Machine

/-! ## Small states -/

/-- A group of context 1, privileged or not. -/
def grp (sys : Bool) : Group := { Group.absent 1 with ctx := 1, fid := 2, sys, lvl := [0, 0, 0, 0] }
/-- Its flock, with 64 KiB of scratchpad and one B-store slot. -/
def flk : Flock :=
  { fid := 2, ctx := 1, kid := 0, herd := 0, flk := 0, pcore := 0, pen := 0, both := false, scr := [], scrLen := 65536, bst := [],
    bstLen := 4096, slots := [], seams := Vector.replicate 16 Seam.reset, gates := Vector.replicate 8 .idle, tags := [],
    chans := Vector.replicate 4 Chan.reset, wins := Vector.replicate 8 Window.reset, waiters := [] }
/-- A handle entry of a space, with every right and policy. -/
def hEnt (space base len : Nat) : BitVec 256 :=
  BitVec.ofNat 256 (base + len * 2 ^ 64 + space * 2 ^ 128 + 2 ^ 131 + 31 * 2 ^ 132 + 15 * 2 ^ 137)
/-- A loaded handle register. -/
def hReg (idx : BitVec 12) (e : BitVec 256) : HReg := ⟨true, idx, e, false⟩
/-- The thread in lane 0, with some registers set, and a scratchpad handle in h1 and a memory handle in h2. -/
def thr (g : List (Nat × W32)) : Thread :=
  let t := Thread.fresh 1 0 0
  let r : Regs := ⟨g.foldl (fun v x => v.setIfInBounds x.1 x.2) t.regs.g, t.regs.p,
    (t.regs.h.set 1 (hReg 1 (hEnt 1 0 4096))).set 2 (hReg 2 (hEnt 0 0x20000 4096))⟩
  { t with regs := r, old := r }
/-- The open chain of one word. -/
def iss (w : W32) : Issue := Issue.start 1 1 0 0 [w]
/-- One thread that issues one word alone, in a context without memory. -/
def one (sys : Bool) (w : W32) (g : List (Nat × W32)) : State :=
  { State.reset with issue := some (iss w), groups := [grp sys], threads := [thr g], flocks := [flk], ctxs := [plantCtx 1],
                     kernels := [plantKernel 1], nextId := 9 }
/-- Memory with page tables, and handle entries 1 (scratchpad) and 2 (memory). -/
def mem1 : Memory :=
  memWrite (memWrite (plantMem [] []) (plantBase + 0x400020) (bytesOf 32 (hEnt 1 0 4096).toNat)) (plantBase + 0x400040)
    (bytesOf 32 (hEnt 0 0x20000 4096).toNat)
/-- The same thread where its context has page tables and a handle table. -/
def two (sys : Bool) (w : W32) (g : List (Nat × W32)) : State := { one sys w g with mem := mem1 }
theorem solo_of (s : State) (w : W32) (t : Thread) (hi : s.issue = some (iss w)) (ht : s.threads = [t]) (hg : t.gid = 1) (hl : t.lane = 0) :
    s.Solo (iss w) t := by
  have h : t.inMask 1 1#32 = true := by simp [Thread.inMask, hg, hl, hasLane]
  have k : t.is 1 0 = true := by simp [Thread.is, hg, hl]
  refine ⟨hi, ?_, ?_, ?_⟩
  · rw [hl]; show lanesOf 1 = [0]; decide
  · rw [hl]; simp [State.thread?, iss, Issue.start, ht, k]
  · simp [State.issuing, ht, iss, Issue.start, h]
theorem solo (sys : Bool) (w : W32) (g : List (Nat × W32)) : (one sys w g).Solo (iss w) (thr g) := solo_of _ _ _ rfl rfl rfl rfl
theorem solo_two (sys : Bool) (w : W32) (g : List (Nat × W32)) : (two sys w g).Solo (iss w) (thr g) := solo_of _ _ _ rfl rfl rfl rfl
/-- A register of the thread after an outcome. -/
def gets (o : Out) (r : Fin 64) : Option W32 :=
  match o with
  | .next s => (s.thread? 1 0).map fun t => t.regs.g.get r
  | _ => none
/-- A register that the thread's newest outstanding result will write. -/
def owed (o : Out) (r : BitVec 6) : Option W32 :=
  match o with
  | .next s => (s.thread? 1 0).bind fun t => t.outst.getLast?.bind fun x => x.writes.findSome? fun w =>
      match w with
      | .g q v => if q = r then some v else none
      | _ => none
  | _ => none
/-- The cause of the thread's trap after an outcome. -/
def cause (o : Out) : Option Byte :=
  match o with
  | .next s => (s.thread? 1 0).map fun t => t.trr.cause
  | _ => none

/-! ## The static checks refuse (R44, R47, R49, R50) -/

theorem wf_refuses_imx_without_c : wf (.imx ⟨false, false⟩ 5) = false := by decide
theorem wf_refuses_an_unassigned_selector : wf (.rds ⟨false, false⟩ 1 0x3F) = false := by decide
theorem wf_refuses_wrs_of_a_read_only_selector : wf (.wrs ⟨false, false⟩ 1 0x10) = false := by decide
theorem wf_refuses_an_odd_pair : wf (.addI64 ⟨false, false⟩ 5 2 4) = false := by decide
theorem wf_refuses_a_register_past_the_file : wf (.ld ⟨false, false⟩ 62 3 2 4 3 0) = false := by decide
theorem wf_refuses_a_rounding_code : wf (.frndF32 ⟨false, false⟩ 4 5 6) = false := by decide
theorem wf_refuses_an_order_code : wf (.ld ⟨false, false⟩ 4 3 2 2 3 3) = false := by decide
theorem wf_refuses_an_access_size : wf (.st ⟨false, false⟩ 4 3 2 6 3 0) = false := by decide
theorem wf_refuses_a_pin_kind : wf (.pin ⟨false, false⟩ 4 6 3) = false := by decide
theorem wf_takes_a_good_word : wf (.addI64 ⟨false, false⟩ 6 2 4) = true := by decide
theorem wfFor_refuses_a_register_not_owned : wfFor 16 (.add ⟨false, false⟩ 15 5 4) = false := by decide
theorem wfFor_takes_g63 : wfFor 16 (.add ⟨false, false⟩ 63 5 14) = true := by decide
theorem decode_refuses_a_reserved_major : decode 0x3F000000 = .error .major := by rfl
theorem decode_refuses_an_unassigned_code : decode 0x00000009 = .error .code := by rfl
theorem decode_refuses_a_field_that_must_be_zero : decode 0x04001002 = .error .field := by rfl

/-! ## Words written out from the encoding tables (R48, R53 to R69) -/

theorem decode_ctl : decode 0x40040006 = .ok (.rds ⟨false, true⟩ 1 0) := by rfl
theorem decode_br : decode 0x013FFFFE = .ok (.br ⟨false, false⟩ 0 3 0xFFFFE) := by rfl
theorem decode_jmp : decode 0x02000002 = .ok (.jmp ⟨false, false⟩ 2) := by rfl
theorem decode_call : decode 0x03000005 = .ok (.call ⟨false, false⟩ 5) := by rfl
theorem decode_jx : decode 0x04009001 = .ok (.calli ⟨false, false⟩ 9) := by rfl
theorem decode_grp : decode 0x05003000 = .ok (.reconv ⟨false, false⟩ 3) := by rfl
theorem decode_imx : decode 0x8600048D = .ok (.imx ⟨true, false⟩ 0x48D) := by rfl
theorem decode_movi : decode 0x07145678 = .ok (.movi ⟨false, false⟩ 5 0x5678) := by rfl
theorem decode_i32 : decode 0x08185100 = .ok (.add ⟨false, false⟩ 6 5 4) := by rfl
theorem decode_i32i : decode 0x090C31FF = .ok (.addi ⟨false, false⟩ 3 3 0x1FF) := by rfl
theorem decode_bits : decode 0x0E105184 = .ok (.bfn3 ⟨false, false⟩ 4 5 6) := by rfl
theorem decode_sel : decode 0x0F10518A = .ok (.sel ⟨false, false⟩ 4 5 6 1 2) := by rfl
theorem decode_fcmp : decode 0x17042112 = .ok (.fcmpF64 ⟨false, false⟩ 1 2 4 2) := by rfl
theorem decode_ffix : decode 0x19105083 = .ok (.frndF32 ⟨false, false⟩ 4 5 2) := by rfl
theorem decode_cvt : decode 0x1A105263 = .ok (.cvtTd8F32 ⟨false, false⟩ 4 5 1 1) := by rfl
theorem decode_ncvt : decode 0x1B30810C = .ok (.npkSat ⟨false, false⟩ 12 8 4 4) := by rfl
theorem decode_ld : decode 0x60206124 = .ok (.ld ⟨false, true⟩ 8 6 2 2 1 0) := by rfl
theorem decode_st : decode 0x2128613E = .ok (.st ⟨false, false⟩ 10 6 2 3 3 2) := by rfl
theorem decode_atmi : decode 0x24106201 = .ok (.atomAddN32 ⟨false, false⟩ 4 6 8 1) := by rfl
theorem decode_msync : decode 0x26000000 = .ok (.fence ⟨false, false⟩) := by rfl
theorem decode_tag : decode 0x27106000 = .ok (.tlook ⟨false, false⟩ 4 6) := by rfl
theorem decode_hdl : decode 0x280C5000 = .ok (.hsel ⟨false, false⟩ 3 5) := by rfl
theorem decode_bar : decode 0x29006140 = .ok (.barInit ⟨false, false⟩ 6 5) := by rfl
theorem decode_spool : decode 0x2A006200 = .ok (.sinit ⟨false, false⟩ 6 8) := by rfl
theorem decode_seam : decode 0x2B080140 = .ok (.smInit ⟨false, false⟩ 2 5) := by rfl
theorem decode_gate : decode 0x2C0C0200 = .ok (.tgate ⟨false, false⟩ 3 8) := by rfl
theorem decode_copy : decode 0x2D408180 = .ok (.cpy ⟨false, false⟩ 16 8 6) := by rfl
theorem decode_waitc : decode 0x2E000082 = .ok (.waitc ⟨false, false⟩ 2 2) := by rfl
theorem decode_coll : decode 0x2F20C191 = .ok (.collRedAddF32 ⟨false, false⟩ 8 12 6 1) := by rfl
theorem decode_mma : decode 0x3010350C = .ok (.mmaMaxp ⟨false, false⟩ 1 0 3 1 0 3) := by rfl
theorem decode_tile : decode 0x31105200 = .ok (.mmz ⟨false, false⟩ 4 5 8) := by rfl
theorem decode_fab : decode 0x32108140 = .ok (.osend ⟨false, false⟩ 4 8 5) := by rfl
theorem decode_work : decode 0x33106001 = .ok (.lnch ⟨false, false⟩ 4 6) := by rfl
theorem decode_sup : decode 0x38105181 = .ok (.sigdl ⟨false, false⟩ 4 5 6) := by rfl
theorem decode_page : decode 0x39106042 = .ok (.pin ⟨false, false⟩ 4 6 1) := by rfl
theorem decode_dbg : decode 0x3A105202 = .ok (.ckpt ⟨false, false⟩ 4 5 8) := by rfl
theorem step_runs_a_placed_add :
    (match step ((State.reset.withFetchWord 32 0x07145678)) with | .next s => s.threads.head?.map (fun t => t.regs.g.get 5) | _ => none) = some 0x5678 := by
  decide +kernel

/-! ## Single steps, expected values computed by hand from the rules -/

/-- R112: the sum wraps. -/
theorem add_wraps : gets (exec (.add ⟨false, false⟩ 6 5 4) (one false 0 [(5, 0xFFFFFFFF), (4, 2)])) 6 = some 1 := by decide +kernel
/-- R112: the signed sum saturates at 2^31 - 1. -/
theorem addSat_saturates : gets (exec (.addSatI32 ⟨false, false⟩ 6 5 4) (one false 0 [(5, 0x7FFFFFFF), (4, 1)])) 6 = some 0x7FFFFFFF := by decide +kernel
/-- R112: the unsigned difference saturates at 0. -/
theorem subSat_saturates : gets (exec (.subSatN32 ⟨false, false⟩ 6 5 4) (one false 0 [(5, 3), (4, 7)])) 6 = some 0 := by decide +kernel
/-- R112: the upper half of (-1) × 1 is -1. -/
theorem mulh_is_signed : gets (exec (.mulhI32 ⟨false, false⟩ 6 5 4) (one false 0 [(5, 0xFFFFFFFF), (4, 1)])) 6 = some 0xFFFFFFFF := by decide +kernel
/-- R112: a shift by 32 or more leaves 0. -/
theorem shl_by_the_width : gets (exec (.shl ⟨false, false⟩ 6 5 4) (one false 0 [(5, 1), (4, 32)])) 6 = some 0 := by decide +kernel
/-- R112: an arithmetic shift by 32 or more leaves the sign. -/
theorem sar_by_the_width : gets (exec (.sar ⟨false, false⟩ 6 5 4) (one false 0 [(5, 0x80000000), (4, 40)])) 6 = some 0xFFFFFFFF := by decide +kernel
/-- R112: a pair sum carries into the upper register. -/
theorem add64_carries : gets (exec (.addI64 ⟨false, false⟩ 6 2 4) (one false 0 [(2, 0xFFFFFFFF), (4, 1)])) 7 = some 1 := by decide +kernel
/-- R113: the immediate is sign-extended. -/
theorem addi_takes_a_negative : gets (exec (.addi ⟨false, false⟩ 3 3 0x1FF) (one false 0 [(3, 5)])) 3 = some 4 := by decide +kernel
/-- R112: the lowest bit goes to the top. -/
theorem bitrev_moves_the_ends : gets (exec (.bitrev ⟨false, false⟩ 6 5) (one false 0 [(5, 1)])) 6 = some 0x80000000 := by decide +kernel
/-- R112: 31 zeros stand above a lowest set bit. -/
theorem lzc_of_one : gets (exec (.lzc ⟨false, false⟩ 6 5) (one false 0 [(5, 1)])) 6 = some 31 := by decide +kernel
/-- R122: 1.0 + 2^-24 is a tie, which goes to even. -/
theorem fadd_ties_to_even : gets (exec (.addF32 ⟨false, false⟩ 6 5 4) (one false 0 [(5, 0x3F800000), (4, 0x33800000)])) 6 = some 0x3F800000 := by decide +kernel
/-- R124: 2.0 × 3.0 + 1.0 = 7.0. -/
theorem fma_is_exact_here :
    gets (exec (.fmaF32 ⟨false, false⟩ 6 5 4 3) (one false 0 [(5, 0x40000000), (4, 0x40400000), (3, 0x3F800000)])) 6 = some 0x40E00000 := by decide +kernel
/-- R123: negation turns only the sign. -/
theorem fneg_of_one : gets (exec (.negF32 ⟨false, false⟩ 6 5) (one false 0 [(5, 0x3F800000)])) 6 = some 0xBF800000 := by decide +kernel
/-- R46: lane 0 reads its index. -/
theorem rds_of_lane : owed (exec (.rds ⟨false, false⟩ 1 0) (one false 0 [])) 1 = some 0 := by decide +kernel
/-- R54: repl is privileged. -/
theorem repl_in_a_user_group_traps : cause (exec (.repl ⟨false, false⟩ 4 5) (one false 0 [])) = some 2 := by decide +kernel
/-- R156: without a CODE handle a jump leaves the code. -/
theorem jmp_out_of_the_code_traps : cause (exec (.jmp ⟨false, false⟩ 2) (one false 0 [])) = some 0x13 := by decide +kernel
/-- R168: an index above 4095 traps. -/
theorem hsel_past_the_table_traps : cause (exec (.hsel ⟨false, false⟩ 3 5) (one false 0 [(5, 4096)])) = some 0x12 := by decide +kernel
/-- R196: a scratchpad store is read back by a load. -/
theorem ld_after_st :
    (match exec (.st ⟨false, false⟩ 5 6 1 2 2 0) (two false 0 [(5, 0x12345678), (6, 8)]) with
     | .next s => owed (exec (.ld ⟨false, false⟩ 7 6 1 2 2 0) s) 7
     | _ => none) = some 0x12345678 := by decide +kernel
/-- R197: a misaligned access traps. -/
theorem ld_misaligned_traps : cause (exec (.ld ⟨false, false⟩ 7 6 1 2 2 0) (two false 0 [(6, 2)])) = some 0x15 := by decide +kernel
/-- R193: the old value returns. -/
theorem atom_returns_the_old_value :
    owed (exec (.atomAddN32 ⟨false, false⟩ 4 6 8 0) (two false 0 [(6, 16), (7, 1), (8, 5)])) 4 = some 0 := by decide +kernel
/-- R254: an initialised barrier counts its threads, and the first arrival gets the token of phase 0. -/
theorem bar_chk_of_two :
    (match exec (.barInit ⟨false, false⟩ 6 5) (two false 0 [(5, 2), (6, 0), (7, 1)]) with
     | .next s => (s.bar 2 0).pend
     | _ => 0) = 2 := by decide +kernel

/-! ## Witnesses: for every statement, states and operands that meet its hypotheses, clause by clause -/

theorem unmasked (sys : Bool) (w : W32) (g : List (Nat × W32)) (e : Thread → Exc) : (one sys w g).Unmasked (iss w) e := by
  rintro t ⟨ht, -⟩
  have : t = thr g := by simpa [one] using ht
  subst this
  simp [Thread.xen, thr, Thread.fresh]
theorem witness_IntegerBinaryWords32 : (one false 0 []).issue = some (iss 0) := rfl
theorem witness_IntegerBinaryWords64 : (one false 0 []).issue = some (iss 0) := rfl
theorem witness_IntegerUnaryWords : (one false 0 []).issue = some (iss 0) := rfl
theorem witness_BitCountsAndReversals :
    (31 : Nat) < 32 ∧ (63 : Nat) < 64 ∧ (iLzc (1 : W32)).toNat = 31 ∧ (iLzc (0 : W32)).toNat = 32 ∧ (iTzc (0x80000000 : W32)).toNat = 31 := by
  decide +kernel
theorem witness_CompareWords : (one false 0 []).issue = some (iss 0) := rfl
theorem witness_ImmediateWords : (one false 0 []).issue = some (iss 0) ∧ ({ iss 0 with imm := some 0 }).imm = some 0 := ⟨rfl, rfl⟩
theorem witness_ConstantsFieldsAndSelections : (one false 0 []).issue = some (iss 0) := rfl
theorem witness_FieldsAndBitFunctions : (31 : Nat) < 32 ∧ (3 : Nat) < 4 ∧ (7 : Nat) < 8 := by decide
theorem witness_FloatArithmeticWords :
    (one false 0 []).issue = some (iss 0) ∧ (one false 0 []).Unmasked (iss 0) (fun _ => excNV) := ⟨rfl, unmasked _ _ _ _⟩
theorem witness_SignBitWords : (one false 0 []).issue = some (iss 0) := rfl
theorem witness_FloatComparisonTable :
    (7 : Nat) < 8 ∧ (valueOf f32 0x7FC00000).isNan = true ∧ (valueOf f32 0x7F800001).isSig = true ∧
      (one false 0 []).Unmasked (iss 0) (fun _ => excNV) := ⟨by decide, by decide +kernel, by decide +kernel, unmasked _ _ _ _⟩
theorem witness_SfuWords : (one false 0 []).issue = some (iss 0) ∧ (one false 0 []).Unmasked (iss 0) (fun _ => excNV) :=
  ⟨rfl, unmasked _ _ _ _⟩
theorem witness_ConversionWords : (one false 0 []).issue = some (iss 0) ∧ (one false 0 []).Unmasked (iss 0) (fun _ => excNV) :=
  ⟨rfl, unmasked _ _ _ _⟩
theorem witness_ZeroSigns : (FVal.fin false 1).rat + (FVal.fin true 1).rat = 0 ∧ ¬((1 : Rat) = 0 ∧ (1 : Rat) = 0 ∧ false = true) ∧
    (FVal.fin (false != true) (1 * 1)).rat + (FVal.fin false 1).rat = 0 := by decide +kernel
/-- The thread with every exception enabled. -/
def trapping : Thread := { thr [] with fpctl := 0x1F00, octl := 0x1F00 }
theorem witness_FloatTraps :
    { one false 0 [] with threads := [trapping] }.Solo (iss 0) trapping ∧
      ((fpAdd f32 trapping 0x7F800001 0).exc ||| 0) &&& trapping.xen ≠ 0 ∧
      (let p := x2 (fpAdd f16 { trapping with regs := (thr [(4, 0x7C01)]).regs }) (rd (thr [(4, 0x7C01)]) 4) 0
       (p.1.exc ||| p.2.exc) &&& trapping.xen ≠ 0) ∧
      ((fCompare 4 (flushIn false f32 0x7FC00000) (flushIn false f32 0)).2 ||| 0) &&& trapping.xen ≠ 0 :=
  ⟨solo_of _ _ _ rfl rfl rfl rfl, by decide +kernel, by decide +kernel, by decide +kernel⟩

/-- A group with its CODE handle. -/
def coded : Group := { grp true with code := hReg 0 plantCode }
theorem witness_TransferWords :
    (one false 0 []).Solo (iss 0) (thr []) ∧ (one false 0 []).badTarget (grp false) 2 = some (0x13, 2) ∧
      { two true 0 [] with groups := [coded] }.Solo (iss 0) (thr []) ∧ { two true 0 [] with groups := [coded] }.badTarget coded 2 = none ∧
      rdP (thr []) 7 = decide ((0 : BitVec 1) = 0) ∧ rdP (thr []) 0 ≠ decide ((0 : BitVec 1) = 0) :=
  ⟨solo _ _ _, by decide +kernel, solo_of _ _ _ rfl rfl rfl rfl, by decide +kernel, by decide, by decide⟩
theorem witness_TransferWords_targets :
    coded.shep = false ∧ heRight coded.code.ent 2 = true ∧ ¬((5460 : Int) < 0 ∨ 2 ^ 32 ≤ (5460 : Int) ∨ (heLen coded.code.ent : Int) < 12 * 5460 + 12) ∧
      (heLen coded.code.ent : Int) < 12 * 5461 + 12 ∧ heRight (grp true).code.ent 2 = false := by decide +kernel
/-- A context whose library takes its calls. -/
def libCtx : Context := { plantCtx 1 with libos := true, libent := 3, libend := 9 }
theorem witness_TransferWords_library :
    { two true 0 [] with groups := [coded], ctxs := [libCtx] }.Solo (iss 0) (thr []) ∧ libCtx.forwards 0 = true ∧ libCtx.forwards 3 = false ∧
      ({ two true 0 [] with groups := [coded], ctxs := [libCtx] }.acquireCore 0).badTarget coded 3 = none :=
  ⟨solo_of _ _ _ rfl rfl rfl rfl, by decide, by decide, by decide +kernel⟩
/-- A shepherd group. -/
def shepherd : Group := { grp true with shep := true }
theorem witness_ChainEndWords :
    (one false 0 []).issue = some (iss 0) ∧ (∀ c, (one false 0 []).ctx? 1 = some c → c.forwards 0 = false) ∧
      (grp true).priv = true ∧ (grp true).shep = false ∧
      ({ one true 0 [] with groups := [shepherd], cores := [{ Core.reset 0 with handling := [0] }] }.group 1).shep = true ∧
      (∀ l ∈ lanesOf (iss 0).lanes,
        ({ one true 0 [] with groups := [shepherd], cores := [{ Core.reset 0 with handling := [0] }] }.core 0).handling.contains l = true) := by
  refine ⟨rfl, ?_, rfl, rfl, rfl, by decide +kernel⟩
  intro c h; have : c = plantCtx 1 := by simpa [one, State.ctx?, plantCtx] using h.symm
  subst this; rfl
theorem witness_ChainEndOutcomes :
    (one false 0 []).issue = some (iss 0) ∧ (iss 0).gid = (grp false).gid ∧ (one false 0 []).group 1 = grp false ∧
      (one false 0 []).thread? 1 0 = some (thr []) ∧
      (iss 0).fin = none ∧ (grp false).step = false ∧ ({ grp false with step := true }).step = true ∧ (thr []).waits = false ∧
      (iss 0).conts.lookup 0 = none ∧
      ({ iss 0 with fin := some (.brk 1 0 0) }).fin = some (.brk 1 0 0) ∧ ({ iss 0 with fin := some .iret }).fin = some .iret := by
  decide +kernel
theorem witness_SpecialRegisterWords :
    (one false 0 []).Solo (iss 0) (thr []) ∧ selAssigned 0 = true ∧ selPriv 0 = false ∧ selAssigned 0x10 = true ∧ selAssigned 0x12 = true ∧
      selAssigned 0x11 = true ∧ selWritable 0x11 = true ∧ selPriv 0x27 = true ∧ (grp true).priv = true ∧ selAssigned 0x3F = false ∧
      selWritable 0x10 = false ∧ (thr []).outst = [] :=
  ⟨solo _ _ _, by decide, by decide, by decide, by decide, by decide, by decide, by decide, by decide, by decide, by decide, rfl⟩
/-- A context whose signal frames lie in the scratchpad of h1 at g3. -/
def sigCtx : Context := { plantCtx 1 with sigh := 1, sigsp := 3 }
/-- A thread with one frame open, whose frame at 0 holds signal 5. -/
def sigState (n : Nat) : State :=
  { two false 0 [] with ctxs := [sigCtx], threads := [{ thr [] with depth := 1 }], flocks := [{ flk with scr := memWrite [] 0x22C (bytesOf 4 n) }] }
/-- The signal number in the frame, where the frame's places can be reached. -/
def frameNumber (s : State) : Option Nat :=
  match s.framePlaces (grp false) (hReg 1 (hEnt 1 0 4096)) 0 0 .read with
  | (.ok ps, u) => some (natOf (((u.frameRead ps).drop 0x22C).take 4))
  | _ => none
theorem witness_SignalReturn :
    (sigState 5).Solo (iss 0) { thr [] with depth := 1 } ∧ (sigState 5).ctx? 1 = some sigCtx ∧ ({ thr [] with depth := 1 }).depth ≠ 0 ∧
      (sigState 5).usable (grp false) (hReg 1 (hEnt 1 0 4096)) = true ∧ frameSpace (hReg 1 (hEnt 1 0 4096)) = true ∧
      frameNumber (sigState 5) = some 5 :=
  ⟨solo_of _ _ _ rfl rfl rfl rfl, rfl, by decide, by decide +kernel, by decide +kernel, by decide +kernel⟩
theorem witness_SignalReturn_bad_number :
    frameNumber (sigState 64) = some 64 := by decide +kernel
theorem witness_SignalReturn_no_frame : (one false 0 []).Solo (iss 0) (thr []) ∧ (thr []).depth = 0 := ⟨solo _ _ _, rfl⟩
theorem witness_PrivilegedForms :
    (one false 0 []).issue = some (iss 0) ∧ ((one false 0 []).group 1).sys = false ∧ ((one false 0 []).group 1).shep = false ∧
      selPriv 0x20 = true ∧ selAssigned 0x20 = true := by decide +kernel
theorem witness_DecodeTrapEntry :
    (one false 0 []).issue = some (iss 0) ∧ (iss 0).subs = [] ∧ (∀ b ∈ (one false 0 []).subs, b.id < (one false 0 []).nextId) ∧ (iss 0).lanes ≠ 0 := by
  decide +kernel
theorem witness_TrapEntry : (one false 0 []).thread? (iss 0).gid 0 = some (thr []) ∧ (0 : Nat) < 32 := by decide +kernel
/-- A parked breakpoint sub-group in entry 0. -/
def parked : SubGroup :=
  { id := 5, gid := 1, lanes := 1, cause := 3, idx := some 0, taken := false, collecting := false, acc := 0, kind := 0, eng := none, time := 0 }
theorem witness_TrapReturn : ({ one false 0 [] with subs := [parked] }.subs.find? fun x => x.id = parked.id) = some parked := by decide +kernel
theorem witness_CrossLaneArrival :
    (one false 0 []).Solo (iss 0) (thr []) ∧ hasLane 2 0 = false ∧ hasLane 1 0 = true ∧
      (∀ x ∈ (one false 0 []).insts, decide (x.gid = 1 ∧ x.pkt = 0 ∧ x.slot = 0) = true → x.mask = 1 ∨ x.mask &&& 1 = 0) :=
  ⟨solo _ _ _, by decide, by decide, by simp [one, State.reset]⟩
/-- An instance that all of its lanes have reached. -/
def inst (op : XOp) : Inst := ⟨7, 1, 0, 0, 0, 1, op, 4, [⟨0, 0, 5, 6, 8, true⟩]⟩
def atInst (m : Mask) (op : XOp) : State :=
  { one false 0 [] with issue := none, insts := [{ inst op with mask := m }], threads := [{ thr [] with st := .conv }] }
theorem witness_CrossLaneResults :
    ((atInst 1 .gmask).insts.find? fun x => x.iid = 7) = some (inst .gmask) ∧ (atInst 1 .gmask).instReady (inst .gmask) = true ∧
      bsortTraps (inst (.bsort false)).arr = [] := by decide +kernel
theorem witness_CrossLaneResults_not_ready :
    { atInst 3 .gmask with threads := [{ thr [] with st := .conv }, { thr [] with lane := 1 }] }.instReady { inst .gmask with mask := 3 } = false := by
  decide +kernel
theorem witness_SortedMerge : ([1, 3] : List W64).length + ([2] : List W64).length ≤ 3 ∧ ([1, 3] : List W64).Pairwise (fun x y => keyOf false x ≤ keyOf false y) := by
  decide +kernel

/-! ### Memory -/

theorem witness_LoadWords_scratch : (two false 0 []).Solo (iss 0) (thr []) ∧
    ((two false 0 []).place (grp false) (hReg 1 (hEnt 1 0 4096)) 4092 4 0 2 .read).1 = .ok (.scr 2 4092) := ⟨solo_two _ _ _, by decide +kernel⟩
theorem witness_LoadWords_memory :
    ((two false 0 []).place (grp false) (hReg 2 (hEnt 0 0x20000 4096)) 0 4 0 2 .read).1 = .ok (.mem (plantBase + 0x420000)) := by decide +kernel
theorem witness_LoadWords_refused :
    (match ((two false 0 []).place (grp false) (hReg 1 (hEnt 1 0 4096)) 4096 4 0 2 .read).1 with | .bad c _ _ _ => c | _ => 0) = 0x13 := by
  decide +kernel
theorem witness_LoadWords_l1 :
    (0 : Nat) < 8 ∧ (8 : Nat) ≤ 8 ∧ (two false 0 []).l1Serves (grp false) 0 64 64 4 0 false = false ∧
      { two false 0 [] with l1 := [⟨0, 64, .own, 1, 5⟩], dir := [(64, .owned 0)] }.l1Serves (grp false) 0 64 64 4 3 false = true := by decide +kernel
/-- A handle of memory at device 1 of the pod, and a context with its entry. -/
def podEnt : BitVec 256 := hEnt 5 0x20000 4096 ||| 1#256 <<< 144
def podded : State :=
  { two false 0 [] with
    mem := memWrite mem1 (plantBase + 0x400040) (bytesOf 32 podEnt.toNat)
    fab := { State.reset.fab with mesh := true, sx := 2, sy := 1, sz := 1, dev := 0 } }
theorem witness_LoadWords_pod :
    (podded.place (grp false) (hReg 2 podEnt) 0 4 0 2 .read).1 = .ok (.pod 1 0x20000) ∧ (0 : Nat) < 4 ∧
      podded.l1Serves (grp false) 0 (podKey 1 0x20000) 0x20000 4 2 false = false := by decide +kernel
/-- A handle of a page that is a ZERO leaf, which the first-touch unit serves. -/
def zeroEnt : BitVec 256 := hEnt 0 0x200000 4096
def zeroed : State :=
  { two false 0 [] with
    mem := memWrite (memWrite (memWrite mem1 (plantBase + 0x201008) (bytesOf 8 (plantBase + 0x202001))) (plantBase + 0x202000) (bytesOf 8 0x20C))
      (plantBase + 0x400040) (bytesOf 32 zeroEnt.toNat)
    ftu := State.reset.ftu.setIfInBounds 0 { State.reset.ftuRing 0 0 with base := 0x1000, lg := 6, tail := 2 } }
theorem witness_LoadWords_first_touch :
    (zeroed.place (grp false) (hReg 2 zeroEnt) 0 4 0 2 .read).1 = .ok (.ft 0x200000) ∧
      (zeroed.place (grp false) (hReg 2 zeroEnt) 0 4 3 2 .write).1 = .ok (.ft 0x200000) := by decide +kernel
/-- A result of one part that writes g4. -/
def oneResult (need : Nat) : Result := ⟨3, [.g 4], [], need, [], 0, false, false, false, false⟩
def awaiting (need : Nat) (st : TSt) : State := { one false 0 [] with threads := [{ thr [] with outst := [oneResult need], st }] }
theorem witness_ResultArrival :
    (awaiting 1 .ready).thread? 1 0 = some { thr [] with outst := [oneResult 1] } ∧
      ([oneResult 1].find? fun y => y.id = (oneResult 1).id) = some (oneResult 1) ∧ (oneResult 1).need = 1 ∧ (oneResult 1).parts = [] ∧
      (oneResult 1).acq = false ∧ (oneResult 1).rem = false ∧ firstG (oneResult 1).dests = some 4 := by decide +kernel
theorem witness_ResultReturn :
    (awaiting 0 .switch).thread? 1 0 = some { thr [] with outst := [oneResult 0], st := .switch } ∧
      ([oneResult 0].find? fun y => y.id = (oneResult 0).id && decide (y.need = 0)) = some (oneResult 0) ∧
      ([oneResult 0].filter fun y => y.id ≠ (oneResult 0).id) = [] ∧ (thr []).wait ≠ some .fence ∧ (thr []).exiting = false ∧
      (∀ b ∈ (awaiting 0 .switch).subs, b.collecting = true → (thr []).inMask b.gid b.lanes = false) := by
  refine ⟨by decide +kernel, by decide +kernel, by decide +kernel, by decide, rfl, by simp [awaiting, one, State.reset]⟩
theorem witness_ResultReturn_not_last : (awaiting 0 .ready).thread? 1 0 = some { thr [] with outst := [oneResult 0] } ∧ (thr []).st ≠ .switch := by
  decide +kernel
theorem witness_StoreWords :
    (two false 0 []).Solo (iss 0) (thr []) ∧
      ((two false 0 []).place (grp false) (hReg 1 (hEnt 1 0 4096)) 0 8 1 2 .write).1 = .ok (.scr 2 0) ∧
      ((two false 0 []).place (grp false) (hReg 2 (hEnt 0 0x20000 4096)) 0 8 1 2 .write).1 = .ok (.mem (plantBase + 0x420000)) ∧
      (storeBytes (thr []) 4 8).length ≤ 8 ∧ storeBytes (thr []) 4 8 ≠ [] := ⟨solo_two _ _ _, by decide +kernel⟩
theorem witness_AtomicWords :
    (two false 0 [(6, 16), (7, 1), (9, 2)]).Solo (iss 0) (thr [(6, 16), (7, 1), (9, 2)]) ∧
      (let s := two false 0 [(6, 16), (7, 1), (9, 2)]
       let t := thr [(6, 16), (7, 1), (9, 2)]
       (s.place (grp false) (s.fatPtr (grp false) t 6) 16 4 3 2 .write).1 = .ok (.scr 2 16) ∧
       (s.place (grp false) (s.fatPtr (grp false) t 8) 0 4 3 2 .write).1 = .ok (.mem (plantBase + 0x420000)) ∧
       (match (s.place (grp false) (s.fatPtr (grp false) t 6) 18 4 3 2 .write).1 with | .bad c _ _ _ => c | _ => 0) = 0x15) :=
  ⟨solo_two _ _ _, by decide +kernel⟩
theorem witness_AtomicWords_pod : (podded.place (grp false) (hReg 2 podEnt) 0 4 3 2 .write).1 = .ok (.pod 1 0x20000) := by decide +kernel
theorem witness_ScratchpadFrame :
    (one false 0 []).flock? flk.fid = some flk ∧ flk.waiters = [] ∧ (one false 0 []).mons = [] ∧
      (∀ x ∈ (one false 0 []).flocks, Memory.wf x.scr = true) ∧ (8 : Nat) + 4 ≤ 12 := by decide +kernel
/-- The two halves of a packed operand. -/
theorem witness_AtomicResults : (0xFFFF : Nat) < 2 ^ 16 ∧ (0 : Nat) < 2 ^ 16 := by decide
/-- A window that is attached. -/
def active : Window := { Window.reset with st := .active, applied := 5 }
def windowed (g : List (Nat × W32)) : State := { two false 0 g with flocks := [{ flk with wins := flk.wins.set 7 active }] }
theorem witness_MonitorWindowWords_mwait :
    (two false 0 [(6, 8), (7, 1)]).Solo (iss 0) (thr [(6, 8), (7, 1)]) ∧
      (let s := two false 0 [(6, 8), (7, 1)]
       let h := s.fatPtr (grp false) (thr [(6, 8), (7, 1)]) 6
       (s.place (grp false) h 8 4 0 2 .read).1 = .ok (.scr 2 8) ∧ heSpace h.ent ≠ .bstore ∧ heSpace h.ent ≠ .code ∧
       natOf (s.scrRead 2 8 4) = 0 % 2 ^ 32 ∧ natOf (s.scrRead 2 8 4) ≠ 1 % 2 ^ 32) := ⟨solo_two _ _ _, by decide +kernel⟩
theorem witness_MonitorWindowWords_fence :
    (thr []).outst = [] ∧ (∀ r ∈ (two false 0 []).reqs, r.ofLanes 1 1 = false) ∧ ({ thr [] with outst := [oneResult 1] }).outst ≠ [] := by
  decide +kernel
theorem witness_MonitorWindowWords_mwait_elsewhere :
    ((two false 0 []).place (grp false) (hReg 2 (hEnt 0 0x20000 4096)) 8 4 0 2 .read).1 = .ok (.mem (plantBase + 0x420008)) ∧
      heSpace (hEnt 0 0x20000 4096) ≠ .bstore ∧ heSpace (hEnt 0 0x20000 4096) ≠ .code ∧ heSpace plantCode = .code ∧
      (match ((two false 0 []).place (grp false) (hReg 0 (plantCode ||| 31#256 <<< 132 ||| 15#256 <<< 137)) 8 4 0 2 .read).1 with
        | .ok _ => true | _ => false) = true ∧
      (match ((two false 0 []).place (grp false) (hReg 1 (hEnt 1 0 4096)) 2 4 0 2 .read).1 with | .bad c _ _ _ => c | _ => 0) = 0x15 := by
  decide +kernel
theorem witness_MonitorWindowWords_ids :
    (windowed []).Solo (iss 0) (thr []) ∧ (7 : Nat) ≤ 7 ∧ (7 : Nat) < 8 ∧ (windowed []).window? 2 7 = some active ∧ active.synced 5 = true ∧
      active.synced 6 = false ∧ active.now ≠ .free ∧ Window.reset.now = .free := ⟨solo_of _ _ _ rfl rfl rfl rfl, by decide +kernel⟩
/-- mwsub of the 512 bytes at the start of the memory handle to the start of the scratchpad. -/
def subs : List (Nat × W32) := [(6, 0), (7, 2), (8, 0), (9, 512)]
theorem witness_MonitorWindowWords_mwsub :
    (two false 0 subs).Solo (iss 0) (thr subs) ∧
      (let s := two false 0 subs
       let h := s.fatPtr (grp false) (thr subs) 6
       let a := s.place (grp false) h 0 1 0 2 .read
       let b := a.2.place (grp false) h 511 1 0 2 .read
       (match a.1, b.1 with | .ok _, .ok _ => true | _, _ => false) = true ∧ heSpace h.ent = .global ∧ 512 % 512 = 0 ∧
       (heBase h.ent + 0) % 512 = 0 ∧ b.2.flock? 2 = some flk ∧ 0 + 512 ≤ flk.scrLen ∧
       (let r := b.2.touchPages 0 1 (heBase h.ent) 512
        r.1 = none ∧ (r.2.grainsOf 1 (heBase h.ent) 512).isSome = true)) :=
  ⟨solo_two _ _ _, by decide +kernel⟩
/-- A memory handle of three pages of 4 KiB, of which the one in the middle is not mapped. -/
def holedEnt : BitVec 256 := hEnt 0 0x200000 12288
def holed : State :=
  { two false 0 [] with
    mem := memWrite (memWrite (memWrite (memWrite mem1 (plantBase + 0x201008) (bytesOf 8 (plantBase + 0x202001))) (plantBase + 0x202000)
      (bytesOf 8 (plantBase + 0x4200CF))) (plantBase + 0x202010) (bytesOf 8 (plantBase + 0x4220CF)))
      (plantBase + 0x400040) (bytesOf 32 holedEnt.toNat) }
theorem witness_MonitorWindowWords_mwsub_fault :
    let a := holed.place (grp false) (hReg 2 holedEnt) 0 1 0 2 .read
    let b := a.2.place (grp false) (hReg 2 holedEnt) 12287 1 0 2 .read
    (match a.1, b.1 with | .ok _, .ok _ => true | _, _ => false) = true ∧ 12288 % 512 = 0 ∧ 0 + 12288 ≤ flk.scrLen ∧
      (b.2.touchPages 0 1 0x200000 12288).1 = some (0x201000, 0x10, 0) := by decide +kernel
theorem witness_TagHandleWords :
    (two true 0 [(5, 255), (6, 256), (7, 4095), (8, 4096)]).Solo (iss 0) (thr [(5, 255), (6, 256), (7, 4095), (8, 4096)]) ∧
      (255 : Nat) < (256 : W32).toNat ∧ (255 : W32).toNat ≤ 255 ∧ (4095 : Nat) < (4096 : W32).toNat ∧ (4095 : W32).toNat ≤ 4095 ∧
      (rdH (thr []) 3).loaded = false ∧ (rdH (thr []) 1).loaded = true ∧ ((two true 0 []).group 1).priv = true ∧
      ((two true 0 []).tableEntry 1 2).isSome = true ∧ hnewRefused 0 = false ∧ hnewRefused (octet (thr [(12, 0xFFFFFFFF), (13, 0xFFFFFFFF), (16, 8)]) 12) = true ∧
      ((two true 0 []).putEntry 1 2 0).isSome = true := ⟨solo_two _ _ _, by decide +kernel⟩
/-- A core's request of the word at 64. -/
def rq (kind : ReqKind) (n : Nat) : Req := { Req.outsider 3 0 1 kind 64 n (bytesOf n 7) with gid := 1, rid := some 3 }
def homed (kind : ReqKind) (dir : List (Nat × Dir)) : State :=
  { one false 0 [] with reqs := [rq kind 4], dir, plat := { State.reset.plat with hostUp := true } }
theorem witness_HomeServesRequests :
    let s := homed (.write false) []
    let r := rq (.write false) 4
    s.req? r.id = some r ∧ s.mayTake r = true ∧ r.pa + r.n ≤ hostBase ∧ r.outside = false ∧ s.grainHolds r = false ∧ s.replays = [] ∧ s.recs = [] ∧
      s.mirrors = [] ∧ s.mons = [] ∧ s.plat.hostUp = true ∧ 0 < r.n ∧ r.n ≤ 8 ∧ (∀ w ∈ r.words, s.dirOf w = .clean [] ∨ s.dirOf w = .clean [r.src]) := by
  decide +kernel
theorem witness_HomeServesRequests_busy :
    ∃ w ∈ (rq .wi 4).words, (homed .wi [(64, .recall 7 9)]).busyFor 3 w = true := ⟨64, by decide +kernel, by decide +kernel⟩
theorem witness_HomeServesRequests_owned :
    (rq (.rmw (.add 32) 1 0) 4).words = [64] ∧ (homed (.rmw (.add 32) 1 0) [(64, .owned 7)]).dirOf 64 = .owned 7 ∧ (7 : Nat) ≠ (rq .wi 4).src ∧
      (rq (.rmw (.add 32) 1 0) 4).n = rmwBytes (.add 32) ∧ (homed (.rmw (.add 32) 1 0) [(64, .owned 7)]).mayTake (rq (.rmw (.add 32) 1 0) 4) = true := by
  decide +kernel
/-- A barrier of two threads at 0, one still to come. -/
def barred : State := { two false 0 [(6, 0), (7, 1), (5, 2)] with flocks := [{ flk with scr := ((two false 0 []).setBar 2 0 ⟨0, 0, 0, 2, 2, 0⟩).flocks.head?.elim [] Flock.scr }] }
theorem witness_BarrierSpoolWords_bar :
    let s := two false 0 [(6, 0), (7, 1), (5, 2)]
    let t := thr [(6, 0), (7, 1), (5, 2)]
    s.Solo (iss 0) t ∧ (match s.objPlace (grp false) (s.fatPtr (grp false) t 6) 0 16 with | .ok x => x | .error _ => (0, 1)) = (2, 0) ∧
      rd t 5 ≠ 0 ∧ (rd t 5).toNat ≤ 0xFFFFF ∧ (s.bar 2 0).expect = 0 ∧ barred.waitersAt 2 0 = [] ∧ (barred.bar 2 0).link = 0 := ⟨solo_two _ _ _, by decide +kernel⟩
theorem witness_BarrierSpoolWords_arrive :
    (barred.bar 2 0).expect ≠ 0 ∧ (barred.bar 2 0).pend ≠ 0 ∧ (0 : W32).toNat % 32 = 0 ∧ (barred.bar 2 0).sect + 0 ≤ 2 ^ 23 - 1 ∧
      (barred.bar 2 0).pend - 1 ≠ 0 ∧ barred.waitersAt 2 0 = [] ∧ barred.staleToken 2 0 (barred.token 2 0 0) 0 = false ∧
      barred.coverBarLane (thr [(6, 0), (7, 1), (5, 2)]) 6 5 = [] := by decide +kernel
/-- A spool of two entries and one producer at 0. -/
def spooled (count : Nat) : State :=
  { two false 0 [(6, 0), (7, 1), (8, 2), (9, 1), (10, 64), (11, 3)] with flocks := [{ flk with
      scr := ((two false 0 []).setSpool 2 0 ⟨2, 0, 0, count, 1, 0, 64, List.replicate 32 3⟩).flocks.head?.elim [] Flock.scr }] }
theorem witness_BarrierSpoolWords_spool :
    let s := spooled 0
    let t := thr [(6, 0), (7, 1), (8, 2), (9, 1), (10, 64), (11, 3)]
    (match s.objPlace (grp false) (s.fatPtr (grp false) t 6) 0 64 with | .ok x => x | .error _ => (0, 1)) = (2, 0) ∧
      0 < (rd t 8).toNat ∧ (rd t 8).toNat ≤ 4096 ∧ (rd t 9).toNat ≤ 32 ∧ (rd t 11).toNat ≤ 255 ∧ (rd t 10).toNat % 8 = 0 ∧
      (rd t 10).toNat + 8 * 2 ≤ heLen (s.fatPtr (grp false) t 6).ent ∧ s.waitersAt 2 10 = [] ∧ s.waitersAt 2 16 = [] ∧
      (s.spool 2 0).cap ≠ 0 ∧ (s.spool 2 0).count = 0 ∧ (0 : Nat) < (s.spool 2 0).nprod ∧ (s.spool 2 0).allowOf 0 ≠ 0 ∧ (5 : W64) ≠ noEntry ∧
      ((spooled 2).spool 2 0).cap ≤ ((spooled 2).spool 2 0).count ∧ ((spooled 2).spool 2 0).count ≠ 0 ∧ (s.spool 2 0).allowOf 0 + 1 ≤ 255 := by
  decide +kernel
theorem witness_BarrierSpoolWords_seam_and_gate :
    (one false 0 [(8, 1)]).seam? 2 0 = some Seam.reset ∧ 0 < (rd (thr [(8, 1)]) 8).toNat ∧ (rd (thr [(8, 1)]) 8).toNat ≤ ((one false 0 []).liveOf 2).length ∧
      Seam.reset.signers = [] ∧ (one false 0 []).gate 2 0 = .idle ∧
      ({ one false 0 [] with flocks := [{ flk with gates := flk.gates.set 0 (.armed 5) }] }.gate 2 0) = .armed 5 ∧ ((one false 0 []).ptime < 5) ∧
      ({ one false 0 [] with ptime := 5 }.ptime) = 5 := by decide +kernel

/-! ### Engines, tiles, fabric, work -/

/-- A copy of 64 bytes from the memory handle to the scratchpad handle, in g16 to g23. -/
def cpyRegs : List (Nat × W32) := [(18, 0x1002), (19, 64), (20, 0x10001)]
theorem witness_EngineCommands_copy :
    (two false 0 cpyRegs).Solo (iss 0) (thr cpyRegs) ∧
      (let s := two false 0 cpyRegs
       let t := thr cpyRegs
       s.copyChecks (grp false) (CD.ofNat (octNat t 16) 0 0) (octNat t 16) 2 true false (s.barRegs (grp false) t 6) = none ∧
       s.copyChecks (grp false) (CD.ofNat (octNat t 16) 0 0) (octNat t 16) 1 false false (s.barRegs (grp false) t 6) = none ∧
       s.copyChecks (grp false) (CD.ofNat (octNat t 24) 0 0) (octNat t 24) 2 true false (s.barRegs (grp false) t 6) = some (0x28, 3)) :=
  ⟨solo_two _ _ _, by decide +kernel⟩
theorem witness_EngineCommands_spans :
    let s := two false 0 cpyRegs
    let d := CD.ofNat (octNat (thr cpyRegs) 16) 0 0
    let h := s.engHandle (grp false) 2
    d.reason (octNat (thr cpyRegs) 16) 1 false false = 0 ∧ s.chkUsable (grp false) h = none ∧ chkSpace h (engSpace h) 0 = none ∧
      s.chkSpan (grp false) h d.srcSpan = none ∧ s.chkSpan (grp false) h (4032, 4097) ≠ none ∧
      s.chkUsable (grp false) (s.engHandle (grp false) 9) = some (0x12, 9) ∧ chkBar false false (.error (0, 0)) = none := by decide +kernel
theorem witness_CoveringWords :
    (one false 0 [(5, 3), (6, 4)]).Solo (iss 0) (thr [(5, 3), (6, 4)]) ∧ (one false 0 []).coveredBy (grp false) .copy 0 = [] ∧
      (thr []).tileErr = [] ∧ (grp false).counter .copy ≤ (0 : BitVec 6).toNat ∧ ((0 : BitVec 6)).toNat < ({ grp false with copyN := 1 }).counter .copy ∧
      (3 : W32).toNat ≤ 3 ∧ 3 < (4 : W32).toNat ∧ ((one false 0 []).chan 2 3).st = .idle :=
  ⟨solo _ _ _, by decide +kernel⟩
/-- A copy operation in a state, with 64 bytes to move. -/
def cpOp (st : OpSt) (off : Nat) : Op :=
  { Op.fresh 3 (some .copy) (.copy (CD.ofNat (octNat (thr cpyRegs) 16) 0 0)) (grp false) 0 (iss 0) with
    st, off, sh := hReg 2 (hEnt 0 0x20000 4096), dh := hReg 1 (hEnt 1 0 4096), bar := some (2, 0, 0), secs := 2 }
def withOp (o : Op) : State := { two false 0 [] with ops := [o] }
theorem witness_CoveringWords_fault :
    oldest ([{ cpOp .failed 0 with cause := 0x13 }].filter Op.pending) = some { cpOp .failed 0 with cause := 0x13 } := by decide +kernel
theorem witness_CoveringWords_chain :
    let s := two false 0 [(6, 0), (7, 1)]
    let h := s.fatPtr (grp false) (thr [(6, 0), (7, 1)]) 6
    firstFail [s.chkUsable (grp false) h, chkSpace h ([Space.global, .near, .scratch].contains (heSpace h.ent) && heRight h.ent 1) 0,
      failIf ((heBase h.ent + 0) % 64 ≠ 0) 0x15 (heBase h.ent + 0), s.chkSpan (grp false) h (0, 64)] = none := by decide +kernel
theorem witness_EngineEvents_queued :
    (withOp (cpOp .queued 0)).op? 3 = some (cpOp .queued 0) ∧ (cpOp .queued 0).at_ = none ∧ (cpOp .queued 0).bursts = true ∧ (withOp (cpOp .queued 0)).released (cpOp .queued 0).after = true ∧
      ((0 : W64) ≤ (withOp (cpOp .queued 0)).ptime) ∧ ((withOp (cpOp .queued 0)).ptime < (1 : W64)) := by decide +kernel
theorem witness_EngineEvents_running :
    (withOp (cpOp .running 64)).opTotal (cpOp .running 64) ≤ 64 ∧ (withOp (cpOp .running 64)).engBusy (cpOp .running 64) = false ∧
      (cpOp .running 64).st ≠ .done ∧ 0 < min 1 ((withOp (cpOp .running 64)).owed (cpOp .running 64)) ∧
      0 < (withOp (cpOp .running 0)).opTotal (cpOp .running 0) ∧ (cpOp .running 0).stalled = false ∧
      ((withOp (cpOp .running 0)).bounce.filter fun b => b.ctx = 1).length < (withOp (cpOp .running 0)).bounceRoom 1 := by decide +kernel
theorem witness_EngineEvents_fault :
    let o := { cpOp .running 0 with sh := hReg 2 (hEnt 0 0x400000 4096) }
    (match (withOp o).nextChunk o 512 with | .bad _ c _ _ => c | _ => 0) = 0x10 := by decide +kernel
theorem witness_TileWords :
    (one false 0 [(4, 16)]).Solo (iss 0) (thr [(4, 16)]) ∧ (one false 0 []).seam? 2 15 = some Seam.reset ∧ Seam.reset.need = 0 ∧
      ({ Seam.reset with need := 1 }).need ≤ ([⟨1, 0, 0, 0, 0, [], 9, none, []⟩] : List Signer).length ∧
      (([⟨1, 0, 0, 0, 0, [], 9, none, []⟩] : List Signer).any fun z => decide (z.gid = 1) && decide (z.lane = 0)) = true ∧
      (grp false).tiles.contains 5 = false ∧ (grp false).tiles.length < 8 ∧ ({ grp false with tiles := [5] }).tiles.contains 5 = true ∧
      8 ≤ ({ grp false with tiles := [0, 1, 2, 3, 4, 6, 7, 8] }).tiles.length :=
  ⟨solo _ _ _, by decide +kernel⟩
theorem witness_TileWords_checks :
    firstFail (chkShape 0x00100010 ++ [failIf (!([10, 12, 13, 15].contains 10)) 0x28 8, (one false 0 []).chkRegion (grp false) 64 1024]) = none ∧
      firstFail (chkShape 0) = some (0x28, 3) ∧ (one false 0 []).chkRegion (grp false) 65472 64 = none ∧
      (one false 0 []).chkRegion (grp false) 65472 128 ≠ none ∧ (one false 0 []).chkRegion (grp false) 32 64 ≠ none := by decide +kernel
/-- A matrix operation of 16 by 16 by 16. -/
def mmaArg : MmaArg := ⟨.plusTimes, 16, 16, false, true, 0, 0, 0, 0, [], [], none⟩
def mmaOp (st : OpSt) : Op := { Op.fresh 3 (some .tile) (.mma mmaArg) (grp false) 0 (iss 0) with st }
theorem witness_TileWords_events :
    let s := { withOp (mmaOp .queued) with tileOrder := [3] }
    s.op? 3 = some (mmaOp .queued) ∧ s.tileTurn (mmaOp .queued) = true ∧ s.released (mmaOp .queued).after = true ∧ s.badSlot (mmaOp .queued) mmaArg = none ∧
      s.operandWait (mmaOp .queued) = false ∧ (withOp (mmaOp .computing)).op? 3 = some (mmaOp .computing) := by decide +kernel
/-- A tile record at the start of the scratchpad, of a group whose tile 5 has no operation. -/
def tretOp : Op := { Op.fresh 3 (some .tile) (.tret 0 5) (grp false) 0 (iss 0) with st := .running, dh := hReg 1 (hEnt 1 0 4096) }
theorem witness_TileWords_record :
    (withOp tretOp).op? 3 = some tretOp ∧ (withOp tretOp).tileFrom 1 5 3 = 0 ∧ ((withOp tretOp).ops.filter fun x => x.tagged 1 5 0 3) = [] ∧
      (match (withOp tretOp).engWriteAll tretOp tretOp.dh 0 (stampBytes []) with | .ok _ => true | _ => false) = true ∧
      (∀ x ∈ flk.seams.toList, x.signers = []) := by decide +kernel
/-- The ordered class on, with tokens. -/
def ordered (tokens : Nat) : State :=
  { one false 0 [] with fab := { State.reset.fab with oc := [⟨1, true, 1, 4, 0, tokens⟩], oq := [⟨1, 2, 0x30000, 4, true, 0, 0, []⟩] } }
theorem witness_FabricWords :
    (ordered 1).Solo (iss 0) (thr []) ∧ (one false 0 []).ocEnt 1 = ⟨1, false, 0, 0, 0, 0⟩ ∧ ((ordered 1).ocEnt 1).en = true ∧
      (ordered 1).fab.mesh = true ∧ ¬(sendEnd ≤ (ordered 1).ptime) ∧ (ordered 1).fab.inPod 0 = true ∧ (ordered 1).fab.inPod 1 = false ∧
      (ordered 1).fab.recovering = none ∧ ((ordered 0).ocEnt 1).tokens = 0 ∧ (ordered 1).fab.retained.length < 16384 ∧
      ({ (ordered 1).fab with recovering := some 3 }).recovering = some 3 ∧ (25 : BitVec 6).toNat ≤ 25 ∧ (one false 0 []).fab.mesh = true ∧
      ({ (one false 0 []).fab with mesh := false }).mesh = false := ⟨solo_of _ _ _ rfl rfl rfl rfl, by decide +kernel⟩
theorem witness_FabricWords_queues :
    let q : OqEnt := ⟨1, 2, 0x30000, 4, true, 0, 0, []⟩
    (ordered 1).oqEnt? 1 2 = some q ∧ q.on = true ∧ q.count = 0 ∧ (ordered 1).nextRec (grp false) 0 = none ∧ (ordered 1).oqEnt? 1 15 = none ∧
      ({ q with tail := 1 }).count ≠ 0 ∧ ({ q with en := false }).on = false ∧ q.waiters = [] ∧ ({ q with waiters := [(1, 0)] }).waiters ≠ [] := by
  decide +kernel
theorem witness_FabricWords_remote :
    let s := two false 0 [(6, 0), (7, 0), (8, 0x1001), (9, 64)]
    let h := s.engHandle (grp false) 1
    firstFail [failIf ((64 : Nat) = 0 ∨ 2 ^ 24 < 64) 0x28 3, s.chkUsable (grp false) h, chkSpace h (engSpace h) 0,
      s.chkSpan (grp false) h (0, 64)] = none ∧ chkSpace h (decide (heSpace h.ent = .pod)) 1 ≠ none := by decide +kernel
/-- A record operand of 128 bytes in memory. -/
def recRegs : List (Nat × W32) := [(6, 0), (7, 2)]
theorem witness_WorkWords :
    (two true 0 recRegs).Solo (iss 0) (thr recRegs) ∧
      (match (two true 0 recRegs).recordAt (grp true) (thr recRegs) 6 with | .ok va => va | .error _ => 0) = 0x20000 ∧
      (match (two true 0 recRegs).recordAt (grp true) (thr [(6, 4), (7, 2)]) 6 with | .ok _ => 0 | .error e => e.1) = 0x15 ∧
      (two true 0 recRegs).kernelCount 1 < 256 ∧ ((two true 0 recRegs).ctx? 1).isSome = true ∧ 63 < (64 : W32).toNat ∧ (63 : W32).toNat ≤ 63 ∧
      ((two true 0 recRegs).kernel? 1 0) = some (plantKernel 1) ∧ (plantKernel 1).r.ncont ≤ (0 : W32).toNat ∧
      (plantKernel 1).ring.length < ({ plantKernel 1 with r := { (plantKernel 1).r with ncont := 1 } }).ringSize ∧ (plantKernel 1).waiters = [] :=
  ⟨solo_two _ _ _, by decide +kernel⟩
/-- A packet for queue 2 of the context of a job, and a state that holds it before or after its watermark of 9. -/
def ordPkt (job : W32) : OrdPkt := ⟨1, 0, 0, 0, 2, job, 0, List.replicate 12 0⟩
def held (tm : W64) : State := { ordered 1 with ptime := 9, fab := { (ordered 1).fab with reorder := [{ ordPkt 0 with t := tm }] } }
/-- Port 3 in a state. -/
def ported (p : Port) : State := { one false 0 [] with fab := { State.reset.fab with ports := State.reset.fab.ports.set 3 p } }
theorem witness_FabricEvents :
    (one false 0 []).reqs = [] ∧ ((ported Port.reset).port 3).st = .down ∧ ((ported { Port.reset with st := .training }).port 3).st = .training ∧
      ((ported { Port.reset with st := .up }).port 3).st = .up ∧ ((ported { Port.reset with st := .retry }).port 3).st = .retry ∧
      ((ported { Port.reset with st := .up }).port 3).unacked.length < 512 ∧ Port.reset.fails + 1 < 3 ∧
      3 ≤ ({ Port.reset with fails := 2 }).fails + 1 ∧ 8 ≤ ({ Port.reset with fails := 7 }).fails + 1 ∧
      fallen [5] [4] = true ∧ fallen [5] [6] = false ∧ (one false 0 []).fab.reorder.length < reorderSize ∧
      (one false 0 []).fab.retained = [] ∧ (one false 0 []).fab.routePending = false ∧ (one false 0 []).fab.horizon = false ∧
      (ordered 1).queueFor (ordPkt 0) = some ⟨1, 2, 0x30000, 4, true, 0, 0, []⟩ ∧ (ordered 1).queueFor (ordPkt 5) = none ∧
      (held 5).watermark = 9 ∧ ((held 5).fab.reorder.find? fun q => decide (q.t < (held 5).watermark) && (held 5).roomFor q) = some { ordPkt 0 with t := 5 } ∧
      (∀ q ∈ (held 9).fab.reorder, (held 9).watermark ≤ q.t) ∧ ({ State.reset.fab with markers := [2] }).allMarkers = true ∧ ({ State.reset.fab with sx := 2 }).allMarkers = false ∧
      512 * 256 ≤ ((131072 : W64) - 0).toNat ∧ 2 ^ 64 - 2 ^ 56 ≤ (0xFF00000000000000 : W64).toNat ∧
      ({ one false 0 [] with fab := { State.reset.fab with released := [(3, 4)] } }.fab.released.lookup 3) = some 4 ∧
      (one false 0 []).fab.reorder = [] ∧ (one false 0 []).fab.recovering = none ∧ (5 : Nat) ≠ (one false 0 []).fab.dev ∧
      (let u := { ported { Port.reset with st := .up, routed := true } with ptime := 131072 }
       (u.port 3).routed = true ∧ (u.port 3).st = .up ∧ (u.port 3).held = false ∧ (u.port 3).since ≤ u.ptime ∧ u.fab.reorder.length < reorderSize ∧
         512 * 256 ≤ (u.ptime - (u.port 3).since).toNat) ∧
      (Port.reset.inSeq ≠ Port.reset.inSeq + 1) ∧ (∀ o ∈ (one false 0 []).fab.fwd, o.port ≠ 24) ∧
      ({ (one false 0 []).fab with routePending := true }).routePending = true ∧ (one false 0 []).fab.markersSent = false := by decide +kernel
/-- A kernel in a state, with one resident herd. -/
def working (st : KSt) : State :=
  { two false 0 [] with
    kernels := [{ plantKernel 1 with st, ring := [(0, [], 0, 0)], r := { (plantKernel 1).r with dclass := 0, dl := 1, budget := 2, ncont := 1 } }],
    herds := [⟨1, 0, 0, .resident, [0], false, false, [], 0, false, 3, false, none, false, [], []⟩], ptime := 5 }
theorem witness_WorkEvents :
    let s := working .admitted
    (∃ k, s.kernel? 1 0 = some k ∧ k.st = .admitted ∧ k.killed = false ∧ k.r.start.toNat ≤ s.ptime.toNat ∧ k.r.dclass ≤ 1 ∧ k.r.dl ≠ 0 ∧
      k.st ≠ .submitted ∧ k.st ≠ .done ∧ k.st ≠ .faulted ∧ k.overrun = false ∧ k.r.dl.toNat ≤ s.ptime.toNat ∧
      (k.recordsOf 0).head? = some (0, [], 0, 0) ∧ 0 + 256000 * k.r.cwait ≤ s.ptime.toNat ∧ 0 ∉ k.flush) ∧
    (∃ h, s.herd? 1 0 0 = some h ∧ h.st = .resident ∧ h.budgetEv = false ∧ (2 : Nat) < h.issues ∧ s.quantumOver h = false) ∧
    (∃ c, s.ctx? 1 = some c ∧ c.alive = true) ∧ s.kernelCount 1 < 256 := by
  refine ⟨⟨_, rfl, by decide +kernel⟩, ⟨_, rfl, by decide +kernel⟩, ⟨_, rfl, by decide⟩, by decide +kernel⟩
/-- A context whose queue 0 has 16 places and the record at 0x36000 in its first, with the host's link up. -/
def queued (tail : Nat) : State :=
  let s := two false 0 []
  { s with
    mem := memWrite (memWrite mem1 (plantBase + 0x430000) (bytesOf 16 (0x33000 + (36 + tail * 2 ^ 33) * 2 ^ 64))) (plantBase + 0x433000) (bytesOf 8 0x36000),
    plat := { s.plat with hostUp := true } }
theorem witness_WorkEvents_queue :
    let s := queued 1
    (match s.queueBits (plantCtx 1) 0 with
     | none => false
     | some raw => decide (
       let d := s.queueNow 1 0 raw
       let u := ({ s with qlast := (1, 0) }.touchRead 1 ((plantCtx 1).queue 0) 64).takeQueue 1 0 (QDesc.ofNat raw)
       d.on = true ∧ d.count = 1 ∧ (s.queueDrop (plantCtx 1) 0 raw).isSome = true ∧ d.count ≠ 2 ^ d.lg ∧ (0x36000 : W64).toNat < 2 ^ 57 ∧
         (u.vaRead 1 (d.slot d.head) 8).map natOf = some 0x36000 ∧ (u.setEnds (plantCtx 1) 0 raw (d.head + 1) d.tail).isSome = true ∧
         (u.vaRead 1 0x36000 256).isSome = true ∧ u.vaRead 1 (2 ^ 40) 256 = none ∧ u.launchReason (plantCtx 1) 0 ≠ 0)) = true := by
  decide +kernel
/-- The same where the table of queues ends the mapped part of the address space after its first descriptor, so that queue 0 is the only
one that the dispatcher can read. -/
def turned : State :=
  let s := queued 1
  { s with
    ctxs := [{ plantCtx 1 with qtab := 2 ^ 39 - 64 }],
    mem := memWrite (memWrite (memWrite s.mem (plantBase + 0x200FF8) (bytesOf 8 (plantBase + 0x202001))) (plantBase + 0x202FF8)
      (bytesOf 8 (plantBase + 0x4000CF))) (plantBase + 0x5FFFC0) (bytesOf 16 (0x33000 + (36 + 2 ^ 33) * 2 ^ 64)) }
theorem witness_WorkEvents_turn : turned.queueTurn = some (1, 0) := by decide +kernel
theorem witness_WorkEvents_intake :
    let c := { plantCtx 1 with qtab := 2 ^ 39 - 64 }
    let z := { turned with qlast := (1, 0) }.touchRead 1 (c.queue 0) 64
    (match z.queueBits c 0 with
     | none => false
     | some raw => decide (
       let d := QDesc.ofNat raw
       let u := z.takeQueue 1 0 d
       let y := u.touchRead 1 (d.slot d.head) 8
       turned.ctx? 1 = some c ∧ d.on = true ∧ d.count = 1 ∧ (y.vaRead 1 (d.slot d.head) 8).map natOf = some 0x36000 ∧
         (y.setEnds c 0 raw (d.head + 1) d.tail).map (fun w => decide ((w.touchRecord c 0x36000).launchReason c 0 ≠ 0)) = some true)) = true := by
  decide +kernel
theorem witness_WorkEvents_queue_full :
    (match (queued 16).queueBits (plantCtx 1) 0 with
     | none => false
     | some raw => decide (((queued 16).queueNow 1 0 raw).count = 16 ∧ ((queued 16).queueNow 1 0 raw).lg = 4 ∧
      (((queued 16).takeQueue 1 0 ((queued 16).queueNow 1 0 raw)).queueDrop (plantCtx 1) 0 raw).isSome = true)) = true := by
  decide +kernel
theorem witness_WorkEvents_queue_off :
    ((two false 0 []).queueBits (plantCtx 1) 0).map (fun raw => ((two false 0 []).queueNow 1 0 raw).on) = some false := by decide +kernel
/-- A kernel whose batch of one record is due, with its flock resident or not. -/
def gathering (flocks : List Flock) : State :=
  { working .draining with
    flocks, groups := [], threads := [], issue := none,
    herds := [⟨1, 0, 0, if flocks = [] then .retired else .resident, [0], false, false, [], 0, false, 3, false, none, false, [], []⟩] }
theorem witness_WorkEvents_gatherer :
    ∃ k, (gathering [flk]).kernel? 1 0 = some k ∧ (gathering []).kernel? 1 0 = some k ∧ k.st = .draining ∧ k.killed = false ∧ k.batchDue 0 = true ∧
      (gathering []).flocks = [] ∧ (∀ h ∈ (gathering []).herds, h.cont = false) ∧
      (gathering [flk]).flocks.filter (fun f => decide (f.ctx = 1) && decide (f.kid = 0)) = [flk] ∧
      ((gathering [flk]).herdOfFlock flk).map Herd.st = some .resident ∧ (gathering [flk]).freeGrps k flk = [0] := ⟨_, rfl, by decide +kernel⟩
/-- A D0 kernel ready to be placed on core 0, and a herd whose threads have all exited. -/
def placing : State :=
  { working .placing with
    kernels := [{ plantKernel 1 with st := .placing, cores := [0], r := { (plantKernel 1).r with dclass := 0 } }], herds := [] }
def retiring : State :=
  { working .draining with
    issue := none, threads := [{ thr [] with st := .exited }],
    groups := [{ grp false with kid := 0, herd := 0 }] }
theorem witness_WorkEvents_placing :
    ∃ k, placing.kernel? 1 0 = some k ∧ k.r.dclass = 0 ∧ k.st = .placing ∧ placing.placeable k = true ∧
      ∀ c ∈ k.cores, (placing.pen c 0).st = .empty ∧ (placing.pen c 1).st = .empty := ⟨_, rfl, by decide +kernel⟩
theorem witness_WorkEvents_retire :
    (retiring.herdGroups 1 0 0).map Group.gid = [1] ∧ retiring.issue = none ∧ (∀ t ∈ retiring.threads, t.st = .exited) ∧ retiring.ops = [] ∧
      (∀ f ∈ retiring.herdFlocksOf 1 0 0, ∀ c ∈ f.chans, c.st ≠ .walking) ∧ ((retiring.freeHerd 1 0 0).kernel? 1 0).isSome = true := by
  decide +kernel
/-- A waiting herd of a D1 kernel. -/
def waitingHerd : State :=
  { working .running with
    kernels := [{ plantKernel 1 with st := .running }], groups := [], threads := [], flocks := [], issue := none,
    herds := [⟨1, 0, 0, .waiting, [], true, false, [], 0, false, 0, false, none, false, [], []⟩] }
theorem witness_WorkEvents_place :
    (let all := waitingHerd.waiting fun k i => (waitingHerd.fitIn k i false 0).isSome
     (leastBy (rankIn all) (all.filter fun c => (waitingHerd.fitIn c.k c.idx c.saved 0).isSome)).isSome = true) ∧
      (leastBy (rankIn ([] : List Cand)) [] = none) ∧ (waitingHerd.waiting fun _ _ => true).length = 1 := by
  decide +kernel
theorem witness_WorkEvents_entries :
    (one false 0 []).waitingSubs 0 = [] ∧
      (let b : SubGroup := { parked with idx := none }
       let s := { working .running with subs := [b] }
       (s.waitingSubs 0).find? (fun b => (s.freeEntry (s.group b.gid)).isSome) = some b ∧ (s.subs.find? fun x => x.id = b.id) = some b ∧
         (s.freeEntry (s.group b.gid)).isSome = true) := by decide +kernel
/-- A quantum that has run: a resident herd of context 1, and one of equal rank of context 2 that waits. -/
def yielding : State :=
  { working .running with
    ctxs := [plantCtx 1, plantCtx 2], ptime := 2 ^ 40,
    kernels := [{ plantKernel 1 with st := .running }, { plantKernel 2 with st := .running }],
    herds := [⟨1, 0, 0, .resident, [0], false, false, [], 0, false, 3, false, none, false, [], []⟩,
              ⟨2, 0, 0, .waiting, [], true, false, [], 0, false, 0, false, none, false, [], []⟩] }
theorem witness_WorkEvents_quantum : (yielding.herds.head?.map yielding.quantumOver) = some true := by decide +kernel
/-- A kernel of context 1 whose two herds form a FOLD unit and take both pens of a core each: herd 0 is on core 1, the cores 2 to 7 are gated,
and core 0 has a herd of context 2. -/
def crowded : State :=
  let k := { plantKernel 1 with st := .running, h := 2, r := { (plantKernel 1).r with dclass := 1, scr := 2 ^ 18 + 1, nlvl := 3, lvl := [(0, 0, 32), (1, 0, 2), (4, 0, 4)] } }
  { working .running with
    ctxs := [plantCtx 1, { plantCtx 2 with savn := 1 }], kernels := [k, { plantKernel 2 with st := .draining }],
    herds := [⟨1, 0, 0, .resident, [1], false, false, [], 0, false, 0, false, none, false, [], []⟩,
              ⟨2, 0, 0, .resident, [0], false, false, [], 0, false, 0, false, none, false, [], []⟩],
    flocks := [{ flk with fid := 3, pcore := 1, both := true }, { flk with fid := 4, ctx := 2, both := true }],
    cores := [{ Core.reset 0 with pen0 := ⟨.active, 2, false⟩, pen1 := ⟨.shadow, 2, false⟩ },
              { Core.reset 1 with pen0 := ⟨.active, 1, false⟩, pen1 := ⟨.shadow, 1, false⟩ }] ++
             (List.range 6).map fun i => { Core.reset (i + 2) with gated := true } }
theorem witness_WorkEvents_preempt :
    (match crowded.waiting fun _ _ => true with
     | [c] => decide ((∀ p ∈ List.range 4, (crowded.fitIn c.k c.idx c.saved p).isNone = true) ∧ (∀ h ∈ crowded.herds, h.due = false ∧ h.after.isNone = true) ∧
         (crowded.victims c 0).map (fun l => l.map Herd.key) = some [(2, 0, 0)])
     | _ => false) = true := by decide +kernel

/-! ### Homes, outside accesses, contexts, pages, debug, platform -/

/-- A request of core 4 for one word at 0x40. -/
def homeReq (id : Nat) (kind : ReqKind) : Req := { Req.outsider id 4 1 kind 0x40 4 [] with gid := 1 }
theorem witness_HomeMessages :
    (∃ l r, ([.ack 5 0x80, .writeback 4 0x40 7] : List Msg) = l ++ .writeback 4 0x40 7 :: r ∧
      ∀ x ∈ l, ¬(x.agent = (Msg.writeback 4 0x40 7).agent ∧ x.down = (Msg.writeback 4 0x40 7).down ∧ State.reset.homeOf x.word = State.reset.homeOf 0x40)) ∧
    (let s := fun (d : Dir) => { State.reset with dir := [(0x40, d)], l1 := [⟨4, 0x40, .own, 1, 7⟩, ⟨4, 0x80, .si, 1, 7⟩], reqs := [homeReq 9 .ownLoad] }
     (s (.owned 4)).dirOf 0x40 = .owned 4 ∧ (s (.recall 4 8)).dirOf 0x40 = .recall 4 8 ∧ (s (.kept 4 8)).dirOf 0x40 = .kept 4 8 ∧ (s (.recall 4 8)).req? 8 = none ∧
       (s (.owned 4)).l1? 4 0x40 = some ⟨4, 0x40, .own, 1, 7⟩ ∧ (s (.owned 4)).l1? 4 0x80 = some ⟨4, 0x80, .si, 1, 7⟩ ∧
       (s (.inval [4, 5] [] 9)).dirOf 0x40 = .inval [4, 5] [] 9 ∧ ([4, 5] : List Agent).erase 4 ≠ [] ∧
       (s (.owned 4)).req? 9 = some (homeReq 9 .ownLoad) ∧ 0x40 ∈ (homeReq 9 .ownLoad).words ∧ (homeReq 9 .ownLoad).persistent = false ∧
       (s (.owned 4)).persist = [] ∧ (s (.kept 4 9)).stillOpen (homeReq 9 .ownLoad) = false ∧
       { s (.kept 4 9) with dir := [(0x40, .recall 5 9)] }.stillOpen (homeReq 9 .ownLoad) = true) := by
  refine ⟨⟨[.ack 5 0x80], [], rfl, ?_⟩, by decide +kernel⟩
  decide +kernel
/-- A proxy line, and a request that waits for one. -/
def proxied (lines : List ProxyLine) : State :=
  { State.reset with proxy := lines, reqs := [{ homeReq 9 .ownLoad with pa := hostBase + 64 }] }
/-- An active window with one update to apply. -/
def win : Window := ⟨.active, 0, 0, 512, 0, [⟨1, 0, [1, 2]⟩], false, none⟩
theorem witness_OutsideAccesses :
    (proxied []).proxyLine? (hostBase + 64) = none ∧ ((proxied []).mayTake { homeReq 9 .ownLoad with pa := hostBase + 64 }) = true ∧
      ((proxied []).reqs.find? fun r => decide (hostBase ≤ r.pa) && r.pa / 64 * 64 = hostBase + 64 && (proxied []).mayTake r && !(proxied []).proxyHolds r)
        = some { homeReq 9 .ownLoad with pa := hostBase + 64 } ∧
      (proxied []).servedKind { homeReq 9 .ownLoad with pa := hostBase + 64 } = .ownLoad ∧
      ((proxied [⟨hostBase, true, false⟩]).proxy.any fun x => decide (x.line = hostBase)) = true ∧
      ((proxied []).proxy.any fun x => decide (x.line = hostBase)) = false ∧ State.reset.reqs = [] ∧ 0x100 / 64 * 64 + 64 ≤ 2 ^ 39 ∧
      ¬((2 ^ 39 - 64) / 64 * 64 + 64 > 2 ^ 39) ∧ 2 ^ 39 < 2 ^ 39 / 64 * 64 + 64 := by decide +kernel
theorem witness_OutsideAccesses_windows :
    let s := { two false 0 [] with flocks := [flk.setWin 3 win, { flk with fid := 3 }.setWin 3 { win with st := .loading }] }
    let l := { s with flocks := [flk.setWin 3 { win with st := .loading, va := 0x20000, ret := some (1, 0, 2) }], mirrors := [⟨1, 0x20000, [0], 4⟩] }
    (∃ w f m, l.window? 2 3 = some w ∧ l.flock? 2 = some f ∧ w.st = .loading ∧ w.ret = some (1, 0, 2) ∧
      (l.mirrors.find? fun m => decide (m.ctx = f.ctx) && m.binds w) = some m) ∧
    s.window? 2 3 = some win ∧ win.st = .active ∧ win.updates = [⟨1, 0, [1, 2]⟩] ∧ s.window? 3 3 = some { win with st := .loading } :=
  ⟨⟨_, _, ⟨1, 0x20000, [0], 4⟩, rfl, rfl, by decide +kernel⟩, by decide +kernel⟩
theorem witness_OutsideAccesses_pod :
    let s := two false 0 []
    s.jobCtx 5 = none ∧ s.jobCtx 0 = some (plantCtx 1) ∧ (s.peek 1 0x20000 .read).isSome = true ∧ (s.peek 1 0x20007 .read).isSome = true ∧
      { s with reqs := [{ homeReq 9 (.read false) with dev := some 2, rid := some 1 }] }.req? 9 =
        some { homeReq 9 (.read false) with dev := some 2, rid := some 1 } ∧
      (homeReq 9 (.read false)).eng = none ∧ ({ homeReq 9 (.write false) with dev := some 2, eng := some 3 }).eng = some 3 ∧
      ({ s.fab with mesh := false }).mesh = false ∧ s.fab.mesh = true ∧
      s.devWaits { homeReq 9 (.read false) with dev := some 2 } = false ∧
      (let r := { homeReq 9 (.write false) with dev := some 2, rel := true }
       { s with reqs := [{ homeReq 8 (.write false) with gid := 1 }, r] }.devWaits r = true) := by decide +kernel
/-- An access of die core 3 that is under way, and one of core 4. -/
theorem witness_OutsideAccesses_die :
    let r := { Req.outsider 9 sdAgent 0 .sdWrite 0x40 4 [1, 2, 3, 4] with lane := 3 }
    let s := { State.reset with reqs := [r, { r with id := 10, lane := 4 }] }
    0 < 4 ∧ 0x40 + 4 ≤ 2 ^ 39 ∧ ¬(2 ^ 39 - 3 + 4 ≤ 2 ^ 39) ∧ s.reqs[0]? = some r ∧ (r.src = sdAgent ∧ r.lane = 3) ∧
      s.reqs[1]? = some { r with id := 10, lane := 4 } := by decide +kernel
/-- A parked sub-group of the group at replay-queue entry 3. -/
def sub3 (cause : Byte) : SubGroup := ⟨7, 1, 1, cause, some 3, false, false, 0, 0, none, 0⟩
/-- A privileged thread whose registers select context 1, kernel 0, herd 0. -/
def sup (regs : List (Nat × W32)) : State := one true 0 regs
/-- The same with the group at group slot 0 of pen 0 of core 0. -/
def targeted : State :=
  { sup [] with groups := [{ grp true with hslot := 0, pen := 0, pcore := 0 }],
                herds := [⟨1, 0, 0, .resident, [0], false, false, [], 0, false, 0, false, none, false, [], []⟩] }
theorem witness_ContextWords :
    (sup [(5, 3), (6, 1)]).Solo (iss 0) (thr [(5, 3), (6, 1)]) ∧ ((sup []).group 1).priv = true ∧ (sup []).entryAt 0 3 = none ∧
      { targeted with subs := [sub3 5] }.entryAt 0 3 = some (sub3 5) ∧ { targeted with subs := [sub3 0x10] }.entryAt 0 3 = some (sub3 0x10) ∧
      (sub3 4).cause ≠ 0x10 ∧ (sub3 4).cause ≠ 5 ∧
      (sup []).target (grp true) (thr []) = none ∧ ((sup []).pen 0 0).st = .empty ∧
      ({ sup [] with cores := [{ Core.reset 0 with pen0 := ⟨.active, 1, true⟩, pen1 := ⟨.shadow, 2, false⟩ }] }.pen 0 1).st = .shadow ∧
      { sup [] with cores := [{ Core.reset 0 with pen0 := ⟨.active, 1, false⟩, pen1 := ⟨.shadow, 2, false⟩ }] }.penHeld 0 0 = false :=
  ⟨solo _ _ _, by decide +kernel⟩
theorem witness_ContextWords_target :
    ((targeted.target (grp true) (thr [])).map Thread.st) = some .ready := by decide +kernel
theorem witness_ContextWords_swap :
    let s := { sup [] with kernels := [{ plantKernel 1 with st := .draining }], herds := [⟨1, 0, 0, .resident, [0], false, false, [], 0, false, 0, false, none, false, [], []⟩] }
    s.ctx? 1 = some (plantCtx 1) ∧ (plantCtx 1).alive = true ∧ s.hasHerd 1 0 0 = true ∧ s.hasHerd 1 0 1 = false ∧ s.hasHerd 1 1 0 = false ∧
      (∀ h ∈ s.herds, s.fixedHerd h = false) ∧ s.slotsFor s.herds = false ∧
      { s with ctxs := [{ plantCtx 1 with savn := 1 }] }.slotsFor s.herds = true ∧
      { s with ctxs := [{ plantCtx 1 with st := .stopped }] }.slotsFor [] = true ∧
      (∃ k ∈ s.kernels, k.ctx = 1 ∧ k.r.dclass ≠ 0) ∧ (plantKernel 1).killed = false ∧ s.kernel? 1 0 = some { plantKernel 1 with st := .draining } ∧
      s.ctx? 2 = none := by decide +kernel
/-- A state whose `ctx.arg` names a descriptor of context 7 with its root at 2 MiB and a queue of 16 calls. -/
def created (root : Nat) : State :=
  { two true 0 [] with
    mem := memWrite mem1 0x1000 (bytesOf 128 (7 + root * 2 ^ 64 + 4 * 2 ^ 528))
    plat := { State.reset.plat with ctxArg := 0x1000, ctxSel := 1 } }
theorem witness_ContextEvents_create :
    let c := fun (s : State) => Context.ofNat (natOf (s.cohRead 0x1000 128)) 0x1000
    ((created 0x200000).ctx? (c (created 0x200000)).id) = none ∧ (c (created 0x200000)).id = 7 ∧
      descOk (natOf ((created 0x200000).cohRead 0x1000 128)) = true ∧ descOk (natOf ((created 0x1000).cohRead 0x1000 128)) = false ∧
      ((created 0x200000).ctx? 1) = some (plantCtx 1) ∧ (plantCtx 1).st ≠ .dead ∧ (created 0x200000).ctx? 2 = none := by decide +kernel
/-- Core 0 with an active and a shadow pen. -/
def pens (c0 c1 : Nat) : State :=
  { one true 0 [] with cores := [{ Core.reset 0 with pen0 := ⟨.active, c0, false⟩, pen1 := ⟨.shadow, c1, false⟩ }] }
theorem witness_ContextEvents_pens :
    (one true 0 []).shadowOf 0 = none ∧ (pens 2 1).shadowOf 0 = some (1, 0) ∧ (pens 2 1).penDue 0 1 0 = false ∧
      (pens 2 1).penHeld 0 0 = false ∧ ((pens 2 1).core 0).entries = [] := by decide +kernel
/-- A forwarded call of the thread. -/
def call (st : CallSt) : Call := ⟨4, 1, 1, 0, HReg.reset, 0, true, st⟩
theorem witness_ContextEvents_calls :
    let s := { one true 0 [] with calls := [call .sent] }
    (∀ k ∈ s.calls, k.seq ≠ 5) ∧ (s.calls.find? fun k => decide (k.seq = 4)) = some (call .sent) ∧ s.ctx? 1 = some (plantCtx 1) ∧ (plantCtx 1).sctmo = 0 ∧
      ({ plantCtx 1 with st := .dying }).st = .dying ∧ s.reqs = [] ∧ s.kernel? 1 0 = some (plantKernel 1) ∧ (plantKernel 1).st ≠ .done := by
  decide +kernel
/-- A context whose queue of calls stands at its next place with an entry that names lane 0 of the group, which is parked in a call or not. -/
def calling (entry : Nat) (subs : List SubGroup) : State :=
  let c := { plantCtx 1 with scq := 0x20000, scqlg := 4 }
  let s := two false 0 []
  { s with ctxs := [c], subs, mem := memWrite s.mem (plantBase + 0x420000) (bytesOf 16 entry) }
/-- The call that a state's service core reads next. -/
def nextOf (s : State) : Option (Nat × W64) := s.nextCall { plantCtx 1 with scq := 0x20000, scqlg := 4 }
/-- The identity by which an entry names lane 0 of the group (R353). -/
def who : W64 := groupIdent (grp false) 0
theorem witness_ContextEvents_forward :
    nextOf (calling 0 []) = none ∧ nextOf (calling (0x20100 + who.toNat * 2 ^ 64) []) = some (0x20100, who) ∧
      (calling 0 []).callerOf 1 who = none ∧ ((calling 0 [{ parked with cause := 5 }]).callerOf 1 who).isSome = true ∧
      ((calling 0 []).vaWrite 1 0x20000 (List.replicate 16 0)).isSome = true := by decide +kernel
/-- A privileged thread of a context with page tables: va 0x20000 in g4, context 1 in g5. -/
def pageRegs (va n : W32) : List (Nat × W32) := [(4, va), (6, 1), (8, n)]
def frameOf (st : TierSt) : Frame := ⟨(plantBase + 0x420000) / 65536, st, 0, 1, 0, [], [], [], 0, false, false, false, 0, 0, 0⟩
theorem witness_PageWords :
    (two true 0 (pageRegs 0x20000 1)).Solo (iss 0) (thr (pageRegs 0x20000 1)) ∧
      (rd2 (thr (pageRegs 0x20000 1)) 4).toNat = 0x20000 ∧ 2 ^ 57 ≤ (rd2 (thr [(4, 0), (5, 0x02000000)]) 4).toNat ∧
      0x20000 + 4096 * (rd (thr (pageRegs 0x20000 1)) 8).toNat ≤ 2 ^ 57 ∧ (two true 0 []).ctx? (rd (thr (pageRegs 0x20000 1)) 6).toNat = some (plantCtx 1) ∧
      (two true 0 []).ctx? 0 = none ∧
      (let s := two true 0 []
       (∃ lvl q e, s.walk 1 0x20000 = .leaf lvl q e ∧ s.bounced 1 0x20000 (leafPages lvl e) = false ∧ pteHost e = false ∧
         ((s.frame (leafPa (leafPages lvl e) e 0x20000 / 65536)).pins 1 = 0)) ∧
       (∀ lvl q e, s.walk 1 0x400000 ≠ .leaf lvl q e)) :=
  ⟨solo_two _ _ _, by decide +kernel, by decide +kernel, by decide +kernel, by decide +kernel, by decide +kernel, by
    refine ⟨⟨_, _, _, rfl, ?_, ?_, ?_⟩, ?_⟩
    · decide +kernel
    · decide +kernel
    · decide +kernel
    · intro lvl q e h
      have k : (match (two true 0 []).walk 1 0x400000 with | .leaf _ _ _ => false | _ => true) = true := by decide +kernel
      rw [h] at k
      exact Bool.noConfusion k⟩
theorem witness_PageWords_pins :
    { two true 0 [] with frames := [frameOf .near] }.frame ((plantBase + 0x420000) / 65536) = frameOf .near ∧ (frameOf .near).nearPins < 255 ∧
      0 < (frameOf .near).nearPins ∧ 255 ≤ ({ frameOf .near with tierPins := 255 }).pins 0 ∧ (frameOf .near).heldEvict = false := by decide +kernel
theorem witness_PageWords_queue :
    State.reset.fq[pastureOf 0]? = some ⟨[], 0, []⟩ ∧
      (let e : FaultEnt := ⟨none, 0, 1, 0, 0, false, 0, 0, 0, 1, 0, 0⟩
       { State.reset with fq := State.reset.fq.set 0 ⟨[e], 1, []⟩ }.fq[0]? = some ⟨[e], 1, []⟩) := by decide +kernel
/-- A first-touch request for an address. -/
def ftReq (va : Nat) : Req := { homeReq 9 (.read false) with va, ft := true }
/-- A shoot-down of the planted page. -/
def sdn1 : Sdn := ⟨4, 1, 0x20000, 1, false, 1, 0⟩
theorem witness_PageEvents :
    let s := { two true 0 [] with reqs := [ftReq 0x20000], frames := [frameOf .promoting] }
    s.req? 9 = some (ftReq 0x20000) ∧ s.req? 8 = none ∧ (∃ pa, s.xlWalk 1 0x20000 .read = .ok pa) ∧
      (s.frames.filter fun f => decide (f.st ≠ .hbm)).length < 32768 ∧ (frameOf .promoting).st = .promoting ∧ (frameOf .promoting).l2Pins = 0 ∧
      s.wordStable 0 0 = true ∧ { s with dir := [(0, .recall 4 8)] }.wordStable 0 0 = false ∧ (16383 : Nat) + 0 < 16384 ∧ 16384 ≤ (16383 : Nat) + 1 ∧
      ({ frameOf .promoting with l2Pins := 1 }).l2Pins ≠ 0 ∧ (frameOf .promoting).moved + (frameOf .promoting).mid = 0 ∧
      (∀ x ∈ s.sdns, x.id ≠ 4) ∧ ({ s with sdns := [sdn1] }.sdns.find? fun x => decide (x.id = 4)) = some sdn1 ∧
      (∀ r ∈ { s with reqs := [ftReq 0x20000] }.reqs, r.ft = true) ∧ sdn1.hits 0x20000 4 = true ∧
      { s with flocks := [] }.flocks = [] ∧ (s.thread? 1 0).bind Thread.wait ≠ some (.sdn 4) ∧
      ({ s with threads := [{ thr [] with wait := some (.sdn 4) }] }.thread? 1 0).bind Thread.wait = some (.sdn 4) := by
  refine ⟨by decide +kernel, by decide +kernel, ⟨_, rfl⟩, ?_⟩
  decide +kernel
theorem witness_PageEvents_zero :
    (match zeroed.xlWalk 1 0x200000 .read with
     | .zero 0 _ e => zeroed.ringReady 0 e && !({ zeroed with ftu := State.reset.ftu }.ringReady 0 e)
     | _ => false) = true ∧
    (match (zeroed.serveFirstTouch 0 1 0x200000 false).xlWalk 1 0x200000 .read with | .ok _ => true | _ => false) = true ∧
    (match zeroed.xlWalk 1 0x400000 .read with | .fault _ _ => true | _ => false) = true := by decide +kernel
/-- A full near tier, and a frame that is to be promoted. -/
def fullTier (n : Nat) (first : Frame) : List Frame :=
  { frameOf .hbm with frame := 5, heldPromote := true } :: first :: List.replicate n (frameOf .near)
theorem witness_PageEvents_full (n : Nat) (hn : 32767 ≤ n) (first : Frame) (h : first.st = .near) :
    let s := { State.reset with frames := fullTier n first }
    (s.frame 5).heldPromote = true ∧ (s.frame 5).st = .hbm ∧ 32768 ≤ (s.frames.filter fun f => decide (f.st ≠ .hbm)).length ∧
      (s.frames.filter fun f => decide (f.st = .demoting)).length = 0 ∧ 0 < (s.frames.filter fun f => decide (f.st = .hbm) && f.heldPromote).length ∧
      (first.unpinned = true → s.coldest = some first) ∧ (first.unpinned = false → s.coldest = none) := by
  have u : (frameOf .near).unpinned = false := by decide
  have a : (frameOf .near).st = .near := rfl
  have b : (frameOf .hbm).st = .hbm := rfl
  refine ⟨rfl, rfl, ?_, ?_, ?_, fun k => ?_, fun k => ?_⟩
  · simp [fullTier, h, a, b]; omega
  · simp [fullTier, h, a, b]
  · simp [fullTier, h, a, b]
  · simp [fullTier, State.coldest, u, h, a, b, k]
  · simp [fullTier, State.coldest, u, h, a, b, k]
/-- A context that records, with a ring of 16 MiB. -/
def recorded (st : CxSt) : State :=
  { one true 0 [(6, 1)] with ctxs := [{ plantCtx 1 with st, rec_ := true }], recs := [⟨1, 0, 24, 0, 0, false, 0, false⟩] }
theorem witness_DebugWords :
    (one true 0 [(5, 3), (6, 1)]).Solo (iss 0) (thr [(5, 3), (6, 1)]) ∧ { targeted with subs := [sub3 3] }.entryAt 0 3 = some (sub3 3) ∧
      (sub3 3).cause = 3 ∧ (sub3 5).cause ≠ 3 ∧ (sub3 5).cause ≠ 4 ∧ State.reset.trig.full = false ∧
      ({ State.reset.trig with full := true }).full = true ∧ rd2 (thr []) 4 = 0 ∧ rd2 (thr [(4, 1)]) 4 ≠ 0 ∧ (1 : W32).toNat ≤ 1 ∧ 1 < (2 : W32).toNat :=
  ⟨solo _ _ _, by decide +kernel⟩
theorem witness_DebugWords_checkpoints :
    let u := (recorded .stopped).refreshCtx 1
    (∃ c, u.ctx? 1 = some c ∧ c.alive = true ∧ c.st = .stopped) ∧ (one true 0 []).ctx? 2 = none ∧ (recorded .stopped).recording 1 = true ∧
      (one true 0 []).recording 1 = false ∧ (recorded .live).ctx? 1 = some { plantCtx 1 with st := .live, rec_ := true } ∧ u.ckpts = [] := by
  refine ⟨⟨_, rfl, by decide +kernel⟩, by decide +kernel⟩
theorem witness_PlatformEvents :
    State.reset.plat.recovery = false ∧ verifies Image.booted 0 = true ∧ verifies Image.booted 1 = false ∧
      ({ State.reset.plat with recovery := true }).recovery = true ∧ (2800 : BitVec 16).toNat ≤ min 2800 (max 100 State.reset.pw.lim.toNat) ∧
      min 2800 (max 100 State.reset.pw.lim.toNat) < (2801 : BitVec 16).toNat ∧ State.reset.pw.capev = false ∧ (104 : Byte).toNat < 105 ∧
      105 ≤ (120 : Byte).toNat ∧ 120 ≤ (120 : Byte).toNat ∧ State.reset.pw.thev = false ∧ State.reset.pw.tripped = false ∧
      ({ State.reset.trig with arm := true, time := 1 }).time ≠ 0 ∧ State.reset.trig.arm = false ∧ State.reset.evRoom = false ∧
      { State.reset with ev := ⟨0, 6, 0, 0, [⟨1, 0, 0, 0, []⟩], [], 0⟩, plat := { State.reset.plat with hostUp := true } }.evRoom = true ∧
      (recorded .live).ctx? 1 = some { plantCtx 1 with st := .live, rec_ := true } ∧ (recorded .live).recording 1 = true ∧
      (recorded .live).replaying 1 = false ∧ ((recorded .live).recCtl 1).next ≤ (recorded .live).rwcSum 1 ∧ State.reset.plat.image.isSome = true := by
  decide +kernel
theorem witness_DecodeEncode :
    wf (.add ⟨false, false⟩ 6 5 4) = true ∧ encode (.add ⟨false, false⟩ 6 5 4) = some 0x08185100 ∧
      decode 0x08185100 = .ok (.add ⟨false, false⟩ 6 5 4) := by decide +kernel
/-- A state whose window 3 is active with one update of two bytes. -/
def updating : State := { one false 0 [] with flocks := [flk.setWin 3 win] }
theorem witness_StoresKeepMemoryCanonical_copies :
    updating.flock? 2 = some (flk.setWin 3 win) ∧ (flk.setWin 3 win).wins[3]? = some win ∧ win.st = .active ∧ win.updates = [⟨1, 0, [1, 2]⟩] ∧
      (flk.setWin 3 win).waiters = [] ∧ updating.mons = [] ∧ (∀ x ∈ updating.flocks, Memory.wf x.scr = true) ∧
      (updating.threads.all fun t => t.wait.isNone) = true ∧ (two false 0 []).recording 1 = false ∧ (two false 0 []).mons = [] ∧ State.reset.mem = [] := by
  decide +kernel
theorem witness_StoresKeepMemoryCanonical :
    Memory.wf ([] : Memory) = true ∧ Memory.wf ([⟨3, 1⟩] : Memory) = true ∧ Memory.wf mem1 = true ∧ State.reset.Canonical ∧ (two false 0 []).Canonical := by
  unfold State.Canonical
  decide +kernel
theorem witness_StepRunsDecodedWord_open :
    let s := one false 0x08185100 [(5, 1), (4, 2)]
    s.plat.image.isSome = true ∧ s.pw.tripped = false ∧ s.urgent = [] ∧ (∀ t ∈ s.threads, t.podErr = []) ∧ s.issue = some (iss 0x08185100) ∧
      (iss 0x08185100).lanes ≠ 0 ∧ s.openWaits = false ∧ decode (iss 0x08185100).word = .ok (.add ⟨false, false⟩ 6 5 4) := by decide +kernel
theorem witness_StepRunsDecodedWord_turn :
    let s := State.reset.withFetchWord 32 0x07145678
    (s.plat.image.isSome && !s.pw.tripped && s.issue.isNone && s.urgent.isEmpty && s.threads.all fun x => x.pend.isEmpty && x.podErr.isEmpty && x.conts.isEmpty) = true ∧
      (match s.agenda with
       | .core core :: rest =>
         let b := { s with agenda := rest }
         match b.pick core with
         | some (g, f) =>
           match b.thread? g.gid (lowestLane f.lanes) with
           | some t =>
             match b.fetch g t.pkt with
             | (.words ws, u) =>
               match chainFrom ws t.slot with
               | w :: l => decide (w = 0x07145678) && (chainTrap g.priv g.regsN (w :: l) t.slot).isNone && decide (f.lanes ≠ 0) &&
                   decide (u.threads = s.threads) && decide (decode w = .ok (.movi ⟨false, false⟩ 5 0x5678))
               | [] => false
             | _ => false
           | none => false
         | none => false
       | _ => false) = true := by decide +kernel
theorem witness_StepRunsDecodedWord_fetch :
    let g := { grp false with code := ⟨true, 0, plantCode, false⟩ }
    let s := { two false 0 [] with groups := [g] }
    12 ≤ Image.booted.size ∧ g.shep = false ∧ s.usable g g.code = true ∧ 12 ≤ heLen g.code.ent ∧ heRight g.code.ent 2 = true ∧
      heBase g.code.ent % 4096 ≤ 4084 ∧ (match (s.codeByte g (heBase g.code.ent)).1 with | .ok _ => true | _ => false) = true := by decide +kernel
theorem witness_IntegerFrame :
    (one false 0x08185100 []).issue = some (iss 0x08185100) ∧ encode (.add ⟨false, false⟩ 6 5 4) = some 0x08185100 ∧
      7 ≤ (majOf 0x08185100).toNat ∧ (majOf 0x08185100).toNat ≤ 15 ∧ (0 : Int) ≤ (31 : BitVec 9).toInt ∧ (31 : BitVec 9).toInt ≤ 31 ∧
      (encode (.shli ⟨false, false⟩ 6 5 31)).isSome = true ∧ ({ iss 0 with imm := some 0 }).imm.isSome = true ∧
      (encode (.bfn3 ⟨false, false⟩ 4 5 6)).isSome = true := by decide +kernel

/-! ## Codecs -/

/-- R284's example: the keys 1000, 1010, 1020 and 1031. -/
theorem test_dz64 : (dzVals 3 [0x14, 0x00, 0x02]).map (dzKeys 1000 0) = some [1010, 1020, 1031] := by decide +kernel
/-- A frame of RFC 8878 with a block of three bytes as they are and a block of two equal bytes, laid out by hand. -/
theorem test_zstd : (zstd 5 [0x28, 0xB5, 0x2F, 0xFD, 0x20, 0x05, 0x18, 0, 0, 0x61, 0x62, 0x63, 0x13, 0, 0, 0x7A]) =
    ([⟨6, 0, [.lit [0x61, 0x62, 0x63]]⟩, ⟨12, 3, [.lit [0x7A, 0x7A]]⟩], 16, 5, true) := by decide +kernel
/-- The same frame cut short stops at the block that is not whole. -/
theorem test_zstd_short : (zstd 5 [0x28, 0xB5, 0x2F, 0xFD, 0x20, 0x05, 0x18, 0, 0, 0x61, 0x62, 0x63, 0x13, 0, 0]).2 = (12, 3, false) := by
  decide +kernel
/-- The one-block example of FIPS 180-4: the message "abc". -/
theorem test_sha384 : sha384 [0x61, 0x62, 0x63] =
    0xcb00753f45a35e8bb5a03d699ac65007272c32ab0eded1631a8b605a43ff5bed8086072ba1e7cc2358baeca134c825a7 := by decide +kernel
end Sys2Proof.Tests
end

section
/-! Stores and the canonical form (R3, R181): which operations leave the stores alone, which words a home's transaction writes,
and what the stores read as after a coherent write and after a mirror's update. -/
namespace Sys2Proof.Machine

/-! ## Operations that leave device memory and the firmware image alone -/

/-- Device memory and the firmware image's bytes are the same in two states. -/
def State.SameStores (s u : State) : Prop := u.mem = s.mem ∧ u.fw = s.fw

theorem State.SameStores.refl (s : State) : s.SameStores s := ⟨rfl, rfl⟩
theorem State.SameStores.trans {s u v : State} (h : s.SameStores u) (h' : u.SameStores v) : s.SameStores v :=
  ⟨h'.1.trans h.1, h'.2.trans h.2⟩
theorem State.SameStores.canonical {s u : State} (h : s.SameStores u) (hs : s.Canonical) : u.Canonical := by
  unfold State.Canonical; rw [h.1, h.2]; exact hs

theorem queueEvent_sameStores (s : State) (e : EvRec) : s.SameStores (s.queueEvent e) := by
  unfold State.queueEvent; split <;> exact ⟨rfl, rfl⟩
theorem trigger_sameStores (s : State) (bit : Nat) : s.SameStores (s.trigger bit) := by
  unfold State.trigger
  split
  · exact ⟨rfl, rfl⟩
  · exact State.SameStores.trans ⟨rfl, rfl⟩ (queueEvent_sameStores _ _)
theorem post_sameStores (s : State) (kind inst ctx : Nat) (d : List W64) : s.SameStores (s.post kind inst ctx d) := by
  have hq := queueEvent_sameStores s ⟨kind, BitVec.ofNat 16 inst, ctx, s.ptime, d⟩
  unfold State.post
  dsimp only
  split
  · split
    · exact hq.trans (trigger_sameStores _ _)
    · exact hq
  · exact hq

theorem pushFault_sameStores (s : State) (pasture : Nat) (e : FaultEnt) : s.SameStores (s.pushFault pasture e) := by
  unfold State.pushFault; split <;> exact ⟨rfl, rfl⟩
theorem updCore_sameStores (s : State) (id : Nat) (f : Core → Core) : s.SameStores (s.updCore id f) :=
  ⟨State.updCore_mem s id f, State.updCore_fw s id f⟩
theorem postSub_sameStores (s : State) (b : SubGroup) : s.SameStores (s.postSub b) := by
  unfold State.postSub
  dsimp only
  split
  · exact pushFault_sameStores _ _ _
  · exact updCore_sameStores _ _ _
/-- A sub-group that enters the replay queue changes no store: a shepherd's stops its core, any other is posted or waits. -/
theorem admitSub_sameStores (s : State) (id : Nat) : s.SameStores (s.admitSub id) := by
  unfold State.admitSub
  split
  · exact .refl s
  · dsimp only
    split
    · refine State.SameStores.trans ?_ (post_sameStores _ _ _ _ _)
      exact updCore_sameStores { s with subs := _ } _ _
    · split
      · split
        · exact ⟨rfl, rfl⟩
        · exact postSub_sameStores { s with subs := _ } _
      · exact ⟨rfl, rfl⟩
theorem settleSub_sameStores (s : State) (id : Nat) : s.SameStores (s.settleSub id) := by
  unfold State.settleSub
  split
  · exact .refl s
  · split
    · exact admitSub_sameStores s id
    · exact .refl s
theorem parkNow_sameStores (s : State) (gid : Nat) (l : List (LTrap × TrapRec)) (eng : Option Nat) :
    s.SameStores (s.parkNow gid l eng) := by
  unfold State.parkNow
  refine List.foldlRecOn (motive := s.SameStores) _ _ ?_ fun u hu id _ => hu.trans (settleSub_sameStores u id)
  exact List.foldlRecOn (motive := fun acc : State × List Nat => s.SameStores acc.1) l _ (.refl s) fun acc h _ _ => ⟨h.1, h.2⟩

theorem ensetRelease_sameStores (s : State) (gid : Nat) (m : Mask) (g : Group) :
    s.SameStores ((s.enset gid m).recordRelease g) := ⟨rfl, rfl⟩
theorem wakeNow_sameStores (s : State) (gid : Nat) (l : List (Nat × List Wr)) : s.SameStores (s.wakeNow gid l) := by
  unfold State.wakeNow
  refine State.SameStores.trans ?_ (ensetRelease_sameStores _ _ _ _)
  split
  · exact ⟨rfl, rfl⟩
  · exact parkNow_sameStores { s with threads := _ } _ _ _
theorem wake_sameStores (s : State) (gid : Nat) (l : List (Nat × List Wr)) : s.SameStores (s.wake gid l) := by
  unfold State.wake
  dsimp only
  split
  · exact ⟨rfl, rfl⟩
  · exact wakeNow_sameStores { s with threads := _ } _ _

theorem updNewest_sameStores (s : State) (ctx : Nat) (f : Ckpt → Ckpt) : s.SameStores (s.updNewest ctx f) := by
  unfold State.updNewest; split <;> exact ⟨rfl, rfl⟩
theorem mirrorWrite_sameStores (s : State) (pa : Nat) (bs : List Byte) : s.SameStores (s.mirrorWrite pa bs) := by
  unfold State.mirrorWrite
  refine List.foldlRecOn (motive := s.SameStores) _ _ (.refl s) fun u hu m _ => ?_
  dsimp only
  split
  · exact hu
  · exact hu.trans ⟨rfl, rfl⟩

/-! ## Operations of the homes: what they change, and the addresses they write -/

/-- Only device memory, the cores' copies, the homes' words and the messages differ between two states. -/
def State.OnlyHomes (s u : State) : Prop :=
  ∃ m l d g, u = { s with mem := m, l1 := l, dir := d, msgs := g }

theorem State.OnlyHomes.trans {s u v : State} : s.OnlyHomes u → u.OnlyHomes v → s.OnlyHomes v := by
  rintro ⟨_, _, _, _, rfl⟩ ⟨m, l, d, g, rfl⟩
  exact ⟨m, l, d, g, rfl⟩

/-- A transaction of the homes from `s` to `u` that writes at addresses of `P` only: it keeps the canonical form, and every
other address reads as before. -/
structure State.HomeWrites (P : Nat → Prop) (s u : State) : Prop where
  homes : s.OnlyHomes u
  wf : Memory.wf s.mem = true → Memory.wf u.mem = true
  outside : ∀ b, ¬ P b → memGet u.mem b = memGet s.mem b

namespace State.HomeWrites

theorem refl (P : Nat → Prop) (s : State) : s.HomeWrites P s := ⟨⟨_, _, _, _, rfl⟩, id, fun _ _ => rfl⟩
theorem trans {P : Nat → Prop} {s u v : State} (h : s.HomeWrites P u) (h' : u.HomeWrites P v) : s.HomeWrites P v :=
  ⟨h.homes.trans h'.homes, h'.wf ∘ h.wf, fun b hb => (h'.outside b hb).trans (h.outside b hb)⟩
theorem mono {P Q : Nat → Prop} {s u : State} (h : s.HomeWrites P u) (hPQ : ∀ b, P b → Q b) : s.HomeWrites Q u :=
  ⟨h.homes, h.wf, fun b hb => h.outside b (mt (hPQ b) hb)⟩
/-- A transaction that leaves memory alone. -/
theorem of_mem_eq {P : Nat → Prop} {s u : State} (h : s.OnlyHomes u) (hm : u.mem = s.mem) : s.HomeWrites P u :=
  ⟨h, fun hs => hm ▸ hs, fun _ _ => by rw [hm]⟩
theorem canonical {P : Nat → Prop} {s u : State} (h : s.HomeWrites P u) (hs : s.Canonical) : u.Canonical := by
  refine ⟨h.wf hs.1, ?_⟩
  obtain ⟨m, l, d, g, rfl⟩ := h.homes
  exact hs.2

end State.HomeWrites

/-- The bytes of the word at an address. -/
def InWord (w b : Nat) : Prop := w ≤ b ∧ b < w + 4

/-- A word's value goes to its home. -/
theorem writeWord_homeWrites (s : State) (w v : Nat) : s.HomeWrites (InWord w) { s with mem := memWrite s.mem w (bytesOf 4 v) } where
  homes := ⟨_, _, _, _, rfl⟩
  wf := memWrite_wf _ _ _
  outside b hb := memGet_memWrite_outside _ _ _ _ (by simp only [InWord] at hb; simp only [bytesOf_length]; omega)

theorem setDir_homeWrites (P : Nat → Prop) (s : State) (w : Nat) (d : Dir) : s.HomeWrites P (s.setDir w d) :=
  .of_mem_eq ⟨_, _, _, _, rfl⟩ rfl

theorem landMsgs_homeWrites (s : State) (w : Nat) : s.HomeWrites (InWord w) (s.landMsgs w) := by
  unfold State.landMsgs
  split
  · exact .refl _ s
  · next v _ =>
    have hw := writeWord_homeWrites s w v.toNat
    refine hw.trans ?_
    dsimp only
    split
    · exact .of_mem_eq ⟨_, _, _, _, rfl⟩ rfl
    · split <;> exact .of_mem_eq ⟨_, _, _, _, rfl⟩ rfl

theorem pullWord_homeWrites (s : State) (w : Nat) : s.HomeWrites (InWord w) (s.pullWord w) := by
  unfold State.pullWord
  split
  · exact landMsgs_homeWrites s w
  · next l _ =>
    refine (writeWord_homeWrites s w l.val.toNat).trans ?_
    dsimp only
    split <;> exact .of_mem_eq ⟨_, _, _, _, rfl⟩ rfl

/-- Taking words writes the words taken and nothing else: each one's value lands, then its owner's goes home, or its copies go. -/
theorem takeWords_homeWrites (s : State) (ws : List Nat) : s.HomeWrites (fun b => ∃ w ∈ ws, InWord w b) (s.takeWords ws) := by
  unfold State.takeWords
  refine List.foldlRecOn (motive := s.HomeWrites _) _ _ (.refl _ s) fun u hu w hw => hu.trans ?_
  refine State.HomeWrites.mono (P := InWord w) ?_ fun b hb => ⟨w, hw, hb⟩
  refine (landMsgs_homeWrites u w).trans ?_
  dsimp only
  split
  · exact pullWord_homeWrites _ w
  · exact pullWord_homeWrites _ w
  · exact .of_mem_eq ⟨_, _, _, _, rfl⟩ rfl
  · split
    · next l _ => exact writeWord_homeWrites _ w l.val.toNat
    · exact .refl _ _
  · exact .of_mem_eq ⟨_, _, _, _, rfl⟩ rfl

/-- The words that [pa, pa + n) touches lie between its ends, rounded to words. -/
theorem inWord_wordsOf {pa n w b : Nat} (hw : w ∈ wordsOf pa n) (hb : InWord w b) : pa / 4 * 4 ≤ b ∧ b < (pa + n + 3) / 4 * 4 := by
  simp only [wordsOf, wordOf, List.mem_map, List.mem_range] at hw
  obtain ⟨i, hi, rfl⟩ := hw
  simp only [InWord] at hb
  omega

/-! ## The canonical form is kept -/

theorem takeWords_canonical {s : State} (ws : List Nat) (h : s.Canonical) : (s.takeWords ws).Canonical :=
  (takeWords_homeWrites s ws).canonical h
theorem memWrite_canonical {s : State} (pa : Nat) (bs : List Byte) (h : s.Canonical) :
    State.Canonical { s with mem := memWrite s.mem pa bs } := ⟨memWrite_wf bs s.mem pa h.1, h.2⟩

theorem ringWrite_canonical {s : State} (r : RecCtl) (bs : List Byte) (h : s.Canonical) : (s.ringWrite r bs).Canonical := by
  unfold State.ringWrite
  refine List.foldlRecOn (motive := State.Canonical) _ _ h fun u hu i _ => ?_
  dsimp only
  split
  · exact memWrite_canonical _ _ (takeWords_canonical _ hu)
  · exact hu

/-- A record that enters the ring keeps the form when noting it does. -/
theorem enterRing_canonical {s : State} (ctx : Nat) (bs : List Byte) (add : State → State) (hadd : (add s).Canonical)
    (h : s.Canonical) : (s.enterRing ctx bs add).Canonical := by
  unfold State.enterRing
  split
  · exact hadd
  · dsimp only
    split
    · split
      · exact h
      · exact (post_sameStores _ _ _ _ _).canonical h
    · exact ringWrite_canonical _ _ hadd
theorem undoGrains_canonical {s : State} (ctx pa n : Nat) (h : s.Canonical) : (s.undoGrains ctx pa n).Canonical := by
  unfold State.undoGrains
  split
  · exact h
  · refine List.foldlRecOn (motive := State.Canonical) _ _ h fun u hu i _ => ?_
    dsimp only
    split
    · exact hu
    · split
      · exact hu
      · exact enterRing_canonical _ _ _ ((updNewest_sameStores _ _ _).canonical hu) hu
theorem logEvent_canonical {s : State} (gid lane : Nat) (kind : Byte) (addr val : W64) (extra : List Byte) (h : s.Canonical) :
    (s.logEvent gid lane kind addr val extra).Canonical := by
  unfold State.logEvent
  dsimp only
  split
  · exact h
  · exact enterRing_canonical _ _ _ ((updNewest_sameStores _ _ _).canonical h) h
theorem logged_canonical {s : State} (gid lane : Nat) (kind : Byte) (addr val : W64) (extra : List Byte) (h : s.Canonical) :
    (s.logged gid lane kind addr val extra).2.2.Canonical := by
  unfold State.logged
  extract_lets g
  split
  · exact logEvent_canonical _ _ _ _ _ _ h
  · split
    · exact h
    · split
      · exact h
      · exact (post_sameStores _ _ _ _ _).canonical h
theorem fireMonitors_canonical {s : State} (fid : Option Nat) (a n : Nat) (h : s.Canonical) : (s.fireMonitors fid a n).Canonical := by
  unfold State.fireMonitors
  refine List.foldlRecOn (motive := State.Canonical) _ _ h fun u hu m _ => ?_
  dsimp only
  split
  · split
    · split
      · exact (wake_sameStores _ _ _).canonical (logged_canonical _ _ _ _ _ _ hu)
      · exact hu
    · exact hu
  · exact hu

theorem cohWrite_canonical {s : State} (ctx pa : Nat) (bs : List Byte) (h : s.Canonical) : (s.cohWrite ctx pa bs).Canonical := by
  have htaken := takeWords_canonical (wordsOf pa bs.length) h
  have hstored := memWrite_canonical pa bs (undoGrains_canonical ctx pa bs.length htaken)
  exact (mirrorWrite_sameStores _ pa bs).canonical (fireMonitors_canonical none pa bs.length hstored)

/-! ## A coherent write outside a recording context and away from armed monitors -/

theorem fireMonitors_of_no_hit {s : State} {fid : Option Nat} {a n : Nat}
    (h : ∀ m ∈ s.mons, m.fid = fid → m.addr + m.n ≤ a ∨ a + n ≤ m.addr) : s.fireMonitors fid a n = s := by
  have hnone : (s.mons.filter fun m => m.fid = fid && decide (m.addr < a + n) && decide (a < m.addr + m.n)) = [] := by
    refine List.filter_eq_nil_iff.mpr fun m hm hhit => ?_
    simp only [Bool.and_eq_true, decide_eq_true_eq] at hhit
    have := h m hm hhit.1.1
    omega
  unfold State.fireMonitors
  rw [hnone]
  rfl

/-- Memory after such a write: the words taken are home, and the bytes are stored over them. -/
theorem cohWrite_mem {s : State} {ctx pa : Nat} {bs : List Byte} (hrec : s.recording ctx = false)
    (hmon : ∀ m ∈ s.mons, m.fid = none → m.addr + m.n ≤ pa ∨ pa + bs.length ≤ m.addr) :
    (s.cohWrite ctx pa bs).mem = memWrite (s.takeWords (wordsOf pa bs.length)).mem pa bs := by
  obtain ⟨m, l, d, g, ht⟩ := (takeWords_homeWrites s (wordsOf pa bs.length)).homes
  have hundo : (s.takeWords (wordsOf pa bs.length)).undoGrains ctx pa bs.length = s.takeWords (wordsOf pa bs.length) := by
    have hr : (s.takeWords (wordsOf pa bs.length)).recording ctx = false := by rw [ht]; exact hrec
    simp [State.undoGrains, hr]
  have hfire := fireMonitors_of_no_hit (fid := none) (a := pa) (n := bs.length)
    (s := { s.takeWords (wordsOf pa bs.length) with mem := memWrite (s.takeWords (wordsOf pa bs.length)).mem pa bs })
    (by rw [ht]; exact hmon)
  calc (s.cohWrite ctx pa bs).mem
      = ((s.takeWords (wordsOf pa bs.length)).applyWrite ctx pa bs).mem := rfl
    _ = memWrite (s.takeWords (wordsOf pa bs.length)).mem pa bs := by
        unfold State.applyWrite
        dsimp only
        rw [hundo, hfire]
        exact (mirrorWrite_sameStores _ pa bs).1

theorem memGet_takeWords_outside {s : State} {pa n b : Nat} (hb : b < pa / 4 * 4 ∨ (pa + n + 3) / 4 * 4 ≤ b) :
    memGet (s.takeWords (wordsOf pa n)).mem b = memGet s.mem b :=
  (takeWords_homeWrites s (wordsOf pa n)).outside b fun ⟨_, hw, hin⟩ => by
    have := inWord_wordsOf hw hin
    omega

/-! ## A mirror's update in the scratchpad (R189) -/

theorem flock?_updFlock {s : State} {fid : Nat} {f : Flock} {g : Flock → Flock} (hg : ∀ x, (g x).fid = x.fid)
    (h : s.flock? fid = some f) : (s.updFlock fid g).flock? fid = some (g f) := by
  have hfid : f.fid = fid := by simpa using List.find?_some h
  have hsame : ((fun k : Flock => decide (k.fid = fid)) ∘ fun k => if k.fid = fid then g k else k) = fun k => decide (k.fid = fid) := by
    funext k
    by_cases hk : k.fid = fid <;> simp [hk, hg]
  simp only [State.flock?] at h
  simp only [State.flock?, State.updFlock, List.find?_map, hsame, h, Option.map_some, if_pos hfid]

theorem linkAt_of_no_waiters {f : Flock} (h : f.waiters = []) (a : Nat) : f.linkAt a = none := by
  simp [Flock.linkAt, h]
theorem scrByte_of_no_waiters {f : Flock} (h : f.waiters = []) (a : Nat) : f.scrByte a = memGet f.scr a := by
  unfold Flock.scrByte; rw [linkAt_of_no_waiters h]

/-- Bytes set one by one, each at its index, are the bytes written. -/
theorem foldl_zipIdx_memSet (off : Nat) : ∀ (bs : List Byte) (k : Nat) (m : Memory),
    (bs.zipIdx k).foldl (fun m x => memSet m (off + x.2) x.1) m = memWrite m (off + k) bs
  | [], _, _ => rfl
  | b :: l, k, m => by
    simp only [List.zipIdx_cons, List.foldl_cons, memWrite]
    exact foldl_zipIdx_memSet off l (k + 1) _

/-- A scratchpad write where no thread waits and no monitor is armed stores its bytes. -/
theorem flock?_scrWrite {s : State} {fid off : Nat} {f : Flock} (bs : List Byte) (h : s.flock? fid = some f)
    (hw : f.waiters = []) (hm : s.mons = []) :
    (s.scrWrite fid off bs).flock? fid = some { f with scr := memWrite f.scr off bs } := by
  unfold State.scrWrite
  rw [fireMonitors_of_no_hit (by simp [hm])]
  refine (flock?_updFlock (by exact fun _ => rfl) h).trans ?_
  have hput := foldl_zipIdx_memSet off bs 0 f.scr
  simp only [linkAt_of_no_waiters hw, Option.isSome_none, Bool.false_eq_true, if_false, hput, Nat.add_zero]
theorem scrWrite_of_no_mons {s : State} (fid off : Nat) (bs : List Byte) (hm : s.mons = []) :
    (s.scrWrite fid off bs).mem = s.mem ∧ (s.scrWrite fid off bs).threads = s.threads := by
  unfold State.scrWrite
  rw [fireMonitors_of_no_hit (by simp [hm])]
  exact ⟨rfl, rfl⟩

theorem wakeSyncs_of_no_sync {s : State} (fid win : Nat) (h : ∀ t ∈ s.threads, ∀ i q, t.wait ≠ some (.mwsync i q)) :
    s.wakeSyncs fid win = s := by
  unfold State.wakeSyncs
  refine List.foldlRecOn (motive := fun u => u = s) _ _ rfl fun u hu t ht => ?_
  dsimp only
  split
  · next i q _ hwait _ => exact absurd hwait (h t ht i q)
  · exact hu

theorem memGet_eq_of_memRead {m : Memory} : ∀ {bs : List Byte} {a : Nat}, memRead m a bs.length = bs →
    ∀ i, i < bs.length → memGet m (a + i) = (bs[i]?).getD 0
  | b :: l, a, h, i, hi => by
    simp only [List.length_cons, memRead, List.cons.injEq] at h
    obtain ⟨hb, hl⟩ := h
    cases i with
    | zero => simpa using hb
    | succ i =>
      have ih := memGet_eq_of_memRead hl i (by simpa using hi)
      rw [show a + 1 + i = a + (i + 1) by omega] at ih
      simpa using ih

/-- A window that has applied the update `v`, with `rest` still to come. -/
def Window.took (w : Window) (v : Update) (rest : List Update) : Window := { w with updates := rest, applied := v.seq }

theorem mirrorUpdate_active {s : State} {fid win : Nat} {w : Window} {v : Update} {rest : List Update}
    (hwin : s.window? fid win = some w) (hst : w.st = .active) (hup : w.updates = v :: rest) :
    s.mirrorUpdate fid win = ((s.updFlock fid fun f => f.setWin win (w.took v rest)).scrWrite fid (w.scr + v.off)
      (v.data.take (w.len - v.off))).wakeSyncs fid win := by
  unfold State.mirrorUpdate
  rw [hwin]
  dsimp only
  split
  · next u r _ hup' =>
    obtain ⟨rfl, rfl⟩ := List.cons.inj (hup.symm.trans hup')
    rfl
  · next hnone => exact absurd hup (hnone v rest hst)

/-- What the next update of an active window does where nothing waits for it: the window counts it, and its bytes are stored in
the scratchpad. -/
theorem mirrorUpdate_stores {s : State} {fid win : Nat} {f : Flock} {w : Window} {v : Update} {rest : List Update}
    (hf : s.flock? fid = some f) (hw : f.wins[win]? = some w) (hst : w.st = .active) (hup : w.updates = v :: rest)
    (hwait : f.waiters = []) (hmons : s.mons = []) (hsync : ∀ t ∈ s.threads, ∀ i q, t.wait ≠ some (.mwsync i q)) :
    (s.mirrorUpdate fid win).flock? fid =
      some { f.setWin win (w.took v rest) with scr := memWrite f.scr (w.scr + v.off) (v.data.take (w.len - v.off)) } ∧
    (s.mirrorUpdate fid win).mem = s.mem := by
  have hwin : s.window? fid win = some w := by simp only [State.window?, hf, hw]
  have hcount : (s.updFlock fid fun f => f.setWin win (w.took v rest)).flock? fid = some (f.setWin win (w.took v rest)) :=
    flock?_updFlock (fun _ => rfl) hf
  obtain ⟨hmem, hthreads⟩ := scrWrite_of_no_mons (s := s.updFlock fid fun f => f.setWin win (w.took v rest)) fid
    (w.scr + v.off) (v.data.take (w.len - v.off)) hmons
  rw [mirrorUpdate_active hwin hst hup, wakeSyncs_of_no_sync fid win (by rw [hthreads]; exact hsync)]
  exact ⟨flock?_scrWrite _ hcount hwait hmons, hmem⟩

/-! ## The obligation -/

/-- Settles O58. A home's transaction writes only the words it takes, so a coherent write reads as before outside them; every
other operation on the way leaves the stores alone or writes bytes in canonical form. -/
theorem storesKeepMemoryCanonical : Obligations.StoresKeepMemoryCanonical := by
  unfold Obligations.StoresKeepMemoryCanonical
  refine ⟨fun m a bs hm => ⟨memWrite_wf bs m a hm, memRead_memWrite bs m a hm, fun b => memGet_memWrite_outside bs m a b⟩,
    mem_ext, fun s w hs => ?pull, fun s ctx pa bs hs => ?coherent,
    fun s fid win f w v rest hf hw hst hup hwait hmons hscr hsync => ?mirror, ⟨rfl, rfl⟩, rfl⟩
  case pull =>
    have hpull := pullWord_homeWrites s w
    exact ⟨hpull.canonical hs, fun b hb => hpull.outside b (by simp only [InWord]; omega)⟩
  case coherent =>
    refine ⟨cohWrite_canonical ctx pa bs hs, fun hrec hmon => ?_⟩
    rw [cohWrite_mem hrec hmon]
    refine ⟨memRead_memWrite bs _ pa (takeWords_canonical _ hs).1, fun b hb => ?_⟩
    rw [memGet_memWrite_outside bs _ pa b (by omega), memGet_takeWords_outside hb]
  case mirror =>
    obtain ⟨hflock, hmem⟩ := mirrorUpdate_stores hf hw hst hup hwait hmons hsync
    have hwf : Memory.wf f.scr = true := hscr f (List.mem_of_find?_eq_some hf)
    refine ⟨_, hflock, memWrite_wf _ _ _ hwf, fun i hi => ?_, fun a ha => ?_, hmem⟩
    · rw [scrByte_of_no_waiters (by exact hwait)]
      exact memGet_eq_of_memRead (memRead_memWrite _ _ _ hwf) i hi
    · rw [scrByte_of_no_waiters (by exact hwait), scrByte_of_no_waiters hwait]
      exact memGet_memWrite_outside _ _ _ _ ha

end Sys2Proof.Machine
end

section
/-! What the platform's events change (R17, R30, R367, R394, R400, R404 to R409): each event's next state, branch by branch. -/
namespace Sys2Proof.Machine
open Host (Outcome)

/-! ## Posting an event leaves the power block and the contexts alone -/

@[simp] theorem State.queueEvent_pw (s : State) (e : EvRec) : (s.queueEvent e).pw = s.pw := by
  unfold State.queueEvent; split <;> rfl
@[simp] theorem State.queueEvent_ctxs (s : State) (e : EvRec) : (s.queueEvent e).ctxs = s.ctxs := by
  unfold State.queueEvent; split <;> rfl
@[simp] theorem State.trigger_pw (s : State) (bit : Nat) : (s.trigger bit).pw = s.pw := by
  unfold State.trigger; split <;> simp
@[simp] theorem State.trigger_ctxs (s : State) (bit : Nat) : (s.trigger bit).ctxs = s.ctxs := by
  unfold State.trigger; split <;> simp
@[simp] theorem State.post_pw (s : State) (kind inst ctx : Nat) (d : List W64) : (s.post kind inst ctx d).pw = s.pw := by
  unfold State.post
  dsimp only
  split
  · split <;> simp
  · simp
@[simp] theorem State.post_ctxs (s : State) (kind inst ctx : Nat) (d : List W64) : (s.post kind inst ctx d).ctxs = s.ctxs := by
  unfold State.post
  dsimp only
  split
  · split <;> simp
  · simp

/-! ## Parking and waking threads leaves the contexts alone -/

@[simp] theorem State.postSub_ctxs (s : State) (b : SubGroup) : (s.postSub b).ctxs = s.ctxs := by
  unfold State.postSub State.pushFault State.pushShep
  dsimp only
  split
  · split <;> rfl
  · simp
@[simp] theorem State.admitSub_ctxs (s : State) (id : Nat) : (s.admitSub id).ctxs = s.ctxs := by
  unfold State.admitSub
  split
  · rfl
  · dsimp only
    split
    · simp
    · split
      · split <;> simp
      · rfl
@[simp] theorem State.settleSub_ctxs (s : State) (id : Nat) : (s.settleSub id).ctxs = s.ctxs := by
  unfold State.settleSub
  split
  · rfl
  · split <;> simp
@[simp] theorem State.parkNow_ctxs (s : State) (gid : Nat) (l : List (LTrap × TrapRec)) (eng : Option Nat) :
    (s.parkNow gid l eng).ctxs = s.ctxs := by
  unfold State.parkNow
  refine List.foldlRecOn (motive := fun u : State => u.ctxs = s.ctxs) _ _ ?_ fun u hu id _ => (u.settleSub_ctxs id).trans hu
  exact List.foldlRecOn (motive := fun acc : State × List Nat => acc.1.ctxs = s.ctxs) l _ rfl fun acc h _ _ => h
@[simp] theorem State.wakeNow_ctxs (s : State) (gid : Nat) (l : List (Nat × List Wr)) : (s.wakeNow gid l).ctxs = s.ctxs := by
  unfold State.wakeNow
  simp only [State.recordRelease_ctxs, State.enset_ctxs]
  split <;> simp
@[simp] theorem State.wake_ctxs (s : State) (gid : Nat) (l : List (Nat × List Wr)) : (s.wake gid l).ctxs = s.ctxs := by
  unfold State.wake
  dsimp only
  split
  · rfl
  · simp

/-! ## A coherent write keeps the contexts' identities

One that finds the record ring full stops its context (R395), so the contexts themselves may change. -/

/-- The contexts that a state lists, by their numbers. -/
def State.ctxIds (s : State) : List Nat := s.ctxs.map Context.id

theorem State.ctxIds_of_ctxs {s u : State} (h : u.ctxs = s.ctxs) : u.ctxIds = s.ctxIds := congrArg (List.map Context.id) h
theorem State.OnlyHomes.ctxIds {s u : State} (h : s.OnlyHomes u) : u.ctxIds = s.ctxIds := by
  obtain ⟨m, l, d, g, rfl⟩ := h; rfl

theorem Context.stop_id (c : Context) : c.stop.id = c.id := by unfold Context.stop; split <;> rfl
theorem State.updCtx_ctxIds (s : State) (id : Nat) {f : Context → Context} (hf : ∀ c, (f c).id = c.id) :
    (s.updCtx id f).ctxIds = s.ctxIds := by
  simp only [State.ctxIds, State.updCtx_ctxs, List.map_map]
  refine List.map_congr_left fun c _ => ?_
  simp only [Function.comp_apply]
  split
  · exact hf c
  · rfl

theorem State.updNewest_ctxIds (s : State) (ctx : Nat) (f : Ckpt → Ckpt) : (s.updNewest ctx f).ctxIds = s.ctxIds := by
  unfold State.updNewest; split <;> rfl
theorem State.ringWrite_ctxIds (s : State) (r : RecCtl) (bs : List Byte) : (s.ringWrite r bs).ctxIds = s.ctxIds := by
  unfold State.ringWrite
  refine List.foldlRecOn (motive := fun u : State => u.ctxIds = s.ctxIds) _ _ rfl fun u hu i _ => ?_
  dsimp only
  split
  · exact (takeWords_homeWrites u _).homes.ctxIds.trans hu
  · exact hu
theorem State.enterRing_ctxIds (s : State) (ctx : Nat) (bs : List Byte) {add : State → State} (hadd : (add s).ctxIds = s.ctxIds) :
    (s.enterRing ctx bs add).ctxIds = s.ctxIds := by
  unfold State.enterRing
  split
  · exact hadd
  · dsimp only
    split
    · split
      · rfl
      · exact (State.ctxIds_of_ctxs (State.post_ctxs _ _ _ _ _)).trans (State.updCtx_ctxIds _ _ Context.stop_id)
    · exact (State.ringWrite_ctxIds _ _ _).trans hadd
theorem State.undoGrains_ctxIds (s : State) (ctx pa n : Nat) : (s.undoGrains ctx pa n).ctxIds = s.ctxIds := by
  unfold State.undoGrains
  split
  · rfl
  · refine List.foldlRecOn (motive := fun u : State => u.ctxIds = s.ctxIds) _ _ rfl fun u hu i _ => ?_
    dsimp only
    split
    · exact hu
    · split
      · exact hu
      · exact (State.enterRing_ctxIds _ _ _ (State.updNewest_ctxIds _ _ _)).trans hu
theorem State.logEvent_ctxIds (s : State) (gid lane : Nat) (kind : Byte) (addr val : W64) (extra : List Byte) :
    (s.logEvent gid lane kind addr val extra).ctxIds = s.ctxIds := by
  unfold State.logEvent
  dsimp only
  split
  · rfl
  · exact State.enterRing_ctxIds _ _ _ (State.updNewest_ctxIds _ _ _)
theorem State.logged_ctxIds (s : State) (gid lane : Nat) (kind : Byte) (addr val : W64) (extra : List Byte) :
    (s.logged gid lane kind addr val extra).2.2.ctxIds = s.ctxIds := by
  unfold State.logged
  extract_lets g
  split
  · exact State.logEvent_ctxIds _ _ _ _ _ _ _
  · split
    · rfl
    · split
      · rfl
      · exact (State.ctxIds_of_ctxs (State.post_ctxs _ _ _ _ _)).trans (State.updCtx_ctxIds _ _ Context.stop_id)
theorem State.fireMonitors_ctxIds (s : State) (fid : Option Nat) (a n : Nat) : (s.fireMonitors fid a n).ctxIds = s.ctxIds := by
  unfold State.fireMonitors
  refine List.foldlRecOn (motive := fun u : State => u.ctxIds = s.ctxIds) _ _ rfl fun u hu m _ => ?_
  dsimp only
  split
  · split
    · split
      · exact (State.ctxIds_of_ctxs (State.wake_ctxs _ _ _)).trans ((State.logged_ctxIds _ _ _ _ _ _ _).trans hu)
      · exact hu
    · exact hu
  · exact hu
theorem State.mirrorWrite_ctxIds (s : State) (pa : Nat) (bs : List Byte) : (s.mirrorWrite pa bs).ctxIds = s.ctxIds := by
  unfold State.mirrorWrite
  refine List.foldlRecOn (motive := fun u : State => u.ctxIds = s.ctxIds) _ _ rfl fun u hu m _ => ?_
  dsimp only
  split <;> exact hu
theorem State.cohWrite_ctxIds (s : State) (ctx pa : Nat) (bs : List Byte) : (s.cohWrite ctx pa bs).ctxIds = s.ctxIds := by
  have htaken := (takeWords_homeWrites s (wordsOf pa bs.length)).homes.ctxIds
  have hundone := State.undoGrains_ctxIds (s.takeWords (wordsOf pa bs.length)) ctx pa bs.length
  exact (State.mirrorWrite_ctxIds _ pa bs).trans ((State.fireMonitors_ctxIds _ none pa bs.length).trans (hundone.trans htaken))
theorem State.followCtx_ctxIds (s : State) (c : Context) : (s.followCtx c).ctxIds = s.ctxIds := by
  unfold State.followCtx
  dsimp only
  split
  · rfl
  · exact State.cohWrite_ctxIds _ _ _ _

/-! ## Boot and reset (R404, R405) -/

theorem boot_of_verifies {s : State} {i : Image} (h : verifies i s.plat.minVersion = true) : s.boot i =
    { s with fw := memWrite [] 0 i.code, plat := { s.plat with image := some i, recovery := false }, fab := { s.fab with mesh := i.mesh } } :=
  if_pos h
theorem boot_of_not_verifies {s : State} {i : Image} (h : verifies i s.plat.minVersion = false) : s.boot i =
    { s with fw := [], plat := { s.plat with image := none, recovery := true } } :=
  if_neg (by simp [h])

/-- Booting touches the firmware, the platform block and the fabric's mode only. -/
theorem boot_cases (s : State) (i : Image) : ∃ fw fab plat, s.boot i = { s with fw := fw, fab := fab, plat := plat } ∧
    plat.minVersion = s.plat.minVersion ∧ plat.image = (if verifies i s.plat.minVersion then some i else none) ∧
    (verifies i s.plat.minVersion = true → fab.mesh = i.mesh) := by
  cases h : verifies i s.plat.minVersion with
  | true => exact ⟨_, _, _, boot_of_verifies h, rfl, rfl, fun _ => rfl⟩
  | false => exact ⟨_, s.fab, _, boot_of_not_verifies h, rfl, rfl, nofun⟩

theorem coldReset_clears (s : State) (i : Image) :
    (s.coldReset i).ctxs = [] ∧ (s.coldReset i).threads = [] ∧ (s.coldReset i).mem = [] ∧ (s.coldReset i).ptime = State.reset.ptime ∧
      (s.coldReset i).plat.minVersion = s.plat.minVersion ∧
      (s.coldReset i).plat.image = (if verifies i s.plat.minVersion then some i else none) ∧
      (verifies i s.plat.minVersion = true → (s.coldReset i).fab.mesh = i.mesh) := by
  unfold State.coldReset
  obtain ⟨fw, fab, plat, hboot, hplat⟩ := boot_cases
    { State.reset with
      agenda := s.agenda, clock := s.clock, free := s.free, nextId := s.nextId,
      plat := { State.reset.plat with minVersion := s.plat.minVersion } } i
  rw [hboot]
  exact ⟨rfl, rfl, rfl, rfl, hplat⟩

theorem warmReset_ctxs_length (s : State) (scrub : Bool) : (s.warmReset scrub).ctxs.length = s.ctxs.length := by
  unfold State.warmReset
  extract_lets f s₁ s₂ s₃
  have hlanded : s₂.ctxIds = s.ctxIds := by
    unfold s₂
    split
    · exact List.foldlRecOn (motive := fun u : State => u.ctxIds = s.ctxIds) _ _ rfl
        fun u hu l _ => (pullWord_homeWrites u l.addr).homes.ctxIds.trans hu
    · rfl
  have hfollowed : s₃.ctxIds = s.ctxIds :=
    List.foldlRecOn (motive := fun u : State => u.ctxIds = s.ctxIds) _ _ hlanded fun u hu c _ => (u.followCtx_ctxIds _).trans hu
  simpa [State.ctxIds] using congrArg List.length hfollowed

theorem warmReset_ctxs_dead {s : State} {scrub : Bool} : ∀ c ∈ (s.warmReset scrub).ctxs, c.st = .dead := by
  intro c hc
  obtain ⟨_, _, rfl⟩ := List.mem_map.mp hc
  rfl
theorem warmReset_ports_down {s : State} {scrub : Bool} : ∀ p ∈ (s.warmReset scrub).fab.ports, p.st = .down := by
  intro p hp
  obtain ⟨_, _, rfl⟩ := Vector.mem_map.mp hp
  rfl
/-- A scrub leaves host memory only: what lies past the 512 GiB of HBM. -/
theorem warmReset_scrubs (s : State) : ∀ c ∈ (s.warmReset true).mem, 2 ^ 39 ≤ c.1 := fun _ hc =>
  of_decide_eq_true (List.mem_filter.mp hc).2

/-! ## Power and temperature (R407) -/

theorem powerCap_of_le {s : State} {now : BitVec 16} (h : now.toNat ≤ s.pw.cap) :
    s.powerCap now = { s with pw := { s.pw with now := now } } := if_neg (Nat.not_lt.mpr h)
theorem powerCap_of_capev {s : State} {now : BitVec 16} (h : s.pw.cap < now.toNat) (hev : s.pw.capev = true) :
    s.powerCap now = { s with pw := { s.pw with now := now, withhold := true, capev := true } } := (if_pos h).trans (if_pos hev)
theorem powerCap_of_not_capev {s : State} {now : BitVec 16} (h : s.pw.cap < now.toNat) (hev : s.pw.capev = false) :
    s.powerCap now = let p := { s.pw with now := now, withhold := true, capev := true }
      { s with pw := p }.post 1 0xFFFF 0 p.data := (if_pos h).trans (if_neg (by simp [State.setPw, hev]))

theorem throttle_of_lt {s : State} {tj : Byte} (h : tj.toNat < 105) : s.throttle tj = { s with pw := { s.pw with tj := tj } } :=
  if_neg (Nat.not_le.mpr h)
theorem throttle_of_thev {s : State} {tj : Byte} (h : 105 ≤ tj.toNat) (hev : s.pw.thev = true) :
    s.throttle tj = { s with pw := { s.pw with tj := tj, withhold := true, thev := true } } := (if_pos h).trans (if_pos hev)
theorem throttle_of_not_thev {s : State} {tj : Byte} (h : 105 ≤ tj.toNat) (hev : s.pw.thev = false) :
    s.throttle tj = let p := { s.pw with tj := tj, withhold := true, thev := true }
      { s with pw := p }.post 2 0xFFFF 0 p.data := (if_pos h).trans (if_neg (by simp [State.setPw, hev]))
theorem throttle_tripped (s : State) (tj : Byte) : (s.throttle tj).pw.tripped = s.pw.tripped := by
  unfold State.throttle
  dsimp only
  split
  · split <;> simp [State.setPw]
  · rfl

theorem trip_of_not {s : State} {tj : Byte} (h : tj.toNat < 120 ∨ s.pw.tripped = true) : s.trip tj = s.throttle tj := by
  refine if_neg ?_
  rw [throttle_tripped]
  rcases h with h | h <;> simp [h]
theorem trip_of_hot {s : State} {tj : Byte} (h : 120 ≤ tj.toNat) (ht : s.pw.tripped = false) :
    s.trip tj = ((s.throttle tj).setPw fun p => { p with tripped := true }).post 7 0xFFFF 0 (s.throttle tj).pw.data :=
  if_pos (by rw [throttle_tripped]; simp [h, ht])

/-- A posted event leaves the power block to be set as before. -/
theorem setPw_post (s : State) (kind inst ctx : Nat) (d : List W64) (f : Power → Power) :
    (s.post kind inst ctx d).setPw f = { s.post kind inst ctx d with pw := f s.pw } := by
  unfold State.setPw; rw [State.post_pw]

/-- Power past its limit withholds issue whether or not it was withheld before. -/
theorem powerCap_lifted_of_over {s : State} {now : BitVec 16} (h : s.pw.cap < now.toNat) :
    (s.setPw fun p => { p with withhold := false }).powerCap now = s.powerCap now :=
  (if_pos h).trans (if_pos h).symm
theorem withholdEnd_of_within {s : State} {now : BitVec 16} (tj : Byte) (h : now.toNat ≤ s.pw.cap) :
    s.withholdEnd now tj = { s with pw := { s.pw with now := now, withhold := false } }.throttle tj :=
  congrArg (State.throttle · tj) (powerCap_of_le (s := s.setPw _) h)
theorem withholdEnd_of_over {s : State} {now : BitVec 16} {tj : Byte} (h : s.pw.cap < now.toNat) (hcool : tj.toNat < 105) :
    s.withholdEnd now tj = (s.powerCap now).setPw fun p => { p with tj := tj } :=
  (congrArg (State.throttle · tj) (powerCap_lifted_of_over h)).trans (throttle_of_lt hcool)

/-- The power block after a write: the limit is set, and a bit that was written clears its event. -/
def Power.written (p : Power) (v : W64) : Power :=
  { p with lim := v.extractLsb' 0 16, capev := p.capev && !v.getLsbD 40, thev := p.thev && !v.getLsbD 41 }

theorem pwSet_of_over {s : State} (v : W64) (h : s.pw.cap < s.pw.now.toNat) : s.pwSet v = { s with pw := s.pw.written v } := if_pos h
theorem pwSet_of_within {s : State} (v : W64) (h : s.pw.now.toNat ≤ s.pw.cap) :
    s.pwSet v = { s with pw := s.pw.written v }.powerCap s.pw.now := if_neg (Nat.not_lt.mpr h)
/-- A write under which the power measured now newly exceeds nothing sets the block only. -/
theorem pwSet_of_not_newly_over {s : State} (v : W64) (h : s.pw.cap < s.pw.now.toNat ∨ s.pw.now.toNat ≤ (s.pw.written v).cap) :
    s.pwSet v = { s with pw := s.pw.written v } := by
  by_cases hover : s.pw.cap < s.pw.now.toNat
  · exact pwSet_of_over v hover
  · exact (pwSet_of_within v (Nat.not_lt.mp hover)).trans (powerCap_of_le (h.resolve_left hover))

/-! ## Snapshots (R400) -/

theorem timeTrigger_of_not_due {s : State}
    (h : s.trig.arm = false ∨ s.trig.time = 0 ∨ s.trig.fired = true ∨ s.ptime.toNat < s.trig.time.toNat) : s.timeTrigger = s := by
  refine if_neg ?_
  rcases h with h | h | h | h <;> simp [h]
theorem timeTrigger_of_due {s : State} (harm : s.trig.arm = true) (hset : s.trig.time ≠ 0) (hfired : s.trig.fired = false)
    (hdue : s.trig.time.toNat ≤ s.ptime.toNat) : s.timeTrigger = { s with trig := { s.trig with fired := true } }.trigger 0 :=
  if_pos (by simpa [harm, hfired, hdue] using hset)
theorem trigger_of_full {s : State} (bit : Nat) (h : s.trig.full = true) : s.trigger bit =
    { s with trig := { s.trig with miss := if s.trig.miss = BitVec.allOnes 32 then s.trig.miss else s.trig.miss + 1 } } := if_pos h
theorem trigger_of_not_full {s : State} (bit : Nat) (h : s.trig.full = false) : s.trigger bit =
    { s with trig := { s.trig with full := true, recs := s.latch, idx := 0 } }.queueEvent
      ⟨6, 0xFFFF, 0, s.ptime, [s.ptime, BitVec.ofNat 64 bit]⟩ := if_neg (by simp [h])

/-- A write of the trigger block's second word sets its fields; the latched snapshot stays until `tg.full` is written (R400). -/
theorem execTgWrite_keeping_latch {s : State} {v : W64} (h : v.getLsbD 9 = false) : execTgWrite true v s =
    .next { s with trig := { s.trig with arm := v.getLsbD 0, src := v.extractLsb' 1 8, miss := v.extractLsb' 32 32 } } := by
  unfold execTgWrite
  rw [if_pos rfl, h]
  rfl
theorem execTgWrite_releasing_latch {s : State} {v : W64} (h : v.getLsbD 9 = true) : execTgWrite true v s =
    .next { s with trig := { s.trig with
      arm := v.getLsbD 0, src := v.extractLsb' 1 8, miss := v.extractLsb' 32 32, full := false, recs := [] } } := by
  unfold execTgWrite
  rw [if_pos rfl, h]
  rfl

/-! ## The event ring (R409) -/

theorem drainEvents_of_blocked {s : State} (h : s.evRoom = false ∨ s.ev.held = []) : ∀ n, State.drainEvents n s = s
  | 0 => rfl
  | n + 1 => by
    unfold State.drainEvents
    split
    · rfl
    · next hheld =>
      have hroom : s.evRoom = false := h.resolve_right (by simp [hheld])
      exact if_pos (by simp [hroom])
theorem drainEvents_succ {s : State} {e : EvRec} {rest : List EvRec} (hroom : s.evRoom = true) (hheld : s.ev.held = e :: rest) (n : Nat) :
    State.drainEvents (n + 1) s = State.drainEvents n { s with
      mem := memWrite s.mem (hostBase + s.ev.base.toNat + 64 * (s.ev.tail.toNat % 2 ^ s.ev.lg)) e.bytes
      ev := { s.ev with held := rest, tail := s.ev.tail + 1, msix := s.ev.msix + 1 } } := by
  rw [State.drainEvents]
  split
  · next hnil => simp [hheld] at hnil
  · next hcons =>
    obtain ⟨rfl, rfl⟩ := List.cons.inj (hheld.symm.trans hcons)
    exact if_neg (by simp [hroom])

/-! ## Checkpoints of the record's own accord (R395) -/

theorem refreshCtx_of_none {s : State} {ctx : Nat} (h : s.ctx? ctx = none) : s.refreshCtx ctx = s := by
  unfold State.refreshCtx; rw [h]

theorem autoCkpt_of_not_due {s u : State} {ctx : Nat} (hu : s.refreshCtx ctx = u)
    (h : (∀ c, u.ctx? ctx = some c → c.st ≠ .live ∨ c.ck = true) ∨ u.recording ctx = false ∨ u.replaying ctx = true ∨
      u.rwcSum ctx < (u.recCtl ctx).next) : s.autoCkpt ctx = u := by
  unfold State.autoCkpt
  rw [hu]
  refine if_neg ?_
  rcases h with h | h | h | h
  · cases hc : u.ctx? ctx with
    | none => simp
    | some c => rcases h c hc with h | h <;> simp [h]
  · simp [h]
  · simp [h]
  · simp [h]
theorem autoCkpt_of_due {s u : State} {ctx : Nat} {c : Context} (hu : s.refreshCtx ctx = u) (hc : u.ctx? ctx = some c)
    (hlive : c.st = .live) (hck : c.ck = false) (hrec : u.recording ctx = true) (hreplay : u.replaying ctx = false)
    (hdue : (u.recCtl ctx).next ≤ u.rwcSum ctx) : s.autoCkpt ctx =
      (u.setRec { u.recCtl ctx with next := (u.rwcSum ctx / 2 ^ 24 + 1) * 2 ^ 24 }).updCtx ctx fun c => { c with ck := true } := by
  unfold State.autoCkpt
  rw [hu]
  exact if_pos (by simp [hc, hlive, hck, hrec, hreplay, hdue])

/-! ## Power gates (R17) -/

theorem gateCore_ungates {s : State} {core : Nat} (h : (s.core core).gated = true) :
    s.gateCore core false = s.updCore core fun c => { c with gated := false } := if_pos h
theorem gateCore_ungated {s : State} {core : Nat} (h : (s.core core).gated = false) : s.gateCore core false = s :=
  if_neg (by simp [h])
theorem gateCore_of_held {s : State} {core : Nat}
    (h : (s.core core).gated = true ∨ (s.core core).pen0.st ≠ .empty ∨ (s.core core).pen1.st ≠ .empty) : s.gateCore core true = s := by
  refine if_pos ?_
  rcases h with h | h | h <;> simp [h]
/-- A core that holds no context and no word of its L1 is gated: no word goes home, its translations are flushed. -/
theorem gateCore_of_idle {s : State} {core : Nat} (hg : (s.core core).gated = false) (h0 : (s.core core).pen0.st = .empty)
    (h1 : (s.core core).pen1.st = .empty) (hl1 : ∀ l ∈ s.l1, l.core ≠ core) : s.gateCore core true =
      { s.updCore core fun c => { c with gated := true } with tlb := s.tlb.filter fun t => t.core ≠ core } := by
  have hown : (s.l1.filter fun l => l.core = core && l.st = .own) = [] :=
    List.filter_eq_nil_iff.mpr fun l hl => by simp [hl1 l hl]
  have hkept : (s.l1.filter fun l => l.core ≠ core) = s.l1 := List.filter_eq_self.mpr fun l hl => by simp [hl1 l hl]
  have hheld : ¬((s.core core).gated || (s.core core).pen0.st ≠ .empty || (s.core core).pen1.st ≠ .empty) = true := by simp [hg, h0, h1]
  unfold State.gateCore
  dsimp only
  rw [if_neg (by simp), if_neg hheld, hown]
  simp only [List.foldl_nil, hkept]
  rw [← State.updCore_l1 s core fun c => { c with gated := true }]

/-! ## Registers that only hold a value (R367) -/

theorem regWrite_of_misaligned {s : State} {off : Nat} (v : W64) (h : off % 8 ≠ 0) : s.regWrite off v = s := if_pos (by simp [h])

@[simp] theorem updPort_port {s : State} {n : Nat} (g : Port → Port) (hn : n < 24) : (s.updPort n g).port n = g (s.port n) := by
  simp [State.updPort, State.port, Fabric.port, Fabric.setPort, hn]

/-- A write of a port's register: its enable bit acts (R373), and its retry count is set. -/
theorem regWrite_port {s : State} {n : Nat} (v : W64) (hi : s.plat.image.isSome = true) (hn : n < 24) :
    s.regWrite (0x900 + 16 * n) v = (s.setEnable n (v.getLsbD 3)).updPort n fun p => { p with retry := v.extractLsb' 16 16 } := by
  have hnone : s.plat.image.isNone = false := by simpa using hi
  have hindex : (0x900 + 16 * n - 0x900) / 16 = n := by omega
  unfold State.regWrite
  dsimp only
  rw [if_neg (by simp only [hnone, Bool.false_or, decide_eq_true_eq]; omega), if_neg (by omega), if_neg (by omega), if_pos (by omega), hindex]
theorem setEnable_port_on {s : State} {n : Nat} (hn : n < 24) : ((s.setEnable n true).port n).en = true ∧
    ((s.setEnable n true).port n).st = if (s.port n).st = .down then .training else (s.port n).st := by
  unfold State.setEnable
  rw [if_pos rfl, updPort_port _ hn]
  split
  · exact ⟨rfl, rfl⟩
  · exact ⟨rfl, rfl⟩
theorem setEnable_port_off {s : State} {n : Nat} (hn : n < 24) :
    ((s.setEnable n false).port n).en = false ∧ ((s.setEnable n false).port n).st = .down := by
  simp [State.setEnable, State.portLost, State.updPort, State.port, Fabric.port, Fabric.setPort, hn]

theorem regWrite_of_image {s : State} (v : W64) (hi : s.plat.image.isSome = true) :
    s.regWrite 0x500 v = { s with ev := { s.ev with base := v } } ∧
    s.regWrite 0x508 v = { s with ev := { s.ev with lg := v.toNat } } ∧
    s.regWrite 0xA80 v = { s with fab := { s.fab with cfg := { s.fab.cfg with sx := v.toNat } } } ∧
    s.regWrite 0xA98 v = { s with fab := { s.fab with cfg := { s.fab.cfg with dev := v.toNat % 4096 } } } ∧
    s.regWrite 0x1000 v = { s with plat := { s.plat with ctxSel := v } } ∧
    s.regWrite 0x1010 v = { s with plat := { s.plat with ctxArg := v } } := by
  have hnone : s.plat.image.isNone = false := by simpa using hi
  simp [State.regWrite, State.fabWrite, hnone]

/-! ## The obligation -/

/-- Settles O54, branch by branch: each event is one operation on the state, and the lemma for the branch says what it makes. -/
theorem platformEvents : Obligations.PlatformEvents := by
  unfold Obligations.PlatformEvents
  intro s v img now tj x capOf cap data to_
  refine ⟨?recoveryClosed, ?recovery, ?cold, ?warm, fun nonce => rfl, ?powerWithin, ?powerOver, ?heat, ?reading, ?limit, rfl, ?trigger,
    rfl, rfl, ?timeNotDue, ?timeDue, rfl, rfl, ?drainBlocked, ?drainOne, ?ckptNone, ?ckpt, ?gateOutside, ?gateWord, ?ungate, ?ungated,
    ?gateHeld, ?gateIdle, ?misaligned, ?registers⟩
  case recoveryClosed => exact fun h => congrArg Outcome.next (if_neg (by simp [h]))
  case recovery =>
    exact fun h => ⟨fun hv => congrArg Outcome.next ((if_pos h).trans (boot_of_verifies hv)),
      fun hv => congrArg Outcome.next ((if_pos h).trans (boot_of_not_verifies hv))⟩
  case cold => exact ⟨s.coldReset img, rfl, coldReset_clears s img⟩
  case warm =>
    refine fun scrub => ⟨s.warmReset scrub, rfl, rfl, rfl, rfl, warmReset_ctxs_length s scrub, warmReset_ctxs_dead, warmReset_ports_down, ?_⟩
    rintro rfl
    exact warmReset_scrubs s
  case powerWithin => exact fun h => congrArg Outcome.next (powerCap_of_le h)
  case powerOver =>
    exact fun h => ⟨fun hev => congrArg Outcome.next (powerCap_of_capev h hev),
      fun hev => congrArg Outcome.next (powerCap_of_not_capev h hev)⟩
  case heat =>
    intro hot p q
    refine ⟨fun h => congrArg Outcome.next (throttle_of_lt h), fun h hev => congrArg Outcome.next (throttle_of_thev h hev),
      fun h hev => congrArg Outcome.next (throttle_of_not_thev h hev), fun h => congrArg Outcome.next (trip_of_not h),
      fun h ht hev => congrArg Outcome.next ?tripPosted, fun h ht hev => congrArg Outcome.next ?tripNew, rfl⟩
    case tripPosted => rw [trip_of_hot h ht, throttle_of_thev (by omega) hev]; rfl
    case tripNew => rw [trip_of_hot h ht, throttle_of_not_thev (by omega) hev, setPw_post, State.post_pw]; rfl
  case reading =>
    intro free held capped
    refine ⟨fun hle hcool => congrArg Outcome.next ((withholdEnd_of_within tj hle).trans (throttle_of_lt hcool)),
      fun hle hhot hev => congrArg Outcome.next ((withholdEnd_of_within tj hle).trans (throttle_of_thev hhot hev)),
      fun hle hhot hev => congrArg Outcome.next ((withholdEnd_of_within tj hle).trans (throttle_of_not_thev hhot hev)),
      fun hlt hcool hev => congrArg Outcome.next ?overPosted, fun hlt hcool hev => congrArg Outcome.next ?overNew⟩
    case overPosted => rw [withholdEnd_of_over hlt hcool, powerCap_of_capev hlt hev]; rfl
    case overNew => rw [withholdEnd_of_over hlt hcool, powerCap_of_not_capev hlt hev, setPw_post]; rfl
  case limit =>
    intro w p
    exact ⟨fun h => congrArg Outcome.next (pwSet_of_not_newly_over v h), fun hle hlt =>
      ⟨fun hev => congrArg Outcome.next ((pwSet_of_within v hle).trans (powerCap_of_capev hlt hev)),
        fun hev => congrArg Outcome.next ((pwSet_of_within v hle).trans (powerCap_of_not_capev hlt hev))⟩⟩
  case trigger => exact ⟨execTgWrite_keeping_latch, execTgWrite_releasing_latch⟩
  case timeNotDue => exact fun h => congrArg Outcome.next (timeTrigger_of_not_due h)
  case timeDue =>
    exact fun harm hset hfired hdue =>
      ⟨fun hfull => congrArg Outcome.next ((timeTrigger_of_due harm hset hfired hdue).trans (trigger_of_full 0 hfull)),
        fun hfull => congrArg Outcome.next ((timeTrigger_of_due harm hset hfired hdue).trans (trigger_of_not_full 0 hfull))⟩
  case drainBlocked => exact fun h => congrArg Outcome.next (drainEvents_of_blocked h _)
  case drainOne =>
    intro e rest hroom hheld
    refine congrArg Outcome.next ?_
    rw [hheld]
    exact drainEvents_succ hroom hheld _
  case ckptNone =>
    exact fun h => congrArg Outcome.next (autoCkpt_of_not_due (refreshCtx_of_none h) (.inl fun c hc => by simp [h] at hc))
  case ckpt =>
    exact ⟨fun h => congrArg Outcome.next (autoCkpt_of_not_due rfl h), fun c hc hlive hck hrec hreplay hdue =>
      congrArg Outcome.next (autoCkpt_of_due rfl hc hlive hck hrec hreplay hdue)⟩
  case gateOutside => exact fun h => congrArg Outcome.next (if_pos h)
  case gateWord => exact fun h => congrArg Outcome.next (if_neg (Nat.not_le.mpr h))
  case ungate => exact gateCore_ungates
  case ungated => exact gateCore_ungated
  case gateHeld => exact gateCore_of_held
  case gateIdle => exact gateCore_of_idle
  case misaligned => exact fun h => congrArg Outcome.next (regWrite_of_misaligned v h)
  case registers =>
    intro hi
    obtain ⟨hbase, hlg, hsx, hdev, hsel, harg⟩ := regWrite_of_image v hi
    refine ⟨congrArg Outcome.next hbase, congrArg Outcome.next hlg, fun n hn => ?port, congrArg Outcome.next hsx,
      congrArg Outcome.next hdev, congrArg Outcome.next hsel, congrArg Outcome.next harg⟩
    case port =>
      refine ⟨_, congrArg Outcome.next (regWrite_port v hi hn), ?_⟩
      rw [updPort_port _ hn]
      cases hen : v.getLsbD 3 with
      | true => exact ⟨rfl, (setEnable_port_on hn).1, nofun, fun _ => (setEnable_port_on hn).2⟩
      | false => exact ⟨rfl, (setEnable_port_off hn).1, fun _ => (setEnable_port_off hn).2, nofun⟩

end Sys2Proof.Machine
end

section
/-! The decoder and the encoder are inverse (R31, R48, R53): what a major's decoder reads encodes to the word that it reads, and an
instruction's word is read back as the instruction. -/
namespace Sys2Proof
open Machine

/-! ## Fields side by side, cut apart again -/

theorem cut_append_18 (a b f : Fld) : (a ++ b ++ f : BitVec 18).extractLsb' 12 6 = a ∧
    (a ++ b ++ f : BitVec 18).extractLsb' 6 6 = b ∧ (a ++ b ++ f : BitVec 18).extractLsb' 0 6 = f :=
  ⟨(BitVec.extractLsb'_append_eq_of_le (by decide)).trans (extract_hi a b),
    (BitVec.extractLsb'_append_eq_of_le (by decide)).trans (extract_lo a b), extract_lo (a ++ b) f⟩
theorem cut_append_24 (d a b f : Fld) : (d ++ a ++ b ++ f : BitVec 24).extractLsb' 18 6 = d ∧
    (d ++ a ++ b ++ f : BitVec 24).extractLsb' 12 6 = a ∧ (d ++ a ++ b ++ f : BitVec 24).extractLsb' 6 6 = b ∧
    (d ++ a ++ b ++ f : BitVec 24).extractLsb' 0 6 = f := by
  obtain ⟨hd, ha, hb⟩ := cut_append_18 d a b
  exact ⟨(BitVec.extractLsb'_append_eq_of_le (by decide)).trans hd, (BitVec.extractLsb'_append_eq_of_le (by decide)).trans ha,
    (BitVec.extractLsb'_append_eq_of_le (by decide)).trans hb, extract_lo (d ++ a ++ b) f⟩
theorem cut_append_20 (o : BitVec 2) (a b f : Fld) : (o ++ a ++ b ++ f : BitVec 20).extractLsb' 18 2 = o ∧
    (o ++ a ++ b ++ f : BitVec 20).extractLsb' 12 6 = a ∧ (o ++ a ++ b ++ f : BitVec 20).extractLsb' 6 6 = b ∧
    (o ++ a ++ b ++ f : BitVec 20).extractLsb' 0 6 = f :=
  ⟨(BitVec.extractLsb'_append_eq_of_le (by decide)).trans ((BitVec.extractLsb'_append_eq_of_le (by decide)).trans (extract_hi o a)),
    (BitVec.extractLsb'_append_eq_of_le (by decide)).trans ((BitVec.extractLsb'_append_eq_of_le (by decide)).trans (extract_lo o a)),
    (BitVec.extractLsb'_append_eq_of_le (by decide)).trans (extract_lo (o ++ a) b), extract_lo (o ++ a ++ b) f⟩
theorem hi_3_6 (x : BitVec 3) (f : Fld) : (x ++ f : BitVec 9).extractLsb' 6 3 = x := extract_hi x f
theorem lo_3_6 (x : BitVec 3) (f : Fld) : (x ++ f : BitVec 9).extractLsb' 0 6 = f := extract_lo x f
theorem hi_1_2 (x : BitVec 1) (y : BitVec 2) : (x ++ y : BitVec 3).extractLsb' 2 1 = x := extract_hi x y
theorem lo_1_2 (x : BitVec 1) (y : BitVec 2) : (x ++ y : BitVec 3).extractLsb' 0 2 = y := extract_lo x y
theorem top_21_3 (x : BitVec 2) (y : BitVec 1) (z : BitVec 3) : (x ++ y ++ z : BitVec 6).extractLsb' 3 3 = x ++ y :=
  extract_hi (x ++ y) z
theorem join_3_1_2 (x : BitVec 6) : x.extractLsb' 3 3 ++ x.extractLsb' 2 1 ++ x.extractLsb' 0 2 = x := by revert x; decide

theorem append_3_3_eq_zero {x y : BitVec 3} : (x ++ y : Fld) = 0 ↔ x = 0 ∧ y = 0 := by revert x y; decide
theorem append_1_5_eq_zero {x : BitVec 1} {y : BitVec 5} : (x ++ y : Fld) = 0 ↔ x = 0 ∧ y = 0 := by revert x y; decide
theorem append_2_1_eq_zero {x : BitVec 2} {y : BitVec 1} : (x ++ y : BitVec 3) = 0 ↔ x = 0 ∧ y = 0 := by revert x y; decide

theorem eq_ofNat_of_toNat_eq {n k : ℕ} {x : BitVec n} (h : x.toNat = k) : x = BitVec.ofNat n k := by
  rw [← h, BitVec.ofNat_toNat, BitVec.setWidth_eq]

/-! ## The decoder of a major -/

/-- The decoder of a major's words (R53). -/
noncomputable def decoderOf (m : Nat) (cs : CS) (d a b f : Fld) : Except Reject Instr :=
  match m with
  | 0x00 => decodeCtl cs d a b f
  | 0x01 => decodeBr cs d a b f
  | 0x02 => decodeJmp cs d a b f
  | 0x03 => decodeCall cs d a b f
  | 0x04 => decodeJx cs d a b f
  | 0x05 => decodeGrp cs d a b f
  | 0x06 => decodeImx cs d a b f
  | 0x07 => decodeMovi cs d a b f
  | 0x08 => decodeI32 cs d a b f
  | 0x09 => decodeI32i cs d a b f
  | 0x0A => decodeI32c cs d a b f
  | 0x0B => decodeMad32 cs d a b f
  | 0x0C => decodeI64 cs d a b f
  | 0x0D => decodeI64c cs d a b f
  | 0x0E => decodeBits cs d a b f
  | 0x0F => decodeSel cs d a b f
  | 0x10 => decodeF32 cs d a b f
  | 0x11 => decodeFma32 cs d a b f
  | 0x12 => decodeF64 cs d a b f
  | 0x13 => decodeFma64 cs d a b f
  | 0x14 => decodeF16x2 cs d a b f
  | 0x15 => decodeFma16x2 cs d a b f
  | 0x16 => decodeFmaBf2 cs d a b f
  | 0x17 => decodeFcmp cs d a b f
  | 0x18 => decodeSfu cs d a b f
  | 0x19 => decodeFfix cs d a b f
  | 0x1A => decodeCvt cs d a b f
  | 0x1B => decodeNcvt cs d a b f
  | 0x20 => decodeLd cs d a b f
  | 0x21 => decodeSt cs d a b f
  | 0x22 => decodeLdg cs d a b f
  | 0x23 => decodeStg cs d a b f
  | 0x24 => decodeAtmi cs d a b f
  | 0x25 => decodeAtmx cs d a b f
  | 0x26 => decodeMsync cs d a b f
  | 0x27 => decodeTag cs d a b f
  | 0x28 => decodeHdl cs d a b f
  | 0x29 => decodeBar cs d a b f
  | 0x2A => decodeSpl cs d a b f
  | 0x2B => decodeSeam cs d a b f
  | 0x2C => decodeTime cs d a b f
  | 0x2D => decodeCpy cs d a b f
  | 0x2E => decodeWaitc cs d a b f
  | 0x2F => decodeColl cs d a b f
  | 0x30 => decodeMma cs d a b f
  | 0x31 => decodeTile cs d a b f
  | 0x32 => decodeFab cs d a b f
  | 0x33 => decodeWork cs d a b f
  | 0x38 => decodeSup cs d a b f
  | 0x39 => decodePage cs d a b f
  | 0x3A => decodeDbg cs d a b f
  | _ => .error .major

theorem decode_eq_decoderOf (w : W32) : decode w = decoderOf (majOf w).toNat (csOf w) (fldD w) (fldA w) (fldB w) (fldF w) := rfl
theorem decode_pack (cs : CS) (m d a b f : Fld) : decode (pack cs m d a b f) = decoderOf m.toNat cs d a b f := by
  simp only [decode_eq_decoderOf, majOf_pack, csOf_pack, fldD_pack, fldA_pack, fldB_pack, fldF_pack]

/-- A decoder that checks a must-be-zero field reads an instruction when the field is zero. -/
theorem guard_eq_ok {p : Prop} [Decidable p] {x i : Instr} {e : Reject} :
    (if p then Except.ok x else .error e) = .ok i ↔ p ∧ x = i := by
  split <;> simp_all

/-! ## What a decoder reads encodes to the word that it reads -/

/-- A decoder is sound for a major: what it reads encodes to the word that it reads. -/
def SoundFor (m : Fld) (dec : CS → Fld → Fld → Fld → Fld → Except Reject Instr) : Prop :=
  ∀ ⦃cs : CS⦄ ⦃d a b f : Fld⦄ ⦃i : Instr⦄, dec cs d a b f = .ok i → encode i = some (pack cs m d a b f)

/-- The majors whose operands are whole fields: each code leaves one instruction, and its checked fields are zero. -/
theorem whole_field_decoders_sound : SoundFor 0x00 decodeCtl ∧ SoundFor 0x04 decodeJx ∧ SoundFor 0x08 decodeI32 ∧ SoundFor 0x0C decodeI64 ∧
    SoundFor 0x0E decodeBits ∧ SoundFor 0x10 decodeF32 ∧ SoundFor 0x12 decodeF64 ∧ SoundFor 0x14 decodeF16x2 ∧ SoundFor 0x18 decodeSfu ∧
    SoundFor 0x19 decodeFfix ∧ SoundFor 0x26 decodeMsync ∧ SoundFor 0x27 decodeTag ∧ SoundFor 0x29 decodeBar ∧ SoundFor 0x2A decodeSpl ∧
    SoundFor 0x2B decodeSeam ∧ SoundFor 0x2C decodeTime ∧ SoundFor 0x2D decodeCpy ∧ SoundFor 0x31 decodeTile ∧ SoundFor 0x32 decodeFab ∧
    SoundFor 0x33 decodeWork ∧ SoundFor 0x38 decodeSup ∧ SoundFor 0x3A decodeDbg := by
  refine ⟨?_, ?_, ?_, ?_, ?_, ?_, ?_, ?_, ?_, ?_, ?_, ?_, ?_, ?_, ?_, ?_, ?_, ?_, ?_, ?_, ?_, ?_⟩
  all_goals
    intro cs d a b f i h
    delta decodeCtl decodeJx decodeI32 decodeI64 decodeBits decodeF32 decodeF64 decodeF16x2 decodeSfu decodeFfix decodeMsync
      decodeTag decodeBar decodeSpl decodeSeam decodeTime decodeCpy decodeTile decodeFab decodeWork decodeSup decodeDbg at h
    split at h
  all_goals simp only [guard_eq_ok, Except.ok.injEq, reduceCtorEq] at h
  all_goals
    next hk =>
    obtain rfl := eq_ofNat_of_toNat_eq hk
    repeat casesm _ ∧ _
    subst_vars
    rfl

/-- The code of fqpop stands in a second field. -/
theorem decodePage_sound : SoundFor 0x39 decodePage := by
  intro cs d a b f i h
  unfold decodePage at h
  split at h
  case h_6 hk =>
    obtain rfl := eq_ofNat_of_toNat_eq hk
    split at h
    · next hg => obtain ⟨rfl, rfl⟩ := hg; cases h; rfl
    · obtain ⟨⟨rfl, rfl⟩, rfl⟩ := guard_eq_ok.mp h; rfl
  all_goals cases h
  all_goals
    next hk =>
    obtain rfl := eq_ofNat_of_toNat_eq hk
    rfl

/-- The majors with a field of several parts, each part a variable of its own. -/
theorem split_field_decoders_sound (cs : CS) (i : Instr) :
    (∀ {x y z w : BitVec 3} {b f}, decodeGrp cs (x ++ y) (z ++ w) b f = .ok i → encode i = some (pack cs 0x05 (x ++ y) (z ++ w) b f)) ∧
    (∀ {x y : BitVec 3} {a b f}, decodeI32c cs (x ++ y) a b f = .ok i → encode i = some (pack cs 0x0A (x ++ y) a b f)) ∧
    (∀ {x y : BitVec 3} {a b f}, decodeI64c cs (x ++ y) a b f = .ok i → encode i = some (pack cs 0x0D (x ++ y) a b f)) ∧
    (∀ {d a b} {x : BitVec 2} {y : BitVec 1} {z : BitVec 3}, decodeSel cs d a b (x ++ y ++ z) = .ok i →
      encode i = some (pack cs 0x0F d a b (x ++ y ++ z))) ∧
    (∀ {x y : BitVec 3} {a b} {z : BitVec 2} {w : BitVec 4}, decodeFcmp cs (x ++ y) a b (z ++ w) = .ok i →
      encode i = some (pack cs 0x17 (x ++ y) a b (z ++ w))) ∧
    (∀ {d a} {x : BitVec 2} {y : BitVec 1} {z : BitVec 3} {f}, decodeCvt cs d a (x ++ y ++ z) f = .ok i →
      encode i = some (pack cs 0x1A d a (x ++ y ++ z) f)) ∧
    (∀ {d a b} {x y : BitVec 3}, decodeNcvt cs d a b (x ++ y) = .ok i → encode i = some (pack cs 0x1B d a b (x ++ y))) ∧
    (∀ {d a b} {x : BitVec 4} {y : BitVec 2}, decodeAtmi cs d a b (x ++ y) = .ok i → encode i = some (pack cs 0x24 d a b (x ++ y))) ∧
    (∀ {d a b} {x : BitVec 4} {y : BitVec 2}, decodeAtmx cs d a b (x ++ y) = .ok i → encode i = some (pack cs 0x25 d a b (x ++ y))) ∧
    (∀ {x : BitVec 1} {y : BitVec 5} {z : BitVec 1} {w : BitVec 5} {b f}, decodeHdl cs (x ++ y) (z ++ w) b f = .ok i →
      encode i = some (pack cs 0x28 (x ++ y) (z ++ w) b f)) ∧
    (∀ {d a b} {x : BitVec 2} {y : BitVec 4}, decodeColl cs d a b (x ++ y) = .ok i → encode i = some (pack cs 0x2F d a b (x ++ y))) ∧
    (∀ {x : BitVec 4} {y : BitVec 2} {a} {z : BitVec 3} {w : BitVec 1} {u : BitVec 2} {v : BitVec 4} {t : BitVec 2},
      decodeMma cs (x ++ y) a (z ++ w ++ u) (v ++ t) = .ok i → encode i = some (pack cs 0x30 (x ++ y) a (z ++ w ++ u) (v ++ t))) := by
  refine ⟨?_, ?_, ?_, ?_, ?_, ?_, ?_, ?_, ?_, ?_, ?_, ?_⟩
  all_goals
    intros
    rename_i h
    delta decodeGrp decodeI32c decodeI64c decodeSel decodeFcmp decodeCvt decodeNcvt decodeAtmi decodeAtmx decodeHdl decodeColl
      decodeMma at h
    simp only [hi_3_3, lo_3_3, top_2_1_3, mid_2_1_3, low_2_1_3, hi_2_4, lo_2_4, hi_4_2, lo_4_2, hi_1_5, lo_1_5, top_3_1_2, mid_3_1_2,
      low_3_1_2, top_21_3] at h
    split at h
  all_goals simp only [guard_eq_ok, append_3_3_eq_zero, append_1_5_eq_zero, append_2_1_eq_zero, Except.ok.injEq, reduceCtorEq] at h
  all_goals
    next hk =>
    obtain rfl := eq_ofNat_of_toNat_eq hk
    repeat casesm _ ∧ _
    subst_vars
    rfl

theorem immediate_decoders_sound : SoundFor 0x01 decodeBr ∧ SoundFor 0x02 decodeJmp ∧ SoundFor 0x03 decodeCall ∧ SoundFor 0x06 decodeImx ∧
    SoundFor 0x07 decodeMovi := by
  refine ⟨?_, ?_, ?_, ?_, ?_⟩ <;> intro cs d a b f i h
  · cases h
    obtain ⟨ho, ha, hb, hf⟩ := cut_append_20 (d.extractLsb' 0 2) a b f
    exact congrArg some (by rw [ho, ha, hb, hf, join_1_3_2])
  · cases h
    obtain ⟨hd, ha, hb, hf⟩ := cut_append_24 d a b f
    exact congrArg some (by rw [hd, ha, hb, hf])
  · cases h
    obtain ⟨hd, ha, hb, hf⟩ := cut_append_24 d a b f
    exact congrArg some (by rw [hd, ha, hb, hf])
  · obtain ⟨hc, rfl⟩ := guard_eq_ok.mp h
    obtain ⟨hd, ha, hb, hf⟩ := cut_append_24 d a b f
    exact congrArg some (by rw [hd, ha, hb, hf])
  · cases h
    obtain ⟨ha, hb, hf⟩ := cut_append_18 a b f
    exact congrArg some (by rw [ha, hb, hf])

theorem access_decoders_sound : SoundFor 0x20 decodeLd ∧ SoundFor 0x21 decodeSt ∧ SoundFor 0x22 decodeLdg ∧ SoundFor 0x23 decodeStg := by
  refine ⟨?_, ?_, ?_, ?_⟩
  all_goals
    intro cs d a b f i h
    cases h
    exact congrArg some (by rw [hi_1_2, lo_1_2, join_5_1, join_2_2_2])

theorem decodeWaitc_sound : SoundFor 0x2E decodeWaitc := by
  intro cs d a b f i h
  obtain ⟨⟨rfl, rfl, hf⟩, rfl⟩ := guard_eq_ok.mp h
  have hjoin : 0#4 ++ f.extractLsb' 0 2 = f := (congrArg (· ++ f.extractLsb' 0 2) hf).symm.trans (join_4_2 f)
  exact congrArg some (by rw [hjoin]; rfl)

theorem decodeI32i_sound : SoundFor 0x09 decodeI32i := by
  intro cs d a b f i h
  obtain ⟨x, y, rfl⟩ : ∃ x y : BitVec 3, b = x ++ y := ⟨_, _, (join_3_3 b).symm⟩
  simp only [decodeI32i, hi_3_3, lo_3_3] at h
  split at h
  all_goals cases h
  all_goals
    next hk =>
    obtain rfl := eq_ofNat_of_toNat_eq hk
    exact congrArg some (by rw [hi_3_6, lo_3_6])

/-- Every major's decoder is sound. -/
theorem decoderOf_sound (m : Fld) : SoundFor m (decoderOf m.toNat) := by
  intro cs d a b f i h
  obtain ⟨ctl, jx, i32, i64, bits, f32, f64, f16x2, sfu, ffix, msync, tag, bar, spl, seam, time, cpy, tile, fab, work, sup, dbg⟩ :=
    whole_field_decoders_sound
  obtain ⟨grp, i32c, i64c, sel, fcmp, cvt, ncvt, atmi, atmx, hdl, coll, mma⟩ := split_field_decoders_sound cs i
  obtain ⟨br, jmp, call, imx, movi⟩ := immediate_decoders_sound
  obtain ⟨ld, st, ldg, stg⟩ := access_decoders_sound
  unfold decoderOf at h
  split at h
  case h_52 => cases h
  all_goals
    rename_i hm
    rw [eq_ofNat_of_toNat_eq hm]
  · exact ctl h
  · exact br h
  · exact jmp h
  · exact call h
  · exact jx h
  · rw [← join_3_3 d, ← join_3_3 a] at h ⊢; exact grp h
  · exact imx h
  · exact movi h
  · exact i32 h
  · exact decodeI32i_sound h
  · rw [← join_3_3 d] at h ⊢; exact i32c h
  · cases h; rfl
  · exact i64 h
  · rw [← join_3_3 d] at h ⊢; exact i64c h
  · exact bits h
  · rw [← join_2_1_3 f] at h ⊢; exact sel h
  · exact f32 h
  · cases h; rfl
  · exact f64 h
  · cases h; rfl
  · exact f16x2 h
  · cases h; rfl
  · cases h; rfl
  · rw [← join_3_3 d, ← join_2_4 f] at h ⊢; exact fcmp h
  · exact sfu h
  · exact ffix h
  · rw [← join_2_1_3 b] at h ⊢; exact cvt h
  · rw [← join_3_3 f] at h ⊢; exact ncvt h
  · exact ld h
  · exact st h
  · exact ldg h
  · exact stg h
  · rw [← join_4_2 f] at h ⊢; exact atmi h
  · rw [← join_4_2 f] at h ⊢; exact atmx h
  · exact msync h
  · exact tag h
  · rw [← join_1_5 d, ← join_1_5 a] at h ⊢; exact hdl h
  · exact bar h
  · exact spl h
  · exact seam h
  · exact time h
  · exact cpy h
  · exact decodeWaitc_sound h
  · rw [← join_2_4 f] at h ⊢; exact coll h
  · rw [← join_4_2 d, ← join_3_1_2 b, ← join_4_2 f] at h ⊢; exact mma h
  · exact tile h
  · exact fab h
  · exact work h
  · exact sup h
  · exact decodePage_sound h
  · exact dbg h

/-- A word that decodes to an instruction is the instruction's word. -/
theorem encode_of_decode {i : Instr} {w : W32} (h : decode w = .ok i) : encode i = some w := by
  rw [← pack_fields w]
  exact decoderOf_sound _ h

/-! ## An instruction's word decodes to the instruction

The majors whose words split a field or hold an immediate cut it apart, so their decoders are named here; the others read whole
fields, which the decoder of the major gives back by computation. -/

theorem decode_imx (cs : CS) (d a b f : Fld) : decode (pack cs 0x06 d a b f) = decodeImx cs d a b f := decode_pack ..
theorem decode_br (cs : CS) (d a b f : Fld) : decode (pack cs 0x01 d a b f) = decodeBr cs d a b f := decode_pack ..
theorem decode_jmp (cs : CS) (d a b f : Fld) : decode (pack cs 0x02 d a b f) = decodeJmp cs d a b f := decode_pack ..
theorem decode_call (cs : CS) (d a b f : Fld) : decode (pack cs 0x03 d a b f) = decodeCall cs d a b f := decode_pack ..
theorem decode_grp (cs : CS) (d a b f : Fld) : decode (pack cs 0x05 d a b f) = decodeGrp cs d a b f := decode_pack ..
theorem decode_movi (cs : CS) (d a b f : Fld) : decode (pack cs 0x07 d a b f) = decodeMovi cs d a b f := decode_pack ..
theorem decode_i32i (cs : CS) (d a b f : Fld) : decode (pack cs 0x09 d a b f) = decodeI32i cs d a b f := decode_pack ..
theorem decode_i32c (cs : CS) (d a b f : Fld) : decode (pack cs 0x0A d a b f) = decodeI32c cs d a b f := decode_pack ..
theorem decode_i64c (cs : CS) (d a b f : Fld) : decode (pack cs 0x0D d a b f) = decodeI64c cs d a b f := decode_pack ..
theorem decode_sel (cs : CS) (d a b f : Fld) : decode (pack cs 0x0F d a b f) = decodeSel cs d a b f := decode_pack ..
theorem decode_fcmp (cs : CS) (d a b f : Fld) : decode (pack cs 0x17 d a b f) = decodeFcmp cs d a b f := decode_pack ..
theorem decode_cvt (cs : CS) (d a b f : Fld) : decode (pack cs 0x1A d a b f) = decodeCvt cs d a b f := decode_pack ..
theorem decode_ncvt (cs : CS) (d a b f : Fld) : decode (pack cs 0x1B d a b f) = decodeNcvt cs d a b f := decode_pack ..
theorem decode_ld (cs : CS) (d a b f : Fld) : decode (pack cs 0x20 d a b f) = decodeLd cs d a b f := decode_pack ..
theorem decode_st (cs : CS) (d a b f : Fld) : decode (pack cs 0x21 d a b f) = decodeSt cs d a b f := decode_pack ..
theorem decode_ldg (cs : CS) (d a b f : Fld) : decode (pack cs 0x22 d a b f) = decodeLdg cs d a b f := decode_pack ..
theorem decode_stg (cs : CS) (d a b f : Fld) : decode (pack cs 0x23 d a b f) = decodeStg cs d a b f := decode_pack ..
theorem decode_atmi (cs : CS) (d a b f : Fld) : decode (pack cs 0x24 d a b f) = decodeAtmi cs d a b f := decode_pack ..
theorem decode_atmx (cs : CS) (d a b f : Fld) : decode (pack cs 0x25 d a b f) = decodeAtmx cs d a b f := decode_pack ..
theorem decode_hdl (cs : CS) (d a b f : Fld) : decode (pack cs 0x28 d a b f) = decodeHdl cs d a b f := decode_pack ..
theorem decode_waitc (cs : CS) (d a b f : Fld) : decode (pack cs 0x2E d a b f) = decodeWaitc cs d a b f := decode_pack ..
theorem decode_coll (cs : CS) (d a b f : Fld) : decode (pack cs 0x2F d a b f) = decodeColl cs d a b f := decode_pack ..
theorem decode_mma (cs : CS) (d a b f : Fld) : decode (pack cs 0x30 d a b f) = decodeMma cs d a b f := decode_pack ..

/-- The word of an `imx` decodes only with its C bit set (R50, R52), which is the hypothesis. -/
theorem decode_of_encode {i : Instr} {w : W32} (hp : prefixOk i = true) (h : encode i = some w) : decode w = .ok i := by
  cases i
  case imx cs i =>
    cases h
    simp only [prefixOk] at hp
    rw [decode_imx, decodeImx, if_pos hp, cut_24]
  case br =>
    cases h; rw [decode_br, decodeBr, top_1_3_2, mid_1_3_2, low_1_3_2, cut_20]
  case jmp =>
    cases h; rw [decode_jmp, decodeJmp, cut_24]
  case call =>
    cases h; rw [decode_call, decodeCall, cut_24]
  case pollOr | pollAnd | pollSame =>
    cases h; rw [decode_grp, decodeGrp, hi_3_3, lo_3_3, hi_3_3, lo_3_3]; rfl
  case gmask =>
    cases h; rw [decode_grp, decodeGrp, hi_3_3, lo_3_3]; rfl
  case movi =>
    cases h; rw [decode_movi, decodeMovi, cut_18]
  case addi | andi | ori | xori | shli | shri | sari | muli =>
    cases h; rw [decode_i32i, decodeI32i, hi_3_3, lo_3_3, cut_9]; rfl
  case cmpEqI32 | cmpNeI32 | cmpLtI32 | cmpLeI32 | cmpGtI32 | cmpGeI32 | cmpLtN32 | cmpLeN32 | cmpGtN32 | cmpGeN32 =>
    cases h; rw [decode_i32c, decodeI32c, hi_3_3, lo_3_3]; rfl
  case cmpEqI64 | cmpNeI64 | cmpLtI64 | cmpLeI64 | cmpGtI64 | cmpGeI64 | cmpLtN64 | cmpLeN64 | cmpGtN64 | cmpGeN64 =>
    cases h; rw [decode_i64c, decodeI64c, hi_3_3, lo_3_3]; rfl
  case sel | selI64 =>
    cases h; rw [decode_sel, decodeSel, top_2_1_3, mid_2_1_3, low_2_1_3]; rfl
  case fcmpF32 | fcmpF64 =>
    cases h; rw [decode_fcmp, decodeFcmp, hi_3_3, lo_3_3, hi_2_4, lo_2_4]; rfl
  case cvtF32F64 | cvtF64F32 | cvtF16F32 | cvtF32F16 | cvtBf16F32 | cvtF32Bf16 | cvtF16x2F32 | cvtBf16x2F32 | cvtF32I32 |
      cvtF32N32 | cvtI32F32 | cvtN32F32 | cvtF64I64 | cvtF64N64 | cvtI64F64 | cvtN64F64 | cvtF64I32 | cvtF64N32 | cvtI32F64 |
      cvtN32F64 | cvtF32I64 | cvtF32N64 | cvtI64F32 | cvtN64F32 | cvtI64I32 | cvtN64N32 | cvtSatI32I64 | cvtSatN32N64 |
      cvtF64Td8 | cvtF32Td8 =>
    cases h; rw [decode_cvt, decodeCvt, hi_3_3, lo_3_3]; rfl
  case cvtTd8F64 | cvtTd8F32 =>
    cases h; rw [decode_cvt, decodeCvt, top_2_1_3, mid_2_1_3, low_2_1_3]; rfl
  case npk | npkSat | nupk | nscl =>
    cases h; rw [decode_ncvt, decodeNcvt, hi_3_3, lo_3_3]; rfl
  case ld =>
    cases h; rw [decode_ld, decodeLd, hi_5_1, lo_5_1, top_2_2_2, mid_2_2_2, low_2_2_2, cut_3]
  case st =>
    cases h; rw [decode_st, decodeSt, hi_5_1, lo_5_1, top_2_2_2, mid_2_2_2, low_2_2_2, cut_3]
  case ldg =>
    cases h; rw [decode_ldg, decodeLdg, hi_5_1, lo_5_1, top_2_2_2, mid_2_2_2, low_2_2_2, cut_3]
  case stg =>
    cases h; rw [decode_stg, decodeStg, hi_5_1, lo_5_1, top_2_2_2, mid_2_2_2, low_2_2_2, cut_3]
  case atomAddN32 | atomAndB32 | atomOrB32 | atomXorB32 | atomMinI32 | atomMaxI32 | atomMinN32 | atomMaxN32 | atomAddN64 |
      atomAndB64 | atomOrB64 | atomXorB64 | atomMinI64 | atomMaxI64 | atomMinN64 | atomMaxN64 =>
    cases h; rw [decode_atmi, decodeAtmi, hi_4_2, lo_4_2]; rfl
  case atomXchgB32 | atomCasB32 | atomXchgB64 | atomCasB64 | atomAddF32 | atomMinF32 | atomMaxF32 | atomAddF64 | atomMinF64 |
      atomMaxF64 | atomAddF16x2 | atomAddBf16x2 =>
    cases h; rw [decode_atmx, decodeAtmx, hi_4_2, lo_4_2]; rfl
  case hsel | hget =>
    cases h; rw [decode_hdl, decodeHdl, hi_1_5, lo_1_5]; rfl
  case waitc =>
    cases h; rw [decode_waitc, decodeWaitc, hi_4_2, lo_4_2]; rfl
  case collBcast | collRedAddF32 | collRedAddF64 | collRedAddI32 | collRedAddI64 | collRedMinF32 | collRedMaxF32 |
      collRedMinF64 | collRedMaxF64 | collRedMinI64 | collRedMaxI64 | collRedMinN64 | collRedMaxN64 =>
    cases h; rw [decode_coll, decodeColl, hi_2_4, lo_2_4]; rfl
  case mmaPt | mmaMinp | mmaMaxp | mmaMaxt | mmaOrand =>
    cases h; rw [decode_mma, decodeMma, hi_4_2, lo_4_2, hi_4_2, lo_4_2, top_3_1_2, mid_3_1_2, low_3_1_2]; rfl
  all_goals cases h
  all_goals exact decode_pack ..

/-- Settles O55: each side's lemma says it, and the third part follows as both instructions are what the word decodes to. -/
theorem decodeEncode : Obligations.DecodeEncode := by
  unfold Obligations.DecodeEncode
  have hinv : ∀ (i : Instr) (w : W32), wf i = true → encode i = some w → decode w = .ok i := fun i w hwf =>
    decode_of_encode (by simp only [wf, Bool.and_eq_true] at hwf; exact hwf.1.1)
  exact ⟨hinv, fun _ _ => encode_of_decode, fun i j w hi hj hwi hwj =>
    Except.ok.inj ((hinv i w hi hwi).symm.trans (hinv j w hj hwj))⟩

end Sys2Proof
end

section
/-! Privileged forms (R54): each is `priv` of what it does, and a chain is examined to the first of its privileged words. -/
namespace Sys2Proof.Machine

theorem Group.priv_eq_false {g : Group} (hsys : g.sys = false) (hshep : g.shep = false) : g.priv = false := by
  simp [Group.priv, hsys, hshep]

theorem execRds_of_priv {k : BitVec 6} (hpriv : selPriv k = true) (hk : selAssigned k = true) (cs : CS) (d : BitVec 6) (s : State) :
    exec (.rds cs d k) s = priv s fun s => rdsWord s d k := by
  change execRds cs d k s = _
  simp [execRds, hpriv, hk]
theorem execWrs_of_priv {k : BitVec 6} (hpriv : selPriv k = true) (hk : selAssigned k = true) (hw : selWritable k = true)
    (cs : CS) (a : BitVec 6) (s : State) : exec (.wrs cs a k) s = priv s fun s => wrsWord s a k := by
  change execWrs cs a k s = _
  simp [execWrs, hpriv, hk, hw]

/-- A chain that keeps R36, in a group that is not privileged, is examined to the first privileged word. -/
theorem chainTrap_of_findIdx? {n i : Nat} {ws : List W32} {slot : BitVec 2} (hok : badChain ws slot = false)
    (hi : ws.findIdx? privWord = some i) : chainTrap false n ws slot = some (0x02, i) := by
  simp [chainTrap, hok, hi]

/-- Settles O21. Every privileged form is `priv` of its meaning, which refuses the group before anything else; a chain's first
privileged word is the one that the examination finds. -/
theorem privilegedForms : Obligations.PrivilegedForms := by
  unfold Obligations.PrivilegedForms
  refine ⟨fun s iss h hsys hshep cs a b r k => ?forms, fun n ws slot hok hany => ?chain⟩
  case forms =>
    have refused : ∀ f, priv s f = .next (s.decodeTrap 0x02) := fun f => priv_refused s iss f h (Group.priv_eq_false hsys hshep)
    exact ⟨show execHnew cs a b s = _ from refused _, show execHrev cs a s = _ from refused _,
      show execRepl cs a b s = _ from refused _, show execSigdl cs a b r s = _ from refused _,
      show execPenx cs a b s = _ from refused _, show execSwp cs a b r s = _ from refused _,
      show execKill cs a b r s = _ from refused _, show execKterm cs a b r s = _ from refused _,
      show execTlbinv cs a b r s = _ from refused _, show execSdn cs a b r s = _ from refused _,
      show execPin cs a b k s = _ from refused _, show execUnpin cs a b k s = _ from refused _,
      show execMigr cs a b k s = _ from refused _, show execFqpop cs a s = _ from refused _,
      show execFqpopTry cs a s = _ from refused _, show execFqdone cs a b k s = _ from refused _,
      show execStep cs a b s = _ from refused _, show execSnap cs a b s = _ from refused _,
      show execCkpt cs a b r s = _ from refused _, show execIret cs s = _ from refused _,
      fun hp hk => (execRds_of_priv hp hk cs a s).trans (refused _),
      fun hp hk hw => (execWrs_of_priv hp hk hw cs a s).trans (refused _)⟩
  case chain =>
    obtain ⟨i, hi⟩ := Option.isSome_iff_exists.mp ((List.findIdx?_isSome (p := privWord)).trans hany)
    obtain ⟨hlt, hat, hbefore⟩ := List.findIdx?_eq_some_iff_getElem.mp hi
    refine ⟨i, chainTrap_of_findIdx? hok hi, ?_, fun j hj => ?_⟩
    · simpa [List.getElem?_eq_getElem hlt] using hat
    · simpa [List.getElem?_eq_getElem (hj.trans hlt)] using hbefore j hj

end Sys2Proof.Machine
end

section
/-! A result's last part and its return (R40, R152): the arrival of the bytes, the writing of a known result, and what a thread in
SWITCH does after its last one. -/
namespace Sys2Proof.Machine
open Host (Outcome)

/-! ## The last part of a result arrives -/

theorem partsLen_one (bs : List Byte) : partsLen [(0, bs)] = bs.length := by simp [partsLen]
/-- One part at offset 0 is the whole value. -/
theorem joinParts_one (bs : List Byte) : joinParts bs.length [(0, bs)] = bs := by
  refine List.ext_getElem (by simp [joinParts]) fun i hi _ => ?_
  have hi : i < bs.length := by simpa [joinParts] using hi
  simp [joinParts, hi]

/-- A chain that was not stepped, of a lane whose access was held, has no trap to take. -/
theorem stepHeld_of_not_stepped {s : State} {gid lane : Nat} {t : Thread} (ht : s.thread? gid lane = some t)
    (hstep : t.stepped = false) : s.stepHeld gid lane = s := by
  simp [State.stepHeld, ht, hstep]

/-- A load's result, once its only part has come. -/
def Result.arrived (r : Result) (d : BitVec 6) (bs : List Byte) (e : BitVec 5) : Result :=
  { r with parts := [(0, bs)], need := 0, flags := r.flags ||| e, writes := loadWrites d bs }
/-- A thread whose result the value `r` replaces; a remote access holds it no longer. -/
def Thread.receive (t : Thread) (r : Result) : Thread :=
  { t with outst := t.outst.map fun y => if y.id = r.id then r else y, hold := if r.rem then false else t.hold }

/-- The last part of a load that is no acquire: the thread receives the value, and a remote access that was held steps. -/
theorem feed_last {s : State} {t : Thread} {gid lane : Nat} {r : Result} {d : BitVec 6} (bs : List Byte) (e : BitVec 5) (x : Nat)
    (ht : s.thread? gid lane = some t) (hr : (t.outst.find? fun y => y.id = r.id) = some r) (hneed : r.need = 1)
    (hparts : r.parts = []) (hacq : r.acq = false) (hd : firstG r.dests = some d) :
    s.feed gid lane r.id 0 bs e x =
      if r.rem then (s.updT gid lane fun y => y.receive (r.arrived d bs e)).stepHeld gid lane
      else s.updT gid lane fun y => y.receive (r.arrived d bs e) := by
  unfold State.feed
  simp only [ht, hr, hneed, hparts, hacq, hd, List.nil_append, partsLen_one, joinParts_one, Nat.sub_self, ne_eq, not_true_eq_false,
    if_false, Bool.false_and, Bool.false_or, Bool.false_eq_true, Thread.receive, Result.arrived]

/-- Settles O29. -/
theorem resultArrival : Obligations.ResultArrival := by
  intro s t gid lane r d bs e x ht hr hneed hparts hacq hrem hd v u
  have hv : (s.updT gid lane fun y => y.receive (r.arrived d bs e)).thread? gid lane = some v :=
    Laws.thread_updT s gid lane _ t (fun _ => ⟨rfl, rfl⟩) ht
  have hu : u = s.updT gid lane fun y => y.receive (r.arrived d bs e) := by
    refine (feed_last bs e x ht hr hneed hparts hacq hd).trans ?_
    split
    · next h => exact stepHeld_of_not_stepped hv (hrem h)
    · rfl
  rw [hu]
  exact ⟨hv, fun k l hkl => Laws.thread_updT_other s gid lane k l _ (fun _ => ⟨rfl, rfl⟩) hkl, rfl, rfl, rfl, rfl⟩

/-! ## A known result returns -/

theorem Thread.land_gid_lane (t : Thread) (r : Result) : (t.land r).gid = t.gid ∧ (t.land r).lane = t.lane := by
  unfold Thread.land Thread.collected
  split <;> exact ⟨rfl, rfl⟩

/-- The thread after one of its results is written; the last one ends the collection of a pen that was switched out (R343). -/
theorem Thread.land_eq (t : Thread) (r : Result) :
    t.land r =
      let w := { t with regs := t.regs.writes r.writes, fpstat := t.fpstat ||| r.flags.setWidth 32,
                        outst := t.outst.filter fun y => y.id ≠ r.id }
      if t.coll = true ∧ w.outst = [] then { w with pend := [], coll := false } else w := by
  unfold Thread.land Thread.collected
  simp only [Thread.put, Bool.and_eq_true, List.isEmpty_iff]

theorem returnResult_of_stays {s : State} {t : Thread} {gid lane : Nat} {r : Result} (ht : s.thread? gid lane = some t)
    (hr : (t.outst.find? fun y => y.id = r.id && decide (y.need = 0)) = some r)
    (h : t.st ≠ .switch ∨ (t.land r).outst ≠ [] ∨ t.wait = some .fence) :
    s.returnResult gid lane r.id = s.updT gid lane fun y => y.land r := by
  unfold State.returnResult
  simp only [ht, hr]
  rw [if_pos h]

/-- The last result of a thread in SWITCH that neither exits nor stands in a collecting sub-group. -/
theorem returnResult_of_last {s : State} {t : Thread} {gid lane : Nat} {r : Result} (ht : s.thread? gid lane = some t)
    (hr : (t.outst.find? fun y => y.id = r.id && decide (y.need = 0)) = some r) (hst : t.st = .switch)
    (hlast : (t.land r).outst = []) (hwait : t.wait ≠ some .fence) (hexit : t.exiting = false)
    (hsubs : ∀ b ∈ s.subs, b.collecting = true → t.inMask b.gid b.lanes = false) :
    s.returnResult gid lane r.id =
      (s.updT gid lane fun y => y.land r).updT gid lane fun y => { y with st := .ready, pend := [] } := by
  have hnone : (s.subs.find? fun b => b.collecting && t.inMask b.gid b.lanes) = none := by
    refine List.find?_eq_none.mpr fun b hb => ?_
    cases hc : b.collecting with
    | false => simp
    | true => simp [hsubs b hb hc]
  unfold State.returnResult
  simp only [ht, hr, State.updT_subs, hnone]
  rw [if_neg (by simp [hst, hlast, hwait]), hexit]
  rfl

/-- Settles O30. -/
theorem resultReturn : Obligations.ResultReturn := by
  intro s t gid lane r ht hr i w v
  have hv : t.land r = v := t.land_eq r
  have hland : (s.updT gid lane fun y => y.land r).thread? gid lane = some v :=
    hv ▸ Laws.thread_updT s gid lane _ t (fun x => x.land_gid_lane r) ht
  refine ⟨fun h => ⟨congrArg Outcome.next (returnResult_of_stays ht hr (hv ▸ h)), hland⟩, fun hst hlast hwait hexit hsubs => ?_⟩
  exact ⟨_, congrArg Outcome.next (returnResult_of_last ht hr hst (hv ▸ hlast) hwait hexit hsubs),
    Laws.thread_updT _ gid lane _ v (fun _ => ⟨rfl, rfl⟩) hland, rfl⟩

end Sys2Proof.Machine
end

section
/-! The words that record what their chain's end does (R32, R51, R158, R347, R356). -/
namespace Sys2Proof.Machine
open Host (Outcome)

theorem setFin_of_issue {s : State} {iss : Issue} (h : s.issue = some iss) (f : Issue → Fin) :
    s.setFin f = { s with issue := some { iss with fin := some (f iss) } } := by
  simp only [State.setFin, h]

/-- A system call that no library of its context takes fences and records itself. -/
theorem execSys_of_not_forwarded {s : State} {iss : Issue} (h : s.issue = some iss)
    (hlib : ∀ c, s.ctx? (s.group iss.gid).ctx = some c → c.forwards iss.pkt = false) (cs : CS) :
    execSys cs s = .next ((s.acquireCore (s.group iss.gid).pcore).setFin fun iss => .sys iss.word iss.slot) := by
  unfold execSys
  simp only [h]
  split
  · next c hc =>
    have hnot := hlib c hc
    simp [hnot]
  · rfl

/-- An `iret` in a privileged group traps exactly the lanes that handle no entry. -/
theorem execIret_of_priv {s : State} {iss : Issue} (h : s.issue = some iss) (hpriv : (s.group iss.gid).priv = true) (cs : CS) :
    execIret cs s = .next (State.trapLanes { s with issue := some { iss with fin := some .iret } }
      (((lanesOf iss.lanes).filter fun l =>
        !((s.group iss.gid).shep && (s.core (s.group iss.gid).pcore).handling.contains l)).map fun l => ⟨l, 0x01, 0, 0, 0⟩)) := by
  refine (priv_allowed s iss _ h hpriv).trans ?_
  simp only [h, setFin_of_issue h]

/-- Settles O17. -/
theorem chainEndWords : Obligations.ChainEndWords := by
  intro s iss h cs fin
  refine ⟨rfl, fun i => ?imx, fun k => ?brk, ?exit, ?yld, fun hlib => ?sys, fun hshep hall => ?iret, fun hpriv hnone => ?iretTraps⟩
  case imx =>
    change execImx cs i s = _
    simp only [execImx, h]
  case brk => exact congrArg Outcome.next (setFin_of_issue h _)
  case exit => exact congrArg Outcome.next (setFin_of_issue h _)
  case yld =>
    change execYld cs s = _
    simp only [execYld, h]
  case sys =>
    refine (execSys_of_not_forwarded h hlib cs).trans (congrArg Outcome.next ?_)
    exact setFin_of_issue (by exact h) _
  case iret =>
    refine (execIret_of_priv h (by simp [Group.priv, hshep]) cs).trans ?_
    rw [List.filter_eq_nil_iff.mpr fun l hl => by rw [hshep, hall l hl]; simp]
    rfl
  case iretTraps =>
    refine (execIret_of_priv h hpriv cs).trans ?_
    rw [List.filter_eq_self.mpr fun l hl => by rcases hnone l hl with h | h <;> rw [h] <;> simp]

end Sys2Proof.Machine
end

section
/-! Words of the opcode table, decoded (R48, R53 to R69). -/
namespace Sys2Proof.Machine

/-- Settles O56: each word is the encoding of the instruction that it stands for; major 0x3F is reserved. -/
theorem sampleWords : Obligations.SampleWords := by
  unfold Obligations.SampleWords
  decide +kernel

end Sys2Proof.Machine
end

section
/-! The integer words' frame (R45, R49, R112): what a write list leaves of the registers, and the write list of each integer word,
all of whose destinations its operand table names. -/
namespace Sys2Proof.Machine
open Host (Outcome)

/-! ## What a list of writes leaves -/

theorem RegsOutside.refl (l : List Dest) (r : Regs) : RegsOutside l r r := ⟨fun _ _ => rfl, fun _ _ => rfl, fun _ _ => rfl⟩

theorem RegsOutside.trans {l : List Dest} {a b c : Regs} (hab : RegsOutside l a b) (hbc : RegsOutside l b c) : RegsOutside l a c :=
  ⟨fun r hr => (hbc.1 r hr).trans (hab.1 r hr), fun r hr => (hbc.2.1 r hr).trans (hab.2.1 r hr),
    fun r hr => (hbc.2.2 r hr).trans (hab.2.2 r hr)⟩

theorem dest_p_of_ne {i : BitVec 3} (v : Bool) (h : i ≠ 7) : (Wr.p i v).dest = [.p i] := if_neg h
theorem dest_p7 (v : Bool) : (Wr.p 7 v).dest = [] := rfl

/-- One write changes at most its destination; a write to p7 changes nothing. -/
theorem regsOutside_write {l : List Dest} (r : Regs) (w : Wr) (h : w.dest ⊆ l) : RegsOutside l r (r.write w) := by
  cases w with
  | g i v =>
    refine ⟨fun k hk => ?_, fun _ _ => rfl, fun _ _ => rfl⟩
    have hne : i.toNat ≠ k.toNat := fun he => hk (BitVec.eq_of_toNat_eq he ▸ h (List.mem_singleton.mpr rfl))
    exact Vector.getElem_set_ne i.isLt k.isLt hne
  | p i v =>
    by_cases h7 : i = 7
    · simp only [Regs.write, if_pos h7]
      exact .refl l r
    · simp only [Regs.write, if_neg h7]
      refine ⟨fun _ _ => rfl, fun k hk => ?_, fun _ _ => rfl⟩
      have hne : i.toNat ≠ k.toNat := fun he => hk (BitVec.eq_of_toNat_eq he ▸ h (by simp [dest_p_of_ne v h7]))
      exact Vector.getElem_set_ne i.isLt k.isLt hne
  | h i v =>
    refine ⟨fun _ _ => rfl, fun _ _ => rfl, fun k hk => ?_⟩
    have hne : i.toNat ≠ k.toNat := fun he => hk (BitVec.eq_of_toNat_eq he ▸ h (List.mem_singleton.mpr rfl))
    exact Vector.getElem_set_ne i.isLt k.isLt hne

theorem regsOutside_writes {l : List Dest} : ∀ (ws : List Wr) (r : Regs), destsOf ws ⊆ l → RegsOutside l r (r.writes ws)
  | [], r, _ => .refl l r
  | w :: ws, r, h => by
    obtain ⟨hw, hws⟩ := List.append_subset.mp (show w.dest ++ destsOf ws ⊆ l from h)
    exact (regsOutside_write r w hw).trans (regsOutside_writes ws _ hws)

/-- No destination is p7 (R45). -/
theorem p7_not_mem_destsOf (ws : List Wr) : Dest.p 7 ∉ destsOf ws := by
  intro h
  obtain ⟨w, -, hw⟩ := List.mem_flatMap.mp h
  cases w with
  | g i v | h i v => simp [Wr.dest] at hw
  | p i v =>
    by_cases h7 : i = 7
    · subst h7
      cases hw
    · rw [dest_p_of_ne v h7] at hw
      exact h7 (Dest.p.inj (List.mem_singleton.mp hw)).symm

theorem p7_writes (ws : List Wr) (r : Regs) : (r.writes ws).p.get 7 = r.p.get 7 :=
  (regsOutside_writes ws r (List.Subset.refl _)).2.1 7 (p7_not_mem_destsOf ws)

/-! ## A word that writes the destinations of its operand table -/

/-- The word's only effect is that every issuing lane writes registers that the operand table of `i` names as destinations. -/
def WritesDests (s : State) (iss : Issue) (i : Instr) (o : Out) : Prop :=
  ∃ ws : Thread → List Wr, o = .next (s.lanesPut iss ws) ∧ ∀ t, destsOf (ws t) ⊆ dests i

theorem regs_subset_dests {i : Instr} {o : Opnd} {rest : List Opnd} (hi : opnds i = o :: rest) (hw : o.wr = true) :
    o.regs ⊆ dests i := by
  intro x hx
  exact List.mem_flatMap.mpr ⟨o, List.mem_filter.mpr ⟨by simp [hi], hw⟩, hx⟩

theorem writesDests_alu {s : State} {iss : Issue} (h : s.issue = some iss) {i : Instr} {o : Opnd} {rest : List Opnd}
    {f : Issue → Thread → List Wr} (hi : opnds i = o :: rest) (hw : o.wr = true) (hf : ∀ t, destsOf (f iss t) ⊆ o.regs) :
    WritesDests s iss i (alu s f) :=
  ⟨f iss, alu_eq s iss f h, fun t => List.Subset.trans (hf t) (regs_subset_dests hi hw)⟩

section Shapes
variable {s : State} {iss : Issue} (h : s.issue = some iss) {i : Instr} {d : Fld} {rest : List Opnd}
include h

/-- A word whose first operand is one written register. -/
theorem writesDests_g {v : Issue → Thread → W32} (hi : opnds i = wG 1 d :: rest) :
    WritesDests s iss i (alu s fun iss t => [.g d (v iss t)]) :=
  writesDests_alu h hi rfl fun t => by simp [destsOf, Wr.dest, Opnd.regs, wG]

/-- A word whose destination is a source too. -/
theorem writesDests_u {v : Issue → Thread → W32} (hi : opnds i = uG 1 d :: rest) :
    WritesDests s iss i (alu s fun iss t => [.g d (v iss t)]) :=
  writesDests_alu h hi rfl fun t => by simp [destsOf, Wr.dest, Opnd.regs, uG]

/-- A word whose first operand is a written pair. -/
theorem writesDests_pair {v : Issue → Thread → W64} (hi : opnds i = wG 2 d :: rest) :
    WritesDests s iss i (alu s fun iss t => wr2 d (v iss t)) :=
  writesDests_alu h hi rfl fun t => by
    simp [destsOf, Wr.dest, Opnd.regs, wG, wr2, List.range_succ, BitVec.ofNat_add]

/-- A word whose first operand is a written predicate; of p7 there is nothing to write. -/
theorem writesDests_p {p : BitVec 3} {v : Issue → Thread → Bool} (hi : opnds i = wP p :: rest) :
    WritesDests s iss i (alu s fun iss t => [.p p (v iss t)]) :=
  writesDests_alu h hi rfl fun t => by
    by_cases h7 : p = 7
    · subst h7
      exact List.nil_subset _
    · have hn : p.toNat ≠ 7 := fun he => h7 (BitVec.eq_of_toNat_eq he)
      simp [destsOf, dest_p_of_ne _ h7, Opnd.regs, wP, hn]

/-- A shift by an immediate count from 0 to 31. -/
theorem writesDests_shImm {f : W32 → W32 → W32} {a : Fld} {n : BitVec 9} (hi : opnds i = wG 1 d :: rest)
    (hn : 0 ≤ immOf iss n ∧ immOf iss n ≤ 31) : WritesDests s iss i (shImm f d a n s) := by
  simp only [shImm, h, if_pos hn]
  exact writesDests_g h hi

end Shapes

/-- Every word of the majors 0x07 to 0x0F, but for shifts whose immediate count the examination refuses. -/
theorem writesDests_of_integer {s : State} {iss : Issue} (h : s.issue = some iss) {i : Instr} {w : W32} (henc : encode i = some w)
    (hlo : 7 ≤ (majOf w).toNat) (hhi : (majOf w).toNat ≤ 15)
    (hsh : ∀ cs d a j, i = .shli cs d a j ∨ i = .shri cs d a j ∨ i = .sari cs d a j → 0 ≤ immOf iss j ∧ immOf iss j ≤ 31) :
    WritesDests s iss i (exec i s) := by
  cases i
  case shli cs d a j => exact writesDests_shImm h rfl (hsh cs d a j (.inl rfl))
  case shri cs d a j => exact writesDests_shImm h rfl (hsh cs d a j (.inr (.inl rfl)))
  case sari cs d a j => exact writesDests_shImm h rfl (hsh cs d a j (.inr (.inr rfl)))
  case movi | add | sub | mul | mulhI32 | mulhN32 | addSatI32 | addSatN32 | subSatI32 | subSatN32 | minI32 | minN32 | maxI32 |
      maxN32 | abs | neg | and | or | xor | andn | not | shl | shr | sar | rotl | rotr | bcnt | lzc | tzc | bitrev | byterev |
      saddX2 | saddX4 | saddX8 | saddX16 | mov | addi | andi | ori | xori | muli | muladd | bcntI64 | lzcI64 | tzcI64 | fextN32 |
      fextI32 | bpick | bfn3 | sel =>
    exact writesDests_g h rfl
  case fins => exact writesDests_u h rfl
  case addI64 | subI64 | mulI64 | mulhI64 | mulhN64 | addSatI64 | addSatN64 | subSatI64 | subSatN64 | minI64 | minN64 | maxI64 |
      maxN64 | absI64 | negI64 | andI64 | orI64 | xorI64 | andnI64 | notI64 | shlI64 | shrI64 | sarI64 | rotlI64 | rotrI64 |
      bitrevI64 | byterevI64 | saddX2I64 | saddX4I64 | saddX8I64 | saddX16I64 | movI64 | addwI32 | addwN32 | mulxI32 | mulxN32 |
      selI64 =>
    exact writesDests_pair h rfl
  case cmpEqI32 | cmpNeI32 | cmpLtI32 | cmpLeI32 | cmpGtI32 | cmpGeI32 | cmpLtN32 | cmpLeN32 | cmpGtN32 | cmpGeN32 | cmpEqI64 |
      cmpNeI64 | cmpLtI64 | cmpLeI64 | cmpGtI64 | cmpGeI64 | cmpLtN64 | cmpLeN64 | cmpGtN64 | cmpGeN64 =>
    exact writesDests_p h rfl
  all_goals cases henc
  all_goals
    rw [majOf_pack] at hlo hhi
    exact absurd (And.intro hlo hhi) (by decide)

/-! ## The frame of such a word -/

/-- Settles O60: the word writes its destinations in the issuing lanes, and such a write leaves everything else. -/
theorem integerFrame : Obligations.IntegerFrame := by
  intro s iss h i w henc hlo hhi hsh _
  obtain ⟨ws, hex, hws⟩ := writesDests_of_integer h henc hlo hhi hsh
  refine ⟨_, hex, rfl, List.length_map _, fun k t v ht hv => ?_⟩
  have hput : v = if t.inMask iss.gid iss.lanes then t.put (ws t) else t := by
    have hmap : (s.lanesPut iss ws).threads[k]? = some (if t.inMask iss.gid iss.lanes then t.put (ws t) else t) :=
      List.getElem?_map.trans (congrArg _ ht)
    exact Option.some.inj (hv.symm.trans hmap)
  by_cases hm : t.inMask iss.gid iss.lanes = true
  · rw [if_pos hm] at hput
    subst hput
    exact ⟨fun hf => absurd hm (by simp [hf]), rfl, regsOutside_writes _ _ (hws t), rfl, rfl, rfl, p7_writes _ _⟩
  · rw [if_neg hm] at hput
    subst hput
    exact ⟨fun _ => rfl, rfl, .refl _ _, rfl, rfl, rfl, rfl⟩

end Sys2Proof.Machine
end

section
/-! `rds` and `wrs` (R46, R47, R158): a lone issuing thread is the only one of its place, so a lane's own count of results names
the result that is owed; what a logged read leaves of the threads. -/
namespace Sys2Proof.Machine
open Host (Outcome)

/-! ## A logged value leaves the threads -/

theorem State.OnlyHomes.threads {s u : State} (h : s.OnlyHomes u) : u.threads = s.threads := by
  obtain ⟨m, l, d, g, rfl⟩ := h; rfl
@[simp] theorem State.queueEvent_threads (s : State) (e : EvRec) : (s.queueEvent e).threads = s.threads := by
  unfold State.queueEvent; split <;> rfl
@[simp] theorem State.trigger_threads (s : State) (bit : Nat) : (s.trigger bit).threads = s.threads := by
  unfold State.trigger; split <;> simp
@[simp] theorem State.post_threads (s : State) (kind inst ctx : Nat) (d : List W64) : (s.post kind inst ctx d).threads = s.threads := by
  unfold State.post
  dsimp only
  split
  · split <;> simp
  · simp
@[simp] theorem State.updNewest_threads (s : State) (ctx : Nat) (f : Ckpt → Ckpt) : (s.updNewest ctx f).threads = s.threads := by
  unfold State.updNewest; split <;> rfl
@[simp] theorem State.ringWrite_threads (s : State) (r : RecCtl) (bs : List Byte) : (s.ringWrite r bs).threads = s.threads := by
  unfold State.ringWrite
  refine List.foldlRecOn (motive := fun u : State => u.threads = s.threads) _ _ rfl fun u hu i _ => ?_
  dsimp only
  split
  · exact (takeWords_homeWrites u _).homes.threads.trans hu
  · exact hu
theorem State.enterRing_threads (s : State) (ctx : Nat) (bs : List Byte) {add : State → State} (hadd : (add s).threads = s.threads) :
    (s.enterRing ctx bs add).threads = s.threads := by
  unfold State.enterRing
  split
  · exact hadd
  · dsimp only
    split
    · split
      · rfl
      · exact State.post_threads _ _ _ _ _
    · exact (State.ringWrite_threads _ _ _).trans hadd
@[simp] theorem State.logEvent_threads (s : State) (gid lane : Nat) (kind : Byte) (addr val : W64) (extra : List Byte) :
    (s.logEvent gid lane kind addr val extra).threads = s.threads := by
  unfold State.logEvent
  dsimp only
  split
  · rfl
  · exact State.enterRing_threads _ _ _ (State.updNewest_threads _ _ _)
@[simp] theorem State.logged_threads (s : State) (gid lane : Nat) (kind : Byte) (addr val : W64) (extra : List Byte) :
    (s.logged gid lane kind addr val extra).2.2.threads = s.threads := by
  unfold State.logged
  extract_lets g
  split
  · exact State.logEvent_threads _ _ _ _ _ _ _
  · split
    · rfl
    · split
      · rfl
      · exact State.post_threads _ _ _ _ _

/-! ## The place of a lone issuing thread -/

/-- No other thread stands where the one that issues alone stands. -/
theorem State.Solo.eq_of_is {s : State} {iss : Issue} {t : Thread} (h : s.Solo iss t) {x : Thread} (hx : x ∈ s.threads)
    (his : x.is t.gid t.lane = true) : x = t := by
  have ht : t ∈ s.issuing iss := by simp [h.sole]
  obtain ⟨hgid, hlane⟩ : x.gid = t.gid ∧ x.lane = t.lane := by simpa [Thread.is] using his
  have hmask : x.inMask iss.gid iss.lanes = true := by
    have hm := (List.mem_filter.mp ht).2
    simpa [Thread.inMask, hgid, hlane] using hm
  have hxi : x ∈ s.issuing iss := List.mem_filter.mpr ⟨hx, hmask⟩
  simpa [h.sole] using hxi

theorem State.Solo.gid_eq {s : State} {iss : Issue} {t : Thread} (h : s.Solo iss t) : t.gid = iss.gid := by
  have his := List.find?_some h.here
  simp only [Thread.is, Bool.and_eq_true, decide_eq_true_eq] at his
  exact his.1

theorem State.Solo.thread {s : State} {iss : Issue} {t : Thread} (h : s.Solo iss t) : s.thread? t.gid t.lane = some t :=
  h.gid_eq ▸ h.here

theorem State.updT_congr {s : State} {gid lane : Nat} {f g : Thread → Thread}
    (h : ∀ x ∈ s.threads, x.is gid lane = true → f x = g x) : s.updT gid lane f = s.updT gid lane g := by
  have hmap : (s.threads.map fun x => if x.is gid lane then f x else x) = s.threads.map fun x => if x.is gid lane then g x else x := by
    refine List.map_congr_left fun x hx => ?_
    split
    · next his => exact h x hx his
    · rfl
  simp only [State.updT, hmap]

/-- The thread owes a result that it numbers itself. -/
theorem State.Solo.updT_await {s u : State} {iss : Issue} {t : Thread} (h : s.Solo iss t) (hu : u.threads = s.threads)
    (ws : List Wr) (e : BitVec 5) :
    (u.updT t.gid t.lane fun x => x.await (Result.known x.nextRes ws e false)) =
      u.updT t.gid t.lane fun x => x.await (Result.known t.nextRes ws e false) :=
  State.updT_congr fun x hx his => by rw [h.eq_of_is (hu ▸ hx) his]

/-! ## Reading a selector -/

theorem Thread.foldl_land_gid_lane (rs : List Result) (t : Thread) :
    (rs.foldl Thread.land t).gid = t.gid ∧ (rs.foldl Thread.land t).lane = t.lane := by
  refine List.foldlRecOn (motive := fun u : Thread => u.gid = t.gid ∧ u.lane = t.lane) _ _ ⟨rfl, rfl⟩ fun u hu r _ => ?_
  obtain ⟨hgid, hlane⟩ := u.land_gid_lane r
  exact ⟨hgid.trans hu.1, hlane.trans hu.2⟩

section Rds
variable {s : State} {iss : Issue} {t : Thread} (h : s.Solo iss t)
include h

/-- A selector that is neither `%ptime` nor `%fpstat`. -/
theorem rdsWord_plain (d : Fld) {k : Fld} (h10 : k ≠ 0x10) (h12 : k ≠ 0x12) :
    rdsWord s d k = .next (s.updT t.gid t.lane fun x => x.await (Result.known t.nextRes
      (if selWidth k = 2 then wr2 d (s.selValue (s.group iss.gid) t k)
       else [Wr.g d ((s.selValue (s.group iss.gid) t k).setWidth 32)]) 0 false)) := by
  refine congrArg Outcome.next (laneFold_ok s iss t _ _ h ?_)
  simp only [if_neg h10, if_neg h12, h.thread, Option.getD_some, h.updT_await rfl]

/-- `%ptime` is a recorded value (R396). -/
theorem rdsWord_ptime (d : Fld) :
    rdsWord s d 0x10 = .next ((s.logged t.gid t.lane 5 0x10 s.ptime []).2.2.updT t.gid t.lane fun x =>
      x.await (Result.known t.nextRes (wr2 d (s.logged t.gid t.lane 5 0x10 s.ptime []).1) 0 false)) := by
  refine congrArg Outcome.next (laneFold_ok s iss t _ _ h ?_)
  have h12 : (0x10 : Fld) ≠ 0x12 := by decide
  have hw : selWidth 0x10 = 2 := by decide
  rw [← h.updT_await (State.logged_threads s t.gid t.lane 5 0x10 s.ptime [])]
  simp only [if_neg h12, h.thread, Option.getD_some, if_true, hw]
  rfl

/-- `%fpstat` waits for the flags of the results that are known (R110). -/
theorem rdsWord_fpstat (d : Fld) :
    rdsWord s d 0x12 = .next ((s.updT t.gid t.lane Thread.landKnown).updT t.gid t.lane fun x =>
      x.await (Result.known t.landKnown.nextRes [Wr.g d t.landKnown.fpstat] 0 false)) := by
  have hland : ∀ x : Thread, x.landKnown.gid = x.gid ∧ x.landKnown.lane = x.lane := fun x => Thread.foldl_land_gid_lane _ x
  have hthread : (s.updT t.gid t.lane Thread.landKnown).thread? t.gid t.lane = some t.landKnown :=
    Laws.thread_updT s _ _ _ t hland h.thread
  have hcount : ((s.updT t.gid t.lane Thread.landKnown).updT t.gid t.lane fun x =>
      x.await (Result.known x.nextRes [Wr.g d t.landKnown.fpstat] 0 false)) =
      (s.updT t.gid t.lane Thread.landKnown).updT t.gid t.lane fun x =>
        x.await (Result.known t.landKnown.nextRes [Wr.g d t.landKnown.fpstat] 0 false) := by
    refine State.updT_congr fun x hx his => ?_
    obtain ⟨y, hy, rfl⟩ := List.mem_map.mp hx
    split at his
    · next hyis => rw [if_pos hyis, h.eq_of_is hy hyis]
    · next hyis => exact absurd his hyis
  refine congrArg Outcome.next (laneFold_ok s iss t _ _ h ?_)
  have h10 : (0x12 : Fld) ≠ 0x10 := by decide
  have hw : selWidth 0x12 ≠ 2 := by decide
  obtain ⟨hgid, hlane⟩ := hland t
  rw [← hcount]
  simp only [if_true, if_neg h10, if_neg hw, hthread, Option.getD_some, hgid, hlane]
  have hval : ((t.landKnown.fpstat.setWidth 64).setWidth 32) = t.landKnown.fpstat := by
    rw [BitVec.setWidth_setWidth_of_le _ (by decide), BitVec.setWidth_eq]
  exact congrArg (fun v => StepRes.ok ((s.updT t.gid t.lane Thread.landKnown).updT t.gid t.lane fun x =>
    x.await (Result.known x.nextRes [Wr.g d v] 0 false))) hval

theorem execRds_of_assigned {k : Fld} (ha : selAssigned k = true) (hp : selPriv k = true → (s.group iss.gid).priv = true)
    (cs : CS) (d : Fld) : execRds cs d k s = rdsWord s d k := by
  unfold execRds
  simp only [ha, Bool.not_true, Bool.false_eq_true, if_false]
  split
  · next hk => exact priv_allowed s iss _ h.isOpen (hp hk)
  · rfl

theorem execWrs_of_writable {k : Fld} (ha : selAssigned k = true) (hw : selWritable k = true)
    (hp : selPriv k = true → (s.group iss.gid).priv = true) (cs : CS) (a : Fld) :
    execWrs cs a k s = .next (s.selWrite (s.group iss.gid) t k (if selWidth k = 2 then rd2 t a else (rd t a).setWidth 64)) := by
  have hword : wrsWord s a k =
      .next (s.selWrite (s.group iss.gid) t k (if selWidth k = 2 then rd2 t a else (rd t a).setWidth 64)) :=
    congrArg Outcome.next (laneFold_ok s iss t _ _ h rfl)
  unfold execWrs
  simp only [ha, hw, Bool.not_true, Bool.or_self, Bool.false_eq_true, if_false]
  split
  · next hk => exact (priv_allowed s iss _ h.isOpen (hp hk)).trans hword
  · exact hword

end Rds

theorem execRds_of_unassigned {k : Fld} (ha : selAssigned k = false) (s : State) (cs : CS) (d : Fld) :
    execRds cs d k s = .next (s.decodeTrap 0x01) := by simp [execRds, ha]
theorem execWrs_of_unwritable {k : Fld} (h : selAssigned k = false ∨ selWritable k = false) (s : State) (cs : CS) (a : Fld) :
    execWrs cs a k s = .next (s.decodeTrap 0x01) := by
  rcases h with h | h <;> simp [execWrs, h]

/-! ## Writing a selector -/

theorem Thread.landSx_of_no_result {t : Thread} (h : t.outst = []) : t.landSx = t := by simp [Thread.landSx, h]
theorem Thread.landSx_gid_lane (t : Thread) : t.landSx.gid = t.gid ∧ t.landSx.lane = t.lane := Thread.foldl_land_gid_lane _ t

/-- Settles O19. -/
theorem specialRegisterWords : Obligations.SpecialRegisterWords := by
  refine ⟨fun s iss t h cs d a k => ⟨fun ha hp => ?_, execWrs_of_writable h (cs := cs) (a := a),
      fun ha => execRds_of_unassigned ha s cs d, fun hk => execWrs_of_unwritable hk s cs a⟩, fun s g t v => ⟨?_, fun ht hout => ?_⟩⟩
  case refine_1 =>
    have hrds := execRds_of_assigned h ha hp cs d
    refine ⟨fun h10 h12 => hrds.trans (rdsWord_plain h d h10 h12), ?_, ?_⟩
    · rintro rfl
      exact hrds.trans (rdsWord_ptime h d)
    · rintro rfl
      exact hrds.trans (rdsWord_fpstat h d)
  case refine_2 => exact ⟨rfl, rfl, rfl, rfl, rfl, rfl, rfl, rfl, rfl⟩
  case refine_3 =>
    have hland := Thread.landSx_of_no_result hout
    refine ⟨?_, ?_, Laws.thread_updT s _ _ _ t (fun _ => ⟨rfl, rfl⟩) ht⟩
    · exact (Laws.thread_updT s _ _ (fun x => { x.landSx with fpctl := v.setWidth 32 &&& 0x1F07 }) t (fun x => x.landSx_gid_lane) ht).trans
        (by rw [hland])
    · exact (Laws.thread_updT s _ _ (fun x => { x.landSx with fpstat := v.setWidth 32 &&& 0x1F }) t (fun x => x.landSx_gid_lane) ht).trans
        (by rw [hland])

end Sys2Proof.Machine
end

section
/-! A step runs the decoded word (R33, R35, R70): a device that serves its turn, an open word with no POD store failure to deliver,
the opening of a chain whose threads have nothing pending and no rest of a chain to take up, and the fetch of a packet. -/
namespace Sys2Proof.Machine
open Host (Outcome)

/-! ## The open word -/

theorem wordInstr_of_decode {w : W32} {i : Instr} (h : decode w = .ok i) : wordInstr w = i := by simp [wordInstr, instrOf, h, Except.toOption]
theorem wordInstr_of_error {w : W32} {e : Reject} (h : decode w = .error e) : wordInstr w = .illegalInstruction w := by
  simp [wordInstr, instrOf, h, Except.toOption]

/-- With no failure of a POD store owed there is none to deliver (R199). -/
theorem deliverPod_of_none_owed {s : State} (h : ∀ t ∈ s.threads, t.podErr = []) : s.deliverPod = s := by
  unfold State.deliverPod
  split
  · rfl
  · next iss _ =>
    split
    · rfl
    · refine List.foldlRecOn (motive := fun u : State => u = s) _ _ rfl fun u hu lane _ => ?_
      subst hu
      split
      · next i t _ ht => simp only [h t (List.mem_of_find?_eq_some ht)]
      · rfl

/-- The open word's meaning acts, and the chain goes on or ends. -/
theorem runWord_of_none_owed {s : State} {iss : Issue} (h : s.issue = some iss) (hlanes : iss.lanes ≠ 0)
    (hpod : ∀ t ∈ s.threads, t.podErr = []) :
    s.runWord = thenDo (fun t => t.nextWord.settle) (exec (wordInstr iss.word) s) := by
  unfold State.runWord
  simp only [deliverPod_of_none_owed hpod, h, if_neg hlanes]

/-! ## The turn of a step -/

theorem step_of_serving {s : State} (himg : s.plat.image.isSome = true) (htrip : s.pw.tripped = false) : step s = s.runTurn := by
  have hnone : s.plat.image.isNone = false := by simpa using himg
  simp [step, hnone, htrip]

theorem runTurn_of_open {s : State} {iss : Issue} (hurgent : s.urgent = []) (h : s.issue = some iss) (hwait : s.openWaits = false) :
    s.runTurn = s.runWord := by
  unfold State.runTurn
  simp [hurgent, h, hwait]

theorem runTurn_of_core {s : State} {core : Nat} {rest : List Turn} (hurgent : s.urgent = []) (h : s.issue = none)
    (hag : s.agenda = .core core :: rest) : s.runTurn = { s with agenda := rest }.runCore core := by
  unfold State.runTurn State.runNext
  simp only [hurgent, h, hag]

/-! ## The opening of a chain -/

theorem State.mapLanes_of_fixed {s : State} {gid : Nat} {m : Mask} {f : Thread → Thread} (h : ∀ x ∈ s.threads, f x = x) :
    s.mapLanes gid m f = s := by
  have hmap : (s.threads.map fun t => if t.inMask gid m then f t else t) = s.threads :=
    (List.map_congr_left fun x hx => by rw [h x hx, ite_self]; rfl).trans (List.map_id _)
  simp only [State.mapLanes, hmap]

theorem Thread.contHere_of_no_conts {t : Thread} (h : t.conts = []) : t.contHere = none := by simp [Thread.contHere, Thread.contAt, h]
theorem Thread.keep_nil_of_no_conts {t : Thread} (h : t.conts = []) : t.keep [] = t := by cases t; cases h; rfl

/-- Threads that stand at no rest of a chain all read their registers (R37). -/
theorem takeConts_of_no_conts {s : State} (h : ∀ x ∈ s.threads, x.conts = []) (iss : Issue) :
    s.takeConts iss = { s.snapLanes iss.gid iss.lanes with issue := some { iss with conts := [], xfer := [], fin := none } } := by
  have hcs : ((s.threads.filter fun t => t.inMask iss.gid iss.lanes).filterMap fun t => t.contHere.map fun c => (t.lane, c)) = [] :=
    List.filterMap_eq_nil_iff.mpr fun t ht => by rw [Thread.contHere_of_no_conts (h t (List.mem_filter.mp ht).1)]; rfl
  have hsnap : ∀ x ∈ (s.snapLanes iss.gid iss.lanes).threads, x.keep [] = x := by
    intro x hx
    obtain ⟨y, hy, rfl⟩ := List.mem_map.mp hx
    refine Thread.keep_nil_of_no_conts ?_
    split <;> exact h y hy
  have hmask : iss.lanes &&& ~~~maskOf [] = iss.lanes := BitVec.and_allOnes
  unfold State.takeConts
  simp only [hcs, List.filter_nil, List.map_nil, List.filterMap_nil, List.findSome?_nil, hmask, State.mapLanes_of_fixed hsnap]

/-- A thread with nothing pending meets no hazard (R41). -/
theorem firstHazard_of_no_pend {t : Thread} (h : t.pend = []) (more : W32 → List Dest) (tile : Bool) :
    ∀ (ws : List W32) (before : Option W32) (i : Nat), firstHazard t more tile before i ws = none
  | [], _, _ => rfl
  | w :: l, before, i => by
    have hany : (touched t before w ++ more w).any (fun d => t.pend.contains d) = false := by simp [h]
    simp only [firstHazard, hany, Bool.and_false, Bool.false_eq_true, if_false]
    exact firstHazard_of_no_pend h more tile l (some w) (i + 1)

theorem hazardsOf_of_no_pend {ts : List Thread} (h : ∀ t ∈ ts, t.pend = []) (more : W32 → List Dest) (ws : List W32) :
    hazardsOf more ws ts = [] := by
  cases ts with
  | nil => rfl
  | cons t l =>
    simp only [hazardsOf, firstHazard_of_no_pend (h t (List.mem_cons_self ..))]
    exact List.filterMap_eq_nil_iff.mpr fun u hu => by rw [firstHazard_of_no_pend (h u (List.mem_cons_of_mem _ hu))]; rfl

theorem hazards_of_no_pend {s : State} (h : ∀ t ∈ s.threads, t.pend = []) (ws : List W32) : s.hazards ws = s := by
  unfold State.hazards
  split
  · rfl
  · next iss _ =>
    dsimp only
    rw [hazardsOf_of_no_pend]
    · rfl
    · intro t ht
      obtain ⟨l, -, hl⟩ := List.mem_filterMap.mp ht
      exact h t (List.mem_of_find?_eq_some (Option.ite_none_left_eq_some.mp hl).2)

theorem hasLane_lowestLane {m : Mask} (h : m ≠ 0) : hasLane m (lowestLane m) = true := by
  obtain ⟨i, hi⟩ : ∃ i, m.getLsbD i = true := by
    by_contra hno
    exact h (BitVec.eq_of_getLsbD_eq fun i _ => by simpa using fun hi => hno ⟨i, hi⟩)
  have hmem : i ∈ lanesOf m := List.mem_filter.mpr ⟨List.mem_range.mpr (BitVec.lt_of_getLsbD hi), hi⟩
  obtain ⟨l, ls, hl⟩ := List.exists_cons_of_ne_nil (List.ne_nil_of_mem hmem)
  have hhead : l ∈ lanesOf m := by simp [hl]
  simpa [hasLane, lowestLane, hl] using (List.mem_filter.mp hhead).2

@[simp] theorem State.countIssue_threads (s : State) (g : Group) (m : Mask) : (s.countIssue g m).threads = s.threads := by
  simp [State.countIssue]

/-- A chain with no condition of R70, of threads with nothing pending and no rest to take up, is set to issue its first word. -/
theorem openChain_of_fresh {s u : State} {g : Group} {m : Mask} {t : Thread} {l ws : List W32}
    (hfresh : ∀ x ∈ s.threads, x.pend = [] ∧ x.conts = []) (ht : s.thread? g.gid (lowestLane m) = some t) (hm : m ≠ 0)
    (hfetch : s.fetch g t.pkt = (.words l, u)) (hu : u.threads = s.threads) (hws : chainFrom l t.slot = ws)
    (htrap : chainTrap g.priv g.regsN ws t.slot = none) :
    s.openChain g m =
      { (u.countIssue g m).snapLanes g.gid m with issue := some { Issue.start g.gid m t.pkt t.slot ws with step := g.step } } := by
  have hmem : t ∈ s.threads := List.mem_of_find?_eq_some ht
  have hhere : t.contHere = none := Thread.contHere_of_no_conts (hfresh t hmem).2
  have hin : t.inMask g.gid m = true := by
    have his := List.find?_some ht
    simp only [Thread.is, Bool.and_eq_true, decide_eq_true_eq] at his
    simp [Thread.inMask, his.1, his.2, hasLane_lowestLane hm]
  have hcount : ∀ x ∈ (u.countIssue g m).threads, x.pend = [] ∧ x.conts = [] := by rwa [State.countIssue_threads, hu]
  have hopen := takeConts_of_no_conts (fun x hx => (hcount x hx).2) { Issue.start g.gid m t.pkt t.slot ws with step := g.step }
  have hpend : ∀ x ∈ ((u.countIssue g m).takeConts { Issue.start g.gid m t.pkt t.slot ws with step := g.step }).threads, x.pend = [] := by
    rw [hopen]
    intro x hx
    obtain ⟨y, hy, rfl⟩ := List.mem_map.mp hx
    split <;> exact (hcount y hy).1
  unfold State.openChain
  simp only [ht, hhere, Option.any_none, Bool.false_eq_true, if_false, hfetch, hws, htrap]
  rw [if_neg]
  · simp only [hazards_of_no_pend hpend]
    simp only [hopen]
    exact if_neg hm
  · rw [List.all_eq_true]
    exact fun hall => by simpa [hin, hhere] using hall t (hu ▸ hmem)

/-! ## The fetch of a packet -/

theorem fetch_of_shep {s : State} {g : Group} {pkt : W32} {img : Image} (hshep : g.shep = true) (himg : s.plat.image = some img)
    (hin : 12 * pkt.toNat + 12 ≤ img.size) :
    s.fetch g pkt = (.words (wordsOfBytes (memRead s.fw (12 * pkt.toNat) 12)), s) := by
  unfold State.fetch
  simp only [hshep, if_true, himg]
  exact if_neg (Nat.not_lt.mpr hin)

/-- A packet of the CODE handle that lies in one page. -/
theorem fetch_of_code {s u : State} {g : Group} {pkt : W32} {pa : Nat} (hshep : g.shep = false) (huse : s.usable g g.code = true)
    (hlen : 12 * pkt.toNat + 12 ≤ heLen g.code.ent) (hx : heRight g.code.ent 2 = true)
    (hpage : (heBase g.code.ent + 12 * pkt.toNat) % 4096 ≤ 4084)
    (hbyte : s.codeByte g (heBase g.code.ent + 12 * pkt.toNat) = (.ok pa, u)) :
    s.fetch g pkt = (.words (wordsOfBytes (u.cohRead pa 12)), u) := by
  unfold State.fetch
  simp only [hshep, huse, hx, hbyte, if_neg (Nat.not_lt.mpr hlen), if_pos hpage, Bool.not_true, Bool.false_eq_true, if_false]

/-- Settles O59. -/
theorem stepRunsDecodedWord : Obligations.StepRunsDecodedWord := by
  intro s himg htrip hurgent hpod after
  have hafter : ∀ o : Out, thenDo (fun t => t.nextWord.settle) o = after o := fun o => by cases o <;> rfl
  have hstep := step_of_serving himg htrip
  refine ⟨fun iss hiss hlanes hwait => ?_, ?_, fun g pkt => ⟨fun img hshep himg hin => ?_, ?_⟩⟩
  case refine_1 =>
    have hrun : step s = after (exec (wordInstr iss.word) s) := by
      rw [hstep, runTurn_of_open hurgent hiss hwait, runWord_of_none_owed hiss hlanes hpod, hafter]
    exact ⟨fun i hi => by rw [hrun, wordInstr_of_decode hi], fun e he => by rw [hrun, wordInstr_of_error he]⟩
  case refine_2 =>
    intro core rest g f t ws u w l hnone hag hfresh b hpick ht hfetch hws htrap hm hu opened i hi
    have hopen : b.openChain g f.lanes = opened := openChain_of_fresh hfresh ht hm hfetch hu hws htrap
    have hpod' : ∀ x ∈ opened.threads, x.podErr = [] := by
      intro x hx
      obtain ⟨y, hy, rfl⟩ := List.mem_map.mp hx
      rw [State.countIssue_threads, hu] at hy
      split <;> exact hpod y hy
    have hword : opened.runWord = after (exec i opened) := by
      rw [runWord_of_none_owed (iss := { Issue.start g.gid f.lanes t.pkt t.slot (w :: l) with step := g.step }) rfl hm hpod', hafter]
      exact congrArg (fun j => after (exec j opened)) (wordInstr_of_decode hi)
    rw [hstep, runTurn_of_core hurgent hnone hag]
    unfold State.runCore
    simp only [show State.pick { s with agenda := rest } core = some (g, f) from hpick,
      show State.openChain { s with agenda := rest } g f.lanes = opened from hopen]
    exact hword
  case refine_3 => exact fetch_of_shep hshep himg hin
  case refine_4 => exact fun pa u hshep huse hlen hx hpage hbyte => fetch_of_code hshep huse hlen hx hpage hbyte

end Sys2Proof.Machine
end

section
/-! Floating words that trap (R84, R110, R148): what a trap of a lone lane makes of its thread, the bits of the trap's aux, and
one lemma each for the words of fixed latency and of the SX pipe. -/
namespace Sys2Proof.Machine
open Host (Outcome)

/-! ## The trap of a lane -/

theorem State.thread?_keepXfer {s : State} {iss : Issue} {lane : Nat} {t : Thread} (slot : BitVec 2)
    (ht : s.thread? iss.gid lane = some t) :
    (s.keepXfer iss lane slot).thread? iss.gid lane = some (t.keep (iss.restCont t slot)) :=
  Laws.thread_updT s iss.gid lane _ t (fun _ => ⟨rfl, rfl⟩) ht

theorem State.thread?_takeTrap {s : State} {iss : Issue} {x : LTrap} {t : Thread} (r : TrapRec)
    (ht : s.thread? iss.gid x.lane = some t) : (s.takeTrap iss x r).thread? iss.gid x.lane = some (t.park r) :=
  Laws.thread_updT s iss.gid x.lane (fun u => u.park r) t (fun _ => ⟨rfl, rfl⟩) ht

theorem State.trapLane_of_open {s : State} {iss : Issue} (h : s.issue = some iss) (x : LTrap) :
    s.trapLane x = (s.keepXfer iss x.lane iss.restartSlot).takeTrap iss x (iss.faultRec x.cause x.aux) := by
  simp only [State.trapLane, h]

/-- The thread of a lane that has trapped is parked with the fault's record, and keeps the transfer that its chain had made. -/
theorem State.thread?_trapLane {s : State} {iss : Issue} {x : LTrap} {t : Thread} (h : s.issue = some iss)
    (ht : s.thread? iss.gid x.lane = some t) :
    (s.trapLane x).thread? iss.gid x.lane =
      some ((t.keep (iss.restCont t iss.restartSlot)).park (iss.faultRec x.cause x.aux)) := by
  rw [State.trapLane_of_open h]
  exact State.thread?_takeTrap _ (State.thread?_keepXfer _ ht)

theorem State.Solo.lane_lt {s : State} {iss : Issue} {t : Thread} (h : s.Solo iss t) : t.lane < 32 := by
  have hmem : t.lane ∈ lanesOf iss.lanes := by simp [h.only]
  exact List.mem_range.mp (List.mem_filter.mp hmem).1

/-- A word that traps the lane of a lone thread does nothing but take that trap. -/
theorem State.Solo.eachLane_trap {s : State} {iss : Issue} {t : Thread} (h : s.Solo iss t) {f : Issue → Thread → LaneRes}
    {c : Byte} {a : W64} (hf : f iss t = .trap c a) : s.eachLane f = s.trapLane ⟨t.lane, c, a, 0, 0⟩ := by
  have hsame : s.threads.map (fun x => if x.inMask iss.gid iss.lanes then (f iss x).thread x else x) = s.threads := by
    refine (List.map_congr_left fun x hx => ?_).trans (List.map_id s.threads)
    split
    · next hm =>
      have hxt : x ∈ s.issuing iss := List.mem_filter.mpr ⟨hx, hm⟩
      rw [h.sole, List.mem_singleton] at hxt
      rw [hxt, hf]
      rfl
    · rfl
  simp only [State.eachLane, h.isOpen, h.sole, hsame, hf, List.filterMap_cons, List.filterMap_nil, LaneRes.trap?_trap]
  rw [← h.isOpen]
  rfl

/-! ## The aux of a floating trap (R84) -/

theorem fpAux_raised (xen e0 e1 : Exc) : (fpAux xen e0 e1).extractLsb' 0 5 = e0 ||| e1 := by
  have hlt := (e0 ||| e1).isLt
  apply BitVec.eq_of_toNat_eq
  simp only [fpAux, BitVec.extractLsb'_toNat, BitVec.toNat_ofNat, Nat.shiftRight_zero]
  split <;> split <;> omega

/-- Above a number of five bits, the marks 32 and 64 are bits 5 and 6. -/
theorem testBit_add_marks {n : ℕ} (hn : n < 32) (p q : Prop) [Decidable p] [Decidable q] :
    (n + (if p then 0 else 32) + (if q then 0 else 64)).testBit 5 = decide ¬p ∧
      (n + (if p then 0 else 32) + (if q then 0 else 64)).testBit 6 = decide ¬q := by
  simp only [Nat.testBit_eq_decide_div_mod_eq]
  by_cases hp : p <;> by_cases hq : q <;> simp [hp, hq] <;> omega

theorem fpAux_element0 (xen e0 e1 : Exc) : (fpAux xen e0 e1).getLsbD 5 = decide (e0 &&& xen ≠ 0) := by
  unfold fpAux
  rw [BitVec.getLsbD_ofNat, (testBit_add_marks (e0 ||| e1).isLt _ _).1]
  rfl

theorem fpAux_element1 (xen e0 e1 : Exc) : (fpAux xen e0 e1).getLsbD 6 = decide (e1 &&& xen ≠ 0) := by
  unfold fpAux
  rw [BitVec.getLsbD_ofNat, (testBit_add_marks (e0 ||| e1).isLt _ _).2]
  rfl

/-! ## A floating word of a lone thread -/

/-- What `v` and its thread `u` are when the lane of `t` has trapped in `s` with the exceptions `e0` and `e1` of the word's two
elements. -/
def State.FloatTrapped (s : State) (iss : Issue) (t : Thread) (e0 e1 : Exc) (v : State) (u : Thread) : Prop :=
  let on := (e0 ||| e1) &&& t.xen
  v.thread? iss.gid t.lane = some u ∧ u.regs = t.regs ∧ u.fpstat = t.fpstat ∧ u.outst = t.outst ∧
    u.trr.pkt = iss.pkt ∧ u.trr.slot = iss.restartSlot ∧ u.trr.word = iss.word ∧ u.trr.cause = fpCause on ∧
    u.trr.aux.extractLsb' 0 5 = e0 ||| e1 ∧
    u.trr.aux.getLsbD 5 = decide (e0 &&& t.xen ≠ 0) ∧ u.trr.aux.getLsbD 6 = decide (e1 &&& t.xen ≠ 0) ∧
    u.st = (if t.outst = [] then .parked else .switch) ∧ v.mem = s.mem ∧
    (∃ l, v.issue = some { iss with lanes := iss.lanes &&& ~~~laneBit t.lane, subs := l }) ∧
    ∃ b ∈ v.subs, b.gid = iss.gid ∧ b.cause = u.trr.cause ∧ hasLane b.lanes t.lane = true

/-- The instruction traps the lane of `t` when the exceptions `e0` and `e1` hold an enabled one. -/
def State.FloatTraps (s : State) (iss : Issue) (t : Thread) (i : Instr) (e0 e1 : Exc) : Prop :=
  (e0 ||| e1) &&& t.xen ≠ 0 → ∃ v u, exec i s = .next v ∧ s.FloatTrapped iss t e0 e1 v u

section Shapes
variable {s : State} {iss : Issue} {t : Thread} (h : s.Solo iss t) {i : Instr}
include h

theorem State.Solo.floatTrapped (e0 e1 : Exc) :
    ∃ u, s.FloatTrapped iss t e0 e1 (s.trapLane ⟨t.lane, fpCause ((e0 ||| e1) &&& t.xen), fpAux t.xen e0 e1, 0, 0⟩) u := by
  refine ⟨_, State.thread?_trapLane h.isOpen h.here, rfl, rfl, rfl, rfl, rfl, rfl, rfl,
    fpAux_raised _ _ _, fpAux_element0 _ _ _, fpAux_element1 _ _ _, rfl, ?_⟩
  rw [State.trapLane_of_open h.isOpen]
  exact ⟨rfl, ⟨_, rfl⟩, Laws.join_mem _ _ _ _ _ _ h.lane_lt⟩

theorem State.Solo.floatTraps_of_trap {f : Thread → LaneRes} {e0 e1 : Exc} (hi : exec i s = .next (s.eachLane fun _ => f))
    (hf : (e0 ||| e1) &&& t.xen ≠ 0 → f t = .trap (fpCause ((e0 ||| e1) &&& t.xen)) (fpAux t.xen e0 e1)) :
    s.FloatTraps iss t i e0 e1 := by
  intro hon
  obtain ⟨u, hu⟩ := h.floatTrapped e0 e1
  exact ⟨_, u, hi.trans (congrArg Outcome.next (h.eachLane_trap (f := fun _ => f) (hf hon))), hu⟩

theorem State.Solo.fpDone_traps {f : Thread → LaneRes} {ws : List Wr} {e0 e1 : Exc}
    (hi : exec i s = .next (s.eachLane fun _ => f)) (hf : f t = fpDone t ws e0 e1) : s.FloatTraps iss t i e0 e1 :=
  h.floatTraps_of_trap hi fun hon => hf.trans (if_neg hon)

theorem State.Solo.sxDone_traps {f : Thread → LaneRes} {ws : List Wr} {e0 e1 : Exc}
    (hi : exec i s = .next (s.eachLane fun _ => f)) (hf : f t = sxDone t ws e0 e1) : s.FloatTraps iss t i e0 e1 :=
  h.floatTraps_of_trap hi fun hon => hf.trans (if_neg hon)

end Shapes

/-- Settles O15: every word is one of fixed latency or of the SX pipe, and the two take the same trap. -/
theorem floatTraps : Obligations.FloatTraps := by
  intro s iss t h cs d a b r traps p px
  have fixed {i : Instr} {f : Thread → LaneRes} {ws : List Wr} {e0 e1 : Exc} (hi : exec i s = .next (s.eachLane fun _ => f))
      (hf : f t = fpDone t ws e0 e1) : traps i e0 e1 := h.fpDone_traps hi hf
  have sx {i : Instr} {f : Thread → LaneRes} {ws : List Wr} {e0 e1 : Exc} (hi : exec i s = .next (s.eachLane fun _ => f))
      (hf : f t = sxDone t ws e0 e1) : traps i e0 e1 := h.sxDone_traps hi hf
  -- from here on only the shape of each word counts, not what its trap is
  clear_value traps
  exact ⟨
    -- add, sub, mul, min, max and fma in f32, f64, f16x2 and bf16x2
    fixed rfl rfl, fixed rfl rfl, fixed rfl rfl, fixed rfl rfl,
    fixed rfl rfl, fixed rfl rfl, fixed rfl rfl, fixed rfl rfl,
    fixed rfl rfl, fixed rfl rfl, fixed rfl rfl, fixed rfl rfl,
    fixed rfl rfl, fixed rfl rfl, fixed rfl rfl, fixed rfl rfl,
    fixed rfl rfl, fixed rfl rfl, fixed rfl rfl, fixed rfl rfl,
    fixed rfl rfl, fixed rfl rfl, fixed rfl rfl, fixed rfl rfl,
    -- fdivfix, fsqrtfix, frnd, fscale and fexpo in f32 and f64
    fixed rfl rfl, fixed rfl rfl, fun _ => fixed rfl rfl, fixed rfl rfl, fixed rfl rfl,
    fixed rfl rfl, fixed rfl rfl, fun _ => fixed rfl rfl, fixed rfl rfl, fixed rfl rfl,
    -- fcmp in f32 and f64
    fun _ _ => fixed rfl rfl, fun _ _ => fixed rfl rfl,
    -- the seeds in f32 and f64, exp2, log2, sin, cos and tanh
    sx rfl rfl, sx rfl rfl, sx rfl rfl, sx rfl rfl,
    sx rfl rfl, sx rfl rfl, sx rfl rfl, sx rfl rfl, sx rfl rfl,
    -- cvt among floating formats
    fun _ => sx rfl rfl, fun _ => sx rfl rfl, fun _ => sx rfl rfl, fun _ => sx rfl rfl, fun _ => sx rfl rfl, fun _ => sx rfl rfl,
    -- cvt with integers: f32 and 32 bits, f64 and 64 bits, f64 and 32 bits, f32 and 64 bits, between integers
    fun _ => sx rfl rfl, fun _ => sx rfl rfl, fun _ => sx rfl rfl, fun _ => sx rfl rfl,
    fun _ => sx rfl rfl, fun _ => sx rfl rfl, fun _ => sx rfl rfl, fun _ => sx rfl rfl,
    fun _ => sx rfl rfl, fun _ => sx rfl rfl, fun _ => sx rfl rfl, fun _ => sx rfl rfl,
    fun _ => sx rfl rfl, fun _ => sx rfl rfl, fun _ => sx rfl rfl, fun _ => sx rfl rfl,
    fun _ => sx rfl rfl, fun _ => sx rfl rfl,
    -- cvt with TD8 and into packed formats
    fun _ => sx rfl rfl, fun _ _ => sx rfl rfl, fun _ => sx rfl rfl, fun _ _ => sx rfl rfl,
    fun _ => sx rfl rfl, fun _ => sx rfl rfl,
    -- npk, npk.sat and nupk
    fun _ => ⟨sx rfl rfl, sx rfl rfl, sx rfl rfl⟩⟩

end Sys2Proof.Machine
end

section
/-! Numbers put together from bits and bytes (R112, R116 to R118): bit i of each, and what the counts, the reversals, the fields and
the Boolean functions do with every bit of their sources. -/
namespace Sys2Proof.Machine

/-! ## The bits of a number made of bits, and of one made of bytes -/

theorem bitsFrom_lt (f : ℕ → Bool) : ∀ n, bitsFrom f n < 2 ^ n
  | 0 => Nat.one_pos
  | n + 1 => by
    have ih := bitsFrom_lt f n
    rw [bitsFrom, pow_succ]
    split <;> omega

theorem bitsFrom_succ (f : ℕ → Bool) (n : ℕ) : bitsFrom f (n + 1) = 2 ^ n * (f n).toNat + bitsFrom f n := by
  rw [bitsFrom, Nat.add_comm]
  cases f n <;> simp

theorem testBit_bitsFrom (f : ℕ → Bool) : ∀ {n i : ℕ}, i < n → (bitsFrom f n).testBit i = f i
  | 0, _, h => absurd h (Nat.not_lt_zero _)
  | n + 1, i, h => by
    rw [bitsFrom_succ, Nat.testBit_two_pow_mul_add _ (bitsFrom_lt f n)]
    split
    · next hi => exact testBit_bitsFrom f hi
    · next hi =>
      obtain rfl : i = n := by omega
      cases f i <;> simp

theorem getLsbD_ofNat_bitsFrom (f : ℕ → Bool) {w i : ℕ} (h : i < w) : (BitVec.ofNat w (bitsFrom f w)).getLsbD i = f i := by
  rw [BitVec.getLsbD_ofNat, testBit_bitsFrom f h, decide_eq_true h, Bool.true_and]

/-- Bit i of a number is bit i mod 8 of its byte i / 8. -/
theorem testBit_natOf : ∀ (l : List Byte) (i : ℕ), (natOf l).testBit i = (l.getD (i / 8) 0).getLsbD (i % 8)
  | [], i => by simp [natOf]
  | b :: l, i => by
    rw [natOf, Nat.add_comm, show 256 = 2 ^ 8 from rfl, Nat.testBit_two_pow_mul_add _ b.isLt]
    split
    · next h => rw [Nat.div_eq_of_lt h, Nat.mod_eq_of_lt h]; rfl
    · next h =>
      obtain ⟨k, rfl⟩ : ∃ k, i = k + 8 := ⟨i - 8, by omega⟩
      rw [Nat.add_sub_cancel, testBit_natOf l k, Nat.add_div_right k (by decide), Nat.add_mod_right]
      rfl

theorem getD_bytesOf : ∀ (n v k : ℕ), k < n → (bytesOf n v).getD k 0 = BitVec.ofNat 8 (v / 256 ^ k)
  | 0, _, _, h => absurd h (Nat.not_lt_zero _)
  | n + 1, v, 0, _ => by simp [bytesOf]
  | n + 1, v, k + 1, h => by
    rw [bytesOf, List.getD_cons_succ, getD_bytesOf n _ k (by omega), pow_succ', Nat.div_div_eq_div_mul]

theorem getD_reverse_bytesOf {n k : ℕ} (v : ℕ) (h : k < n) :
    (bytesOf n v).reverse.getD k 0 = BitVec.ofNat 8 (v / 256 ^ (n - 1 - k)) := by
  have hl : k < (bytesOf n v).length := by rwa [bytesOf_length]
  rw [← getD_bytesOf n v (n - 1 - k) (by omega)]
  simp only [List.getD_eq_getElem?_getD, List.getElem?_reverse hl, bytesOf_length]

theorem getLsbD_byte (v k : ℕ) {j : ℕ} (h : j < 8) : (BitVec.ofNat 8 (v / 256 ^ k)).getLsbD j = v.testBit (8 * k + j) := by
  rw [BitVec.getLsbD_ofNat, show 256 ^ k = 2 ^ (8 * k) by rw [pow_mul]; rfl, Nat.testBit_div_two_pow, Nat.add_comm]
  simp [h]

/-! ## Reversals and counts (R112) -/

theorem getLsbD_iBitrev {w i : ℕ} (x : BitVec w) (h : i < w) : (iBitrev x).getLsbD i = x.getLsbD (w - 1 - i) :=
  getLsbD_ofNat_bitsFrom _ h

theorem getLsbD_iByterev {n i : ℕ} (x : BitVec (8 * n)) (h : i < 8 * n) :
    (iByterev x).getLsbD i = x.getLsbD (8 * (n - 1 - i / 8) + i % 8) := by
  have hn : 8 * n / 8 = n := Nat.mul_div_cancel_left n (by decide)
  rw [iByterev, hn, BitVec.getLsbD_ofNat, testBit_natOf, getD_reverse_bytesOf _ (by omega), getLsbD_byte _ _ (by omega)]
  simp [h, BitVec.testBit_toNat]

theorem toNat_iLzc {w : ℕ} (hw : w < 2 ^ 32) (x : BitVec w) : (iLzc x).toNat = if x = 0 then w else w - 1 - x.toNat.log2 := by
  rw [iLzc, BitVec.toNat_ofNat, Nat.mod_eq_of_lt]
  split <;> omega

/-- The bits above the leading one are zero, and the leading one is at `w - 1 - lzc`. -/
theorem iLzc_spec {w : ℕ} (hw : w < 2 ^ 32) (x : BitVec w) :
    (iLzc x).toNat ≤ w ∧ (∀ i, w - (iLzc x).toNat ≤ i → i < w → x.getLsbD i = false) ∧
      ((iLzc x).toNat < w → x.getLsbD (w - 1 - (iLzc x).toNat) = true) := by
  rw [toNat_iLzc hw]
  by_cases hx : x = 0
  · subst hx
    simp
  · have hne : x.toNat ≠ 0 := fun h => hx (BitVec.eq_of_toNat_eq h)
    have hlog : x.toNat.log2 < w := (Nat.log2_lt hne).mpr x.isLt
    rw [if_neg hx]
    refine ⟨by omega, fun i hi _ => ?_, fun _ => ?_⟩
    · have hlt : x.toNat < 2 ^ i := (Nat.log2_lt hne).mp (by omega)
      exact Nat.testBit_lt_two_pow hlt
    · rw [show w - 1 - (w - 1 - x.toNat.log2) = x.toNat.log2 by omega]
      exact Nat.testBit_log2 hne

/-- The bits below the trailing one are zero, and the trailing one is at `tzc`. -/
theorem iTzc_spec {w : ℕ} (hw : w < 2 ^ 32) (x : BitVec w) :
    (iTzc x).toNat ≤ w ∧ (∀ i, i < (iTzc x).toNat → x.getLsbD i = false) ∧
      ((iTzc x).toNat < w → x.getLsbD (iTzc x).toNat = true) := by
  cases hf : (List.range w).find? (fun i => x.getLsbD i) with
  | none =>
    have hn : (iTzc x).toNat = w := by rw [iTzc, hf, BitVec.toNat_ofNat]; exact Nat.mod_eq_of_lt hw
    rw [hn]
    refine ⟨le_refl w, fun i hi => ?_, fun h => absurd h (lt_irrefl w)⟩
    simpa using List.find?_eq_none.mp hf i (List.mem_range.mpr hi)
  | some k =>
    obtain ⟨hk, hmem, hbelow⟩ := List.find?_range_eq_some.mp hf
    have hkw : k < w := List.mem_range.mp hmem
    have hn : (iTzc x).toNat = k := by rw [iTzc, hf, BitVec.toNat_ofNat]; exact Nat.mod_eq_of_lt (hkw.trans hw)
    rw [hn]
    exact ⟨hkw.le, fun i hi => by simpa using hbelow i hi, fun _ => hk⟩

theorem toNat_iBcnt {w : ℕ} (hw : w < 2 ^ 32) (x : BitVec w) :
    (iBcnt x).toNat = ((List.range w).filter fun i => x.getLsbD i).length := by
  have hle : (List.range w).countP (fun i => x.getLsbD i) ≤ w := by
    simpa using List.countP_le_length (p := fun i => x.getLsbD i) (l := List.range w)
  rw [iBcnt, BitVec.toNat_ofNat, Nat.mod_eq_of_lt (by omega), List.countP_eq_length_filter]

/-- Settles O4: each function at every width, used at 32 and 64. -/
theorem bitCountsAndReversals : Obligations.BitCountsAndReversals :=
  ⟨fun x _ hi => ⟨getLsbD_iBitrev x hi, getLsbD_iByterev (n := 4) x hi⟩,
    fun x _ hi => ⟨getLsbD_iBitrev x hi, getLsbD_iByterev (n := 8) x hi⟩,
    iLzc_spec (by decide), iLzc_spec (by decide), iTzc_spec (by decide), iTzc_spec (by decide),
    toNat_iBcnt (by decide), toNat_iBcnt (by decide)⟩

/-! ## Fields (R116) -/

theorem fieldPos_add_fieldLen_le (b : W32) : fieldLen b = 0 ∨ fieldPos b + fieldLen b ≤ 32 := by
  unfold fieldLen fieldPos
  dsimp only
  split <;> omega

/-- The field of a that b names, as a number. -/
theorem testBit_field (a b : W32) (i : ℕ) :
    (a.toNat / 2 ^ fieldPos b % 2 ^ fieldLen b).testBit i = (decide (i < fieldLen b) && a.getLsbD (fieldPos b + i)) := by
  rw [Nat.testBit_mod_two_pow, Nat.testBit_div_two_pow, Nat.add_comm, BitVec.testBit_toNat]

theorem getLsbD_fextN (a b : W32) {i : ℕ} (h : i < 32) :
    (fextN a b).getLsbD i = (decide (i < fieldLen b) && a.getLsbD (fieldPos b + i)) := by
  rw [fextN, BitVec.getLsbD_ofNat, testBit_field]
  simp [h]

/-- A negative number of l bits, extended to w bits: ones from l on. -/
theorem getLsbD_ofInt_sub_two_pow {w l x i : ℕ} (hl : l ≤ w) (hx : x < 2 ^ l) (hi : i < w) :
    (BitVec.ofInt w ((x : Int) - 2 ^ l)).getLsbD i = if i < l then x.testBit i else true := by
  have hpow : 2 ^ l * 2 ^ (w - l) = 2 ^ w := by rw [← pow_add, Nat.add_sub_cancel' hl]
  have hnat : BitVec.ofInt w ((x : Int) - 2 ^ l) = BitVec.ofNat w (2 ^ l * (2 ^ (w - l) - 1) + x) := by
    have hone : 1 ≤ 2 ^ (w - l) := Nat.one_le_two_pow
    have hsum : ((2 ^ l * (2 ^ (w - l) - 1) + x : ℕ) : ℤ) = x - 2 ^ l + (2 ^ w : ℕ) := by
      rw [← hpow]
      push_cast [hone]
      ring
    have hzero : BitVec.ofNat w (2 ^ w) = 0#w := BitVec.eq_of_toNat_eq (by rw [BitVec.toNat_ofNat, Nat.mod_self, BitVec.toNat_zero])
    rw [← BitVec.ofInt_natCast, hsum, BitVec.ofInt_add, BitVec.ofInt_natCast _ (2 ^ w), hzero, BitVec.add_zero]
  rw [hnat, BitVec.getLsbD_ofNat, Nat.testBit_two_pow_mul_add _ hx, Nat.testBit_two_pow_sub_one]
  simp only [hi, decide_true, Bool.true_and]
  split
  · rfl
  · exact decide_eq_true (by omega)

theorem getLsbD_fextI (a b : W32) {i : ℕ} (h : i < 32) :
    (fextI a b).getLsbD i = if i < fieldLen b then a.getLsbD (fieldPos b + i)
      else decide (0 < fieldLen b) && a.getLsbD (fieldPos b + fieldLen b - 1) := by
  have hfit := fieldPos_add_fieldLen_le b
  have hx : a.toNat / 2 ^ fieldPos b % 2 ^ fieldLen b < 2 ^ fieldLen b := Nat.mod_lt _ (Nat.two_pow_pos _)
  have htop : fieldLen b ≠ 0 → (a.toNat / 2 ^ fieldPos b % 2 ^ fieldLen b).testBit (fieldLen b - 1) =
      a.getLsbD (fieldPos b + fieldLen b - 1) := by
    intro hl
    rw [testBit_field, decide_eq_true (by omega), Bool.true_and, Nat.add_sub_assoc (by omega)]
  unfold fextI
  dsimp only
  split
  · next hneg =>
    obtain ⟨hl, hsign⟩ := hneg
    rw [getLsbD_ofInt_sub_two_pow (by omega) hx h, testBit_field, ← htop hl, hsign]
    simp +contextual [Nat.pos_of_ne_zero hl]
  · next hpos =>
    rw [BitVec.getLsbD_ofNat, testBit_field, decide_eq_true h, Bool.true_and]
    split
    · next hi => rw [decide_eq_true hi, Bool.true_and]
    · next hi =>
      by_cases hl : fieldLen b = 0
      · simp [hl]
      · have hsign : a.getLsbD (fieldPos b + fieldLen b - 1) = false := by
          rw [← htop hl]
          simpa [hl] using hpos
        simp [hi, hsign]

theorem getLsbD_finsOp (d a b : W32) {i : ℕ} (h : i < 32) :
    (finsOp d a b).getLsbD i =
      if fieldPos b ≤ i ∧ i < fieldPos b + fieldLen b then a.getLsbD (i - fieldPos b) else d.getLsbD i := by
  have hmask : (BitVec.ofNat 32 ((2 ^ fieldLen b - 1) * 2 ^ fieldPos b)).getLsbD i =
      decide (fieldPos b ≤ i ∧ i < fieldPos b + fieldLen b) := by
    rw [BitVec.getLsbD_ofNat, Nat.testBit_mul_two_pow, Nat.testBit_two_pow_sub_one]
    simp only [h, decide_true, Bool.true_and, ← Bool.decide_and]
    exact decide_eq_decide.mpr (by omega)
  rw [finsOp]
  simp only [BitVec.getLsbD_or, BitVec.getLsbD_and, BitVec.getLsbD_not, hmask, h, decide_true, Bool.true_and]
  by_cases hin : fieldPos b ≤ i ∧ i < fieldPos b + fieldLen b
  · simp only [BitVec.getLsbD_ofNat, Nat.testBit_mul_two_pow, BitVec.testBit_toNat, hin, h]
    simp
  · simp [hin]

/-! ## Selected bytes and Boolean functions (R117, R118) -/

theorem getLsbD_pickByte (a : W32) (c : Byte) {j : ℕ} (h : j < 8) :
    (pickByte a c).getLsbD j =
      if c.extractLsb' 2 2 = 0 then a.getLsbD (8 * (c.extractLsb' 0 2).toNat + j)
      else if c.extractLsb' 2 2 = 1 then a.getLsbD (8 * (c.extractLsb' 0 2).toNat + 7)
      else decide (c.extractLsb' 2 2 = 3) := by
  have hmode : ∀ m : BitVec 2, m = 0 ∨ m = 1 ∨ m = 2 ∨ m = 3 := by decide
  have hones : (0xFF : Byte).getLsbD j = true := by
    rw [show (0xFF : Byte) = BitVec.allOnes 8 from rfl, BitVec.getLsbD_allOnes]
    exact decide_eq_true h
  unfold pickByte
  rcases hmode (c.extractLsb' 2 2) with hm | hm | hm | hm <;> simp only [hm]
  · simp [h]
  · have hmsb : (a.extractLsb' (8 * (c.extractLsb' 0 2).toNat) 8).msb = a.getLsbD (8 * (c.extractLsb' 0 2).toNat + 7) := by
      simp [BitVec.msb_eq_getLsbD_last]
    rw [hmsb]
    cases a.getLsbD (8 * (c.extractLsb' 0 2).toNat + 7)
    · simp
    · exact hones
  · simp
  · exact hones

theorem getLsbD_bpickOp (a b : W32) {i j : ℕ} (hi : i < 4) (hj : j < 8) :
    (bpickOp a b).getLsbD (8 * i + j) = (pickByte a (b.extractLsb' (8 * i) 8)).getLsbD j := by
  unfold bpickOp
  simp only [BitVec.getLsbD_append]
  obtain rfl | rfl | rfl | rfl : i = 0 ∨ i = 1 ∨ i = 2 ∨ i = 3 := by omega
  · rw [if_pos (by omega), if_pos (by omega), if_pos (by omega), Nat.mul_zero, Nat.zero_add]
  · rw [if_pos (by omega), if_pos (by omega), if_neg (by omega), Nat.add_sub_cancel_left]
  · rw [if_pos (by omega), if_neg (by omega)]
    exact congrArg _ (Nat.add_sub_cancel_left 16 j)
  · rw [if_neg (by omega)]
    exact congrArg _ (Nat.add_sub_cancel_left 24 j)

theorem getLsbD_bfn3Op (tt : Byte) (a b c : W32) {i : ℕ} (h : i < 32) :
    (bfn3Op tt a b c).getLsbD i =
      tt.getLsbD (boolBit (a.getLsbD i) + 2 * boolBit (b.getLsbD i) + 4 * boolBit (c.getLsbD i)) :=
  getLsbD_ofNat_bitsFrom _ h

theorem mul_boolBit (n : ℕ) (b : Bool) : n * boolBit b = if b then n else 0 := by cases b <;> simp [boolBit]

/-- Settles O8, bit by bit. -/
theorem fieldsAndBitFunctions : Obligations.FieldsAndBitFunctions := by
  refine ⟨fun d a b i hi => ⟨getLsbD_fextN a b hi, getLsbD_fextI a b hi, getLsbD_finsOp d a b hi⟩, fun a b i j hi hj => ?_,
    fun tt a b c i hi => ?_⟩
  · exact (getLsbD_bpickOp a b hi hj).trans (getLsbD_pickByte a _ hj)
  · rw [getLsbD_bfn3Op tt a b c hi, mul_boolBit, mul_boolBit]
    rfl

end Sys2Proof.Machine
end

section
/-! The integer words (R50, R51, R57, R58, R111 to R119): the operations of R112 in whole numbers, at every width; then one lemma for
each shape of word, which each word's statement cites. -/
namespace Sys2Proof.Machine

/-! ## Saturation -/

theorem satInt_eq_clamp {x lo hi : ℤ} (h : lo ≤ hi) : satInt x lo hi = max lo (min hi x) := by
  unfold satInt
  split_ifs <;> omega

theorem satInt_signed (w : ℕ) (x : ℤ) : satInt x (intMin true w) (intMax true w) = max (-2 ^ (w - 1)) (min (2 ^ (w - 1) - 1) x) := by
  have hpos : (0 : ℤ) < 2 ^ (w - 1) := by positivity
  exact satInt_eq_clamp (show -2 ^ (w - 1) ≤ (2 ^ (w - 1) - 1 : ℤ) by omega)

theorem intMax_unsigned (w : ℕ) : intMax false w = 2 ^ w - 1 := rfl

theorem satInt_unsigned (w n : ℕ) : satInt n 0 (intMax false w) = (min (2 ^ w - 1) n : ℕ) := by
  have hpos : 0 < 2 ^ w := Nat.two_pow_pos w
  have hcast : ((2 ^ w : ℕ) : ℤ) = 2 ^ w := Nat.cast_pow 2 w
  rw [intMax_unsigned, ← hcast, satInt_eq_clamp (by omega)]
  omega

/-! ## The operations of R112 in whole numbers -/

section Operations
variable {w : ℕ} (x y : BitVec w) (n : W32)

theorem iAddSatS_eq : iAddSatS x y = BitVec.ofInt w (max (-2 ^ (w - 1)) (min (2 ^ (w - 1) - 1) (x.toInt + y.toInt))) :=
  congrArg _ (satInt_signed w _)

theorem iSubSatS_eq : iSubSatS x y = BitVec.ofInt w (max (-2 ^ (w - 1)) (min (2 ^ (w - 1) - 1) (x.toInt - y.toInt))) :=
  congrArg _ (satInt_signed w _)

theorem iAddSatU_eq : iAddSatU x y = BitVec.ofNat w (min (2 ^ w - 1) (x.toNat + y.toNat)) := by
  rw [iAddSatU, ← Int.natCast_add, satInt_unsigned, BitVec.ofInt_natCast]

theorem iSubSatU_eq : iSubSatU x y = BitVec.ofNat w (x.toNat - y.toNat) := by
  have hx : (x.toNat : ℤ) < 2 ^ w := by exact_mod_cast x.isLt
  have hsat : satInt ((x.toNat : ℤ) - y.toNat) 0 (intMax false w) = (x.toNat - y.toNat : ℕ) := by
    rw [intMax_unsigned, satInt_eq_clamp (by omega)]
    omega
  rw [iSubSatU, hsat, BitVec.ofInt_natCast]

theorem ite_slt {α : Type} (p q : α) : (if x.slt y then p else q) = if x.toInt < y.toInt then p else q :=
  if_congr BitVec.slt_iff_toInt_lt rfl rfl

theorem ite_ult {α : Type} (p q : α) : (if x.ult y then p else q) = if x.toNat < y.toNat then p else q :=
  if_congr BitVec.ult_iff_toNat_lt rfl rfl

theorem iAbs_eq : iAbs x = BitVec.ofInt w (x.toInt.natAbs : ℤ) := by
  unfold iAbs
  cases hm : x.msb with
  | false => rw [Int.natAbs_of_nonneg (BitVec.toInt_nonneg_of_msb_false hm), BitVec.ofInt_toInt]; rfl
  | true =>
    rw [Int.ofNat_natAbs_of_nonpos (BitVec.toInt_neg_of_msb_true hm).le, BitVec.ofInt_neg, BitVec.ofInt_toInt]
    rfl

theorem iSadd_eq (k : ℕ) : iSadd k x y = x + BitVec.ofNat w (y.toNat * 2 ^ k) := by
  rw [iSadd]
  congr 1
  apply BitVec.eq_of_toNat_eq
  rw [BitVec.toNat_shiftLeft, BitVec.toNat_ofNat, Nat.shiftLeft_eq]

theorem iShl_eq : iShl x n = BitVec.ofNat w (x.toNat * 2 ^ n.toNat) := by
  apply BitVec.eq_of_toNat_eq
  rw [iShl, BitVec.toNat_ofNat]
  split
  · next h =>
    have hdvd : 2 ^ w ∣ x.toNat * 2 ^ n.toNat := dvd_mul_of_dvd_right (pow_dvd_pow 2 h) _
    rw [Nat.mod_eq_zero_of_dvd hdvd]
    exact BitVec.toNat_zero
  · rw [BitVec.toNat_shiftLeft, Nat.shiftLeft_eq]

theorem iShr_eq : iShr x n = BitVec.ofNat w (x.toNat / 2 ^ n.toNat) := by
  apply BitVec.eq_of_toNat_eq
  rw [iShr, BitVec.toNat_ofNat, Nat.mod_eq_of_lt ((Nat.div_le_self ..).trans_lt x.isLt)]
  split
  · next h =>
    rw [Nat.div_eq_of_lt (x.isLt.trans_le (Nat.pow_le_pow_right (by decide) h))]
    exact BitVec.toNat_zero
  · rw [BitVec.toNat_ushiftRight, Nat.shiftRight_eq_div_pow]

theorem iSar_eq : iSar x n = BitVec.ofInt w (x.toInt / 2 ^ n.toNat) := by
  unfold iSar
  split
  · next h =>
    have hpow : (2 : ℤ) ^ w ≤ 2 ^ n.toNat := pow_le_pow_right₀ (by decide) h
    have hlo := BitVec.le_two_mul_toInt (x := x)
    have hhi := BitVec.two_mul_toInt_lt (x := x)
    cases hm : x.msb with
    | false =>
      have h0 := BitVec.toInt_nonneg_of_msb_false hm
      rw [Int.ediv_eq_zero_of_lt h0 (by omega)]
      simp
    | true =>
      have h0 := BitVec.toInt_neg_of_msb_true hm
      rw [Int.ediv_eq_neg_one_of_neg_of_le h0 (by omega), BitVec.ofInt_neg, BitVec.ofInt_ofNat, BitVec.neg_one_eq_allOnes]
      rfl
  · rw [BitVec.sshiftRight, Int.shiftRight_eq_div_pow]
    norm_cast

end Operations

/-! ## The shapes of words -/

section Shapes
variable {s : State} {iss : Issue} (h : s.issue = some iss) {d a b : Fld} {p : BitVec 3} {j : BitVec 9}
include h

theorem op32_eq {f g : W32 → W32 → W32} (hfg : ∀ x y, f x y = g x y) :
    op32 f d a b s = .next (s.lanesPut iss fun t => [.g d (g (rd t a) (rd t b))]) := by
  simp only [op32, alu_eq s iss _ h, hfg]

theorem un32_eq {f g : W32 → W32} (hfg : ∀ x, f x = g x) :
    un32 f d a s = .next (s.lanesPut iss fun t => [.g d (g (rd t a))]) := by
  simp only [un32, alu_eq s iss _ h, hfg]

theorem op64_eq {f g : W64 → W64 → W64} (hfg : ∀ x y, f x y = g x y) :
    op64 f d a b s = .next (s.lanesPut iss fun t => wr2 d (g (rd2 t a) (rd2 t b))) := by
  simp only [op64, alu_eq s iss _ h, hfg]

theorem un64_eq {f g : W64 → W64} (hfg : ∀ x, f x = g x) :
    un64 f d a s = .next (s.lanesPut iss fun t => wr2 d (g (rd2 t a))) := by
  simp only [un64, alu_eq s iss _ h, hfg]

theorem sh64_eq {f g : W64 → W32 → W64} (hfg : ∀ x n, f x n = g x n) :
    sh64 f d a b s = .next (s.lanesPut iss fun t => wr2 d (g (rd2 t a) (rd t b))) := by
  simp only [sh64, alu_eq s iss _ h, hfg]

theorem wide64_eq {f g : W32 → W32 → W64} (hfg : ∀ x y, f x y = g x y) :
    alu s (fun _ t => wr2 d (f (rd t a) (rd t b))) = .next (s.lanesPut iss fun t => wr2 d (g (rd t a) (rd t b))) := by
  simp only [alu_eq s iss _ h, hfg]

theorem cmp32_eq {f g : W32 → W32 → Bool} (hfg : ∀ x y, f x y = g x y) :
    cmp32 f p a b s = .next (s.lanesPut iss fun t => [.p p (g (rd t a) (rd t b))]) := by
  simp only [cmp32, alu_eq s iss _ h, hfg]

theorem cmp64_eq {f g : W64 → W64 → Bool} (hfg : ∀ x y, f x y = g x y) :
    cmp64 f p a b s = .next (s.lanesPut iss fun t => [.p p (g (rd2 t a) (rd2 t b))]) := by
  simp only [cmp64, alu_eq s iss _ h, hfg]

/-- A shift by an immediate: in range its function, else the decode trap (R58, R113). -/
theorem shImm_eq {f : W32 → W32 → W32} {g : W32 → W32}
    (hfg : 0 ≤ immOf iss j ∧ immOf iss j ≤ 31 → ∀ x, f x (BitVec.ofInt 32 (immOf iss j)) = g x) :
    shImm f d a j s = if 0 ≤ immOf iss j ∧ immOf iss j ≤ 31 then .next (s.lanesPut iss fun t => [.g d (g (rd t a))])
      else .next (s.decodeTrap 0x01) := by
  simp only [shImm, h]
  split
  · next hin => simp only [alu_eq s iss _ h, hfg hin]
  · rfl

end Shapes

/-! ## Two operands and one (R112) -/

/-- Settles O1: each word is `op32` of its operation, which the operation's lemma gives in whole numbers. -/
theorem integerBinaryWords32 : Obligations.IntegerBinaryWords32 := by
  intro s iss h cs d a b res
  have word {i : Instr} {f g : W32 → W32 → W32} (hi : exec i s = op32 f d a b s) (hfg : ∀ x y, f x y = g x y) :
      exec i s = res g := hi.trans (op32_eq h hfg)
  clear_value res
  exact ⟨
    -- add, sub, mul, mulh
    word rfl fun _ _ => rfl, word rfl fun _ _ => rfl, word rfl fun _ _ => rfl, word rfl fun _ _ => rfl, word rfl fun _ _ => rfl,
    -- saturating add and sub, min and max
    word rfl iAddSatS_eq, word rfl iAddSatU_eq, word rfl iSubSatS_eq, word rfl iSubSatU_eq,
    word rfl fun x y => ite_slt x y x y, word rfl fun x y => ite_ult x y x y,
    word rfl fun x y => ite_slt x y y x, word rfl fun x y => ite_ult x y y x,
    -- and, or, xor, andn
    word rfl fun _ _ => rfl, word rfl fun _ _ => rfl, word rfl fun _ _ => rfl, word rfl fun _ _ => rfl,
    -- sadd
    word rfl fun x y => iSadd_eq x y 1, word rfl fun x y => iSadd_eq x y 2,
    word rfl fun x y => iSadd_eq x y 3, word rfl fun x y => iSadd_eq x y 4,
    -- shifts and rotations
    word rfl iShl_eq, word rfl iShr_eq, word rfl iSar_eq, word rfl fun _ _ => rfl, word rfl fun _ _ => rfl⟩

/-- Settles O2: as for 32 bits; a shift's count and the operand that `addw` extends are 32-bit registers. -/
theorem integerBinaryWords64 : Obligations.IntegerBinaryWords64 := by
  intro s iss h cs d a b res sh wide
  have word {i : Instr} {f g : W64 → W64 → W64} (hi : exec i s = op64 f d a b s) (hfg : ∀ x y, f x y = g x y) :
      exec i s = res g := hi.trans (op64_eq h hfg)
  have short {i : Instr} {f g : W64 → W32 → W64} (hi : exec i s = sh64 f d a b s) (hfg : ∀ x n, f x n = g x n) :
      exec i s = sh g := hi.trans (sh64_eq h hfg)
  have product {i : Instr} {f : W32 → W32 → W64} {g : W32 → W32 → ℤ}
      (hi : exec i s = alu s fun _ t => wr2 d (f (rd t a) (rd t b)))
      (hfg : ∀ x y, f x y = BitVec.ofInt 64 (g x y)) : exec i s = wide g :=
    hi.trans (wide64_eq h (g := fun x y => BitVec.ofInt 64 (g x y)) hfg)
  clear_value res sh wide
  exact ⟨
    -- add, sub, mul, mulh
    word rfl fun _ _ => rfl, word rfl fun _ _ => rfl, word rfl fun _ _ => rfl, word rfl fun _ _ => rfl, word rfl fun _ _ => rfl,
    -- saturating add and sub, min and max
    word rfl iAddSatS_eq, word rfl iAddSatU_eq, word rfl iSubSatS_eq, word rfl iSubSatU_eq,
    word rfl fun x y => ite_slt x y x y, word rfl fun x y => ite_ult x y x y,
    word rfl fun x y => ite_slt x y y x, word rfl fun x y => ite_ult x y y x,
    -- and, or, xor, andn
    word rfl fun _ _ => rfl, word rfl fun _ _ => rfl, word rfl fun _ _ => rfl, word rfl fun _ _ => rfl,
    -- sadd
    word rfl fun x y => iSadd_eq x y 1, word rfl fun x y => iSadd_eq x y 2,
    word rfl fun x y => iSadd_eq x y 3, word rfl fun x y => iSadd_eq x y 4,
    -- shifts and rotations
    short rfl iShl_eq, short rfl iShr_eq, short rfl iSar_eq, short rfl fun _ _ => rfl, short rfl fun _ _ => rfl,
    -- addw and mulx
    short (f := fun x y => x + y.signExtend 64) rfl fun _ _ => rfl,
    short (f := fun x y => x + y.setWidth 64) rfl fun x y => congrArg (x + ·) (BitVec.ofNat_toNat 64 y).symm,
    product (f := fun x y => x.signExtend 64 * y.signExtend 64) rfl fun x y => (BitVec.ofInt_mul x.toInt y.toInt).symm,
    product (f := fun x y => x.setWidth 64 * y.setWidth 64) rfl fun x y => by
      rw [BitVec.ofInt_natCast, BitVec.ofNat_mul, BitVec.ofNat_toNat, BitVec.ofNat_toNat]⟩

/-- Settles O3: abs alone needs its whole-number form; the counts of 64 bits write one register. -/
theorem integerUnaryWords : Obligations.IntegerUnaryWords := by
  intro s iss h cs d a res res2 cnt
  have word {i : Instr} {f g : W32 → W32} (hi : exec i s = un32 f d a s) (hfg : ∀ x, f x = g x) : exec i s = res g :=
    hi.trans (un32_eq h hfg)
  have pair {i : Instr} {f g : W64 → W64} (hi : exec i s = un64 f d a s) (hfg : ∀ x, f x = g x) : exec i s = res2 g :=
    hi.trans (un64_eq h hfg)
  have count {i : Instr} {f : W64 → W32} (hi : exec i s = cnt64 f d a s) : exec i s = cnt f := hi.trans (alu_eq s iss _ h)
  clear_value res res2 cnt
  exact ⟨word rfl iAbs_eq, word rfl fun _ => rfl, word rfl fun _ => rfl, word rfl fun _ => rfl, word rfl fun _ => rfl,
    word rfl fun _ => rfl, word rfl fun _ => rfl, word rfl fun _ => rfl, word rfl fun _ => rfl,
    pair rfl iAbs_eq, pair rfl fun _ => rfl, pair rfl fun _ => rfl, pair rfl fun _ => rfl, pair rfl fun _ => rfl,
    pair rfl fun _ => rfl, count rfl, count rfl, count rfl⟩

/-! ## Comparisons (R114) -/

/-- Settles O5: the signed and unsigned orders of patterns are those of their numbers; p7 takes no write (R45). -/
theorem compareWords : Obligations.CompareWords := by
  intro s iss h cs d a b c32 c64
  have word {i : Instr} {f g : W32 → W32 → Bool} (hi : exec i s = cmp32 f d a b s) (hfg : ∀ x y, f x y = g x y) :
      exec i s = c32 g := hi.trans (cmp32_eq h hfg)
  have pair {i : Instr} {f g : W64 → W64 → Bool} (hi : exec i s = cmp64 f d a b s) (hfg : ∀ x y, f x y = g x y) :
      exec i s = c64 g := hi.trans (cmp64_eq h hfg)
  clear_value c32 c64
  exact ⟨
    -- eq, ne, lt, le, gt and ge of signed numbers, then lt, le, gt and ge of unsigned ones, in 32 bits
    word rfl beq_eq_decide, word rfl fun _ _ => decide_not.symm,
    word rfl fun _ _ => BitVec.slt_eq_decide, word rfl fun _ _ => BitVec.sle_eq_decide,
    word (f := fun x y => y.slt x) rfl fun _ _ => BitVec.slt_eq_decide, word (f := fun x y => y.sle x) rfl fun _ _ => BitVec.sle_eq_decide,
    word rfl fun _ _ => BitVec.ult_eq_decide, word rfl fun _ _ => BitVec.ule_eq_decide,
    word (f := fun x y => y.ult x) rfl fun _ _ => BitVec.ult_eq_decide, word (f := fun x y => y.ule x) rfl fun _ _ => BitVec.ule_eq_decide,
    -- the same in 64 bits
    pair rfl beq_eq_decide, pair rfl fun _ _ => decide_not.symm,
    pair rfl fun _ _ => BitVec.slt_eq_decide, pair rfl fun _ _ => BitVec.sle_eq_decide,
    pair (f := fun x y => y.slt x) rfl fun _ _ => BitVec.slt_eq_decide, pair (f := fun x y => y.sle x) rfl fun _ _ => BitVec.sle_eq_decide,
    pair rfl fun _ _ => BitVec.ult_eq_decide, pair rfl fun _ _ => BitVec.ule_eq_decide,
    pair (f := fun x y => y.ult x) rfl fun _ _ => BitVec.ult_eq_decide, pair (f := fun x y => y.ule x) rfl fun _ _ => BitVec.ule_eq_decide,
    -- p7
    fun _ _ => rfl⟩

/-! ## Immediates, constants, selections (R111, R113, R115 to R119) -/

theorem toNat_ofInt_of_count {k : ℤ} (h : 0 ≤ k ∧ k ≤ 31) : (BitVec.ofInt 32 k).toNat = k.toNat := by
  rw [BitVec.toNat_ofInt, Int.emod_eq_of_lt h.1 (by omega)]

/-- Settles O6: the statement's immediate is `immOf`, and a count in range is its own pattern. -/
theorem immediateWords : Obligations.ImmediateWords := by
  intro s iss h cs d a i imm res shift
  have word {j : Instr} (f : W32 → ℤ → W32) (hj : exec j s = opImm f d a i s) : exec j s = res fun x => f x imm :=
    hj.trans (alu_eq s iss _ h)
  have count {j : Instr} {f : W32 → W32 → W32} {g : W32 → ℕ → W32} (hj : exec j s = shImm f d a i s)
      (hfg : ∀ x n, f x n = g x n.toNat) : exec j s = shift fun x => g x imm.toNat :=
    hj.trans (shImm_eq h fun hin x => (hfg x _).trans (congrArg (g x) (toNat_ofInt_of_count hin)))
  clear_value shift res imm
  exact ⟨word (fun x n => x + BitVec.ofInt 32 n) rfl, word (fun x n => x &&& BitVec.ofInt 32 n) rfl,
    word (fun x n => x ||| BitVec.ofInt 32 n) rfl, word (fun x n => x ^^^ BitVec.ofInt 32 n) rfl,
    word (fun x n => x * BitVec.ofInt 32 n) rfl,
    count (g := fun x n => BitVec.ofNat 32 (x.toNat * 2 ^ n)) rfl iShl_eq,
    count (g := fun x n => BitVec.ofNat 32 (x.toNat / 2 ^ n)) rfl iShr_eq,
    count (g := fun x n => BitVec.ofInt 32 (x.toInt / 2 ^ n)) rfl iSar_eq⟩

/-- The predicate and its negation bit choose as their equation does (R119). -/
theorem ite_bne_one {α : Type} (p : Bool) (n : BitVec 1) (x y : α) :
    (if p != (n = 1) then x else y) = if (p = true) = (n = 0) then x else y := by
  have hbit : n = 0 ∨ n = 1 := by revert n; decide
  rcases hbit with rfl | rfl <;> cases p <;> rfl

/-- Settles O7: each word is `alu` of its writes, but for imx, which hands on its bits, and nop. -/
theorem constantsFieldsAndSelections : Obligations.ConstantsFieldsAndSelections := by
  intro s iss h cs d a b r put
  have word {i : Instr} {f : Issue → Thread → List Wr} {ws : Thread → List Wr} (hi : exec i s = alu s f)
      (hf : ∀ t, f iss t = ws t) : exec i s = put ws :=
    (hi.trans (alu_eq s iss f h)).trans (congrArg put (funext hf))
  have himx (i : BitVec 24) : exec (.imx cs i) s = .next { s with issue := some { iss with imm := some i } } := by
    have hexec : exec (.imx cs i) s = execImx cs i s := rfl
    rw [hexec, execImx, h]
  clear_value put
  exact ⟨fun i => word rfl fun _ => rfl, himx, word rfl fun _ => rfl, word rfl fun _ => rfl, word rfl fun _ => rfl,
    word rfl fun _ => rfl, word rfl fun _ => rfl, fun p hp => word rfl fun t => by rw [hp]; rfl,
    fun n p => ⟨word rfl fun t => congrArg (fun v => [Wr.g d v]) (ite_bne_one ..),
      word rfl fun t => congrArg (wr2 d) (ite_bne_one ..)⟩, rfl⟩

end Sys2Proof.Machine
end

section
/-! Exact values (R121, R124, R126): the signs of exact zeros, and the comparison of two values by what it asks of their order. -/
namespace Sys2Proof.Machine

/-! ## Zero signs (R121) -/

theorem ofRat_zero (z : Bool) : ofRat z 0 = .fin z 0 := rfl

theorem FVal.rat_fin_zero (s : Bool) : (FVal.fin s 0).rat = 0 := by cases s <;> simp [FVal.rat]

/-- A sum of finite values that is zero: two zeros of one sign keep it, and any other has the sign of the direction. -/
theorem fAdd_of_sum_zero (dir : Dir5) {s t : Bool} {x y : ℚ} (h : (FVal.fin s x).rat + (FVal.fin t y).rat = 0) :
    fAdd dir (.fin s x) (.fin t y) = (.fin (if x = 0 ∧ y = 0 ∧ s = t then s else decide (dir = .rd)) 0, 0) := by
  simp only [fAdd, h, ofRat_zero]

theorem fAdd_same_zeros (dir : Dir5) (s : Bool) : fAdd dir (.fin s 0) (.fin s 0) = (.fin s 0, 0) := by
  rw [fAdd_of_sum_zero dir (by rw [FVal.rat_fin_zero, add_zero]), if_pos ⟨rfl, rfl, rfl⟩]

theorem fFma_of_sum_zero (dir : Dir5) {s t u : Bool} {x y z : ℚ}
    (h : (FVal.fin (s != t) (x * y)).rat + (FVal.fin u z).rat = 0) :
    fFma dir (.fin s x) (.fin t y) (.fin u z) =
      (.fin (if x * y = 0 ∧ z = 0 ∧ (s != t) = u then u else decide (dir = .rd)) 0, 0) := by
  have hadd : fFma dir (.fin s x) (.fin t y) (.fin u z) =
      ((fAdd dir (.fin (s != t) (x * y)) (.fin u z)).1, 0 ||| (fAdd dir (.fin (s != t) (x * y)) (.fin u z)).2) := rfl
  rw [hadd, fAdd_of_sum_zero dir h]
  by_cases hz : x * y = 0 ∧ z = 0 ∧ (s != t) = u
  · simp only [hz.2.2]
    rfl
  · simp only [if_neg hz]
    rfl

/-- Settles O14: a sum that is zero has one of the signs of `fAdd_of_sum_zero`. -/
theorem zeroSigns : Obligations.ZeroSigns := by
  refine ⟨fun _ _ _ _ => rfl, fun dir s => ⟨fAdd_same_zeros dir s, ?_⟩, fun dir s t x y hsum hne => ?_,
    fun dir _ _ _ _ _ _ => fFma_of_sum_zero dir, fun _ _ _ _ => rfl⟩
  · rw [FVal.negate, Bool.not_not]
    exact fAdd_same_zeros dir s
  · rw [fAdd_of_sum_zero dir hsum, if_neg hne]

/-! ## Comparisons (R126) -/

/-- What the comparison of code cc asks of two ordered values, from whether the first is less, equal or greater (R126). -/
def ccHolds (cc : ℕ) (lt eq gt : Bool) : Bool :=
  match cc with
  | 0 => eq | 1 => !eq | 2 => lt | 3 => !gt | 4 => gt | 5 => !lt | 6 => false | _ => true

theorem fCompare_of_nan {a b : FVal} {cc : ℕ} (hcc : cc < 8) (h : a.isNan = true ∨ b.isNan = true) :
    fCompare cc a b = (decide (cc = 1 ∨ cc = 6), if (2 ≤ cc ∧ cc ≤ 5) ∨ a.isSig = true ∨ b.isSig = true then excNV else 0) := by
  have hun : (a.isNan || b.isNan) = true := by simpa using h
  unfold fCompare
  interval_cases cc <;> simp [hun]

theorem FVal.isSig_of_not_isNan {a : FVal} (h : a.isNan = false) : a.isSig = false := by
  cases a with
  | nan s => cases h
  | inf s | fin s x => rfl

theorem fCompare_of_ordered {a b : FVal} (cc : ℕ) (ha : a.isNan = false) (hb : b.isNan = false) :
    fCompare cc a b = (ccHolds cc (fLt a b) (fEq a b) (fLt b a), 0) := by
  unfold fCompare
  rw [ha, hb, FVal.isSig_of_not_isNan ha, FVal.isSig_of_not_isNan hb]
  exact Prod.ext rfl (by simp)

theorem fLt_fin (s t : Bool) (x y : ℚ) : fLt (.fin s x) (.fin t y) = decide ((FVal.fin s x).rat < (FVal.fin t y).rat) := rfl

theorem fEq_fin (s t : Bool) (x y : ℚ) : fEq (.fin s x) (.fin t y) = decide ((FVal.fin s x).rat = (FVal.fin t y).rat) := by
  rw [fEq, fLt_fin, fLt_fin, ← decide_not, ← decide_not, ← Bool.decide_and]
  exact decide_eq_decide.mpr (by rw [not_lt, not_lt, le_antisymm_iff, and_comm])

theorem not_decide_lt (p q : ℚ) : (!decide (p < q)) = decide (q ≤ p) := by
  rw [← decide_not]
  exact decide_eq_decide.mpr not_lt

theorem fEq_inf_fin (s t : Bool) (y : ℚ) : fEq (.inf s) (.fin t y) = false := by cases s <;> rfl
theorem fEq_fin_inf (s t : Bool) (y : ℚ) : fEq (.fin t y) (.inf s) = false := by cases s <;> rfl
theorem fEq_inf_inf (s t : Bool) : fEq (.inf s) (.inf t) = (s == t) := by cases s <;> cases t <;> rfl

end Sys2Proof.Machine
end

section
/-! The floating words (R62, R80, R84, R110, R120 to R142) where no exception traps: one lemma for each shape of word, of fixed latency
or of the SX pipe, which each word's statement cites. -/
namespace Sys2Proof.Machine

/-! ## The shapes of words -/

section Shapes
variable {s : State} {iss : Issue} (h : s.issue = some iss) {d : Fld}
include h

/-- A word of fixed latency whose exceptions are those of one result. -/
theorem fpDone_eq_of_one {ws : Thread → List Wr} {e : Thread → Exc} (hx : s.Unmasked iss e) :
    s.eachLane (fun _ t => fpDone t (ws t) (e t) 0) = s.lanesFlag iss ws e := by
  have hor : (fun t => e t ||| 0) = e := funext fun t => BitVec.or_zero
  have hdone := fpDone_eq s iss ws e (fun _ => 0) h
  rw [hor] at hdone
  exact hdone hx

/-- A word of the SX pipe whose exceptions are those of one result. -/
theorem sxDone_eq_of_one {ws : Thread → List Wr} {e : Thread → Exc} (hx : s.Unmasked iss e) :
    s.eachLane (fun _ t => sxDone t (ws t) (e t) 0) = s.lanesOwe iss ws e true := by
  have hor : (fun t => e t ||| 0) = e := funext fun t => BitVec.or_zero
  have hdone := sxDone_eq s iss ws e (fun _ => 0) h
  rw [hor] at hdone
  exact hdone hx

/-- A word of the SX pipe that raises nothing. -/
theorem sxDone_eq_of_none (ws : Thread → List Wr) :
    s.eachLane (fun _ t => sxDone t (ws t) 0 0) = s.lanesOwe iss ws (fun _ => 0) true :=
  sxDone_eq_of_one h fun _ _ => BitVec.zero_and

theorem fpu32_eq {f : Thread → FR} (hx : s.Unmasked iss fun t => (f t).exc) :
    fpu32 s d f = .next (s.lanesFlag iss (fun t => [.g d (b32 (f t))]) fun t => (f t).exc) :=
  congrArg Host.Outcome.next (fpDone_eq_of_one h hx)

theorem fpu64_eq {f : Thread → FR} (hx : s.Unmasked iss fun t => (f t).exc) :
    fpu64 s d f = .next (s.lanesFlag iss (fun t => wr2 d (b64 (f t))) fun t => (f t).exc) :=
  congrArg Host.Outcome.next (fpDone_eq_of_one h hx)

theorem fpuX2_eq {f : Thread → FR × FR} (hx : s.Unmasked iss fun t => (f t).1.exc ||| (f t).2.exc) :
    fpuX2 s d f = .next (s.lanesFlag iss (fun t => [.g d (pack16 (f t).1 (f t).2)]) fun t => (f t).1.exc ||| (f t).2.exc) :=
  congrArg Host.Outcome.next (fpDone_eq s iss _ _ _ h hx)

theorem sx32_eq {f : Thread → FR} (hx : s.Unmasked iss fun t => (f t).exc) :
    sx32 s d f = .next (s.lanesOwe iss (fun t => [.g d (b32 (f t))]) (fun t => (f t).exc) true) :=
  congrArg Host.Outcome.next (sxDone_eq_of_one h hx)

theorem sx64_eq {f : Thread → FR} (hx : s.Unmasked iss fun t => (f t).exc) :
    sx64 s d f = .next (s.lanesOwe iss (fun t => wr2 d (b64 (f t))) (fun t => (f t).exc) true) :=
  congrArg Host.Outcome.next (sxDone_eq_of_one h hx)

end Shapes

/-! ## Words of fixed latency -/

/-- Settles O9: each word is `fpu32`, `fpu64` or `fpuX2` of its operation. -/
theorem floatArithmeticWords : Obligations.FloatArithmeticWords := by
  intro s iss h cs d a b r fp fp2 fpx
  have one {i : Instr} {f : Thread → FR} (hi : exec i s = fpu32 s d f) : fp i f := fun hx => hi.trans (fpu32_eq h hx)
  have two {i : Instr} {f : Thread → FR} (hi : exec i s = fpu64 s d f) : fp2 i f := fun hx => hi.trans (fpu64_eq h hx)
  have packed {i : Instr} {f : Thread → FR × FR} (hi : exec i s = fpuX2 s d f) : fpx i f := fun hx => hi.trans (fpuX2_eq h hx)
  clear_value fp fp2 fpx
  exact ⟨
    -- add, sub, mul, min, max and fma in f32, f64, f16x2 and bf16x2
    one rfl, two rfl, packed rfl, packed rfl, one rfl, two rfl, packed rfl, packed rfl,
    one rfl, two rfl, packed rfl, packed rfl, one rfl, two rfl, packed rfl, packed rfl,
    one rfl, two rfl, packed rfl, packed rfl, one rfl, two rfl, packed rfl, packed rfl,
    -- fdivfix, fsqrtfix, frnd, fscale and fexpo in f32 and f64; fexpo writes one register in both
    one rfl, one rfl, fun _ => one rfl, one rfl, one rfl,
    two rfl, two rfl, fun _ => two rfl, two rfl, one rfl⟩

/-- Settles O10: no sign form looks at the exceptions that a thread enables. -/
theorem signBitWords : Obligations.SignBitWords := by
  intro s iss h cs d a b put
  have word {i : Instr} {ws : Thread → List Wr} (hi : exec i s = alu s fun _ => ws) : exec i s = put ws :=
    hi.trans (alu_eq s iss _ h)
  clear_value put
  exact ⟨word rfl, word rfl, word rfl, word rfl, word rfl, word rfl, word rfl, word rfl, word rfl, word rfl, word rfl, word rfl⟩

/-- Settles O11: the table is `fCompare_of_nan` and `fCompare_of_ordered` at each pair of kinds, and the words are of fixed latency. -/
theorem floatComparisonTable : Obligations.FloatComparisonTable := by
  refine ⟨⟨fun a b cc hcc h => fCompare_of_nan hcc h, fun s t x y cc hcc => ?_, fun s t y cc hcc => ⟨?_, ?_⟩,
    fun s t cc hcc => ?_⟩, fun s iss h cs a b => ⟨fun p x => ?_, fun p x => ?_⟩⟩
  · intro u v
    rw [fCompare_of_ordered cc rfl rfl, fLt_fin, fLt_fin, fEq_fin]
    interval_cases cc
    · rfl
    · exact congrArg (·, 0) (decide_not ..).symm
    · rfl
    · exact congrArg (·, 0) (not_decide_lt v u)
    · rfl
    · exact congrArg (·, 0) (not_decide_lt u v)
    · rfl
    · rfl
  · rw [fCompare_of_ordered cc rfl rfl, fEq_inf_fin]
    interval_cases cc <;> cases s <;> rfl
  · rw [fCompare_of_ordered cc rfl rfl, fEq_fin_inf]
    interval_cases cc <;> cases s <;> rfl
  · rw [fCompare_of_ordered cc rfl rfl, fEq_inf_inf]
    interval_cases cc <;> cases s <;> cases t <;> rfl
  · intro r hx
    exact congrArg Host.Outcome.next (fpDone_eq_of_one h hx)
  · intro r hx
    exact congrArg Host.Outcome.next (fpDone_eq_of_one h hx)

/-! ## The SX pipe -/

/-- Settles O12: each word is `sx32` or `sx64` of its function. -/
theorem sfuWords : Obligations.SfuWords := by
  intro s iss h cs d a sx sx2
  have one {i : Instr} {f : Thread → FR} (hi : exec i s = sx32 s d f) : sx i f := fun hx => hi.trans (sx32_eq h hx)
  have two {i : Instr} {f : Thread → FR} (hi : exec i s = sx64 s d f) : sx2 i f := fun hx => hi.trans (sx64_eq h hx)
  clear_value sx sx2
  exact ⟨one rfl, one rfl, two rfl, two rfl, one rfl, one rfl, one rfl, one rfl, one rfl⟩


/-- Settles O13: every form is a word of the SX pipe, which returns one register, a pair, two packed elements, a clamped value, or the
elements of a narrow format. -/
theorem conversionWords : Obligations.ConversionWords := by
  refine ⟨fun s iss h cs d a => ?_, fun s iss h cs d a b f => ?_⟩
  · intro sx sx2 packed clamp
    have one {i : Instr} {f : Thread → FR} (hi : exec i s = sx32 s d f) : sx i f := fun hx => hi.trans (sx32_eq h hx)
    have two {i : Instr} {f : Thread → FR} (hi : exec i s = sx64 s d f) : sx2 i f := fun hx => hi.trans (sx64_eq h hx)
    have both {i : Instr} {f : Thread → FR × FR}
        (hi : exec i s = .next (s.eachLane fun _ t => sxDone t [.g d (pack16 (f t).1 (f t).2)] (f t).1.exc (f t).2.exc)) :
        packed i f := fun hx => hi.trans (congrArg Host.Outcome.next (sxDone_eq s iss _ _ _ h hx))
    have clamped {i : Instr} {g : W64 → W32} (f : W64 → W32)
        (hi : exec i s = .next (s.eachLane fun _ t => sxDone t [.g d (f (rd2 t a))] 0 0))
        (hfg : ∀ x, f x = g x) : exec i s = clamp g := by
      obtain rfl : f = g := funext hfg
      exact hi.trans (congrArg Host.Outcome.next (sxDone_eq_of_none h _))
    clear_value sx sx2 packed clamp
    exact ⟨
      -- among f64, f32, f16 and bf16
      fun _ => one rfl, fun _ => two rfl, fun _ => one rfl, fun _ => one rfl, fun _ => one rfl, fun _ => one rfl,
      -- with integers: f32 and 32 bits, f64 and 64 bits, f64 and 32 bits, f32 and 64 bits, between integers
      fun _ => one rfl, fun _ => one rfl, fun _ => one rfl, fun _ => one rfl,
      fun _ => two rfl, fun _ => two rfl, fun _ => two rfl, fun _ => two rfl,
      fun _ => two rfl, fun _ => two rfl, fun _ => one rfl, fun _ => one rfl,
      fun _ => one rfl, fun _ => one rfl, fun _ => two rfl, fun _ => two rfl,
      fun _ => two rfl, fun _ => two rfl,
      -- with TD8, packed, clamped
      fun _ => two rfl, fun _ _ => one rfl, fun _ => one rfl, fun _ _ => one rfl,
      fun _ => both rfl, fun _ => both rfl,
      fun _ => clamped (fun x => BitVec.ofInt 32 (satInt x.toInt (intMin true 32) (intMax true 32))) rfl
        fun x => congrArg _ (satInt_signed 32 x.toInt),
      fun _ => clamped (fun x => BitVec.ofInt 32 (satInt x.toNat 0 (intMax false 32))) rfl
        fun x => by rw [satInt_unsigned, BitVec.ofInt_natCast]⟩
  · intro n w down up pack
    have packs {i : Instr} {sat : Bool} (hi : exec i s = .next (s.eachLane fun _ t => npkLane f sat d a b t)) : pack i sat :=
      fun hx => hi.trans (congrArg Host.Outcome.next (sxDone_eq_of_one h hx))
    exact ⟨packs rfl, packs rfl, fun hx => congrArg Host.Outcome.next (sxDone_eq_of_one h hx),
      congrArg Host.Outcome.next (sxDone_eq_of_none h _)⟩

end Sys2Proof.Machine
end

section
/-! Masks of lanes: which lanes a mask names, and the mask of a list of lanes. -/
namespace Sys2Proof.Machine

theorem hasLane_or (m n : Mask) (l : Nat) : hasLane (m ||| n) l = (hasLane m l || hasLane n l) := BitVec.getLsbD_or
theorem hasLane_laneBit (k l : Nat) : hasLane (laneBit k) l = (decide (l < 32) && decide (k = l)) := by
  simp only [hasLane, laneBit, BitVec.getLsbD_ofNat, Nat.testBit_two_pow]
theorem hasLane_of_ge (m : Mask) {l : Nat} (h : 32 ≤ l) : hasLane m l = false := BitVec.getLsbD_of_ge m l h
theorem mem_lanesOf {m : Mask} {l : Nat} : l ∈ lanesOf m ↔ hasLane m l = true := by
  simp only [lanesOf, List.mem_filter, List.mem_range, hasLane, and_iff_right_iff_imp]
  exact BitVec.lt_of_getLsbD
theorem nodup_lanesOf (m : Mask) : (lanesOf m).Nodup := List.nodup_range.filter _

theorem maskOf_append_singleton (ls : List Nat) (l : Nat) : maskOf (ls ++ [l]) = maskOf ls ||| laneBit l := by
  simp [maskOf]
theorem hasLane_maskOf (ls : List Nat) (l : Nat) : hasLane (maskOf ls) l = (decide (l < 32) && decide (l ∈ ls)) := by
  induction ls using List.reverseRecOn with
  | nil => simp [maskOf, hasLane]
  | append_singleton ls k ih =>
    rw [maskOf_append_singleton, hasLane_or, ih, hasLane_laneBit, ← Bool.and_or_distrib_left]
    simp [eq_comm]
theorem maskOf_lanesOf (m : Mask) : maskOf (lanesOf m) = m := by
  refine BitVec.eq_of_getLsbD_eq fun l hl => ?_
  simpa [hl, mem_lanesOf, hasLane] using hasLane_maskOf (lanesOf m) l

end Sys2Proof.Machine
end

section
/-! Taking a trap and leaving it (R148, R149, R151, R349): the sub-group that a lane joins, the traps of all lanes of a chain one
after another, and the release of a sub-group. -/
namespace Sys2Proof.Machine

/-! ## The sub-group of a trap -/

/-- A sub-group of one lane, as its first trap forms it. -/
def LTrap.newSub (x : LTrap) (gid id : Nat) (time : W64) : SubGroup :=
  { id, gid, lanes := laneBit x.lane, cause := x.cause, idx := none, taken := false, collecting := true, acc := x.acc, kind := x.kind,
    eng := none, time }
/-- A sub-group that one more lane has joined. -/
def SubGroup.join (b : SubGroup) (x : LTrap) : SubGroup :=
  { b with lanes := b.lanes ||| laneBit x.lane, acc := if x.lane < lowestLane b.lanes then x.acc else b.acc,
           kind := if x.lane < lowestLane b.lanes then x.kind else b.kind }
/-- Whether a sub-group is one that the open chain forms for a cause. -/
def SubGroup.forms (forming : List Nat) (gid : Nat) (cause : Byte) (b : SubGroup) : Bool :=
  forming.contains b.id && b.gid = gid && b.cause = cause

theorem joinSub_of_none {forming : List Nat} {subs : List SubGroup} {gid : Nat} {x : LTrap}
    (h : subs.find? (SubGroup.forms forming gid x.cause) = none) (nid : Nat) (time : W64) :
    joinSub forming subs gid nid time x = (subs ++ [x.newSub gid nid time], forming ++ [nid], nid + 1) := by
  unfold SubGroup.forms at h
  simp only [joinSub, h, LTrap.newSub]
theorem joinSub_of_some {forming : List Nat} {subs : List SubGroup} {gid : Nat} {x : LTrap} {b : SubGroup}
    (h : subs.find? (SubGroup.forms forming gid x.cause) = some b) (nid : Nat) (time : W64) :
    joinSub forming subs gid nid time x = (subs.map fun c => if c.id = b.id then b.join x else c, forming, nid) := by
  unfold SubGroup.forms at h
  simp only [joinSub, h, SubGroup.join]

theorem takeTrap_of_none {s : State} {iss : Issue} {x : LTrap}
    (h : s.subs.find? (SubGroup.forms iss.subs iss.gid x.cause) = none) (r : TrapRec) :
    s.takeTrap iss x r = { s with
      threads := s.threads.map fun t => if t.is iss.gid x.lane then t.park r else t,
      subs := s.subs ++ [x.newSub iss.gid s.nextId s.ptime], nextId := s.nextId + 1,
      issue := some { iss with lanes := iss.lanes &&& ~~~laneBit x.lane, subs := iss.subs ++ [s.nextId] } } := by
  simp only [State.takeTrap, joinSub_of_none h]
theorem takeTrap_of_some {s : State} {iss : Issue} {x : LTrap} {b : SubGroup}
    (h : s.subs.find? (SubGroup.forms iss.subs iss.gid x.cause) = some b) (r : TrapRec) :
    s.takeTrap iss x r = { s with
      threads := s.threads.map fun t => if t.is iss.gid x.lane then t.park r else t,
      subs := s.subs.map fun c => if c.id = b.id then b.join x else c,
      issue := some { iss with lanes := iss.lanes &&& ~~~laneBit x.lane } } := by
  simp only [State.takeTrap, joinSub_of_some h]

/-- The lane is in a sub-group of its trap's cause, if a mask can name it at all. -/
theorem exists_mem_joinSub (forming : List Nat) (subs : List SubGroup) (gid nid : Nat) (time : W64) (x : LTrap) :
    ∃ b ∈ (joinSub forming subs gid nid time x).1, b.gid = gid ∧ b.cause = x.cause ∧ hasLane b.lanes x.lane = decide (x.lane < 32) := by
  cases h : subs.find? (SubGroup.forms forming gid x.cause) with
  | none =>
    rw [joinSub_of_none h]
    exact ⟨_, List.mem_append_right _ (List.mem_singleton.mpr rfl), rfl, rfl, by simp [LTrap.newSub, hasLane_laneBit]⟩
  | some b =>
    rw [joinSub_of_some h]
    obtain ⟨⟨-, hgid⟩, hcause⟩ : (forming.contains b.id = true ∧ b.gid = gid) ∧ b.cause = x.cause := by
      simpa only [SubGroup.forms, Bool.and_eq_true, decide_eq_true_eq] using List.find?_some h
    refine ⟨b.join x, List.mem_map.mpr ⟨b, List.mem_of_find?_eq_some h, if_pos rfl⟩, hgid, hcause, ?_⟩
    by_cases hl : x.lane < 32
    · simp [SubGroup.join, hasLane_or, hasLane_laneBit, hl]
    · simp [hasLane_of_ge _ (Nat.le_of_not_lt hl), hl]

/-- Settles O23: the trap is one update, which changes the one thread and joins its lane to a sub-group. -/
theorem trapEntry : Obligations.TrapEntry := by
  intro s iss x r t ht hlane u
  refine ⟨⟨t.park r, State.thread?_takeTrap r ht, rfl, rfl, rfl, rfl, rfl, rfl, rfl, rfl⟩, fun l hl => ?_, fun k l hk => ?_,
    ⟨_, rfl, rfl⟩, Laws.join_mem _ _ _ _ _ x hlane, rfl, rfl, rfl, rfl, rfl⟩
  · exact Laws.find_map_other s.threads _ _ _ _ _ (fun _ => ⟨rfl, rfl⟩) (.inr hl)
  · exact Laws.find_map_other s.threads _ _ _ _ _ (fun _ => ⟨rfl, rfl⟩) (.inl hk)

/-! ## The decode trap of a chain -/

/-- A state in which the lanes of a list have taken the decode trap of the open chain, which had formed no sub-group. -/
def State.DecodeTrapped (s : State) (iss : Issue) (c : Byte) (ls : List Nat) (u : State) : Prop :=
  ∃ b : SubGroup, b.id = s.nextId ∧ b.gid = iss.gid ∧ b.cause = c ∧ b.lanes = maskOf ls ∧ b.collecting = true ∧
    u = { s with
      threads := s.threads.map fun t => if t.gid = iss.gid ∧ t.lane ∈ ls then t.park (iss.decodeRec c) else t,
      subs := s.subs ++ [b], nextId := s.nextId + 1,
      issue := some { iss with lanes := iss.lanes &&& ~~~maskOf ls, subs := [s.nextId] } }

/-- What the decode trap does to one lane more. -/
def Issue.decodeTrapLane (iss : Issue) (c : Byte) (s : State) (lane : Nat) : State :=
  match s.issue with
  | none => s
  | some i => s.takeTrap i ⟨lane, c, 0, 0, 0⟩ (iss.decodeRec c)

theorem decodeTrap_eq_foldl {s : State} {iss : Issue} (h : s.issue = some iss) (c : Byte) :
    s.decodeTrap c = (lanesOf iss.lanes).foldl (iss.decodeTrapLane c) s := by
  simp only [State.decodeTrap, h]
  rfl
theorem decodeTrapLane_of_open {s : State} {i : Issue} (h : s.issue = some i) (iss : Issue) (c : Byte) (l : Nat) :
    iss.decodeTrapLane c s l = s.takeTrap i ⟨l, c, 0, 0, 0⟩ (iss.decodeRec c) := by
  simp only [Issue.decodeTrapLane, h]

/-- The first lane forms the chain's sub-group. -/
theorem decodeTrapped_first {s : State} {iss : Issue} (h : s.issue = some iss) (hsubs : iss.subs = []) (c : Byte) (l : Nat) :
    s.DecodeTrapped iss c [l] (iss.decodeTrapLane c s l) := by
  have hnone : s.subs.find? (SubGroup.forms iss.subs iss.gid c) = none :=
    List.find?_eq_none.mpr fun b _ => by simp [SubGroup.forms, hsubs]
  refine ⟨LTrap.newSub ⟨l, c, 0, 0, 0⟩ iss.gid s.nextId s.ptime, rfl, rfl, rfl, by simp [LTrap.newSub, maskOf], rfl, ?_⟩
  rw [decodeTrapLane_of_open h, takeTrap_of_none hnone]
  simp [Thread.is, maskOf, hsubs]

/-- Threads that have parked once, and those of one lane more. -/
theorem map_park_append (ts : List Thread) (gid : Nat) (ls : List Nat) (l : Nat) (r : TrapRec) (hl : l ∉ ls) :
    (ts.map fun t => if t.gid = gid ∧ t.lane ∈ ls then t.park r else t).map (fun t => if t.is gid l then t.park r else t) =
      ts.map fun t => if t.gid = gid ∧ t.lane ∈ ls ++ [l] then t.park r else t := by
  rw [List.map_map]
  refine List.map_congr_left fun t _ => ?_
  by_cases hm : t.gid = gid ∧ t.lane ∈ ls
  · obtain ⟨hgid, hmem⟩ := hm
    have hne : t.lane ≠ l := fun he => hl (he ▸ hmem)
    simp [hgid, hmem, Thread.is, Thread.park, hne]
  · by_cases hgid : t.gid = gid
    · have hout : t.lane ∉ ls := fun hmem => hm ⟨hgid, hmem⟩
      simp [hgid, hout, Thread.is]
    · simp [hgid, Thread.is]

/-- Every later lane joins it. -/
theorem decodeTrapped_next {s u : State} {iss : Issue} {c : Byte} {ls : List Nat} {l : Nat}
    (hids : ∀ b ∈ s.subs, b.id < s.nextId) (hl : l ∉ ls) (hu : s.DecodeTrapped iss c ls u) :
    s.DecodeTrapped iss c (ls ++ [l]) (iss.decodeTrapLane c u l) := by
  obtain ⟨b, hid, hgid, hcause, hlanes, hcoll, rfl⟩ := hu
  have hfind : (s.subs ++ [b]).find? (SubGroup.forms [s.nextId] iss.gid c) = some b := by
    have hold : s.subs.find? (SubGroup.forms [s.nextId] iss.gid c) = none :=
      List.find?_eq_none.mpr fun o ho => by simp [SubGroup.forms, (hids o ho).ne]
    simp [List.find?_append, hold, SubGroup.forms, hid, hgid, hcause]
  have hmap (b' : SubGroup) : (s.subs ++ [b]).map (fun o => if o.id = b.id then b' else o) = s.subs ++ [b'] := by
    have hold : s.subs.map (fun o => if o.id = b.id then b' else o) = s.subs :=
      (List.map_congr_left fun o ho => if_neg (hid ▸ (hids o ho).ne)).trans (List.map_id _)
    simp [hold]
  refine ⟨b.join ⟨l, c, 0, 0, 0⟩, hid, hgid, hcause, by simp [SubGroup.join, hlanes, maskOf_append_singleton], hcoll, ?_⟩
  rw [decodeTrapLane_of_open rfl, takeTrap_of_some hfind]
  simp only [hmap, map_park_append _ _ _ _ _ hl, maskOf_append_singleton, BitVec.not_or, BitVec.and_assoc]

theorem decodeTrapped_foldl {s : State} {iss : Issue} {c : Byte} (hids : ∀ b ∈ s.subs, b.id < s.nextId) (rest : List Nat) :
    ∀ (ls : List Nat) (u : State), (ls ++ rest).Nodup → s.DecodeTrapped iss c ls u →
      s.DecodeTrapped iss c (ls ++ rest) (rest.foldl (iss.decodeTrapLane c) u) := by
  induction rest with
  | nil => exact fun ls u _ hu => by simpa using hu
  | cons l rest ih =>
    intro ls u hnodup hu
    have hl : l ∉ ls := fun hmem => (List.nodup_cons.mp (List.nodup_middle.mp hnodup)).1 (List.mem_append_left _ hmem)
    rw [List.append_cons] at hnodup ⊢
    exact ih _ _ hnodup (decodeTrapped_next hids hl hu)

/-- All lanes of a chain that has lanes, and has formed no sub-group, take the decode trap together. -/
theorem decodeTrapped_decodeTrap {s : State} {iss : Issue} (h : s.issue = some iss) (hsubs : iss.subs = [])
    (hids : ∀ b ∈ s.subs, b.id < s.nextId) (hlanes : iss.lanes ≠ 0) (c : Byte) :
    s.DecodeTrapped iss c (lanesOf iss.lanes) (s.decodeTrap c) := by
  rw [decodeTrap_eq_foldl h]
  have hnodup := nodup_lanesOf iss.lanes
  cases hl : lanesOf iss.lanes with
  | nil => exact absurd (by rw [← maskOf_lanesOf iss.lanes, hl]; rfl) hlanes
  | cons l rest => exact decodeTrapped_foldl hids rest [l] _ (by rwa [hl] at hnodup) (decodeTrapped_first h hsubs c l)

/-- Settles O22: after the last lane, the lanes that have trapped are those of the chain. -/
theorem decodeTrapEntry : Obligations.DecodeTrapEntry := by
  intro s iss c h hsubs hids hlanes u r
  obtain ⟨b, -, hgid, hcause, hmask, hcoll, hu⟩ := decodeTrapped_decodeTrap h hsubs hids hlanes c
  have hu : u = _ := hu
  rw [maskOf_lanesOf] at hmask
  rw [hu]
  refine ⟨List.map_congr_left fun t _ => ?_, ⟨_, rfl, ?_⟩,
    ⟨b, List.mem_append_right _ (List.mem_singleton.mpr rfl), hgid, hcause, hmask, hcoll⟩, rfl, rfl, rfl⟩
  · simp only [mem_lanesOf, Thread.inMask, Bool.and_eq_true, decide_eq_true_eq]
    rfl
  · rw [maskOf_lanesOf]
    exact BitVec.and_not_self _

/-! ## The release of a sub-group -/

/-- The threads and the queue after a sub-group's release, before its threads form fetch sets again. -/
def State.freed (s : State) (b : SubGroup) : State :=
  { s with
    subs := s.subs.filter fun x => x.id ≠ b.id,
    threads := s.threads.map fun t =>
      if t.inMask b.gid b.lanes && t.st = TSt.parked then { t with st := .ready, pkt := t.trr.pkt, slot := t.trr.slot } else t }

theorem releaseSub_of_held {s : State} {b : SubGroup} (h : (s.subs.find? fun x => x.id = b.id) = some b) :
    s.releaseSub b.id = ((s.freed b).enset b.gid b.lanes).recordRelease ((s.freed b).group b.gid) := by
  simp only [State.releaseSub, h, State.freed]

/-- Settles O24: what follows the release of the threads forms fetch sets and makes the herd runnable, no more. -/
theorem trapReturn : Obligations.TrapReturn := by
  intro s b hb u
  have hu : u = _ := releaseSub_of_held hb
  rw [hu]
  refine ⟨fun x hx => ?_, rfl, rfl, rfl, rfl⟩
  simp only [State.recordRelease_subs, State.enset_subs, State.freed] at hx
  simpa using (List.mem_filter.mp hx).2

end Sys2Proof.Machine
end

section
/-! The end of a chain (R146, R153, R155, R158, R356): the trap that `brk`, `sys` or a step raises for a lane, and how any other
lane goes on. -/
namespace Sys2Proof.Machine

theorem thread?_lane {s : State} {gid l : Nat} {t : Thread} (h : s.thread? gid l = some t) : t.lane = l := by
  have his := List.find?_some h
  simp only [Thread.is, Bool.and_eq_true, decide_eq_true_eq] at his
  exact his.2

/-- The slot and the word of a lane's chain that a step's record names: of the chain that it goes on with, or of this one (R155). -/
def Issue.firstOf (iss : Issue) (l : Nat) : BitVec 2 × W32 :=
  match (iss.conts.lookup l).filter Cont.kept with
  | some c => (c.cslot, c.cword)
  | none => (iss.first, iss.firstWord)

theorem Thread.complete_named (t : Thread) (iss : Issue) (shep step : Bool) :
    let u := t.complete iss shep step
    u.gid = t.gid ∧ u.lane = t.lane ∧ (u.cslot, u.cword) = iss.firstOf t.lane := by
  unfold Thread.complete
  extract_lets p k sw u v w r
  have hfirst : (u.cslot, u.cword) = iss.firstOf t.lane := by
    simp only [Issue.firstOf, u, k]
    cases (iss.conts.lookup t.lane).filter Cont.kept <;> rfl
  simp only [r]
  split_ifs <;> exact ⟨rfl, rfl, hfirst⟩

theorem stepRec_complete (t : Thread) (iss : Issue) (shep step : Bool) (npkt : W32) (nslot : BitVec 2) (cpkt : W32) :
    stepRec (t.complete iss shep step) npkt nslot cpkt =
      ⟨npkt, nslot, 0x04, BitVec.ofNat 64 (cpkt.toNat + (iss.firstOf t.lane).1.toNat * 2 ^ 32), (iss.firstOf t.lane).2, cpkt,
        (iss.firstOf t.lane).1⟩ := by
  obtain ⟨-, -, hfirst⟩ := t.complete_named iss shep step
  rw [← hfirst, stepRec]

/-- Whether a lane's chain was issued with stepping on, and stepping still is (R155). -/
def Issue.stepsOf (iss : Issue) (g : Group) (l : Nat) : Bool :=
  (match (iss.conts.lookup l).filter Cont.kept with
   | some c => c.step
   | none => iss.step) && g.step

/-- The trap of a chain's end: the thread's chain counts, then it parks, in a sub-group of the cause. -/
theorem endTrap_parks {s : State} {iss : Issue} {t : Thread} {l : Nat} (h : s.issue = some iss) (ht : s.thread? iss.gid l = some t)
    (cause : Byte) (r : TrapRec) :
    (s.endTrap l cause r).thread? iss.gid l = some ((t.counted (s.group iss.gid).shep).park r) ∧
      ∃ b ∈ (s.endTrap l cause r).subs, b.gid = iss.gid ∧ b.cause = cause ∧ hasLane b.lanes l = decide (l < 32) := by
  have hend : s.endTrap l cause r =
      (s.updT iss.gid l fun t => t.counted (s.group iss.gid).shep).takeTrap iss ⟨l, cause, r.aux, 0, 0⟩ r := by
    simp only [State.endTrap, h]
  rw [hend]
  exact ⟨State.thread?_takeTrap (x := ⟨l, cause, r.aux, 0, 0⟩) r (Laws.thread_updT s iss.gid l _ t (fun _ => ⟨rfl, rfl⟩) ht),
    exists_mem_joinSub _ _ _ _ _ ⟨l, cause, r.aux, 0, 0⟩⟩

section
variable {s : State} {iss : Issue} {g : Group} {t : Thread} {l : Nat} (h : s.issue = some iss) (ht : s.thread? g.gid l = some t)
include h ht

theorem endLane_of_brk {k : BitVec 6} {w : W32} {sl : BitVec 2} (hfin : iss.fin = some (.brk k w sl)) :
    s.endLane g l = s.endTrap l 0x03
      ⟨(nextPlace iss.pkt iss.slot).1, (nextPlace iss.pkt iss.slot).2, 0x03, k.setWidth 64, w, iss.pkt, sl⟩ := by
  simp only [State.endLane, h, ht, hfin]
theorem endLane_of_sys {w : W32} {sl : BitVec 2} (hfin : iss.fin = some (.sys w sl)) :
    s.endLane g l = s.endTrap l 0x05
      ⟨(nextPlace iss.pkt iss.slot).1, (nextPlace iss.pkt iss.slot).2, 0x05, rd2 t 0, w, iss.pkt, sl⟩ := by
  simp only [State.endLane, h, ht, hfin]
theorem endLane_of_iret (hfin : iss.fin = some .iret) :
    s.endLane g l = (s.updCore g.pcore fun c => { c with handling := c.handling.erase l }).updT g.gid l
      fun t => { t with st := .exited, outst := [], pend := [] } := by
  simp only [State.endLane, h, ht, hfin]
theorem endLane_of_stepped (hfin : iss.fin = none) (hstep : iss.stepsOf g l = true) (hshep : g.shep = false)
    (hwaits : t.waits = false) :
    s.endLane g l = s.endTrap l 0x04 (stepRec (t.complete iss g.shep true) (iss.nextOf l).1 (iss.nextOf l).2 iss.pkt) := by
  have hif : (iss.stepsOf g l && !g.shep && !t.waits) = true := by simp [hstep, hshep, hwaits]
  rw [← hstep]
  simp only [State.endLane, h, ht, hfin]
  exact if_pos hif
theorem endLane_of_unstepped (hfin : iss.fin = none) (hnot : iss.stepsOf g l = false ∨ g.shep = true ∨ t.waits = true) :
    s.endLane g l = s.updT g.gid l fun t => t.complete iss g.shep (iss.stepsOf g l) := by
  have hif : ¬(iss.stepsOf g l && !g.shep && !t.waits) = true := by
    rcases hnot with hstep | hshep | hwaits
    · simp [hstep]
    · simp [hshep]
    · simp [hwaits]
  simp only [State.endLane, h, ht, hfin]
  exact if_neg hif
end

/-- Settles O18: one case for each way that a chain ends. -/
theorem chainEndOutcomes : Obligations.ChainEndOutcomes := by
  intro s iss g t l h hgid hg ht n after parks
  have parked {cause : Byte} {r : TrapRec} (hend : s.endLane g l = s.endTrap l cause r) (hr : r.cause = cause) : parks cause r := by
    have hp := endTrap_parks h (hgid ▸ ht) cause r
    rw [hgid, hg, ← hend] at hp
    exact ⟨hr, hp⟩
  refine ⟨fun k w sl hfin => parked (endLane_of_brk h ht hfin) rfl, fun w sl hfin => parked (endLane_of_sys h ht hfin) rfl,
    ⟨fun hfin hstep hshep hwaits => parked ?_ rfl, fun hfin hnot => ?_⟩, fun hfin => ?_⟩
  case refine_1 =>
    refine (endLane_of_stepped h ht hfin hstep hshep hwaits).trans (congrArg (s.endTrap l 0x04) ?_)
    rw [stepRec_complete, thread?_lane ht]
    rfl
  case refine_2 =>
    have hnamed (x : Thread) := x.complete_named iss g.shep (iss.stepsOf g l)
    have hend : s.endLane g l = _ := endLane_of_unstepped h ht hfin hnot
    simp only [after, hend]
    exact Laws.thread_updT s g.gid l _ t (fun x => ⟨(hnamed x).1, (hnamed x).2.1⟩) ht
  case refine_3 =>
    simp only [after, endLane_of_iret h ht hfin]
    exact Laws.thread_updT _ g.gid l _ t (fun _ => ⟨rfl, rfl⟩) (by simpa [State.thread?] using ht)

end Sys2Proof.Machine
end

section
/-! Transfers of control (R33, R34, R156, R157, R358): the checks of a target, and what a transfer of a lone thread does. -/
namespace Sys2Proof.Machine
open Host (Outcome)

/-! ## A transfer of a lone thread -/

/-- The state after a lane's transfer to slot 0 of a packet has been recorded, with its link where it links. -/
def State.transferred (s : State) (iss : Issue) (t : Thread) (link : Bool) (x : Int) : State :=
  { s with
    issue := some { iss with xfer := iss.xfer ++ [(t.lane, BitVec.ofInt 32 x, 0)] },
    threads := if link then s.threads.map fun u => if u.is iss.gid t.lane then u.put [.g 63 (iss.pkt + 1)] else u else s.threads }

section
variable {s : State} {iss : Issue} {t : Thread} (h : s.Solo iss t) {tgt : Issue → Thread → Option Int} {x : Int}
include h

theorem transfer_of_good (link : Bool) (htgt : tgt iss t = some x) (hgood : s.badTarget (s.group iss.gid) x = none) :
    transfer s link tgt = .next (s.transferred iss t link x) := by
  refine congrArg Outcome.next (laneFold_ok s iss t _ _ h ?_)
  simp only [htgt, hgood, State.addXfer, h.isOpen]
  cases link <;> rfl
theorem transfer_of_bad (link : Bool) (htgt : tgt iss t = some x) {c : Byte} {a : W64}
    (hbad : s.badTarget (s.group iss.gid) x = some (c, a)) :
    transfer s link tgt = .next (s.trapLane ⟨t.lane, c, a, 0, 0⟩) := by
  refine congrArg Outcome.next (laneFold_trap s iss t _ _ _ _ _ _ h ?_)
  simp only [htgt, hbad]
theorem transfer_of_untaken (link : Bool) (htgt : tgt iss t = none) : transfer s link tgt = .next s := by
  refine congrArg Outcome.next (laneFold_ok s iss t _ _ h ?_)
  simp only [htgt]

theorem State.Solo.acquireCore (core : Nat) : (s.acquireCore core).Solo iss t := ⟨h.isOpen, h.only, h.here, h.sole⟩

/-- A system call that the context's library takes is a linking transfer to its entry, after an acquire (R358). -/
theorem execSys_of_forwarded {c : Context} (hc : s.ctx? (s.group iss.gid).ctx = some c) (hlib : c.forwards iss.pkt = true) (cs : CS) :
    execSys cs s = transfer (s.acquireCore (s.group iss.gid).pcore) true fun _ _ => some (c.libent.toNat : Int) := by
  have hc' : (s.acquireCore (s.group iss.gid).pcore).ctx? (s.group iss.gid).ctx = some c := hc
  simp only [execSys, h.isOpen, hc', hlib, if_true]
end

/-! ## The checks of a target (R33) -/

/-- Whether the page of an address lacks `pte.x`. -/
def State.deniesFetch (s : State) (ctx va : Nat) : Bool :=
  match s.xlWalk ctx va .fetch with
  | .fault 0x11 _ => true
  | _ => false

/-- The target of a group that is no shepherd's. -/
theorem badTarget_of_group (s : State) {g : Group} (hshep : g.shep = false) (x : Int) :
    let aux : W64 := (BitVec.ofInt 32 x).setWidth 64
    let va := heBase g.code.ent + 12 * x.toNat
    s.badTarget g x =
      if x < 0 ∨ 2 ^ 32 ≤ x ∨ (heLen g.code.ent : Int) < 12 * x + 12 then some (0x13, aux)
      else if !heRight g.code.ent 2 || s.deniesFetch g.ctx va || s.deniesFetch g.ctx (va + 11) then some (0x11, aux)
      else none := by
  simp only [State.badTarget, hshep, Bool.false_eq_true, if_false]
  rfl

/-- Settles O16: every word is a transfer, to the target that its form names. -/
theorem transferWords : Obligations.TransferWords := by
  constructor
  case left =>
    intro s iss t h dest from_ goes cs a o n p k
    have is_transfer (tgt : Issue → Thread → Option Int) {u : State} (hu : u.Solo iss t) (hgroup : u.group iss.gid = s.group iss.gid)
        {i : Instr} {link : Bool} {x : Int} (hi : exec i s = transfer u link tgt) (htgt : tgt iss t = some x) : from_ u i link x := by
      refine ⟨fun hgood => hi.trans (transfer_of_good hu link htgt (hgroup ▸ hgood)), fun c a hbad => ?_⟩
      exact hi.trans (transfer_of_bad hu link htgt (hgroup ▸ hbad))
    exact ⟨is_transfer (fun iss _ => some (relTarget iss o)) h rfl rfl rfl,
      is_transfer (fun iss _ => some (relTarget iss o)) h rfl rfl rfl,
      is_transfer (fun _ t => some ((rd t a).toNat : Int)) h rfl rfl rfl,
      is_transfer (fun _ t => some ((rd t a).toNat : Int)) h rfl rfl rfl,
      is_transfer (fun _ t => some ((rd t 63).toNat : Int)) h rfl rfl rfl,
      fun c hc hlib => is_transfer _ (h.acquireCore _) rfl (execSys_of_forwarded h hc hlib cs) rfl,
      fun htaken => is_transfer (fun iss t => if rdP t p = decide (n = 0) then some (relTarget iss k) else none) h rfl rfl (if_pos htaken),
      fun huntaken => transfer_of_untaken h false (if_neg huntaken)⟩
  case right =>
    intro s g x hshep aux out deny
    have hbad := badTarget_of_group s hshep x
    refine ⟨fun hout => hbad.trans (if_pos hout), fun hin hright => ?_, fun hin hright hfirst hlast => ?_⟩
    · refine hbad.trans ((if_neg hin).trans (if_pos ?_))
      simp [hright]
    · refine hbad.trans ((if_neg hin).trans (if_neg ?_))
      have hfirst : s.deniesFetch g.ctx _ = false := hfirst
      have hlast : s.deniesFetch g.ctx _ = false := hlast
      simp [hright, hfirst, hlast]

end Sys2Proof.Machine
end

section
/-! The merge of two runs (R165): what it holds, and its order. -/
namespace Sys2Proof.Machine

@[simp] theorem mergeRuns_nil_left (sg : Bool) (n : Nat) (ys : List W64) : mergeRuns sg (n + 1) [] ys = ys := by
  cases ys <;> rfl
@[simp] theorem mergeRuns_nil_right (sg : Bool) (n : Nat) (xs : List W64) : mergeRuns sg (n + 1) xs [] = xs := by
  cases xs <;> rfl
theorem mergeRuns_cons (sg : Bool) (n : Nat) (x : W64) (xs : List W64) (y : W64) (ys : List W64) :
    mergeRuns sg (n + 1) (x :: xs) (y :: ys) =
      if keyOf sg x ≤ keyOf sg y then x :: mergeRuns sg n xs (y :: ys) else y :: mergeRuns sg n (x :: xs) ys := rfl

theorem mergeRuns_perm (sg : Bool) (n : Nat) (xs ys : List W64) (h : xs.length + ys.length ≤ n) :
    (mergeRuns sg n xs ys).Perm (xs ++ ys) := by
  induction n generalizing xs ys with
  | zero =>
    obtain ⟨rfl, rfl⟩ : xs = [] ∧ ys = [] := by simpa using h
    exact .nil
  | succ n ih =>
    match xs, ys with
    | [], ys => simp
    | x :: xs, [] => simp
    | x :: xs, y :: ys =>
      simp only [List.length_cons] at h
      rw [mergeRuns_cons]
      split
      · exact (ih xs (y :: ys) (by simp only [List.length_cons]; omega)).cons x
      · exact ((ih (x :: xs) ys (by simp only [List.length_cons]; omega)).cons y).trans
          (List.perm_middle (l₁ := x :: xs)).symm

/-- A key that is at most every key of both runs is at most every key of their merge. -/
theorem le_of_mem_mergeRuns {sg : Bool} {n : Nat} {xs ys : List W64} (h : xs.length + ys.length ≤ n) {k : Int}
    (hxs : ∀ z ∈ xs, k ≤ keyOf sg z) (hys : ∀ z ∈ ys, k ≤ keyOf sg z) : ∀ z ∈ mergeRuns sg n xs ys, k ≤ keyOf sg z :=
  fun z hz => (List.mem_append.mp ((mergeRuns_perm sg n xs ys h).subset hz)).elim (hxs z) (hys z)

theorem mergeRuns_sorted (sg : Bool) (n : Nat) (xs ys : List W64) (h : xs.length + ys.length ≤ n)
    (hxs : xs.Pairwise fun x y => keyOf sg x ≤ keyOf sg y) (hys : ys.Pairwise fun x y => keyOf sg x ≤ keyOf sg y) :
    (mergeRuns sg n xs ys).Pairwise fun x y => keyOf sg x ≤ keyOf sg y := by
  induction n generalizing xs ys with
  | zero => exact .nil
  | succ n ih =>
    match xs, ys with
    | [], ys => simpa using hys
    | x :: xs, [] => simpa using hxs
    | x :: xs, y :: ys =>
      simp only [List.length_cons] at h
      obtain ⟨hx, hxs'⟩ := List.pairwise_cons.mp hxs
      obtain ⟨hy, hys'⟩ := List.pairwise_cons.mp hys
      rw [mergeRuns_cons]
      split
      · next hle =>
        have hlen : xs.length + (y :: ys).length ≤ n := by simp only [List.length_cons]; omega
        have hxy : ∀ z ∈ y :: ys, keyOf sg x ≤ keyOf sg z := List.forall_mem_cons.mpr ⟨hle, fun z hz => hle.trans (hy z hz)⟩
        exact .cons (le_of_mem_mergeRuns hlen hx hxy) (ih xs (y :: ys) hlen hxs' hys)
      · next hlt =>
        have hle : keyOf sg y ≤ keyOf sg x := (not_le.mp hlt).le
        have hlen : (x :: xs).length + ys.length ≤ n := by simp only [List.length_cons]; omega
        have hyx : ∀ z ∈ x :: xs, keyOf sg y ≤ keyOf sg z := List.forall_mem_cons.mpr ⟨hle, fun z hz => hle.trans (hx z hz)⟩
        exact .cons (le_of_mem_mergeRuns hlen hyx hy) (ih (x :: xs) ys hlen hxs hys')

/-- Settles O27. -/
theorem sortedMerge : Obligations.SortedMerge := by
  intro sg xs ys n hlen le hxs hys
  exact ⟨mergeRuns_sorted sg n xs ys hlen hxs hys, mergeRuns_perm sg n xs ys hlen⟩

end Sys2Proof.Machine
end

section
/-! Arriving at a convergence or cross-lane word (R159, R160, R164): a lone thread whose mask meets none that intersects it and differs
joins the lanes of its mask, or is the first of them. -/
namespace Sys2Proof.Machine
open Host (Outcome)

/-- Whether the lanes of an `Inst` wait at the open word. -/
def Inst.standsAt (x : Inst) (iss : Issue) : Bool := decide (x.gid = iss.gid ∧ x.pkt = iss.pkt ∧ x.slot = iss.slot)
/-- The threads once a lane waits at the open word. -/
def State.convThreads (s : State) (iss : Issue) (t : Thread) (ds : List Dest) : List Thread :=
  s.threads.map fun u => if u.is iss.gid t.lane then
    { u with st := .conv, wword := iss.word, pkt := iss.pkt, slot := iss.restartSlot, pend := u.pend ++ ds } else u
/-- The state after a lane has arrived in the `Inst` of its mask. -/
def State.joined (s : State) (iss : Issue) (t : Thread) (m : Mask) (op : XOp) (d : Fld) (ds : List Dest) (a : Arrival) : State :=
  match s.insts.find? fun x => x.standsAt iss && decide (x.mask = m) with
  | some x => { s with threads := s.convThreads iss t ds,
                       insts := s.insts.map fun y => if y.iid = x.iid then { y with arr := y.arr ++ [a] } else y }
  | none => { s with threads := s.convThreads iss t ds, nextId := s.nextId + 1,
                     insts := s.insts ++ [⟨s.nextId, iss.gid, iss.pkt, iss.slot, iss.word, m, op, d, [a]⟩] }

theorem arrive_of_outside (s : State) (iss : Issue) (t : Thread) {m : Mask} (h : hasLane m t.lane = false) (op : XOp) (d : Fld)
    (ds : List Dest) (a : Arrival) : s.arrive iss t m op d ds a = s.trapLane ⟨t.lane, 0x01, m.setWidth 64, 0, 0⟩ := by
  simp [State.arrive, h]

/-- The arrival where no mask at the word intersects the lane's and differs (R161). -/
theorem arrive_of_clear {s : State} {iss : Issue} {t : Thread} {m : Mask} (h : hasLane m t.lane = true)
    (hclear : ∀ x ∈ s.insts, x.standsAt iss = true → x.mask = m ∨ x.mask &&& m = 0) (op : XOp) (d : Fld) (ds : List Dest)
    (a : Arrival) : s.arrive iss t m op d ds a = s.joined iss t m op d ds a := by
  have hhere : (fun x : Inst => decide (x.gid = iss.gid) && decide (x.pkt = iss.pkt) && decide (x.slot = iss.slot)) =
      fun x => x.standsAt iss := by
    funext x
    simp [Inst.standsAt, Bool.decide_and, Bool.and_assoc]
  have hmet : ((s.insts.filter fun x => x.standsAt iss).filter fun x => decide (x.mask ≠ m) && decide (x.mask &&& m ≠ 0)) = [] := by
    refine List.filter_eq_nil_iff.mpr fun x hx => ?_
    obtain ⟨hmem, hat⟩ := List.mem_filter.mp hx
    rcases hclear x hmem hat with heq | hdisj
    · simp [heq]
    · simp [hdisj]
  have hfind : ((s.insts.filter fun x => x.standsAt iss).find? fun x => decide (x.mask = m)) =
      s.insts.find? fun x => x.standsAt iss && decide (x.mask = m) := by
    rw [List.find?_filter]
    congr 1
    funext x
    simp
  simp only [State.arrive, h, hhere, hmet, hfind, Bool.not_true, Bool.false_eq_true, if_false, List.head?_nil, State.joined] <;> rfl

/-- A cross-lane word of a lone thread is the arrival of that thread. -/
theorem crossWord_of_solo {s : State} {iss : Issue} {t : Thread} (h : s.Solo iss t) (op : XOp) (d : Fld) (ds : List Dest)
    (mask : Thread → Mask) (arr : Thread → Arrival) :
    crossWord s op d ds mask arr = .next (s.arrive iss t (mask t) op d ds { arr t with set := s.clock }) := by
  have hlane : hasLane iss.lanes t.lane = true := mem_lanesOf.mp (by simp [h.only])
  simp only [crossWord, h.isOpen, h.only, List.foldl_cons, List.foldl_nil, h.here, hlane, if_true]

/-- Settles O25: each family of words is `crossWord` of its operands. -/
theorem crossLaneArrival : Obligations.CrossLaneArrival := by
  intro s iss t h arrives cs d a b p q
  have cross {i : Instr} {op : XOp} {d : BitVec 6} {ds : List Dest} (mask : Thread → Mask) (arr : Thread → Arrival)
      (hi : exec i s = crossWord s op d ds mask arr) : arrives i op d ds (mask t) (arr t) := by
    have hword := hi.trans (crossWord_of_solo h op d ds mask arr)
    refine ⟨fun hout => ?_, fun hin hclear r hr => ?_⟩
    · rw [hword, arrive_of_outside s iss t hout]
    · rw [hword, arrive_of_clear hin hclear, hr]
      rfl
  have poll {i : Instr} {op : XOp} (hi : exec i s = pollWord s op p q b) := cross _ _ hi
  have xch {i : Instr} {op : XOp} (hi : exec i s = xchWord s op d a b) := cross _ _ hi
  have single {i : Instr} {op : XOp} (hi : exec i s = red32 s op d a b) := cross _ _ hi
  have double {i : Instr} {op : XOp} (hi : exec i s = red64 s op d a b) := cross _ _ hi
  have vmrg {i : Instr} {op : XOp} (hi : exec i s = vmrgWord s op d a b) := cross _ _ hi
  have bsort {i : Instr} {op : XOp} (hi : exec i s = bsortWord s op d a b) := cross _ _ hi
  have rank {i : Instr} {op : XOp} (hi : exec i s = rankWord s op d a b) := cross _ _ hi
  clear_value arrives
  exact ⟨cross (fun t => rd t a) (fun t => arrOf t 0 0 0 false) rfl,
    poll rfl, poll rfl, poll rfl, cross (fun t => rd t b) (fun t => arrOf t 0 0 0 (rdP t q)) rfl,
    xch rfl, xch rfl, xch rfl, xch rfl,
    single rfl, single rfl, single rfl, single rfl, single rfl, single rfl, single rfl, single rfl, single rfl, single rfl,
    double rfl, double rfl, double rfl, double rfl, double rfl, double rfl, double rfl, double rfl, double rfl, double rfl,
    vmrg rfl, vmrg rfl, bsort rfl, rank rfl, vmrg rfl, vmrg rfl, bsort rfl, rank rfl⟩

end Sys2Proof.Machine
end

section
/-! The results of the cross-lane forms (R103, R104, R160, R165, R166): what each form gives the arrived lanes, and the completion of
an `Inst`. -/
namespace Sys2Proof.Machine
open Host (Outcome)

/-! ## Lists of arrivals -/

theorem map_zipIdx_fst {α β : Type} (l : List α) (f : α → β) : (l.zipIdx.map fun q => f q.1) = l.map f := by
  rw [← List.zipIdx_map_fst 0 l, List.map_map]
  simp
theorem zip_map_range {α β : Type} (l : List α) (f : Nat → β) :
    l.zip ((List.range l.length).map f) = l.zipIdx.map fun q => (q.1, f q.2) := by
  rw [List.zipIdx_eq_zip_range', ← List.range_eq_range', List.zip_map_right]
  rfl

/-- The same writes for every arrived lane, no exception. -/
def toAll (a : List Arrival) (ws : List Wr) : List (Nat × List Wr) × Exc := (a.map fun r => (r.lane, ws), 0)
/-- The writes of each arrived lane, by its operands and its place among the lanes, no exception. -/
def toEach (a : List Arrival) (f : Arrival → Nat → List Wr) : List (Nat × List Wr) × Exc :=
  (a.zipIdx.map fun q => (q.1.lane, f q.1 q.2), 0)

theorem toEach_const (a : List Arrival) (f : Arrival → List Wr) : toEach a (fun r _ => f r) = (a.map fun r => (r.lane, f r), 0) :=
  congrArg (·, 0) (map_zipIdx_fst a fun r => (r.lane, f r))

/-! ## Results as writes -/

theorem wrW_32 (d : Fld) (v : W64) : wrW 32 d v = [.g d (v.setWidth 32)] := rfl
theorem wrW_64 (d : Fld) (v : W64) : wrW 64 d v = wr2 d v := rfl
theorem wrW_xW (dbl : Bool) (d : Fld) (v : W64) : wrW (xW dbl) d v = if dbl then wr2 d v else [.g d (v.setWidth 32)] := by
  cases dbl <;> rfl
theorem wrW_xW_ofNat (dbl : Bool) (d : Fld) (n : Nat) :
    wrW (xW dbl) d (BitVec.ofNat 64 n) = if dbl then wr2 d (BitVec.ofNat 64 n) else [.g d (BitVec.ofNat 32 n)] := by
  rw [wrW_xW, BitVec.setWidth_ofNat_of_le (by decide)]

/-! ## Integer reductions -/

theorem sumW_64 (l : List W64) : sumW 64 l = BitVec.ofNat 64 (l.map BitVec.toNat).sum :=
  BitVec.eq_of_toNat_eq (by simp [sumW])
theorem setWidth_sumW_32 (l : List W64) : (sumW 32 l).setWidth 32 = BitVec.ofNat 32 (l.map BitVec.toNat).sum := by
  rw [sumW, BitVec.setWidth_ofNat_of_le (by decide)]
  exact BitVec.eq_of_toNat_eq (by simp)

theorem sgnW_32 (x : W64) : sgnW 32 x = (x.setWidth 32).toInt := by rw [sgnW, BitVec.ofNat_toNat]
theorem sgnW_64 (x : W64) : sgnW 64 x = x.toInt := by rw [sgnW, BitVec.ofNat_toNat, BitVec.setWidth_eq]

/-- A pick keeps one of the values, and none is ranked before it. -/
theorem foldl_pick_least {lt : Int → Int → Bool} {rank : Int → Int} (hlt : ∀ x y, lt x y = decide (rank x < rank y))
    (key : W64 → Int) (l : List W64) (m : W64) :
    let z := l.foldl (fun m y => if lt (key y) (key m) then y else m) m
    z ∈ m :: l ∧ ∀ x ∈ m :: l, rank (key z) ≤ rank (key x) := by
  induction l generalizing m with
  | nil => simp
  | cons y ys ih =>
    intro z
    by_cases h : rank (key y) < rank (key m)
    · have hz : z = ys.foldl (fun m y => if lt (key y) (key m) then y else m) y := by simp [z, hlt, h]
      obtain ⟨hmem, hle⟩ := ih y
      rw [← hz] at hmem hle
      exact ⟨List.mem_cons_of_mem _ hmem, List.forall_mem_cons.mpr ⟨(hle y (List.mem_cons_self ..)).trans h.le, hle⟩⟩
    · have hz : z = ys.foldl (fun m y => if lt (key y) (key m) then y else m) m := by simp [z, hlt, h]
      obtain ⟨hmem, hle⟩ := ih m
      rw [← hz] at hmem hle
      obtain ⟨hm, hys⟩ := List.forall_mem_cons.mp hle
      refine ⟨?_, List.forall_mem_cons.mpr ⟨hm, List.forall_mem_cons.mpr ⟨hm.trans (not_lt.mp h), hys⟩⟩⟩
      rcases List.mem_cons.mp hmem with hmem | hmem
      · exact hmem ▸ List.mem_cons_self ..
      · exact List.mem_cons_of_mem _ (List.mem_cons_of_mem _ hmem)

theorem pickW_least {lt : Int → Int → Bool} {rank : Int → Int} (hlt : ∀ x y, lt x y = decide (rank x < rank y)) (key : W64 → Int)
    {l : List W64} (hl : l ≠ []) : pickW lt key l ∈ l ∧ ∀ x ∈ l, rank (key (pickW lt key l)) ≤ rank (key x) := by
  cases l with
  | nil => exact absurd rfl hl
  | cons x xs => exact foldl_pick_least hlt key xs x

/-! ## The forms -/

section
variable (d : Fld) (a : List Arrival)

theorem xResults_xch {op : XOp} (hop : op = .xchAt ∨ op = .xchBack ∨ op = .xchFwd ∨ op = .xchFlip) :
    xResults op d a = toEach a fun r _ => [.g d ((match xchSource op r.lane r.b with
      | some l => (xOf a l).getD r.x
      | none => r.x).setWidth 32)] := by
  rw [toEach_const]
  rcases hop with rfl | rfl | rfl | rfl <;> rfl

theorem xResults_addI_32 : xResults (.addI 32) d a = toAll a [.g d (BitVec.ofNat 32 (a.map fun r => r.x.toNat).sum)] := by
  have h : xResults (.addI 32) d a = toAll a (wrW 32 d (sumW 32 (a.map Arrival.x))) := rfl
  rw [h, wrW_32, setWidth_sumW_32, List.map_map]
  rfl
theorem xResults_addI_64 : xResults (.addI 64) d a = toAll a (wr2 d (BitVec.ofNat 64 (a.map fun r => r.x.toNat).sum)) := by
  have h : xResults (.addI 64) d a = toAll a (wrW 64 d (sumW 64 (a.map Arrival.x))) := rfl
  rw [h, wrW_64, sumW_64, List.map_map]
  rfl

/-- A scan gives each lane the sum up to it. -/
theorem xResults_scanI (w : Nat) :
    xResults (.scanI w) d a = toEach a fun _ i => wrW w d (sumW w ((a.take (i + 1)).map Arrival.x)) := by
  have h : xResults (.scanI w) d a = ((a.zip (scanInt w (a.map Arrival.x))).map fun r => (r.1.lane, wrW w d r.2), 0) := rfl
  rw [h, scanInt, List.length_map, zip_map_range, List.map_map]
  simp only [List.map_take]
  rfl
theorem xResults_scanI_32 :
    xResults (.scanI 32) d a = toEach a fun _ i => [.g d (BitVec.ofNat 32 ((a.take (i + 1)).map fun x => x.x.toNat).sum)] := by
  simp only [xResults_scanI, wrW_32, setWidth_sumW_32, List.map_map]
  rfl
theorem xResults_scanI_64 :
    xResults (.scanI 64) d a = toEach a fun _ i => wr2 d (BitVec.ofNat 64 ((a.take (i + 1)).map fun x => x.x.toNat).sum) := by
  simp only [xResults_scanI, wrW_64, sumW_64, List.map_map]
  rfl

/-- A reduction to the least operand: one that arrived, ranked before none. -/
theorem xResults_least {op : XOp} {dbl : Bool} {lt : Int → Int → Bool} {key : W64 → Int} {rank : Int → Int}
    (hres : xResults op d a = toAll a (wrW (xW dbl) d (pickW lt key (a.map Arrival.x))))
    (hlt : ∀ x y, lt x y = decide (rank x < rank y)) :
    ∃ m : W64, xResults op d a = toAll a (if dbl then wr2 d m else [.g d (m.setWidth 32)]) ∧
      (a ≠ [] → (∃ x ∈ a, x.x = m) ∧ ∀ x ∈ a, rank (key m) ≤ rank (key x.x)) := by
  refine ⟨pickW lt key (a.map Arrival.x), by rw [hres, wrW_xW], fun ha => ?_⟩
  obtain ⟨hmem, hle⟩ := pickW_least hlt key (l := a.map Arrival.x) (by simpa using ha)
  exact ⟨List.mem_map.mp hmem, fun x hx => hle x.x (List.mem_map_of_mem hx)⟩

/-- The leaves of the tree (R103): the operands of the lanes that have arrived. -/
theorem leaves_eq :
    ((List.range 32).map fun l => match a.findIdx? fun r => r.lane = l with
      | some k => ((a.map Arrival.x)[k]?).map BitVec.toNat
      | none => none) = (List.range 32).map fun l => (xOf a l).map BitVec.toNat := by
  refine List.map_congr_left fun l _ => ?_
  rw [xOf, List.find?_eq_bind_findIdx?_getElem?]
  cases a.findIdx? fun r => r.lane = l <;> simp

/-- The reduction tree of an operation over the arrived lanes, given to each of them with its exceptions. -/
def treeResults (o : RedOp) (dbl : Bool) : List (Nat × List Wr) × Exc :=
  let r := laneTree o (if dbl then f64 else f32) ((List.range 32).map fun l => (xOf a l).map BitVec.toNat)
  (a.map fun q => (q.lane, if dbl then wr2 d (BitVec.ofNat 64 r.bits) else [.g d (BitVec.ofNat 32 r.bits)]), r.exc)

theorem xResults_tree {op : XOp} {o : RedOp} {dbl : Bool}
    (h : op = .addF dbl ∧ o = .add ∨ op = .minF dbl ∧ o = .min ∨ op = .maxF dbl ∧ o = .max) :
    xResults op d a = treeResults d a o dbl := by
  rw [treeResults, ← leaves_eq]
  simp only [← wrW_xW_ofNat]
  rcases h with ⟨rfl, rfl⟩ | ⟨rfl, rfl⟩ | ⟨rfl, rfl⟩ <;> rfl

theorem xResults_scanF (dbl : Bool) :
    let r := scanFloat (if dbl then f64 else f32) (a.map fun x => x.x.toNat)
    xResults (.scanF dbl) d a = ((a.zip r.1).map fun q =>
      (q.1.lane, if dbl then wr2 d (BitVec.ofNat 64 q.2) else [.g d (BitVec.ofNat 32 q.2)]), r.2) := by
  intro r
  have h : xResults (.scanF dbl) d a =
      let r := scanFloat (xFmt dbl) ((a.map Arrival.x).map BitVec.toNat)
      ((a.zip r.1).map fun q => (q.1.lane, wrW (xW dbl) d (BitVec.ofNat 64 q.2)), r.2) := rfl
  rw [h, List.map_map]
  simp only [wrW_xW_ofNat]
  rfl

/-- The runs of both operands, merged (R165). -/
theorem xResults_vmrgLo (sg : Bool) : xResults (.vmrgLo sg) d a =
    toEach a fun _ i => wr2 d (((mergeRuns sg (2 * a.length) (a.map Arrival.x) (a.map Arrival.y))[i]?).getD 0) := by
  have h : xResults (.vmrgLo sg) d a =
    toEach a fun _ i => wr2 d (((mergeRuns sg (2 * a.length) (a.map Arrival.x) (a.map Arrival.y))[0 + i]?).getD 0) := rfl
  simpa only [Nat.zero_add] using h

/-- The one of a pair that is kept, where `p` holds when the second is the lesser. -/
theorem keep_of_pair {α : Type} (keepMin : Bool) (p : Prop) [Decidable p] (x y : α) :
    (if keepMin then (if p then y else x) else if p then x else y) = if keepMin = decide p then y else x := by
  cases keepMin <;> by_cases hp : p <;> simp [hp]

/-- A stage keeps the lesser of a pair in one of its lanes and the greater in the other (R166). -/
theorem xResults_bsort (sg : Bool) : xResults (.bsort sg) d a = toEach a fun r _ =>
    let q := r.lane ^^^ 2 ^ (r.b.toNat % 8)
    let keepMin : Bool := decide (r.lane < q) = decide (r.lane / 2 ^ (r.b.toNat / 8 % 8) % 2 = 0)
    wr2 d (match xOf a q with
      | none => r.x
      | some y => if keepMin = decide (keyOf sg y < keyOf sg r.x) then y else r.x) := by
  rw [toEach_const]
  refine congrArg (·, (0 : Exc)) (List.map_congr_left fun r _ => congrArg (Prod.mk r.lane) ?_)
  dsimp only
  cases xOf a (r.lane ^^^ 2 ^ (r.b.toNat % 8)) with
  | none => rfl
  | some y => exact congrArg (wr2 d) (keep_of_pair _ (keyOf sg y < keyOf sg r.x) r.x y)

theorem xResults_rank (sg : Bool) : xResults (.rank sg) d a = toEach a fun r _ => [.g d (BitVec.ofNat 32 (a.countP fun m =>
    decide (keyOf sg m.x < keyOf sg r.x) || (decide (m.x = r.x) && decide (m.lane < r.lane))))] := by
  rw [toEach_const]
  rfl

end

/-! ## Completion (R160) -/

theorem instReady_iff (s : State) (i : Inst) : s.instReady i = true ↔
    i.arr ≠ [] ∧ ∀ l ∈ lanesOf i.mask, (∃ x ∈ i.arr, x.lane = l) ∨ ∀ t, s.thread? i.gid l = some t → t.st = .exited := by
  simp only [State.instReady, Bool.and_eq_true, decide_eq_true_eq, List.all_eq_true, Bool.or_eq_true, List.any_eq_true]
  refine and_congr_right fun _ => forall₂_congr fun l _ => or_congr_right ?_
  cases s.thread? i.gid l <;> simp

/-- The arrivals in ascending order of lane. -/
def Inst.inOrder (i : Inst) : List Arrival := (List.range 32).filterMap fun l => i.arr.find? fun r => r.lane = l
/-- The faults of the controls of a `bsort` (R166). -/
def Inst.controlTraps (i : Inst) : List (Nat × W64) :=
  match i.op with
  | .bsort _ => bsortTraps i.inOrder
  | _ => []
/-- The state without an `Inst`. -/
def State.without (s : State) (i : Inst) : State := { s with insts := s.insts.filter fun x => x.iid ≠ i.iid }
/-- The state without an `Inst`, each arrived lane with the exceptions of its result. -/
def State.flagged (s : State) (i : Inst) : State :=
  (s.without i).mapLanes i.gid (maskOf (i.inOrder.map Arrival.lane)) fun t =>
    { t with fpstat := t.fpstat ||| (xResults i.op i.d i.inOrder).2.setWidth 32 }

theorem completeInst_of_faults {s : State} {i : Inst} (h : i.controlTraps ≠ []) :
    s.completeInst i = (s.without i).convFault i.gid i.controlTraps := if_pos h
theorem completeInst_of_reconv {s : State} {i : Inst} (h : i.op = .reconv) :
    s.completeInst i = (s.flagged i).wake i.gid (xResults i.op i.d i.inOrder).1 := by
  have hnone : i.controlTraps = [] := by simp [Inst.controlTraps, h]
  exact (if_neg (not_not.mpr hnone)).trans (if_pos h)
theorem completeInst_of_results {s : State} {i : Inst} (h : i.op ≠ .reconv) (hnone : i.controlTraps = []) :
    s.completeInst i = (i.inOrder.map Arrival.set).dedup.foldl (fun w k => w.wake i.gid
      ((xResults i.op i.d i.inOrder).1.filter fun x => i.inOrder.any fun y => decide (y.lane = x.1) && decide (y.set = k))) (s.flagged i) :=
  (if_neg (not_not.mpr hnone)).trans (if_neg h)

theorem instanceComplete_of_found {s : State} {i : Inst} (h : (s.insts.find? fun x => x.iid = i.iid) = some i) :
    exec (.instanceComplete i.iid) s = .next (if s.instReady i then s.completeInst i else s) := by
  change execInstanceComplete i.iid s = _
  simp only [execInstanceComplete, h]
theorem instanceComplete_of_absent {s : State} {id : Nat} (h : ∀ i ∈ s.insts, i.iid ≠ id) :
    exec (.instanceComplete id) s = .next s := by
  have hnone : (s.insts.find? fun x => x.iid = id) = none := List.find?_eq_none.mpr fun x hx => by simpa using h x hx
  change execInstanceComplete id s = _
  simp only [execInstanceComplete, hnone]

/-- Settles O26: a form's result is one of the shapes above, and the event completes what is ready. -/
theorem crossLaneResults : Obligations.CrossLaneResults := by
  refine ⟨?forms, ?event, fun s id h => instanceComplete_of_absent h⟩
  case forms =>
    intro a d all each pd from_ before best tree merged
    have least {op : XOp} {dbl : Bool} (key : W64 → Int) {le : W64 → W64 → Prop}
        (hres : xResults op d a = toAll a (wrW (xW dbl) d (pickW (fun x y => decide (x < y)) key (a.map Arrival.x))))
        (hle : ∀ m x, key m ≤ key x → le m x) : best op dbl le := by
      obtain ⟨m, hm, hleast⟩ := xResults_least d a (rank := id) hres fun _ _ => rfl
      exact ⟨m, hm, fun ha => ⟨(hleast ha).1, fun x hx => hle m x.x ((hleast ha).2 x hx)⟩⟩
    have greatest {op : XOp} {dbl : Bool} (key : W64 → Int) {le : W64 → W64 → Prop}
        (hres : xResults op d a = toAll a (wrW (xW dbl) d (pickW (fun x y => decide (y < x)) key (a.map Arrival.x))))
        (hle : ∀ m x, key x ≤ key m → le m x) : best op dbl le := by
      obtain ⟨m, hm, hleast⟩ := xResults_least d a (rank := Neg.neg) hres fun x y => by simp only [neg_lt_neg_iff]
      exact ⟨m, hm, fun ha => ⟨(hleast ha).1, fun x hx => hle m x.x (neg_le_neg_iff.mp ((hleast ha).2 x hx))⟩⟩
    exact ⟨rfl, rfl, rfl, rfl, rfl, fun op hop => xResults_xch d a hop, xResults_addI_32 d a, xResults_addI_64 d a,
      least (sgnW 32) rfl fun m x h => by rwa [sgnW_32, sgnW_32] at h,
      least (sgnW 64) rfl fun m x h => by rwa [sgnW_64, sgnW_64] at h,
      greatest (sgnW 32) rfl fun m x h => by rwa [sgnW_32, sgnW_32] at h,
      greatest (sgnW 64) rfl fun m x h => by rwa [sgnW_64, sgnW_64] at h,
      least (fun x => x.toNat) rfl fun _ _ h => Int.ofNat_le.mp h, least (fun x => x.toNat) rfl fun _ _ h => Int.ofNat_le.mp h,
      greatest (fun x => x.toNat) rfl fun _ _ h => Int.ofNat_le.mp h, greatest (fun x => x.toNat) rfl fun _ _ h => Int.ofNat_le.mp h,
      fun dbl => ⟨xResults_tree d a (.inl ⟨rfl, rfl⟩), xResults_tree d a (.inr (.inl ⟨rfl, rfl⟩)),
        xResults_tree d a (.inr (.inr ⟨rfl, rfl⟩))⟩,
      xResults_scanI_32 d a, xResults_scanI_64 d a, xResults_scanF d a, xResults_vmrgLo d a, fun _ => rfl, xResults_bsort d a,
      xResults_rank d a⟩
  case event =>
    intro s i h a u r bad v ready ofSet
    have hready : s.instReady i = true ↔ ready := instReady_iff s i
    have done (hr : ready) : exec (.instanceComplete i.iid) s = .next (s.completeInst i) := by
      rw [instanceComplete_of_found h, if_pos (hready.mpr hr)]
    refine ⟨fun hr hop => ?_, fun hr hop hbad => ?_, fun hr hbad => ?_, fun hr => ?_⟩
    · exact (done hr).trans (congrArg Outcome.next (completeInst_of_reconv hop))
    · exact (done hr).trans (congrArg Outcome.next (completeInst_of_results hop hbad))
    · exact (done hr).trans (congrArg Outcome.next (completeInst_of_faults hbad))
    · rw [instanceComplete_of_found h, if_neg (mt hready.mp hr)]

end Sys2Proof.Machine
end

section
/-! Writes of a scratchpad (R196, R254): what the written flock holds, and what the write leaves. -/
namespace Sys2Proof.Machine

theorem flock?_updFlock_other {s : State} {fid x : Nat} {g : Flock → Flock} (hg : ∀ k, (g k).fid = k.fid) (hx : x ≠ fid) :
    (s.updFlock fid g).flock? x = s.flock? x := by
  have hsame : ((fun k : Flock => decide (k.fid = x)) ∘ fun k => if k.fid = fid then g k else k) = fun k => decide (k.fid = x) := by
    funext k
    by_cases hk : k.fid = fid <;> simp [hk, hg]
  simp only [State.flock?, State.updFlock, List.find?_map, hsame]
  refine (Option.map_congr fun k hk => ?_).trans Option.map_id'
  have hkx : k.fid = x := by simpa using List.find?_some hk
  exact if_neg (hkx ▸ hx)

theorem flock?_scrWrite_other {s : State} {fid x : Nat} (off : Nat) (bs : List Byte) (hm : s.mons = []) (hx : x ≠ fid) :
    (s.scrWrite fid off bs).flock? x = s.flock? x := by
  unfold State.scrWrite
  rw [fireMonitors_of_no_hit (by simp [hm])]
  exact flock?_updFlock_other (fun _ => rfl) hx

/-- Settles O34. -/
theorem scratchpadFrame : Obligations.ScratchpadFrame := by
  intro s f off bs hf hw hm hscr
  have hwf : Memory.wf f.scr = true := hscr f (List.mem_of_find?_eq_some hf)
  refine ⟨_, flock?_scrWrite bs hf hw hm, fun a ha => ?outside, fun i hi => ?inside, rfl,
    fun x hx => flock?_scrWrite_other off bs hm hx, (scrWrite_of_no_mons f.fid off bs hm).1⟩
  case outside =>
    rw [scrByte_of_no_waiters (by exact hw), scrByte_of_no_waiters hw]
    exact memGet_memWrite_outside bs f.scr off a ha
  case inside =>
    rw [scrByte_of_no_waiters (by exact hw)]
    exact memGet_eq_of_memRead (memRead_memWrite bs f.scr off hwf) i hi

end Sys2Proof.Machine
end

section
/-! Read-modify-writes (R193): the packed halves of a word, and each operation on bit patterns. -/
namespace Sys2Proof.Machine

/-- A packed addition acts on each half alone. -/
theorem addX2_of_halves (f : Fmt) {lo hi lo' hi' : Nat} (hlo : lo < 2 ^ 16) (hhi : hi < 2 ^ 16) (hlo' : lo' < 2 ^ 16) (hhi' : hi' < 2 ^ 16) :
    addX2 f (lo + 2 ^ 16 * hi) (lo' + 2 ^ 16 * hi') =
      ⟨(redNode .add f lo lo').bits + 2 ^ 16 * (redNode .add f hi hi').bits, (redNode .add f lo lo').exc ||| (redNode .add f hi hi').exc⟩ := by
  have low : ∀ {x y : Nat}, x < 2 ^ 16 → (x + 2 ^ 16 * y) % 2 ^ 16 = x := fun h => by omega
  have high : ∀ {x y : Nat}, x < 2 ^ 16 → y < 2 ^ 16 → (x + 2 ^ 16 * y) / 2 ^ 16 % 2 ^ 16 = y := fun h h' => by omega
  simp only [addX2, low hlo, low hlo', high hlo hhi, high hlo' hhi', Nat.mul_comm _ (2 ^ 16)]

/-- Settles O33: a pattern's number is its own operand, and a signed comparison reads it back as the pattern. -/
theorem atomicResults : Obligations.AtomicResults := by
  refine ⟨fun w x y z => ⟨?_, ?_, ?_, ?_, ?_, ?_, ?_, ?_, rfl, ?_⟩, fun x y z => ⟨rfl, rfl, rfl, rfl, rfl, rfl⟩,
    fun lo hi lo' hi' z hlo hhi hlo' hhi' => ⟨addX2_of_halves f16 hlo hhi hlo' hhi', addX2_of_halves bf16 hlo hhi hlo' hhi'⟩⟩
  · simp only [rmwApply, BitVec.toNat_add]
  · simp only [rmwApply, BitVec.toNat_and]
  · simp only [rmwApply, BitVec.toNat_or]
  · simp only [rmwApply, BitVec.toNat_xor]
  · simp only [rmwApply, BitVec.ofNat_toNat, BitVec.setWidth_eq, apply_ite BitVec.toNat]
  · simp only [rmwApply, BitVec.ofNat_toNat, BitVec.setWidth_eq, apply_ite BitVec.toNat]
  · simp only [rmwApply, apply_ite BitVec.toNat]
  · simp only [rmwApply, apply_ite BitVec.toNat]
  · simp only [rmwApply, BitVec.toNat_inj, apply_ite BitVec.toNat]

end Sys2Proof.Machine
end

section
/-! Tag words and handle words (R169, R172, R202, R203) of a lone thread. -/
namespace Sys2Proof.Machine
open Host (Outcome)

/-- Settles O36. -/
theorem tagHandleWords : Obligations.TagHandleWords := by
  intro s iss t h cs d a b k r g x trap owes tags slot idx hr
  have ok {i : Instr} {f : Issue → State → Thread → StepRes} {u : State} (hi : exec i s = .next (s.laneFold f))
      (hf : f iss s t = .ok u) : exec i s = .next u := hi.trans (congrArg Outcome.next (laneFold_ok s iss t f u h hf))
  have traps {i : Instr} {f : Issue → State → Thread → StepRes} {c : Byte} {v : W64} (hi : exec i s = .next (s.laneFold f))
      (hf : f iss s t = .trap s c v 0 0) : trap i c v := hi.trans (congrArg Outcome.next (laneFold_trap s iss t f s c v 0 0 h hf))
  refine ⟨ok rfl rfl, fun hs => ⟨traps rfl (if_pos hs), traps rfl (if_pos hs)⟩,
    fun hs => ⟨ok rfl (if_neg (Nat.not_lt.mpr hs)), ok rfl (if_neg (Nat.not_lt.mpr hs))⟩,
    fun hi => traps rfl (if_pos hi), fun hi => ok rfl (if_neg (Nat.not_lt.mpr hi)),
    fun hl => traps rfl (if_pos (by simp [hr, hl])), fun hl => ok rfl (if_neg (by simp [hr, hl])), fun hp => ?privileged⟩
  case privileged =>
    have hnew : execHnew cs a b s = _ := priv_allowed s iss _ h.isOpen hp
    have hrev : execHrev cs a s = _ := priv_allowed s iss _ h.isOpen hp
    refine ⟨fun hi => ⟨traps hnew (if_pos (by simp [idx, hi])), traps hrev (if_pos hi)⟩, fun hi old hold =>
      ⟨fun href => traps hnew (if_pos (by simp [href])), fun u href hput => ok hnew ?_, fun u hput => ok hrev ?_⟩⟩
    · refine (if_neg (by simp [idx, href, Nat.not_lt.mpr hi])).trans ?_
      simp only [hold, hput, x, idx]
    · refine (if_neg (Nat.not_lt.mpr hi)).trans ?_
      simp only [hold, hput, x, idx]

end Sys2Proof.Machine
end

section
/-! Loads, stores and atomics of a lone thread (R170, R174, R192 to R198): what a lane's access does at the place that addressing
gives it, and the words that make it. -/
namespace Sys2Proof.Machine
open Host (Outcome)

/-! ## One lane's access -/

/-- An access of at most 8 bytes is one piece (R179). -/
theorem splitReq_of_le {n : Nat} (h0 : 0 < n) (h8 : n ≤ 8) : splitReq n = [(0, n)] := by
  simp [splitReq, pieces8, h8, Nat.pos_iff_ne_zero.mp h0]

section
variable {s u : State} {iss : Issue} {g : Group} {t : Thread} {h : HReg} {off : Int}

section Load
variable {n pol : Nat}

theorem laneLoad_of_bad {c : Byte} {x : W64} {acc : BitVec 3} {k : Nat} (hp : s.place g h off n 0 pol .read = (.bad c x acc k, u))
    (ord : Nat) (d : Fld) : s.laneLoad iss g t h off n pol ord d = .trap u c x acc k := by
  simp only [State.laneLoad, hp]
theorem laneLoad_of_scr {fid x : Nat} (hp : s.place g h off n 0 pol .read = (.ok (.scr fid x), u)) (ord : Nat) (d : Fld) :
    s.laneLoad iss g t h off n pol ord d = .ok ((u.updT g.gid t.lane fun y =>
      y.await (pendingLoad t.nextRes d n 1 (decide (ord = 2)) false)).feed g.gid t.lane t.nextRes 0 (u.scrRead fid x n) 0 x) := by
  simp only [State.laneLoad, hp]
theorem laneLoad_of_bst {fid x : Nat} (hp : s.place g h off n 0 pol .read = (.ok (.bst fid x), u)) (ord : Nat) (d : Fld) :
    s.laneLoad iss g t h off n pol ord d = .ok ((u.updT g.gid t.lane fun y =>
      y.await (pendingLoad t.nextRes d n 1 (decide (ord = 2)) false)).feed g.gid t.lane t.nextRes 0 (u.bstRead fid x n) 0 x) := by
  simp only [State.laneLoad, hp]
/-- Any other place is reached by sending the access. -/
theorem laneLoad_of_sent {q : Place} (hp : s.place g h off n 0 pol .read = (.ok q, u)) (hscr : ∀ f x, q ≠ .scr f x)
    (hbst : ∀ f x, q ≠ .bst f x) (ord : Nat) (d : Fld) :
    s.laneLoad iss g t h off n pol ord d = .ok (((u.holdLane iss t.lane (decide (ord = 2) || q.pends)).updT g.gid t.lane fun y =>
      y.await (pendingLoad t.nextRes d n (splitReq n).length (decide (ord = 2)) q.remote)).sendLoad iss g t t.nextRes (polOf h pol) n
        (decide (ord ≠ 0)) (decide (ord = 2)) q (heBase h.ent + off.toNat)) := by
  cases q with
  | scr f x => exact absurd rfl (hscr f x)
  | bst f x => exact absurd rfl (hbst f x)
  | mem pa | pod dev x | ft x => simp only [State.laneLoad, hp]

end Load

section Store
variable {bs : List Byte} {pol : Nat}

/-- The kind of a store's request, by its policy. -/
def storeKind (pol : Nat) : ReqKind := if pol = 3 then .ownStore else .write (decide (pol = 0))

theorem laneStore_of_bad {c : Byte} {x : W64} {acc : BitVec 3} {k : Nat}
    (hp : s.place g h off bs.length 1 pol .write = (.bad c x acc k, u)) (rel : Bool) :
    s.laneStore iss g t h off bs pol rel =
      if c = 0x31 then .ok (u.updT g.gid t.lane fun y => { y with podErr := y.podErr ++ [⟨c, x, iss.word, iss.pkt, iss.slot⟩] })
      else .trap u c x acc k := by
  simp only [State.laneStore, hp]
theorem laneStore_of_scr {fid x : Nat} (hp : s.place g h off bs.length 1 pol .write = (.ok (.scr fid x), u)) (rel : Bool) :
    s.laneStore iss g t h off bs pol rel = .ok (u.scrWrite fid x bs) := by
  simp only [State.laneStore, hp]
theorem laneStore_of_bst {fid x : Nat} (hp : s.place g h off bs.length 1 pol .write = (.ok (.bst fid x), u)) (rel : Bool) :
    s.laneStore iss g t h off bs pol rel = .ok (u.bstWrite fid x bs) := by
  simp only [State.laneStore, hp]

section
variable (h0 : bs ≠ []) (h8 : bs.length ≤ 8)
include h0 h8

theorem laneStore_of_mem {pa : Nat} (hp : s.place g h off bs.length 1 pol .write = (.ok (.mem pa), u)) (rel : Bool) :
    let late := s.relAfter g.gid t.lane rel
    let va := heBase h.ent + off.toNat
    s.laneStore iss g t h off bs pol rel = .ok
      (if !late && u.ownsAll g pa va bs.length && !u.mirrored pa then u.ownWrite g.pcore g.ctx pa bs
       else { u with nextId := u.nextId + 1,
                     reqs := u.reqs ++ [{ Req.mk' u.nextId g t iss (storeKind pol) pa va bs.length bs none 0 with rel := late }] }) := by
  simp only [State.laneStore, hp, splitReq_of_le (List.length_pos_iff.mpr h0) h8, List.foldl_cons, List.foldl_nil, add_zero,
    List.drop_zero, List.take_length, storeKind]
theorem laneStore_of_pod {dev x : Nat} (hp : s.place g h off bs.length 1 pol .write = (.ok (.pod dev x), u)) (rel : Bool) :
    s.laneStore iss g t h off bs pol rel = .ok
      { u with nextId := u.nextId + 1,
               reqs := u.reqs ++ [{ Req.mk' u.nextId g t iss (storeKind pol) (podKey dev x) x bs.length bs none 0 with
                 dev := some dev, rel := s.relAfter g.gid t.lane rel }] } := by
  simp only [State.laneStore, hp, splitReq_of_le (List.length_pos_iff.mpr h0) h8, List.foldl_cons, List.foldl_nil, add_zero,
    List.drop_zero, List.take_length, storeKind]
theorem laneStore_of_ft {x : Nat} (hp : s.place g h off bs.length 1 pol .write = (.ok (.ft x), u)) (rel : Bool) :
    let v := u.holdLane iss t.lane true
    s.laneStore iss g t h off bs pol rel = .ok
      { v with nextId := v.nextId + 1,
               reqs := v.reqs ++ [{ Req.mk' v.nextId g t iss (storeKind pol) 0 x bs.length bs none 0 with
                 ft := true, rel := s.relAfter g.gid t.lane rel }] } := by
  simp only [State.laneStore, hp, splitReq_of_le (List.length_pos_iff.mpr h0) h8, List.foldl_cons, List.foldl_nil, add_zero,
    List.drop_zero, List.take_length, storeKind]
end

end Store
end

/-- A lone lane is the lowest of its word. -/
theorem State.Solo.lowest {s : State} {iss : Issue} {t : Thread} (h : s.Solo iss t) : s.thread? iss.gid (lowestLane iss.lanes) = some t := by
  rw [lowestLane, h.only]; exact h.here

/-- The state after what a word does for one lane: a trap takes the lane out of its chain. -/
def StepRes.after (lane : Nat) : StepRes → State
  | .ok u => u
  | .trap u c x acc k => u.trapLane ⟨lane, c, x, acc, k⟩

section
variable {s : State} {iss : Issue} {t : Thread} (hs : s.Solo iss t)
include hs

theorem laneFold_after (f : Issue → State → Thread → StepRes) : s.laneFold f = (f iss s t).after t.lane := by
  rw [laneFold_solo s iss t f hs]; cases f iss s t <;> rfl

theorem loadWord_of_solo (d a : Fld) (h : BitVec 5) (z : BitVec 3) (p o : BitVec 2) :
    loadWord s false d a h z p o = .next ((s.laneLoad iss (s.actGroup iss t) t (rdH t h) ((rd t a).toNat + dispOf iss) (szBytes z)
      p.toNat o.toNat d).after t.lane) := congrArg Outcome.next (laneFold_after hs _)
theorem loadWord_block_of_solo (d a : Fld) (h : BitVec 5) (z : BitVec 3) (p o : BitVec 2) :
    loadWord s true d a h z p o = .next ((s.laneLoad iss (s.actGroup iss t) t (rdH t h)
      ((rd t a).toNat + t.lane * szBytes z + dispOf iss) (szBytes z) p.toNat o.toNat d).after t.lane) := by
  refine congrArg Outcome.next ((laneFold_after hs _).trans ?_)
  simp only [if_true, hs.lowest]
theorem storeWord_of_solo (d a : Fld) (h : BitVec 5) (z : BitVec 3) (p o : BitVec 2) :
    storeWord s false d a h z p o = .next ((s.laneStore iss (s.actGroup iss t) t (rdH t h) ((rd t a).toNat + dispOf iss)
      (storeBytes t d (szBytes z)) p.toNat (decide (o = 2))).after t.lane) := congrArg Outcome.next (laneFold_after hs _)
theorem storeWord_block_of_solo (d a : Fld) (h : BitVec 5) (z : BitVec 3) (p o : BitVec 2) :
    storeWord s true d a h z p o = .next ((s.laneStore iss (s.actGroup iss t) t (rdH t h)
      ((rd t a).toNat + t.lane * szBytes z + dispOf iss) (storeBytes t d (szBytes z)) p.toNat (decide (o = 2))).after t.lane) := by
  refine congrArg Outcome.next ((laneFold_after hs _).trans ?_)
  simp only [if_true, hs.lowest]
end

/-! ## The pieces of a load that is sent -/

section
variable (s : State) (iss : Issue) (g : Group) (t : Thread) (id pol : Nat) {n : Nat} (strong acq : Bool) (va : Nat)
  (h0 : 0 < n) (h8 : n ≤ 8)
include h0 h8

theorem sendLoad_mem (pa : Nat) : s.sendLoad iss g t id pol n strong acq (.mem pa) va =
    if s.l1Serves g t.lane pa va n pol strong && !(acq && s.replaying g.ctx) then
      s.feed g.gid t.lane id 0 (s.l1Bytes g.pcore pa n) 0 va
    else { s with nextId := s.nextId + 1, reqs := s.reqs ++ [Req.mk' s.nextId g t iss (loadKind pol) pa va n [] (some id) 0] } := by
  unfold State.sendLoad
  rw [splitReq_of_le h0 h8, List.foldl_cons, List.foldl_nil]
  dsimp only
  rw [add_zero, add_zero]
theorem sendLoad_pod (dev x : Nat) : s.sendLoad iss g t id pol n strong acq (.pod dev x) va =
    if s.l1Serves g t.lane (podKey dev x) x n pol strong then
      s.feed g.gid t.lane id 0 (s.l1Bytes g.pcore (podKey dev x) n) 0 va
    else { s with nextId := s.nextId + 1,
                  reqs := s.reqs ++ [{ Req.mk' s.nextId g t iss (loadKind pol) (podKey dev x) x n [] (some id) 0 with dev := some dev }] } := by
  unfold State.sendLoad
  rw [splitReq_of_le h0 h8, List.foldl_cons, List.foldl_nil]
  dsimp only
  rw [add_zero]
theorem sendLoad_ft (x : Nat) : s.sendLoad iss g t id pol n strong acq (.ft x) va =
    { s with nextId := s.nextId + 1,
             reqs := s.reqs ++ [{ Req.mk' s.nextId g t iss (loadKind pol) 0 x n [] (some id) 0 with ft := true }] } := by
  unfold State.sendLoad
  rw [splitReq_of_le h0 h8, List.foldl_cons, List.foldl_nil]
  dsimp only
  rw [add_zero]
end

theorem holdLane_ite (s : State) (iss : Issue) (lane : Nat) (p : Prop) [Decidable p] (b : Bool) :
    s.holdLane iss lane (decide p || b) = if p ∨ b = true then
      (s.keepXfer iss lane iss.restartSlot).updT iss.gid lane fun y => { y with hold := true } else s := by
  simp only [State.holdLane, Bool.or_eq_true, decide_eq_true_eq]

/-- Settles O28: each kind of place has its lemma, and so has each kind of piece. -/
theorem loadWords : Obligations.LoadWords := by
  refine ⟨?words, ?pieces⟩
  case words =>
    intro s iss t hs cs d a h z p o g n loads
    have word {i : Instr} {off : Int}
        (hi : exec i s = .next ((s.laneLoad iss g t (rdH t h) off n p.toNat o.toNat d).after t.lane)) : loads i off := by
      have made {q : StepRes} (hq : s.laneLoad iss g t (rdH t h) off n p.toNat o.toNat d = q) : exec i s = .next (q.after t.lane) := hq ▸ hi
      rcases hp : s.place g (rdH t h) off n 0 p.toNat .read with ⟨⟨⟨fid, x⟩ | ⟨fid, x⟩ | pa | ⟨dev, x⟩ | x⟩ | ⟨c, x, acc, k⟩, u⟩ <;>
        simp only [loads, hp]
      case bad => exact made (laneLoad_of_bad hp ..)
      case ok.scr => exact made (laneLoad_of_scr hp ..)
      case ok.bst => exact made (laneLoad_of_bst hp ..)
      all_goals
        rw [← holdLane_ite]
        exact made (laneLoad_of_sent hp (by simp) (by simp) ..)
    exact ⟨word (loadWord_of_solo hs ..), word (loadWord_block_of_solo hs ..)⟩
  case pieces =>
    intro s iss g t id pol n pa va strong acq h0 h8 asks sends
    refine ⟨fun hl ha => ?_, fun hl => ?_, fun dev x => ⟨fun hl => ?_, fun hl => ?_⟩, fun x => sendLoad_ft s iss g t id pol strong acq va h0 h8 x⟩
    · exact (sendLoad_mem s iss g t id pol strong acq va h0 h8 pa).trans (if_pos (by simp [hl, ha]))
    · exact (sendLoad_mem s iss g t id pol strong acq va h0 h8 pa).trans (if_neg (by rcases hl with hl | hl <;> simp [hl]))
    · exact (sendLoad_pod s iss g t id pol strong acq va h0 h8 dev x).trans (if_pos hl)
    · exact (sendLoad_pod s iss g t id pol strong acq va h0 h8 dev x).trans (if_neg (by simp [hl]))

theorem storeKind_toNat (p : BitVec 2) : storeKind p.toNat = if p = 3 then .ownStore else .write (decide (p = 0)) := by
  revert p; decide

/-- Settles O31: each kind of place has its lemma; a failure that a remote device would report is noted (R199). -/
theorem storeWords : Obligations.StoreWords := by
  intro s iss t hs cs d a h z p o g n bs kind rel stores
  have word {i : Instr} {off : Int}
      (hi : exec i s = .next ((s.laneStore iss g t (rdH t h) off bs p.toNat (decide (o = 2))).after t.lane)) : stores i off := by
    have made {q : StepRes} (hq : s.laneStore iss g t (rdH t h) off bs p.toNat (decide (o = 2)) = q) :
        exec i s = .next (q.after t.lane) := hq ▸ hi
    rcases hp : s.place g (rdH t h) off bs.length 1 p.toNat .write with ⟨⟨⟨fid, x⟩ | ⟨fid, x⟩ | pa | ⟨dev, x⟩ | x⟩ | ⟨c, x, acc, k⟩, u⟩ <;>
      simp only [stores, hp, kind, ← storeKind_toNat]
    case bad =>
      have hbad := laneStore_of_bad (iss := iss) (t := t) hp (decide (o = 2))
      exact ⟨fun hc => made (hbad.trans (if_pos hc)), fun hc => made (hbad.trans (if_neg hc))⟩
    case ok.scr => exact made (laneStore_of_scr hp ..)
    case ok.bst => exact made (laneStore_of_bst hp ..)
    case ok.mem =>
      intro h8 h0
      have hmem := made (laneStore_of_mem h0 h8 hp ..)
      split
      · next hown => exact hmem.trans (congrArg Outcome.next (if_pos hown))
      · next hown => exact hmem.trans (congrArg Outcome.next (if_neg hown))
    case ok.pod => exact fun h8 h0 => made (laneStore_of_pod h0 h8 hp ..)
    case ok.ft => exact fun h8 h0 => made (laneStore_of_ft h0 h8 hp ..)
  exact ⟨word (storeWord_of_solo hs ..), word (storeWord_block_of_solo hs ..)⟩

/-! ## Atomics -/

section
variable {s u : State} {iss : Issue} {g : Group} {t : Thread} {op : RmwOp} {a : Fld}

/-- The lane owes the prior value of its atomic; an acquire, and an access that is not answered here, holds it (R147, R212). -/
def State.owesAtom (u : State) (iss : Issue) (g : Group) (t : Thread) (n : Nat) (d : Fld) (acq : Bool) (q : Place) : State :=
  (u.holdLane iss t.lane (acq || q.pends)).updT g.gid t.lane fun y =>
    y.await { pendingLoad t.nextRes d n 1 acq q.remote with atom := true }

theorem laneAtom_of_bad {e : Byte} {x : W64} {acc : BitVec 3} {k : Nat}
    (hp : s.place g (s.fatPtr g t a) (rd t a).toNat (rmwBytes op) 3 2 .write = (.bad e x acc k, u)) (v c : W64) (d : Fld) (ord : Nat) :
    s.laneAtom iss g t op v c d a ord = .trap u e x acc k := by
  simp only [State.laneAtom, hp]

theorem laneAtom_of_scr {fid x : Nat}
    (hp : s.place g (s.fatPtr g t a) (rd t a).toNat (rmwBytes op) 3 2 .write = (.ok (.scr fid x), u)) (v c : W64) (d : Fld) (ord : Nat) :
    let n := rmwBytes op
    let va := heBase (s.fatPtr g t a).ent + (rd t a).toNat
    let w := u.owesAtom iss g t n d (decide (ord = 1) || decide (ord = 3)) (.scr fid x)
    let lg := w.logged g.gid t.lane 1 (BitVec.ofNat 64 va) (logVal (w.scrRead fid x n)) []
    let old := bytesOf n lg.1.toNat
    let r := rmwApply op (natOf old) (v.toNat % 2 ^ (8 * n)) (c.toNat % 2 ^ (8 * n))
    s.laneAtom iss g t op v c d a ord =
      .ok ((lg.2.2.scrWrite fid x (bytesOf n r.bits)).feed g.gid t.lane t.nextRes 0 old r.exc va) := by
  simp only [State.laneAtom, hp, State.owesAtom]

section
variable (v c : W64) (d : Fld) (ord : Nat)

/-- The request that carries an atomic to the place of its word, when `w` is the state of the lane that owes its result. -/
def State.asksAtom (w : State) (iss : Issue) (g : Group) (t : Thread) (op : RmwOp) (v c : W64) (pa va : Nat) (rel : Bool) (mark : Req → Req) :
    State :=
  { w with nextId := w.nextId + 1,
           reqs := w.reqs ++ [mark { Req.mk' w.nextId g t iss (.rmw op v c) pa va (rmwBytes op) [] (some t.nextRes) 0 with rel }] }

theorem laneAtom_of_mem {pa : Nat} (hp : s.place g (s.fatPtr g t a) (rd t a).toNat (rmwBytes op) 3 2 .write = (.ok (.mem pa), u)) :
    s.laneAtom iss g t op v c d a ord =
      .ok ((u.owesAtom iss g t (rmwBytes op) d (decide (ord = 1) || decide (ord = 3)) (.mem pa)).asksAtom iss g t op v c pa
        (heBase (s.fatPtr g t a).ent + (rd t a).toNat) (u.relAfter g.gid t.lane (decide (2 ≤ ord))) id) := by
  simp only [State.laneAtom, hp]; rfl
theorem laneAtom_of_pod {dev x : Nat} (hp : s.place g (s.fatPtr g t a) (rd t a).toNat (rmwBytes op) 3 2 .write = (.ok (.pod dev x), u)) :
    s.laneAtom iss g t op v c d a ord =
      .ok ((u.owesAtom iss g t (rmwBytes op) d (decide (ord = 1) || decide (ord = 3)) (.pod dev x)).asksAtom iss g t op v c (podKey dev x) x
        (u.relAfter g.gid t.lane (decide (2 ≤ ord))) fun r => { r with dev := some dev }) := by
  simp only [State.laneAtom, hp]; rfl
theorem laneAtom_of_ft {x : Nat} (hp : s.place g (s.fatPtr g t a) (rd t a).toNat (rmwBytes op) 3 2 .write = (.ok (.ft x), u)) :
    s.laneAtom iss g t op v c d a ord =
      .ok ((u.owesAtom iss g t (rmwBytes op) d (decide (ord = 1) || decide (ord = 3)) (.ft x)).asksAtom iss g t op v c 0 x
        (u.relAfter g.gid t.lane (decide (2 ≤ ord))) fun r => { r with ft := true }) := by
  simp only [State.laneAtom, hp]; rfl
end
end

/-- Settles O32: every word is `laneAtom` of its operation and operands, which has a lemma for each kind of place. -/
theorem atomicWords : Obligations.AtomicWords := by
  intro s iss t hs cs d a b o g h id acq atom
  have word {i : Instr} {op : RmwOp} {v c : W64} {f : Issue → State → Thread → StepRes} (hi : exec i s = .next (s.laneFold f))
      (hf : f iss s t = s.laneAtom iss g t op v c d a o.toNat) : atom i op v c := by
    have made {q : StepRes} (hq : s.laneAtom iss g t op v c d a o.toNat = q) : exec i s = .next (q.after t.lane) :=
      hi.trans (congrArg Outcome.next ((laneFold_after hs f).trans (by rw [hf, hq])))
    exact ⟨fun e x acc k hq => made (laneAtom_of_bad (Prod.ext hq rfl) ..), fun fid x hq => made (laneAtom_of_scr (Prod.ext hq rfl) ..),
      fun pa hq => made (laneAtom_of_mem (hp := Prod.ext hq rfl) ..), fun dev x hq => made (laneAtom_of_pod (hp := Prod.ext hq rfl) ..),
      fun x hq => made (laneAtom_of_ft (hp := Prod.ext hq rfl) ..)⟩
  exact ⟨word rfl rfl, word rfl rfl, word rfl rfl, word rfl rfl, word rfl rfl, word rfl rfl, word rfl rfl, word rfl rfl, word rfl rfl,
    word rfl rfl, word rfl rfl, word rfl rfl, word rfl rfl, word rfl rfl, word rfl rfl, word rfl rfl, word rfl rfl, word rfl rfl,
    word rfl rfl, word rfl rfl, word rfl rfl, word rfl rfl, word rfl rfl, word rfl rfl, word rfl rfl, word rfl rfl, word rfl rfl,
    word rfl rfl⟩

end Sys2Proof.Machine
end

section
/-! What parking threads and ending waits leave of the state (R149 to R153): only the parts of a trap and of a wait change, and no
thread's place or outstanding results do. -/
namespace Sys2Proof.Machine

/-! ## The parts that a sub-group's way into the replay queue changes -/

/-- Only parked sub-groups, cores' queues, fault queues, events and the snapshot trigger differ between two states. -/
def State.OnlySubs (s u : State) : Prop :=
  ∃ b c q e r, u = { s with subs := b, cores := c, fq := q, ev := e, trig := r }

theorem State.OnlySubs.refl (s : State) : s.OnlySubs s := ⟨_, _, _, _, _, rfl⟩
theorem State.OnlySubs.trans {s u v : State} : s.OnlySubs u → u.OnlySubs v → s.OnlySubs v := by
  rintro ⟨_, _, _, _, _, rfl⟩ ⟨b, c, q, e, r, rfl⟩
  exact ⟨b, c, q, e, r, rfl⟩
theorem State.OnlySubs.threads {s u : State} : s.OnlySubs u → u.threads = s.threads := by
  rintro ⟨_, _, _, _, _, rfl⟩; rfl

theorem updCore_onlySubs (s : State) (id : Nat) (f : Core → Core) : s.OnlySubs (s.updCore id f) := by
  unfold State.updCore; split <;> exact ⟨_, _, _, _, _, rfl⟩
theorem queueEvent_onlySubs (s : State) (e : EvRec) : s.OnlySubs (s.queueEvent e) := by
  unfold State.queueEvent; split <;> exact ⟨_, _, _, _, _, rfl⟩
theorem trigger_onlySubs (s : State) (bit : Nat) : s.OnlySubs (s.trigger bit) := by
  unfold State.trigger
  split
  · exact ⟨_, _, _, _, _, rfl⟩
  · exact State.OnlySubs.trans ⟨_, _, _, _, _, rfl⟩ (queueEvent_onlySubs _ _)
theorem post_onlySubs (s : State) (kind inst ctx : Nat) (d : List W64) : s.OnlySubs (s.post kind inst ctx d) := by
  have hq := queueEvent_onlySubs s ⟨kind, BitVec.ofNat 16 inst, ctx, s.ptime, d⟩
  unfold State.post
  dsimp only
  split
  · split
    · exact hq.trans (trigger_onlySubs _ _)
    · exact hq
  · exact hq
theorem postSub_onlySubs (s : State) (b : SubGroup) : s.OnlySubs (s.postSub b) := by
  unfold State.postSub State.pushFault
  dsimp only
  split
  · split <;> exact ⟨_, _, _, _, _, rfl⟩
  · exact updCore_onlySubs _ _ _
theorem admitSub_onlySubs (s : State) (id : Nat) : s.OnlySubs (s.admitSub id) := by
  have subs (f : SubGroup → SubGroup) : s.OnlySubs { s with subs := s.subs.map f } := ⟨_, _, _, _, _, rfl⟩
  unfold State.admitSub
  split
  · exact .refl s
  · dsimp only
    split
    · exact ((subs _).trans (updCore_onlySubs _ _ _)).trans (post_onlySubs _ _ _ _ _)
    · split
      · split
        · exact subs _
        · exact (subs _).trans (postSub_onlySubs _ _)
      · exact ⟨_, _, _, _, _, rfl⟩
theorem settleSub_onlySubs (s : State) (id : Nat) : s.OnlySubs (s.settleSub id) := by
  unfold State.settleSub
  split
  · exact .refl s
  · split
    · exact admitSub_onlySubs s id
    · exact .refl s

/-! ## The parts that a wait's end changes -/

/-- What a thread owes: its place and its outstanding results. -/
def Thread.owed (t : Thread) : Nat × Nat × List Result := (t.gid, t.lane, t.outst)
/-- Every thread has the place and the outstanding results that it had. -/
def State.SameOwed (s u : State) : Prop := u.threads.map Thread.owed = s.threads.map Thread.owed

theorem State.SameOwed.refl (s : State) : s.SameOwed s := rfl
theorem State.SameOwed.trans {s u v : State} (h : s.SameOwed u) (h' : u.SameOwed v) : s.SameOwed v := Eq.trans h' h
theorem State.SameOwed.of_threads {s u : State} (h : u.threads = s.threads) : s.SameOwed u := congrArg _ h
theorem State.SameOwed.of_map {s u : State} {f : Thread → Thread} (h : u.threads = s.threads.map f) (hf : ∀ t, (f t).owed = t.owed) :
    s.SameOwed u := by
  unfold State.SameOwed
  rw [h, List.map_map]
  exact List.map_congr_left fun t _ => hf t

/-- Only what belongs to threads, their groups and herds, their sub-groups and events differs between two states, and no thread's
place or outstanding results do. -/
structure State.OnlyWaits (s u : State) : Prop where
  parts : ∃ i n ts gs b rc hs c q e r, u = { s with issue := i, nextId := n, threads := ts, groups := gs, subs := b, recorded := rc,
                                                    herds := hs, cores := c, fq := q, ev := e, trig := r }
  owed : s.SameOwed u

namespace State.OnlyWaits

theorem refl (s : State) : s.OnlyWaits s := ⟨⟨_, _, _, _, _, _, _, _, _, _, _, rfl⟩, .refl s⟩
theorem trans {s u v : State} (h : s.OnlyWaits u) (h' : u.OnlyWaits v) : s.OnlyWaits v := by
  refine ⟨?_, h.owed.trans h'.owed⟩
  obtain ⟨_, _, _, _, _, _, _, _, _, _, _, rfl⟩ := h.parts
  obtain ⟨i, n, ts, gs, b, rc, hs, c, q, e, r, rfl⟩ := h'.parts
  exact ⟨i, n, ts, gs, b, rc, hs, c, q, e, r, rfl⟩
theorem of_onlySubs {s u : State} (h : s.OnlySubs u) : s.OnlyWaits u := by
  refine ⟨?_, .of_threads h.threads⟩
  obtain ⟨_, _, _, _, _, rfl⟩ := h
  exact ⟨_, _, _, _, _, _, _, _, _, _, _, rfl⟩
theorem threads_map (s : State) {f : Thread → Thread} (hf : ∀ t, (f t).owed = t.owed) : s.OnlyWaits { s with threads := s.threads.map f } :=
  ⟨⟨_, _, _, _, _, _, _, _, _, _, _, rfl⟩, .of_map rfl hf⟩

section
variable {s u : State} (h : s.OnlyWaits u)
include h
theorem mem : u.mem = s.mem := by obtain ⟨_, _, _, _, _, _, _, _, _, _, _, rfl⟩ := h.parts; rfl
theorem reqs : u.reqs = s.reqs := by obtain ⟨_, _, _, _, _, _, _, _, _, _, _, rfl⟩ := h.parts; rfl
end

end State.OnlyWaits

theorem Thread.ite_owed {p : Prop} [Decidable p] {t u : Thread} (h : u.owed = t.owed) : (if p then u else t).owed = t.owed := by
  split
  · exact h
  · rfl
theorem Thread.park_owed (t : Thread) (r : TrapRec) : (t.park r).owed = t.owed := rfl
theorem Thread.resume_owed (t : Thread) (shep : Bool) (ws : List Wr) : (t.resume shep ws).owed = t.owed := by
  unfold Thread.resume
  dsimp only
  split
  · rfl
  · split
    · split <;> rfl
    · rfl

theorem parkNow_onlyWaits (s : State) (gid : Nat) (l : List (LTrap × TrapRec)) (eng : Option Nat) : s.OnlyWaits (s.parkNow gid l eng) := by
  unfold State.parkNow
  refine List.foldlRecOn (motive := s.OnlyWaits) _ _ ?_ fun u hu id _ => hu.trans (.of_onlySubs (settleSub_onlySubs u id))
  refine State.OnlyWaits.trans ?_ (.of_onlySubs ⟨_, _, _, _, _, rfl⟩)
  refine List.foldlRecOn (motive := fun acc : State × List Nat => s.OnlyWaits acc.1) l _ (.refl s) fun acc h x _ => h.trans ?_
  refine ⟨⟨_, _, _, _, _, _, _, _, _, _, _, rfl⟩, .of_map rfl fun t => Thread.ite_owed (t.park_owed x.2)⟩
theorem enset_onlyWaits (s : State) (gid : Nat) (m : Mask) : s.OnlyWaits (s.enset gid m) :=
  ⟨⟨_, _, _, _, _, _, _, _, _, _, _, rfl⟩, .refl s⟩
theorem recordRelease_onlyWaits (s : State) (g : Group) : s.OnlyWaits (s.recordRelease g) :=
  ⟨⟨_, _, _, _, _, _, _, _, _, _, _, rfl⟩, .refl s⟩
theorem record_onlyWaits (s : State) (e : Recorded) : s.OnlyWaits (s.record e) :=
  ⟨⟨_, _, _, _, _, _, _, _, _, _, _, rfl⟩, .of_map rfl fun _ => Thread.ite_owed rfl⟩
theorem leaveChain_onlyWaits (s : State) (gid : Nat) (m : Mask) : s.OnlyWaits (s.leaveChain gid m) := by
  unfold State.leaveChain
  split
  · split
    · exact ⟨⟨_, _, _, _, _, _, _, _, _, _, _, rfl⟩, .refl s⟩
    · exact .refl s
  · exact .refl s
theorem parkWaiting_onlyWaits (s : State) (gid : Nat) (l : List (LTrap × TrapRec)) (eng : Option Nat) :
    s.OnlyWaits (s.parkWaiting gid l eng) := by
  have hleave := leaveChain_onlyWaits s gid (maskOf (l.map fun x => x.1.lane))
  unfold State.parkWaiting
  dsimp only
  split
  · exact hleave.trans (record_onlyWaits _ _)
  · exact hleave.trans (parkNow_onlyWaits _ _ _ _)
theorem wakeNow_onlyWaits (s : State) (gid : Nat) (l : List (Nat × List Wr)) : s.OnlyWaits (s.wakeNow gid l) := by
  unfold State.wakeNow
  refine State.OnlyWaits.trans ?_ ((enset_onlyWaits _ _ _).trans (recordRelease_onlyWaits _ _))
  have hgo (ts : List Thread) (hts : s.OnlyWaits { s with threads := ts }) (recs : List (LTrap × TrapRec)) :
      s.OnlyWaits (if recs = [] then { s with threads := ts } else State.parkNow { s with threads := ts } gid recs none) := by
    split
    · exact hts
    · exact hts.trans (parkNow_onlyWaits _ _ _ _)
  exact hgo _ (.threads_map s fun t => Thread.ite_owed (t.resume_owed _ _)) _
theorem wake_onlyWaits (s : State) (gid : Nat) (l : List (Nat × List Wr)) : s.OnlyWaits (s.wake gid l) := by
  unfold State.wake
  dsimp only
  split
  · refine State.OnlyWaits.trans ?_ (record_onlyWaits _ _)
    exact .threads_map s fun _ => Thread.ite_owed rfl
  · refine State.OnlyWaits.trans ?_ (wakeNow_onlyWaits _ _ _)
    exact .threads_map s fun _ => Thread.ite_owed rfl

end Sys2Proof.Machine
end

section
/-! Addressing leaves what threads owe (R40, R170, R233): a table entry that is marked may end a monitor's wait, but no access that
is translated, and no page that the first-touch unit serves, changes a thread's place or its outstanding results. -/
namespace Sys2Proof.Machine

theorem mirrorWrite_sameOwed (s : State) (pa : Nat) (bs : List Byte) : s.SameOwed (s.mirrorWrite pa bs) := by
  unfold State.mirrorWrite
  refine List.foldlRecOn (motive := s.SameOwed) _ _ (.refl s) fun u hu m _ => ?_
  dsimp only
  split <;> exact hu
theorem fireMonitors_sameOwed (s : State) (fid : Option Nat) (a n : Nat) : s.SameOwed (s.fireMonitors fid a n) := by
  unfold State.fireMonitors
  refine List.foldlRecOn (motive := s.SameOwed) _ _ (.refl s) fun u hu m _ => ?_
  dsimp only
  split
  · split
    · split
      · refine State.SameOwed.trans ?_ (wake_onlyWaits _ _ _).owed
        exact hu.trans (.of_threads (State.logged_threads { u with mons := _ } _ _ _ _ _ _))
      · exact hu
    · exact hu
  · exact hu
theorem undoGrains_threads (s : State) (ctx pa n : Nat) : (s.undoGrains ctx pa n).threads = s.threads := by
  unfold State.undoGrains
  split
  · rfl
  · refine List.foldlRecOn (motive := fun u : State => u.threads = s.threads) _ _ rfl fun u hu i _ => ?_
    dsimp only
    split
    · exact hu
    · split
      · exact hu
      · exact (State.enterRing_threads _ _ _ (State.updNewest_threads _ _ _)).trans hu
theorem applyWrite_sameOwed (s : State) (ctx pa : Nat) (bs : List Byte) : s.SameOwed (s.applyWrite ctx pa bs) := by
  unfold State.applyWrite
  refine State.SameOwed.trans ?_ (mirrorWrite_sameOwed _ _ _)
  refine State.SameOwed.trans ?_ (fireMonitors_sameOwed _ _ _ _)
  exact .of_threads (undoGrains_threads s ctx pa bs.length)
theorem cohWrite_sameOwed (s : State) (ctx pa : Nat) (bs : List Byte) : s.SameOwed (s.cohWrite ctx pa bs) :=
  State.SameOwed.trans (.of_threads (takeWords_homeWrites s _).homes.threads) (applyWrite_sameOwed _ ctx pa bs)

theorem markUsed_sameOwed (s : State) (ctx va : Nat) (acc : Acc) : s.SameOwed (s.markUsed ctx va acc) := by
  have hmark (e e' : W64) (epa : Nat) : s.SameOwed (if e' = e then s else s.cohWrite 0 epa (bytesOf 8 e'.toNat)) := by
    split
    · exact .refl s
    · exact cohWrite_sameOwed _ _ _ _
  unfold State.markUsed
  cases s.walk ctx va with
  | leaf l epa e => exact hmark e _ epa
  | _ => exact .refl s
theorem cacheLeaf_sameOwed (s : State) (core ctx va : Nat) : s.SameOwed (s.cacheLeaf core ctx va) := by
  unfold State.cacheLeaf; split <;> exact .refl s
theorem translate_sameOwed (s : State) (core ctx va : Nat) (acc : Acc) : s.SameOwed (s.translate core ctx va acc).2 := by
  have hwalk (u : State) : u.SameOwed ((u.markUsed ctx va acc).cacheLeaf core ctx va) :=
    (markUsed_sameOwed u ctx va acc).trans (cacheLeaf_sameOwed _ _ _ _)
  have hmay (p : Bool) (u v : State) (hv : u.SameOwed v) : u.SameOwed (if p then v else u) := by
    cases p
    · exact .refl u
    · exact hv
  unfold State.translate
  dsimp only
  split
  · split
    · exact markUsed_sameOwed s ctx va acc
    · split
      · exact .refl s
      · split
        · exact .refl s
        · split
          · exact State.SameOwed.trans (u := { s with free := s.free + 1 }) (.refl s) (hmay _ _ _ (markUsed_sameOwed _ _ _ _))
          · dsimp only
            split
            · exact State.SameOwed.trans (u := { s with free := s.free + 1 }) (.refl s) (hwalk _)
            · exact .refl s
            · exact .refl s
  · dsimp only
    split
    · exact hwalk s
    · exact .refl s
    · exact .refl s
theorem serveFirstTouch_sameOwed (s : State) (core ctx va : Nat) (wr : Bool) : s.SameOwed (s.serveFirstTouch core ctx va wr) := by
  have hleaves (u : State) (f : State → Nat → State) (hf : ∀ u i, u.SameOwed (f u i)) : u.SameOwed ((List.range 16).foldl f u) :=
    List.foldlRecOn (motive := u.SameOwed) _ _ (.refl u) fun w hw i _ => hw.trans (hf w i)
  have hring (u : State) (p : Prop) [Decidable p] (r r' : Vector FtuRing 8) (k i x : Nat) (l : List W64) :
      u.SameOwed (if p then State.post { u with ftu := r } k i x l else { u with ftu := r' }) := by
    split
    · exact .of_threads (post_onlySubs { u with ftu := r } _ _ _ _).threads
    · exact .refl u
  unfold State.serveFirstTouch
  split
  · extract_lets p k r slot frame mk u r' v
    have hu : s.SameOwed u := by
      unfold u
      split
      · exact cohWrite_sameOwed _ _ _ _
      · exact hleaves s _ fun u i => cohWrite_sameOwed _ _ _ _
    split
    · exact .refl s
    · exact hu.trans (hring u _ _ _ _ _ _ _)
  · exact .refl s

theorem placeVa_sameOwed (s : State) (g : Group) (a n right : Nat) (acc : Acc) : s.SameOwed (s.placeVa g a n right acc).2 := by
  have hx := translate_sameOwed s g.pcore g.ctx a acc
  have hor (p : Prop) [Decidable p] (x y : PlaceRes × State) (hx : s.SameOwed x.2) (hy : s.SameOwed y.2) :
      s.SameOwed (if p then x else y).2 := by
    split
    · exact hx
    · exact hy
  unfold State.placeVa
  dsimp only
  split
  · exact .refl s
  · split
    · rename_i h
      rw [h] at hx
      exact hor _ _ _ hx (hor _ _ _ hx hx)
    · rename_i h
      rw [h] at hx
      split
      · exact hx
      · split
        · exact hx.trans (serveFirstTouch_sameOwed _ _ _ _ _)
        · exact hx
    · rename_i h
      rw [h] at hx
      exact hx
theorem place_sameOwed (s : State) (g : Group) (h : HReg) (off : Int) (n right pol : Nat) (acc : Acc) :
    s.SameOwed (s.place g h off n right pol acc).2 := by
  unfold State.place
  split
  · exact .refl s
  · rename_i a _
    have hva := placeVa_sameOwed s g a n right acc
    split
    · exact .refl s
    · exact .refl s
    · exact .refl s
    · split
      · exact .refl s
      · split
        · exact .refl s
        · split
          · rename_i hp; rw [hp] at hva; exact hva
          · rename_i hp; rw [hp] at hva; exact hva
          · exact hva
    · exact hva
theorem touchPages_sameOwed (s : State) (core ctx va n : Nat) : s.SameOwed (s.touchPages core ctx va n).2 := by
  unfold State.touchPages
  refine List.foldlRecOn (motive := fun r : Option (Nat × Byte × Nat) × State => s.SameOwed r.2) _ _ (.refl s) fun r hr p _ => ?_
  obtain ⟨o, u⟩ := r
  cases o with
  | some f => exact hr
  | none =>
    have hx := translate_sameOwed u core ctx p.1 .read
    dsimp only
    split
    · rename_i h; rw [h] at hx; exact hr.trans hx
    · rename_i h
      rw [h] at hx
      split
      · exact (hr.trans hx).trans (serveFirstTouch_sameOwed _ _ _ _ _)
      · exact hr.trans hx
    · rename_i h; rw [h] at hx; exact hr.trans hx

/-- The results of a thread name the next one, so what gives a thread a result may name it from any state that owes the same. -/
theorem nextRes_of_sameOwed {s u : State} {iss : Issue} {t : Thread} (hsolo : s.Solo iss t) (h : s.SameOwed u) :
    ∀ y ∈ u.threads, y.is t.gid t.lane → y.nextRes = t.nextRes := by
  intro y hy hyt
  obtain ⟨x, hx, hxy⟩ := List.mem_map.mp (h ▸ List.mem_map_of_mem (f := Thread.owed) hy)
  simp only [Thread.owed, Prod.mk.injEq] at hxy
  obtain ⟨hg, hl, ho⟩ := hxy
  have hxt : x.is t.gid t.lane := by
    unfold Thread.is at hyt ⊢
    rwa [hg, hl]
  rw [← hsolo.eq_of_is hx hxt]
  unfold Thread.nextRes
  rw [ho]

end Sys2Proof.Machine
end

section
/-! Fences, monitors and mirror windows of a lone thread (R189 to R191, R195, R200, R201). -/
namespace Sys2Proof.Machine
open Host (Outcome)

theorem State.group_gid (s : State) (gid : Nat) : (s.group gid).gid = gid := by
  unfold State.group State.group?
  cases h : s.groups.find? fun g => g.gid = gid with
  | none => rfl
  | some g => simpa using List.find?_some h
theorem State.actGroup_gid (s : State) (iss : Issue) (t : Thread) : (s.actGroup iss t).gid = iss.gid := by
  have hact : (s.actGroup iss t).gid = (s.group iss.gid).gid := by
    unfold State.actGroup State.actFor
    split
    · split <;> rfl
    · rfl
  rw [hact, s.group_gid]

/-! ## mwait -/

section
variable {s u : State} {iss : Issue} {g : Group} {t : Thread} {n : Nat} {a : Fld}

theorem laneMwait_of_bad {c : Byte} {x : W64} {acc : BitVec 3} {k : Nat}
    (hp : s.place g (s.fatPtr g t a) (rd t a).toNat n 0 2 .read = (.bad c x acc k, u)) (v : W64) (d : Fld) :
    s.laneMwait iss g t n v d a = .trap u c x acc k := by
  simp only [State.laneMwait, hp]
theorem laneMwait_of_space {p : Place} (hp : s.place g (s.fatPtr g t a) (rd t a).toNat n 0 2 .read = (.ok p, u))
    (hsp : heSpace (s.fatPtr g t a).ent = .bstore ∨ heSpace (s.fatPtr g t a).ent = .code) (v : W64) (d : Fld) :
    s.laneMwait iss g t n v d a = .trap u 0x11 (BitVec.ofNat 64 (heBase (s.fatPtr g t a).ent + (rd t a).toNat)) 1 0 := by
  simp only [State.laneMwait, hp]
  exact if_pos (by simpa using hsp)

section
variable (hb : heSpace (s.fatPtr g t a).ent ≠ .bstore) (hc : heSpace (s.fatPtr g t a).ent ≠ .code)
include hb hc

theorem laneMwait_of_mem {pa : Nat} (hp : s.place g (s.fatPtr g t a) (rd t a).toNat n 0 2 .read = (.ok (.mem pa), u)) (v : W64)
    (d : Fld) :
    s.laneMwait iss g t n v d a =
      let w := { u with nextId := u.nextId + 2, reqs := u.reqs ++ [Req.mk' (u.nextId + 1) g t iss (.mwait v) pa
        (heBase (s.fatPtr g t a).ent + (rd t a).toNat) n [] none 0] }
      .ok (w.updT g.gid t.lane fun y => y.block (.mwait u.nextId d) iss [.g d]) := by
  simp only [State.laneMwait, hp]
  exact if_neg (by simp [hb, hc])
theorem laneMwait_of_scr {fid x : Nat} (hp : s.place g (s.fatPtr g t a) (rd t a).toNat n 0 2 .read = (.ok (.scr fid x), u)) (v : W64)
    (d : Fld) :
    s.laneMwait iss g t n v d a =
      let w := { u with nextId := u.nextId + 2 }
      if natOf (u.scrRead fid x n) = v.toNat % 2 ^ (8 * n) then
        .ok ((w.updT g.gid t.lane fun y => y.block (.mwait u.nextId d) iss [.g d]).arm ⟨u.nextId, some fid, x, n, g.gid, t.lane⟩)
      else
        let lg := w.logged g.gid t.lane 2 (BitVec.ofNat 64 (heBase (s.fatPtr g t a).ent + (rd t a).toNat)) 1 []
        .ok ((lg.2.2.updT g.gid t.lane fun y => y.await (Result.known y.nextRes [.g d (lg.1.setWidth 32)] 0 false)).acquireCore
          g.pcore) := by
  simp only [State.laneMwait, hp]
  exact if_neg (by simp [hb, hc])
end

/-! ## mwsub -/

/-- The first window of a flock that a `mwsub` may take. -/
def Flock.freeWin (f : Flock) : Option Nat :=
  (List.range 8).find? fun i => match f.wins[i]? with | some w => decide (w.st = .free) | none => false
/-- What a `mwsub` comes to once both its ends and its range are good. -/
theorem laneMwsub_of_good {b : Fld} {p1 p2 : Place} {u1 u2 : State} {f : Flock}
    (hp1 : s.place g (s.fatPtr g t a) (rd t a).toNat 1 0 2 .read = (.ok p1, u1))
    (hp2 : u1.place g (s.fatPtr g t a) (((rd t a).toNat : Int) + (rd t (b + 1)).toNat - 1) 1 0 2 .read = (.ok p2, u2))
    (hsp : heSpace (s.fatPtr g t a).ent = .global ∨ heSpace (s.fatPtr g t a).ent = .near) (hlen : (rd t (b + 1)).toNat % 512 = 0)
    (hmin : 512 ≤ (rd t (b + 1)).toNat) (hmax : (rd t (b + 1)).toNat ≤ 2 ^ 20)
    (hva : (heBase (s.fatPtr g t a).ent + (rd t a).toNat) % 512 = 0) (hscr : (rd t b).toNat % 512 = 0)
    (hf : u2.flock? g.fid = some f) (hroom : (rd t b).toNat + (rd t (b + 1)).toNat ≤ f.scrLen)
    {bad : Option (Nat × Byte × Nat)} {u3 : State}
    (hbad : u2.touchPages g.pcore g.ctx (heBase (s.fatPtr g t a).ent + (rd t a).toNat) (rd t (b + 1)).toNat = (bad, u3)) (d : Fld) :
    s.laneMwsub g t d a b =
      let va := heBase (s.fatPtr g t a).ent + (rd t a).toNat
      let len := (rd t (b + 1)).toNat
      match bad with
      | some f => .trap u3 f.2.1 (BitVec.ofNat 64 f.1) 1 f.2.2
      | none =>
        match u3.grainsOf g.ctx va len with
        | none => .trap u3 0x10 (BitVec.ofNat 64 va) 1 0
        | some gr =>
          match f.freeWin with
          | none => .ok (u3.updT g.gid t.lane fun y => y.await (Result.known t.nextRes [.g d 0xFFFFFFFF] 0 false))
          | some i =>
            let s := u3.updT g.gid t.lane fun y => y.await (pendingLoad t.nextRes d 4 1 false false)
            let s := s.updFlock f.fid fun f => f.setWin i
              { Window.reset with st := .loading, scr := (rd t b).toNat, va, len, ret := some (g.gid, t.lane, t.nextRes) }
            let same := fun (m : MirrorSeq) => m.ctx = g.ctx && m.va = va && m.grains.length = gr.length
            if s.mirrors.any same then
              .ok { s with mirrors := s.mirrors.map fun (m : MirrorSeq) => if same m then { m with grains := gr } else m }
            else .ok { s with mirrors := s.mirrors ++ [⟨g.ctx, va, gr, 0⟩] } := by
  have hglob : ¬ (decide (heSpace (s.fatPtr g t a).ent ≠ .global) && decide (heSpace (s.fatPtr g t a).ent ≠ .near)) = true := by
    rcases hsp with h | h <;> simp [h]
  have hrange : ¬ (decide ((rd t (b + 1)).toNat % 512 ≠ 0) || decide ((rd t (b + 1)).toNat < 512) ||
      decide (2 ^ 20 < (rd t (b + 1)).toNat) || !decide ((rd t b).toNat + (rd t (b + 1)).toNat ≤ f.scrLen)) = true := by
    simp only [Bool.or_eq_true, decide_eq_true_eq, Bool.not_eq_true', decide_eq_false_iff_not, not_or, not_not]
    exact ⟨⟨⟨hlen, by omega⟩, by omega⟩, hroom⟩
  have halign : ¬ (decide ((heBase (s.fatPtr g t a).ent + (rd t a).toNat) % 512 ≠ 0) || decide ((rd t b).toNat % 512 ≠ 0)) = true := by
    simp [hva, hscr]
  unfold State.laneMwsub
  dsimp only
  rw [hp1]
  dsimp only
  rw [hp2]
  dsimp only
  rw [if_neg hglob, hf, if_neg hrange, if_neg halign]
  cases bad with
  | some f => simp only [hbad]
  | none => simp only [hbad]; rfl

end

/-- The ranges mirrored after a `mwsub`: the range that it names is one of them, whether it was mirrored before or not. -/
theorem mirrors_any_same (l : List MirrorSeq) (ctx va : Nat) (gr : List Nat) (seq : BitVec 31) :
    let same := fun (m : MirrorSeq) => m.ctx = ctx && m.va = va && m.grains.length = gr.length
    let is := fun (m : MirrorSeq) => decide (m.ctx = ctx ∧ m.va = va ∧ m.grains.length = gr.length)
    (l.any same = true → (l.map fun (m : MirrorSeq) => if same m then { m with grains := gr } else m).any is = true) ∧
      (l ++ [(⟨ctx, va, gr, seq⟩ : MirrorSeq)]).any is = true := by
  intro same is
  refine ⟨fun h => ?_, by simp [is]⟩
  obtain ⟨m, hm, hsame⟩ := List.any_eq_true.mp h
  refine List.any_eq_true.mpr ⟨_, List.mem_map_of_mem hm, ?_⟩
  rw [if_pos hsame]
  simp only [same, Bool.and_eq_true, decide_eq_true_eq] at hsame
  simp [is, hsame]

/-! ## fence -/

section
variable {s : State} {iss : Issue} {t : Thread}

theorem execFence_of_drained (hs : s.Solo iss t) (cs : CS) (h : s.drained t = true) :
    execFence cs s = .next ((s.mapLanes iss.gid iss.lanes fun y => { y with pend := [] }).acquireCore (s.group iss.gid).pcore) := by
  unfold execFence
  simp only [hs.isOpen, hs.sole, List.all_cons, h, List.all_nil, Bool.and_true, if_true]
theorem execFence_of_not_drained (hs : s.Solo iss t) (cs : CS) (h : s.drained t = false) :
    execFence cs s = .next (s.mapLanes iss.gid iss.lanes fun y => y.fence iss) := by
  unfold execFence
  simp only [hs.isOpen, hs.sole, List.all_cons, h, List.all_nil, Bool.and_true, Bool.false_eq_true, if_false]
theorem drained_iff : s.drained t = true ↔ t.outst = [] ∧ ∀ r ∈ s.reqs, r.ofLanes t.gid (laneBit t.lane) = false := by
  unfold State.drained
  simp

/-- A thread with a result or an access under way is not drained. -/
theorem not_drained (h : t.outst ≠ [] ∨ ∃ r ∈ s.reqs, r.ofLanes t.gid (laneBit t.lane) = true) : s.drained t = false := by
  by_contra hd
  obtain ⟨ho, hr⟩ := drained_iff.mp (Bool.eq_true_of_not_eq_false hd)
  rcases h with h | ⟨r, hm, hr'⟩
  · exact h ho
  · exact absurd ((hr r hm).symm.trans hr') (by decide)
end

theorem execPfch_eq {s : State} {iss : Issue} (h : s.issue = some iss) (cs : CS) (a b : BitVec 6) : execPfch cs a b s = .next s := by
  refine congrArg Outcome.next ((eachLane_go s iss _ id h fun t _ => rfl).trans ?_)
  simp

/-! ## The statement -/

/-- Settles O35: each word does one lane's work, and what a `mwsub` leaves its thread outstanding may be named before or after its
pages are translated, which leaves what threads owe. -/
theorem monitorWindowWords : Obligations.MonitorWindowWords := by
  unfold Obligations.MonitorWindowWords
  intro s iss t hs cs d a b g k h off owes waits badId
  have hwaits (i : Instr) (n : Nat) (v : W64)
      (hi : exec i s = .next ((s.laneMwait iss k t n v d a).after t.lane)) : waits i n v := by
    refine ⟨fun c x acc q u hp => ?_, fun p u hp hsp => ?_, fun pa u hp hb hc => ?_, fun fid x u hp hb hc => ⟨fun he => ?_, fun hn => ?_⟩⟩
    · rw [hi, laneMwait_of_bad hp]; rfl
    · rw [hi, laneMwait_of_space hp hsp]; rfl
    · rw [hi, laneMwait_of_mem hb hc hp]; rfl
    · rw [hi, laneMwait_of_scr hb hc hp, if_pos he]; rfl
    · rw [hi, laneMwait_of_scr hb hc hp, if_neg hn]; rfl
  have hgid : (s.group iss.gid).gid = iss.gid := s.group_gid iss.gid
  refine ⟨fun ho hr => execFence_of_drained hs cs (drained_iff.mpr ⟨ho, hr⟩), fun hn => execFence_of_not_drained hs cs (not_drained hn),
    execPfch_eq hs.isOpen cs a b, hwaits _ _ _ (congrArg Outcome.next (laneFold_after hs _)),
    hwaits _ _ _ (congrArg Outcome.next (laneFold_after hs _)), fun h7 => ?_, fun h7 => ?_, fun h7 => ?_, ?_, ?_⟩
  · exact congrArg Outcome.next (laneFold_trap s iss t _ s _ _ _ _ hs (if_pos h7))
  · exact congrArg Outcome.next (laneFold_trap s iss t _ s _ _ _ _ hs (if_pos h7))
  · exact congrArg Outcome.next (laneFold_trap s iss t _ s _ _ _ _ hs (if_pos h7))
  · intro h7 w hw
    have hle : ¬ 7 < (rd t a).toNat := Nat.not_lt.mpr h7
    refine ⟨fun hfree => ?_, fun hnot => ?_, ?_, fun hsy => ?_, fun hsy => ?_⟩
    · refine congrArg Outcome.next (laneFold_ok s iss t _ _ hs ((if_neg hle).trans (congrArg StepRes.ok ?_)))
      unfold State.endWindow
      rw [hw]
      exact if_pos hfree
    · refine congrArg Outcome.next (laneFold_ok s iss t _ _ hs ((if_neg hle).trans (congrArg StepRes.ok ?_)))
      unfold State.endWindow
      rw [hw]
      exact if_neg hnot
    · refine congrArg Outcome.next (laneFold_ok s iss t _ _ hs ((if_neg hle).trans ?_))
      dsimp only
      rw [hw]
    · refine congrArg Outcome.next (laneFold_ok s iss t _ _ hs ((if_neg hle).trans ?_))
      rw [hw]
      exact if_neg (by simp [hsy])
    · refine congrArg Outcome.next (laneFold_ok s iss t _ _ hs ((if_neg hle).trans ?_))
      rw [hw]
      exact if_pos hsy
  · intro len scr va p1 p2 u1 u2 f gr hp1 hp2 hsp hlen hmin hmax hva hscr hf hroom bad u3 hbad
    have hgood := laneMwsub_of_good hp1 hp2 hsp hlen hmin hmax hva hscr hf hroom hbad d
    have hexec : exec (.mwsub cs d a b) s = .next ((s.laneMwsub k t d a b).after t.lane) := congrArg Outcome.next (laneFold_after hs _)
    have howed : s.SameOwed u3 := by
      have h1 := place_sameOwed s k h off 1 0 2 .read
      have h2 := place_sameOwed u1 k h ((off : Int) + len - 1) 1 0 2 .read
      have h3 := touchPages_sameOwed u2 k.pcore k.ctx va len
      rw [hp1] at h1
      rw [hp2] at h2
      rw [hbad] at h3
      exact (h1.trans h2).trans h3
    refine ⟨fun q c fk hq => ?_, fun hnone hgr => ?_⟩
    · subst hq
      rw [hexec, hgood]; rfl
    · subst hnone
      intro slot
      have hok := hgood
      dsimp only at hok
      rw [hgr] at hok
      refine ⟨fun hslot => ?_, fun i hslot => ?_⟩
      · dsimp only at hok
        rw [show f.freeWin = none from hslot] at hok
        rw [hexec, hok]
        refine congrArg Outcome.next (State.updT_congr fun y hy his => ?_)
        rw [State.actGroup_gid, ← hs.gid_eq] at his
        rw [nextRes_of_sameOwed hs howed y hy his]
      · dsimp only at hok
        rw [show f.freeWin = some i from hslot] at hok
        obtain ⟨hsame, hnew⟩ := mirrors_any_same u3.mirrors k.ctx va gr 0
        by_cases hm : u3.mirrors.any (fun m => decide (m.ctx = k.ctx) && decide (m.va = va) && decide (m.grains.length = gr.length)) = true
        · exact ⟨_, hexec.trans (congrArg (fun r => Outcome.next (StepRes.after t.lane r)) (hok.trans (if_pos hm))), rfl, rfl, hsame hm⟩
        · exact ⟨_, hexec.trans (congrArg (fun r => Outcome.next (StepRes.after t.lane r)) (hok.trans (if_neg hm))), rfl, rfl, hnew⟩

end Sys2Proof.Machine
end

section
/-! Requests at their homes (R181 to R183, R193): what a home's service leaves of the state, and what becomes of a request that its
home takes. -/
namespace Sys2Proof.Machine
open Host (Outcome)

/-! ## Copies and directory -/

/-- Only the copies of caches and of the proxy, the directory, its messages, the operations and the open values taken differ. -/
def State.OnlyCopies (s u : State) : Prop :=
  ∃ l d g f p o, u = { s with l1 := l, dir := d, msgs := g, free := f, proxy := p, ops := o }

namespace State.OnlyCopies

theorem refl (s : State) : s.OnlyCopies s := ⟨_, _, _, _, _, _, rfl⟩
theorem trans {s u v : State} : s.OnlyCopies u → u.OnlyCopies v → s.OnlyCopies v := by
  rintro ⟨_, _, _, _, _, _, rfl⟩ ⟨l, d, g, f, p, o, rfl⟩
  exact ⟨l, d, g, f, p, o, rfl⟩
theorem foldl {α : Type} (l : List α) {f : State → α → State} (h : ∀ (u : State) a, u.OnlyCopies (f u a)) (s : State) :
    s.OnlyCopies (l.foldl f s) :=
  List.foldlRecOn (motive := s.OnlyCopies) _ _ (.refl s) fun u hu a _ => hu.trans (h u a)

section
variable {s u : State} (h : s.OnlyCopies u)
include h
theorem mem : u.mem = s.mem := by obtain ⟨_, _, _, _, _, _, rfl⟩ := h; rfl
theorem reqs : u.reqs = s.reqs := by obtain ⟨_, _, _, _, _, _, rfl⟩ := h; rfl
end

end State.OnlyCopies

theorem setDir_onlyCopies (s : State) (w : Nat) (d : Dir) : s.OnlyCopies (s.setDir w d) := ⟨_, _, _, _, _, _, rfl⟩
theorem evictLine_onlyCopies (s : State) (c line : Nat) : s.OnlyCopies (s.evictLine c line) := ⟨_, _, _, _, _, _, rfl⟩
theorem makeRoom_onlyCopies (s : State) (core w : Nat) : s.OnlyCopies (s.makeRoom core w) := by
  unfold State.makeRoom
  dsimp only
  split
  · exact .refl s
  · split
    · exact .refl s
    · exact State.OnlyCopies.trans ⟨_, _, _, _, _, _, rfl⟩ (evictLine_onlyCopies s.takeFree.2 _ _)
theorem setL1_onlyCopies (s : State) (core w ctx : Nat) (st : L1St) (v : W32) : s.OnlyCopies (s.setL1 core w ctx st v) :=
  (makeRoom_onlyCopies s core w).trans ⟨_, _, _, _, _, _, rfl⟩
theorem mergeOwned_onlyCopies (s : State) (core pa : Nat) (bs : List Byte) : s.OnlyCopies (s.mergeOwned core pa bs) :=
  ⟨_, _, _, _, _, _, rfl⟩
theorem acquireCore_onlyCopies (s : State) (core : Nat) : s.OnlyCopies (s.acquireCore core) := ⟨_, _, _, _, _, _, rfl⟩
theorem updOp_onlyCopies (s : State) (id : Nat) (f : Op → Op) : s.OnlyCopies (s.updOp id f) := ⟨_, _, _, _, _, _, rfl⟩
/-- A store to a kept line changes the proxy alone. -/
theorem proxyDirty_eq (s : State) (r : Req) : ∃ p, s.proxyDirty r = { s with proxy := p } := by
  unfold State.proxyDirty
  cases s.servedKind r <;> exact ⟨_, rfl⟩

/-! ## The home's words -/

theorem dirOf_of_first {s : State} {w : Nat} {d : Dir} {l : List (Nat × Dir)} (h : s.dir = (w, d) :: l) : s.dirOf w = d := by
  simp [State.dirOf, h]

section
variable {s : State} {r : Req}

/-- A word that no request holds. -/
def State.Stable (s : State) (w : Nat) : Prop := (s.dirOf w).transient = false

theorem unkeep_of_stable (h : ∀ w ∈ r.words, s.Stable w) : s.unkeep r = s := by
  unfold State.unkeep
  refine List.foldlRecOn (motive := fun u : State => u = s) _ _ rfl fun u hu w hw => ?_
  subst hu
  have hst := h w hw
  unfold State.Stable at hst
  cases hd : u.dirOf w <;> simp_all [Dir.transient]

/-! ## A home that nothing watches -/

/-- Nothing records, re-executes, mirrors or monitors. -/
structure State.Unwatched (s : State) : Prop where
  replays : s.replays = []
  recs : s.recs = []
  mirrors : s.mirrors = []
  mons : s.mons = []

theorem State.Unwatched.of_copies {u : State} (h : s.Unwatched) (hc : s.OnlyCopies u) : u.Unwatched := by
  obtain ⟨hr, hx, hm, ho⟩ := h
  obtain ⟨_, _, _, _, _, _, rfl⟩ := hc
  exact ⟨hr, hx, hm, ho⟩

namespace State.Unwatched
variable (h : s.Unwatched)
include h

theorem dropReq (id : Nat) : (s.dropReq id).Unwatched := ⟨h.replays, h.recs, h.mirrors, h.mons⟩
theorem withMem (m : Memory) : State.Unwatched { s with mem := m } := ⟨h.replays, h.recs, h.mirrors, h.mons⟩
theorem recording (ctx : Nat) : s.recording ctx = false := by simp [State.recording, h.recs]
theorem undoGrains (ctx pa n : Nat) : s.undoGrains ctx pa n = s := by simp [State.undoGrains, h.recording]
theorem fireMonitors (fid : Option Nat) (a n : Nat) : s.fireMonitors fid a n = s := by simp [State.fireMonitors, h.mons]
theorem mirrorWrite (pa : Nat) (bs : List Byte) : s.mirrorWrite pa bs = s := by simp [State.mirrorWrite, h.mirrors]
theorem servedKind (r : Req) : s.servedKind r = r.kind := by simp [State.servedKind, State.mirrored, h.mirrors]
theorem replayHolds (r : Req) : s.replayHolds r = false := by simp [State.replayHolds, h.replays]
theorem logged (gid lane : Nat) (kind : Byte) (addr val : W64) (extra : List Byte) :
    s.logged gid lane kind addr val extra = (val, extra, s) := by
  simp [State.logged, State.logEvent, h.replays, h.recording]
theorem applyWrite (ctx pa : Nat) (bs : List Byte) : s.applyWrite ctx pa bs = { s with mem := memWrite s.mem pa bs } := by
  unfold State.applyWrite
  rw [h.undoGrains]
  dsimp only
  rw [(h.withMem _).fireMonitors, (h.withMem _).mirrorWrite]
theorem ownWrite_onlyCopies (core ctx pa : Nat) (bs : List Byte) : s.OnlyCopies (s.ownWrite core ctx pa bs) := by
  unfold State.ownWrite
  rw [h.undoGrains, (h.of_copies (mergeOwned_onlyCopies s core pa bs)).fireMonitors]
  exact mergeOwned_onlyCopies s core pa bs
end State.Unwatched

/-! ## Replies -/

/-- Memory and the requests are as they were. -/
def State.SameReqs (s u : State) : Prop := u.mem = s.mem ∧ u.reqs = s.reqs

theorem State.OnlyCopies.sameReqs {u : State} (h : s.OnlyCopies u) : s.SameReqs u := ⟨h.mem, h.reqs⟩
theorem State.SameReqs.trans {u v : State} (h : s.SameReqs u) (h' : u.SameReqs v) : s.SameReqs v := ⟨h'.1.trans h.1, h'.2.trans h.2⟩

theorem stepHeld_sameReqs (s : State) (gid lane : Nat) : s.SameReqs (s.stepHeld gid lane) := by
  unfold State.stepHeld
  split
  · exact ⟨rfl, rfl⟩
  · split
    · exact ⟨rfl, rfl⟩
    · have hp := parkWaiting_onlyWaits (s.updGroup gid fun g => g.dropLanes (laneBit lane)) gid
      exact ⟨(hp _ _).mem, (hp _ _).reqs⟩

theorem feed_sameReqs (h : s.Unwatched) (gid lane rid off : Nat) (bs : List Byte) (flags : BitVec 5) (addr : Nat) :
    s.SameReqs (s.feed gid lane rid off bs flags addr) := by
  have hite (p : Prop) [Decidable p] (u v : State) (hu : s.SameReqs u) (hv : s.SameReqs v) : s.SameReqs (if p then u else v) := by
    split
    · exact hu
    · exact hv
  have hself : s.SameReqs s := ⟨rfl, rfl⟩
  unfold State.feed
  split
  · exact hself
  · split
    · exact hself
    · extract_lets r' all l all' r'' u v
      have hl : l.2.2 = s := by
        unfold l
        rw [h.logged]
        split <;> rfl
      have hu : s.SameReqs u := by unfold u; rw [hl]; exact hself
      have hv : s.SameReqs v := hite _ _ _ (hu.trans (acquireCore_onlyCopies u _).sameReqs) hu
      exact hite _ _ _ hself (hite _ _ _ (hv.trans (stepHeld_sameReqs v _ _)) hv)

/-- What a home's answer to a request comes to: memory as given, and the request is gone. -/
def State.Done (u : State) (id : Nat) (m : Memory) : Prop := u.mem = m ∧ ∀ x ∈ u.reqs, x.id ≠ id

theorem dropReq_done (s : State) (id : Nat) : (s.dropReq id).Done id s.mem := by
  refine ⟨rfl, fun x hx => ?_⟩
  simpa using (List.mem_filter.mp hx).2
theorem State.Done.of_sameReqs {u v : State} {id : Nat} {m : Memory} (h : u.Done id m) (h' : u.SameReqs v) : v.Done id m :=
  ⟨h'.1.trans h.1, h'.2 ▸ h.2⟩

theorem replyWrite_done (s : State) (r : Req) : (s.replyWrite r).Done r.id s.mem := dropReq_done _ r.id

theorem replyLoad_done (h : s.Unwatched) (r : Req) (st : Option L1St) : (s.replyLoad r st).Done r.id s.mem := by
  have hend (u : State) (hu : s.OnlyCopies u) (bs : List Byte) : State.Done (match r.eng, r.rid with
      | some op, _ => (u.dropReq r.id).updOp op fun o => { o with got := (r.pa, bs) :: o.got }
      | none, some rid => (u.dropReq r.id).feed r.gid r.lane rid r.off bs 0 (r.va - r.off)
      | none, none => u.dropReq r.id) r.id s.mem := by
    have hd : (u.dropReq r.id).Done r.id s.mem := hu.mem ▸ dropReq_done u r.id
    split
    · exact hd.of_sameReqs (updOp_onlyCopies _ _ _).sameReqs
    · exact hd.of_sameReqs (feed_sameReqs ((h.of_copies hu).dropReq r.id) _ _ _ _ _ _ _)
    · exact hd
  unfold State.replyLoad
  refine hend _ ?_ _
  split
  · refine State.OnlyCopies.foldl _ (fun u w => ?_) s
    split
    · split
      · exact .refl u
      · exact setL1_onlyCopies _ _ _ _ _ _
    · exact setL1_onlyCopies _ _ _ _ _ _
  · exact .refl s

theorem grantOwn_done (h : s.Unwatched) (r : Req) : (s.grantOwn r).Done r.id s.mem := by
  have hend (u : State) (hu : s.OnlyCopies u) : State.Done (match r.kind with
      | .ownStore => (u.ownWrite r.src r.ctx r.pa r.data).dropReq r.id
      | _ => u.replyLoad r none) r.id s.mem := by
    have hw := h.of_copies hu
    split
    · have hc := hu.trans (hw.ownWrite_onlyCopies r.src r.ctx r.pa r.data)
      exact hc.mem ▸ dropReq_done _ r.id
    · exact hu.mem ▸ replyLoad_done hw r none
  unfold State.grantOwn
  refine hend _ (State.OnlyCopies.foldl _ (fun u w => ?_) s)
  split
  · exact .refl u
  · refine State.OnlyCopies.trans ?_ (setDir_onlyCopies _ _ _)
    exact State.OnlyCopies.trans ⟨_, _, _, _, _, _, rfl⟩ (setL1_onlyCopies { u with msgs := _ } _ _ _ _ _)

theorem natOf_lt : ∀ bs : List Byte, natOf bs < 256 ^ bs.length
  | [] => by simp [natOf]
  | b :: l => by
    have hb := b.isLt
    have hl := natOf_lt l
    rw [natOf, List.length_cons, pow_succ']
    omega
/-- The value that a read-modify-write finds in memory is the one that it reports. -/
theorem natOf_logVal (m : Memory) (a : Nat) {n : Nat} (hn : n ≤ 8) :
    natOf (bytesOf n (logVal (memRead m a n)).toNat) = natOf (memRead m a n) := by
  have hlt : natOf (memRead m a n) < 256 ^ n := by simpa using natOf_lt (memRead m a n)
  have hle : (256 : Nat) ^ n ≤ 2 ^ 64 := (Nat.pow_le_pow_right (by decide) hn).trans (by decide)
  rw [natOf_bytesOf, logVal, List.take_of_length_le (by simpa using hn), BitVec.toNat_ofNat, Nat.mod_eq_of_lt (hlt.trans_le hle),
    Nat.mod_eq_of_lt hlt]

/-- What a read-modify-write of a home writes. -/
def Req.rmwBytesAt (r : Req) (m : Memory) (op : RmwOp) (b c : W64) : List Byte :=
  bytesOf r.n (rmwApply op (natOf (memRead m r.pa r.n)) (b.toNat % 2 ^ (8 * r.n)) (c.toNat % 2 ^ (8 * r.n))).bits

theorem doRmw_mem (h : s.Unwatched) {op : RmwOp} (hn : r.n = rmwBytes op) (h8 : r.n ≤ 8) (b c : W64) :
    (s.doRmw r op b c).mem = memWrite s.mem r.pa (r.rmwBytesAt s.mem op b c) := by
  unfold State.doRmw Req.rmwBytesAt
  rw [← hn]
  cases r.rid with
  | none =>
    dsimp only
    rw [h.applyWrite, natOf_logVal _ _ h8]
  | some rid =>
    dsimp only
    rw [h.logged]
    dsimp only
    rw [h.applyWrite, natOf_logVal _ _ h8, (feed_sameReqs (h.withMem _) _ _ _ _ _ _ _).1]

/-! ## Serving a request whose words have no other sharer -/

section
variable (h : s.Unwatched) (hq : (r.words.all fun w => (s.othersOf r w).isEmpty) = true)
include h

theorem serve_read_done {si : Bool} (hk : r.kind = .read si) : (s.serve r).Done r.id s.mem := by
  have he : s.serve r = s.replyLoad r (if si then some .si else none) := by simp only [State.serve, h.servedKind, hk]
  exact he ▸ replyLoad_done h r _
theorem serve_wi_done (hk : r.kind = .wi) : (s.serve r).Done r.id s.mem := by
  have hs (u : State) (hu : s.OnlyCopies u) : (u.replyLoad r (some .wi)).Done r.id s.mem :=
    hu.mem ▸ replyLoad_done (h.of_copies hu) r _
  simp only [State.serve, h.servedKind, hk]
  refine hs _ (State.OnlyCopies.foldl _ (fun u w => ?_) s)
  split
  · exact setDir_onlyCopies _ _ _
  · exact .refl u
include hq
theorem serve_own_done (hk : r.kind = .ownLoad ∨ r.kind = .ownStore) : (s.serve r).Done r.id s.mem := by
  have he : s.serve r = s.grantOwn r := by rcases hk with hk | hk <;> simp only [State.serve, h.servedKind, hk, hq, if_true]
  exact he ▸ grantOwn_done h r
theorem serve_write_done {si : Bool} (hk : r.kind = .write si) : (s.serve r).Done r.id (memWrite s.mem r.pa r.data) := by
  have he : s.serve r = (s.applyWrite r.ctx r.pa r.data).replyWrite r := by simp only [State.serve, h.servedKind, hk, hq, if_true]
  rw [he, h.applyWrite]
  exact replyWrite_done _ r
theorem serve_rmw_done {op : RmwOp} {b c : W64} (hk : r.kind = .rmw op b c) (hn : r.n = rmwBytes op) (h8 : r.n ≤ 8) :
    (s.serve r).Done r.id (memWrite s.mem r.pa (r.rmwBytesAt s.mem op b c)) := by
  have he : s.serve r = (s.doRmw r op b c).replyWrite r := by simp only [State.serve, h.servedKind, hk, hq, if_true]
  rw [he, ← doRmw_mem h hn h8]
  exact replyWrite_done _ r
end

/-! ## Taking a request -/

section
variable (hdev : r.pa < hostBase)
include hdev

theorem takeReq_of_busy (hout : r.outside = false) (hb : ∃ w ∈ r.words, s.busyFor r.id w = true ∨ s.midSwitch w = true) :
    s.takeReq r = s.refuse r := by
  have hhost : decide (hostBase ≤ r.pa) = false := decide_eq_false (Nat.not_le.mpr hdev)
  have hany : (r.words.any fun w => s.busyFor r.id w || s.midSwitch w) = true := by simpa using hb
  simp only [State.takeReq, hhost, Bool.false_and, Bool.false_eq_true, if_false, hany, if_true, hout]

/-- A request whose words are stable, and which nothing else holds back, recalls its words or is served. -/
theorem takeReq_of_stable (h : s.Unwatched) (hst : ∀ w ∈ r.words, s.midSwitch w = false ∧ s.Stable w) (hg : s.grainHolds r = false) :
    s.takeReq r = if r.words.any fun w => s.needsRecall r w then
      { s with
        dir := r.words.foldl (fun d w =>
          let d' := match s.dirOf w with
            | .owned c => if s.needsRecall r w then Dir.recall c r.id else Dir.kept c r.id
            | _ => Dir.inval [] (s.sharersOf w) r.id
          (w, d') :: d.filter fun x => x.1 ≠ w) s.dir,
        msgs := s.msgs ++ r.words.flatMap fun w =>
          if s.needsRecall r w then (match s.dirOf w with | .owned c => [Msg.recall c w] | _ => []) else [] }
      else (s.proxyDirty r).serve r := by
  have hhost : decide (hostBase ≤ r.pa) = false := decide_eq_false (Nat.not_le.mpr hdev)
  have hany : (r.words.any fun w => s.busyFor r.id w || s.midSwitch w) = false := by
    refine List.any_eq_false.mpr fun w hw => ?_
    obtain ⟨hm, ht⟩ := hst w hw
    unfold State.Stable at ht
    simp [State.busyFor, hm, ht]
  have hprox : s.proxyHolds r = true := by
    unfold State.proxyHolds
    rw [decide_eq_true hdev, Bool.true_or]
  unfold State.takeReq
  rw [hhost, hany, unkeep_of_stable fun w hw => (hst w hw).2]
  dsimp only
  rw [hg, h.replayHolds, hprox]
  rfl

end
end

/-! ## Recalls, refusals and the statement -/

section
variable {s : State} {r : Req}

/-- The one word of a request, owned by another, is recalled. -/
theorem takeReq_of_recall {c : Agent} {w : Nat} (hdev : r.pa < hostBase) (h : s.Unwatched) (hg : s.grainHolds r = false)
    (hw : r.words = [w]) (hm : s.midSwitch w = false) (hd : s.dirOf w = .owned c) (hn : s.needsRecall r w = true) :
    s.takeReq r = { s with dir := (w, .recall c r.id) :: s.dir.filter fun x => x.1 ≠ w, msgs := s.msgs ++ [.recall c w] } := by
  have hst : ∀ x ∈ r.words, s.midSwitch x = false ∧ s.Stable x := by simp [hw, hm, State.Stable, hd, Dir.transient]
  rw [takeReq_of_stable hdev h hst hg]
  simp [hw, hn, hd]

/-- A word that another core owns is recalled for any request but one that may read past its owner. -/
theorem needsRecall_of_owned (h : s.Unwatched) {c : Agent} {w : Nat} (hd : s.dirOf w = .owned c) (hc : c ≠ r.src)
    (hk : r.kind ≠ .read false ∧ ∀ v, r.kind ≠ .mwait v) : s.needsRecall r w = true := by
  obtain ⟨hread, hmwait⟩ := hk
  unfold State.needsRecall
  rw [hd, h.servedKind]
  cases hk : r.kind with
  | read si => cases si <;> simp_all
  | mwait v => exact absurd hk (hmwait v)
  | _ => simp [hc]

/-- Nothing is recalled for CLEAN words. -/
theorem needsRecall_of_clean {w : Nat} {l : List Agent} (hd : s.dirOf w = .clean l) : s.needsRecall r w = false := by
  simp [State.needsRecall, hd]

theorem refuse_req (hr : s.req? r.id = some r) : ∃ x, (s.refuse r).req? r.id = some x ∧ x.refused = true ∧
    x.refusals = r.refusals + 1 ∧ x.persistent = (r.persistent || decide (16 ≤ r.refusals + 1)) := by
  let f : Req → Req := fun x =>
    { x with refusals := r.refusals + 1, persistent := r.persistent || decide (16 ≤ r.refusals + 1), refused := true }
  refine ⟨f r, ?_, rfl, rfl, rfl⟩
  have hreqs : (s.refuse r).reqs = s.reqs.map fun x => if x.id = r.id then f x else x := by
    unfold State.refuse
    dsimp only
    split <;> rfl
  unfold State.req? at hr ⊢
  rw [hreqs, List.find?_map]
  have hid (x : Req) : (if x.id = r.id then f x else x).id = x.id := by split <;> rfl
  simp only [Function.comp_def, hid, hr, Option.map_some, if_true]
theorem refuse_mem_dir (s : State) (r : Req) : (s.refuse r).mem = s.mem ∧ (s.refuse r).dir = s.dir := by
  unfold State.refuse
  dsimp only
  split <;> exact ⟨rfl, rfl⟩

/-- An event of a kind takes a request of that kind. -/
theorem takeKind_of_req (hr : s.req? r.id = some r) (hmay : s.mayTake r = true) {p : ReqKind → Bool} (hp : p r.kind = true) :
    s.takeKind r.id p = s.takeReq r := by
  simp only [State.takeKind, State.tryTake, hr, hp, hmay, if_true]
end

/-- Settles O37: the home that takes the request refuses it for a busy word, serves it where its words are CLEAN without another
sharer, and sends the owner of its one word a recall. -/
theorem homeServesRequests : Obligations.HomeServesRequests := by
  unfold Obligations.HomeServesRequests
  intro s r hr hmay hpa hout hg hreplays hrecs hmirrors hmons hup h0 h8 served alone busy first refused recalls
  have hdev : r.pa < hostBase := by omega
  have h : s.Unwatched := ⟨hreplays, hrecs, hmirrors, hmons⟩
  have hrefused (i : Instr) (p : ReqKind → Bool) (hp : p r.kind = true) (hi : exec i s = .next (s.takeKind r.id p)) (hb : busy) :
      refused i := by
    obtain ⟨x, hx, href, hcount, hpers⟩ := refuse_req hr
    obtain ⟨hmem, hdir⟩ := refuse_mem_dir s r
    exact ⟨s.refuse r, x, by rw [hi, takeKind_of_req hr hmay hp, takeReq_of_busy hdev hout hb], hx, href, hcount, hpers, hmem, hdir⟩
  have hrecalls (i : Instr) (p : ReqKind → Bool) (hp : p r.kind = true) (hi : exec i s = .next (s.takeKind r.id p))
      (hk : r.kind ≠ .read false ∧ ∀ v, r.kind ≠ .mwait v) (c : Agent) (w : Nat) (hf : first c w) : recalls i c w := by
    obtain ⟨hw, hm, hd, hc⟩ := hf
    refine ⟨{ s with dir := (w, .recall c r.id) :: s.dir.filter fun x => x.1 ≠ w, msgs := s.msgs ++ [.recall c w] }, ?_,
      dirOf_of_first rfl, rfl, rfl, rfl⟩
    rw [hi, takeKind_of_req hr hmay hp, takeReq_of_recall hdev h hg hw hm hd (needsRecall_of_owned h hd hc hk)]
  have hserved (i : Instr) (p : ReqKind → Bool) (hp : p r.kind = true) (hi : exec i s = .next (s.takeKind r.id p)) (m : Memory)
      (hs : ∀ u : State, u.Unwatched → (r.words.all fun w => (u.othersOf r w).isEmpty) = true → u.mem = s.mem → (u.serve r).Done r.id m)
      (ha : alone) : served i m := by
    have hclean : ∀ w ∈ r.words, s.dirOf w = .clean [] ∨ s.dirOf w = .clean [r.src] := fun w hw => (ha w hw).2
    have hst : ∀ w ∈ r.words, s.midSwitch w = false ∧ s.Stable w := fun w hw => by
      refine ⟨(ha w hw).1, ?_⟩
      unfold State.Stable
      rcases hclean w hw with hd | hd <;> rw [hd] <;> rfl
    have hno : (r.words.any fun w => s.needsRecall r w) = false := List.any_eq_false.mpr fun w hw => by
      rcases hclean w hw with hd | hd <;> simp [needsRecall_of_clean hd]
    obtain ⟨q, hq⟩ := proxyDirty_eq s r
    have hquiet : (r.words.all fun w => ((s.proxyDirty r).othersOf r w).isEmpty) = true := List.all_eq_true.mpr fun w hw => by
      rw [hq]
      have hd' : State.dirOf { s with proxy := q } w = s.dirOf w := rfl
      rcases hclean w hw with hd | hd <;> simp [State.othersOf, hd', hd]
    obtain ⟨hm, hgone⟩ := hs (s.proxyDirty r) (h.of_copies (hq ▸ ⟨_, _, _, _, _, _, rfl⟩)) hquiet (by rw [hq])
    refine ⟨(s.proxyDirty r).serve r, ?_, hm, hgone⟩
    rw [hi, takeKind_of_req hr hmay hp, takeReq_of_stable hdev h hst hg, hno]
    rfl
  refine ⟨fun si hk => ?_, fun op b c hk hn => ?_, fun si hk => ?_, fun hk => ?_, fun hk => ?_⟩
  · have hp : ReqKind.isWrite r.kind = true := by rw [hk]; rfl
    refine ⟨hrefused _ _ hp rfl, hserved _ _ hp rfl _ fun u hu hq hm => hm ▸ serve_write_done hu hq hk, hrecalls _ _ hp rfl (by simp [hk])⟩
  · have hp : ReqKind.isRmw r.kind = true := by rw [hk]; rfl
    refine ⟨hrefused _ _ hp rfl, hserved _ _ hp rfl _ fun u hu hq hm => hm ▸ serve_rmw_done hu hq hk hn h8,
      hrecalls _ _ hp rfl (by simp [hk])⟩
  · have hp : ReqKind.isRead r.kind = true := by rw [hk]; rfl
    refine ⟨hrefused _ _ hp rfl, hserved _ _ hp rfl _ fun u hu hq hm => hm ▸ serve_read_done hu hk, fun c w hsi => ?_⟩
    exact hrecalls _ _ hp rfl (by simp [hk, hsi]) c w
  · have hp : decide (r.kind = .wi) = true := decide_eq_true hk
    exact ⟨hrefused _ (fun k => decide (k = .wi)) hp rfl, hserved _ (fun k => decide (k = .wi)) hp rfl _ fun u hu hq hm => hm ▸ serve_wi_done hu hk,
      hrecalls _ (fun k => decide (k = .wi)) hp rfl (by simp [hk])⟩
  · have hp : ReqKind.isOwn r.kind = true := by rcases hk with hk | hk <;> rw [hk] <;> rfl
    refine ⟨hrefused _ _ hp rfl, hserved _ _ hp rfl _ fun u hu hq hm => hm ▸ serve_own_done hu hq hk, hrecalls _ _ hp rfl ?_⟩
    rcases hk with hk | hk <;> simp [hk]

end Sys2Proof.Machine
end

section
/-! Messages between cores and homes (R174, R178, R181, R182): the oldest of a pair is delivered, and what its home or its core does
with it. -/
namespace Sys2Proof.Machine
open Host (Outcome)

/-! ## The oldest message -/

section
variable {s : State} {m : Msg}

/-- No message between the same two, in the same direction, is older. -/
def State.Next (s : State) (m : Msg) : Prop :=
  ∃ l r, s.msgs = l ++ m :: r ∧ ∀ x ∈ l, ¬(x.agent = m.agent ∧ x.down = m.down ∧ s.homeOf x.word = s.homeOf m.word)

/-- The oldest message is delivered by any test that tells messages between the same two, of one word, alone. -/
theorem deliver_of_next (h : s.Next m) {p : Msg → Bool} (hp : p m = true)
    (hsame : ∀ x, p x = true → x.agent = m.agent ∧ x.down = m.down ∧ x.word = m.word) (f : State → Msg → State) :
    s.deliver p f = f { s with msgs := s.msgs.erase m } m := by
  obtain ⟨l, r, hmsgs, hold⟩ := h
  have hnot : ∀ x ∈ l, p x = false := fun x hx => by
    by_contra hpx
    obtain ⟨ha, hd, hw⟩ := hsame x (Bool.eq_true_of_not_eq_false hpx)
    exact hold x hx ⟨ha, hd, by rw [hw]⟩
  have hne : ∀ x ∈ l, x ≠ m := fun x hx he => by
    have := hnot x hx
    rw [he, hp] at this
    exact absurd this (by decide)
  have hfind : s.msgs.find? p = some m := by
    rw [hmsgs, List.find?_append, List.find?_eq_none.mpr fun x hx => by simp [hnot x hx]]
    simp [hp]
  have hfree : s.overtakes m = false := by
    unfold State.overtakes
    rw [hmsgs, List.takeWhile_append_of_pos fun x hx => by simpa using hne x hx]
    refine List.any_eq_false.mpr fun x hx => ?_
    have hx : x ∈ l := by simpa using hx
    simpa [and_assoc] using hold x hx
  unfold State.deliver
  rw [hfind]
  dsimp only
  rw [hfree]
  rfl
theorem deliver_eq_of_next (h : s.Next m) (f : State → Msg → State) :
    s.deliver (· = m) f = f { s with msgs := s.msgs.erase m } m :=
  deliver_of_next h (decide_eq_true rfl) (fun x hx => by rw [of_decide_eq_true hx]; exact ⟨rfl, rfl, rfl⟩) f

end

/-! ## What a home does with a message -/

section
variable {s : State} {c w : Nat} {v : W32} {h : Nat}

theorem takeWriteback_of_owned (hd : s.dirOf w = .owned c) :
    s.takeWriteback c w v = { s with mem := memWrite s.mem w (bytesOf 4 v.toNat) }.setDir w (.clean []) := by
  simp [State.takeWriteback, hd]
theorem takeWriteback_of_recall (hd : s.dirOf w = .recall c h) : s.takeWriteback c w v = s.recalled w (some v) := by
  simp [State.takeWriteback, hd]
theorem takeWriteback_of_kept (hd : s.dirOf w = .kept c h) : s.takeWriteback c w v = s.keptBack w h v := by
  simp [State.takeWriteback, hd]

/-- A recalled word that no request waits for any more goes home. -/
theorem recalled_of_no_req (hd : s.dirOf w = .recall c h) (hr : s.req? h = none) :
    s.recalled w (some v) = { s with mem := memWrite s.mem w (bytesOf 4 v.toNat) }.setDir w (.clean []) := by
  have hr' : ({ s with mem := memWrite s.mem w (bytesOf 4 v.toNat) }.setDir w (.clean [])).req? h = none := hr
  simp only [State.recalled, hd, hr']

/-- An acknowledgement that others are still to follow only shortens the list. -/
theorem acked_of_others {left keep : List Agent} (hd : s.dirOf w = .inval left keep h) (hleft : left.erase c ≠ [])
    (hr : ∀ r, s.req? h = some r → w ∈ r.words) :
    s.acked c w = { s with dir := (w, .inval (left.erase c) keep h) :: s.dir.filter fun x => x.1 ≠ w } := by
  let u : State := { s with dir := (w, .inval (left.erase c) keep h) :: s.dir.filter fun x => x.1 ≠ w }
  have hu : u.dirOf w = .inval (left.erase c) keep h := dirOf_of_first rfl
  unfold State.acked
  rw [hd]
  change (match u.req? h with
    | none => if left.erase c = [] then u.setDir w (.clean keep) else u
    | some r => if u.stillOpen r then u else (u.unkeep r).serve r) = u
  cases hreq : u.req? h with
  | none => exact if_neg hleft
  | some r =>
    have hid : r.id = h := by simpa using List.find?_some hreq
    refine if_pos (List.any_eq_true.mpr ⟨w, hr r hreq, ?_⟩)
    obtain ⟨a, l, hal⟩ := List.exists_cons_of_ne_nil hleft
    rw [hu, hal]
    exact decide_eq_true hid.symm

theorem takeRecall_of_owned {x : L1Word} (hx : s.l1? c w = some x) (ho : x.st = .own) :
    s.takeRecall c w = { s with l1 := s.l1.filter fun y => !y.is c w, msgs := s.msgs ++ [.response c w (some x.val)] } := by
  simp [State.takeRecall, hx, ho]
theorem takeRecall_of_not_owned (hx : ∀ x, s.l1? c w = some x → x.st ≠ .own) : s.takeRecall c w = s := by
  unfold State.takeRecall
  split
  · next l hl => exact if_neg (hx l hl)
  · rfl

theorem keptBack_of_no_req (hr : s.req? h = none) :
    s.keptBack w h v = ({ s with mem := memWrite s.mem w (bytesOf 4 v.toNat) }.setDir w (.inval [] [] h)).setDir w (.clean []) := by
  have hr' : ({ s with mem := memWrite s.mem w (bytesOf 4 v.toNat) }.setDir w (.inval [] [] h)).req? h = none := hr
  simp only [State.keptBack, hr']
theorem keptBack_of_req {r : Req} (hr : s.req? h = some r) :
    let home := { s with mem := memWrite s.mem w (bytesOf 4 v.toNat) }.setDir w (.inval [] [] h)
    s.keptBack w h v = if home.stillOpen r then home else home.takeReq r := by
  have hr' : ({ s with mem := memWrite s.mem w (bytesOf 4 v.toNat) }.setDir w (.inval [] [] h)).req? h = some r := hr
  simp only [State.keptBack, hr']

theorem retry_of_waiting {r : Req} (hr : s.req? r.id = some r) (hp : r.persistent = false ∨ r.id ∈ s.persist) :
    s.retry r.id = s.updReq r.id fun x => { x with refused := false } := by
  unfold State.retry
  rw [hr]
  rcases hp with hp | hp <;> simp [hp]
theorem retry_of_persistent {r : Req} (hr : s.req? r.id = some r) (hp : r.persistent = true) (hq : s.persist = []) :
    s.retry r.id = { s.updReq r.id fun x => { x with refused := false } with persist := [r.id] } := by
  unfold State.retry
  rw [hr]
  simp [hp, hq, State.persistOf]

end

/-- The words that an L1 writes back, of the line that it evicts. -/
theorem filterMap_owned (l : List L1Word) (c : Nat) :
    (l.filterMap fun x => if x.st = .own then some (Msg.writeback c x.addr x.val) else none) =
      (l.filter fun x => decide (x.st = .own)).map fun x => .writeback c x.addr x.val := by
  induction l with
  | nil => rfl
  | cons x l ih => by_cases hx : x.st = .own <;> simp [hx, ih]

/-- Settles O47: each message that nothing overtakes reaches its home or its core, which does with it what the word's state asks. -/
theorem homeMessages : Obligations.HomeMessages := by
  unfold Obligations.HomeMessages
  intro s c w v next taken here
  refine ⟨?_, fun hm => ?_, fun hm => ?_, fun o h hm hd => ?_, fun hm => ?_, fun left keep h hm hd => ?_, fun r hr => ?_⟩
  · have hhere : (fun l : L1Word => decide (l.core = c) && decide (l.addr / 64 = w / 64)) = here := by
      funext l; simp [here]
    refine congrArg Outcome.next ?_
    unfold State.evictLine
    dsimp only
    rw [hhere, filterMap_owned]
    simp [here]
  · have hx (u : State) (hu : (taken (.writeback c w v)).takeWriteback c w v = u) : exec (.ownerWriteback c w) s = .next u :=
      congrArg Outcome.next ((deliver_of_next hm (by simp) (fun x hx => by cases x <;> simp_all [Msg.agent, Msg.down, Msg.word]) _).trans hu)
    refine ⟨fun hd => hx _ (takeWriteback_of_owned hd), fun h hd => ?_, fun h hd => ?_⟩
    · have hk : (taken (.writeback c w v)).takeWriteback c w v = (taken (.writeback c w v)).keptBack w h v := takeWriteback_of_kept hd
      refine ⟨fun hr => hx _ (hk.trans (keptBack_of_no_req hr)), fun r hr => ⟨fun ho => ?_, fun ho => ?_⟩⟩
      · exact hx _ ((hk.trans (keptBack_of_req hr)).trans (if_pos ho))
      · exact hx _ ((hk.trans (keptBack_of_req hr)).trans (if_neg (Bool.eq_false_iff.mp ho)))
    · have hk : (taken (.writeback c w v)).takeWriteback c w v = (taken (.writeback c w v)).recalled w (some v) :=
        takeWriteback_of_recall hd
      exact ⟨hx _ hk, fun hr => hx _ (hk.trans (recalled_of_no_req hd hr))⟩
  · have hx (u : State) (hu : (taken (.recall c w)).takeRecall c w = u) : exec (.recallTaken c w) s = .next u :=
      congrArg Outcome.next ((deliver_eq_of_next hm _).trans hu)
    exact ⟨fun x hl ho => hx _ (takeRecall_of_owned hl ho), fun hno => hx _ (takeRecall_of_not_owned hno)⟩
  · have hx : exec (.recallResponse c w) s = .next ((taken (.response c w o)).recalled w o) := by
      refine congrArg Outcome.next
        ((deliver_of_next hm (by simp) (fun x hx => by cases x <;> simp_all [Msg.agent, Msg.down, Msg.word]) _).trans ?_)
      have hd' : State.dirOf { s with msgs := s.msgs.erase (.response c w o) } w = .recall c h := hd
      simp only [hd', if_true]
      rfl
    refine ⟨hx, fun hr ho => hx.trans (congrArg Outcome.next ?_)⟩
    subst ho
    exact recalled_of_no_req hd hr
  · exact congrArg Outcome.next (deliver_eq_of_next hm _)
  · have hx : exec (.invalidationAck c w) s = .next ((taken (.ack c w)).acked c w) :=
      congrArg Outcome.next (deliver_eq_of_next hm _)
    exact ⟨hx, fun hl hr => hx.trans (congrArg Outcome.next (acked_of_others hd hl hr))⟩
  · exact ⟨fun hp => congrArg Outcome.next (retry_of_waiting hr hp), fun hp hq => congrArg Outcome.next (retry_of_persistent hr hp hq)⟩

end Sys2Proof.Machine
end

section
/-! Accesses from outside (R183 to R190, R199, R369, R370, R417): of the host, the service die and storage, of the host's cache, of
mirror windows and of peers. -/
namespace Sys2Proof.Machine
open Host (Outcome)

/-! ## The host, the service die and storage -/

section
variable {s : State}

/-- An access inside HBM becomes a request that is offered to its home. -/
theorem sendOutside_of_hbm {r : Req} (h : 0 < r.n ∧ r.pa + r.n ≤ 2 ^ 39) :
    s.sendOutside r = { s with nextId := s.nextId + 1, reqs := s.reqs ++ [{ r with id := s.nextId }] }.tryTake s.nextId := by
  obtain ⟨h0, hend⟩ := h
  exact if_neg (not_or.mpr ⟨Nat.pos_iff_ne_zero.mp h0, Nat.not_lt.mpr hend⟩)
theorem sendOutside_of_not_hbm {r : Req} (h : ¬(0 < r.n ∧ r.pa + r.n ≤ 2 ^ 39)) : s.sendOutside r = s := by
  refine if_pos ?_
  by_contra hn
  obtain ⟨h0, hend⟩ := not_or.mp hn
  exact h ⟨Nat.pos_iff_ne_zero.mpr h0, Nat.not_lt.mp hend⟩

/-- What a fence of a service-die core makes of a request: it orders the core's own against those to come. -/
def Req.fenced (x : Req) (core : Nat) (acq rel : Bool) : Req :=
  if x.src = sdAgent && x.lane = core then
    { x with acq := x.acq || (acq && rel) || (acq && (match x.kind with | .sdWrite => false | _ => true)), wrs := x.wrs || rel }
  else x
theorem dieOp_fence (s : State) (pa core : Nat) (acq rel : Bool) :
    s.dieOp pa (.fence core acq rel) = { s with reqs := s.reqs.map fun x => x.fenced core acq rel } := rfl
theorem fenced_same (x : Req) (core : Nat) (acq rel : Bool) :
    { x.fenced core acq rel with acq := x.acq, wrs := x.wrs } = x := by
  unfold Req.fenced; split <;> rfl
theorem fenced_of_not_mine {x : Req} {core : Nat} (h : ¬(x.src = sdAgent ∧ x.lane = core)) (acq rel : Bool) :
    x.fenced core acq rel = x := if_neg (by simpa using h)
theorem fenced_of_mine {x : Req} {core : Nat} (h : x.src = sdAgent ∧ x.lane = core) (acq rel : Bool) :
    ((x.fenced core acq rel).acq = true ↔ x.acq = true ∨ (acq = true ∧ (rel = true ∨ x.kind ≠ .sdWrite))) ∧
      ((x.fenced core acq rel).wrs = true ↔ x.wrs = true ∨ rel = true) := by
  have hf : (decide (x.src = sdAgent) && decide (x.lane = core)) = true := by simpa using h
  have hreads : (match x.kind with | .sdWrite => false | _ => true) = decide (x.kind ≠ .sdWrite) := by cases x.kind <;> rfl
  rw [Req.fenced, if_pos hf, hreads]
  simp [or_assoc, and_or_left]

/-! ## The proxy home -/

theorem snoop_proxy (s : State) (line : Nat) : ∀ x ∈ (s.snoop line).proxy, x.line ≠ line := by
  obtain ⟨u, hu⟩ : ∃ u : State, s.snoop line = { u with proxy := u.proxy.filter fun l => l.line ≠ line } := ⟨_, rfl⟩
  rw [hu]
  intro x hx
  exact of_decide_eq_true (List.mem_filter.mp hx).2

theorem hostResponse_of_no_req {line : Nat} (h : ∀ r ∈ s.reqs, r.pa / 64 * 64 ≠ line) (data : List Byte) :
    s.hostResponse line data = s := by
  unfold State.hostResponse
  rw [List.find?_eq_none.mpr fun r hr => by simp [h r hr]]
/-- The answer for a store or an OWN load of a line that the proxy lacks brings the line in, exclusive. -/
theorem hostResponse_of_own {line : Nat} {r : Req}
    (hr : (s.reqs.find? fun r => decide (hostBase ≤ r.pa) && r.pa / 64 * 64 = line && s.mayTake r && !s.proxyHolds r) = some r)
    (hl : s.proxyLine? line = none) (hk : s.servedKind r = .ownLoad ∨ s.servedKind r = .ownStore) (data : List Byte) :
    s.hostResponse line data = { s with
      mem := memWrite s.mem line (takeBytes 64 data), proxy := ⟨line, true, false⟩ :: s.proxy.filter fun l => l.line ≠ line }.tryTake r.id := by
  unfold State.hostResponse
  rw [hr]
  dsimp only
  rw [hl]
  rcases hk with hk | hk <;> rw [hk] <;> rfl

/-! ## Mirror windows -/

section
variable {fid win : Nat} {w : Window}

theorem mirrorUpdate_idle (hw : s.window? fid win = some w) (h : w.st ≠ .active ∨ w.updates = []) : s.mirrorUpdate fid win = s := by
  unfold State.mirrorUpdate
  rw [hw]
  dsimp only
  split
  · next u rest hst hup =>
    rcases h with h | h
    · exact absurd hst h
    · rw [h] at hup; exact absurd hup (by simp)
  · rfl
theorem snapshotApplied_of_not_loading (hw : s.window? fid win = some w) (h : w.st ≠ .loading) : s.snapshotApplied fid win = s := by
  unfold State.snapshotApplied
  rw [hw]
  cases s.flock? fid with
  | none => rfl
  | some f => exact if_pos h

/-- The state when a window's snapshot has been copied in, before its `mwsub` hears of it. -/
def State.loaded (s : State) (fid win : Nat) (w : Window) (m : MirrorSeq) : State :=
  let home := m.grains.foldl (fun s g => (wordsOf g 512).foldl State.pullWord s) s
  (home.updFlock fid fun f => f.setWin win
    { w with st := if w.detachOnResume then .detached else .active, detachOnResume := false, applied := m.seq, updates := [], ret := none }).scrWrite
      fid w.scr ((m.grains.flatMap fun g => home.cohRead g 512).take w.len)

theorem snapshotApplied_of_loading {f : Flock} {m : MirrorSeq} (hw : s.window? fid win = some w) (hf : s.flock? fid = some f)
    (h : w.st = .loading) (hm : (s.mirrors.find? fun m => m.ctx = f.ctx && m.binds w) = some m) :
    s.snapshotApplied fid win = (match w.ret with
      | some r => (s.loaded fid win w m).feed r.1 r.2.1 r.2.2 0 (bytesOf 4 win) 0 w.va
      | none => s.loaded fid win w m).wakeSyncs fid win := by
  unfold State.snapshotApplied
  rw [hw, hf]
  dsimp only
  rw [if_neg (not_not.mpr h), hm]
  rfl
end

/-! ## Peers -/

theorem podIncoming_of_no_job {job : W32} (h : s.jobCtx job = none) (va : Nat) (op : AgentOp) : s.podIncoming job va op = s := by
  unfold State.podIncoming; rw [h]
/-- A read of at most 8 bytes that its context maps is one request of it. -/
theorem podIncoming_read {job : W32} {c : Context} {va n a : Nat} (hc : s.jobCtx job = some c) (h0 : 0 < n) (h8 : n ≤ 8)
    (hend : (s.peek c.id (va + n - 1) .read).isSome = true) (ha : s.peek c.id va .read = some a) :
    s.podIncoming job va (.read n) = { s.markUsed c.id va .read with
      nextId := s.nextId + 1
      reqs := (s.markUsed c.id va .read).reqs ++ [Req.outsider s.nextId engineAgent c.id (.read false) a n []] }.tryTake s.nextId := by
  have hone : (n + 7) / 8 = 1 := by omega
  have hmin : min 8 (n - 8 * 0) = n := by omega
  have hps : ((List.range ((n + 7) / 8)).map fun i => (8 * i, min 8 (n - 8 * i))) = [(0, n)] := by
    rw [hone, List.range_one, List.map_singleton, hmin]
  have hmay : ([(0, n)].all fun p => (s.peek c.id (va + p.1) .read).isSome && (s.peek c.id (va + p.1 + p.2 - 1) .read).isSome &&
      true) = true := by
    simp [ha, hend]
  unfold State.podIncoming
  rw [hc]
  dsimp only [agentReq]
  rw [hps, hmay, List.foldl_cons, List.foldl_nil]
  dsimp only
  rw [Nat.add_zero, ha, List.drop_nil, List.take_nil]
  rfl

/-! ## Answers of remote devices -/

section
variable {id : Nat} {r : Req} (hr : s.req? id = some r)
include hr

theorem podAnswer_of_waits (h : s.devWaits r = true) (bs : List Byte) : s.podAnswer id bs = s := by
  unfold State.podAnswer
  rw [hr]
  exact if_pos (by simp [h])
theorem podStoreAck_of_waits (h : s.devWaits r = true) : execPodStoreAck id s = .next s := by
  unfold execPodStoreAck
  rw [hr]
  exact congrArg Outcome.next (if_neg (by simp [h]))

section
variable (hdev : r.dev.isSome = true) (h : s.devWaits r = false)
include hdev h

theorem podAnswer_of_read {rid : Nat} (he : r.eng = none) (hk : r.kind = .read false) (hrid : r.rid = some rid) (bs : List Byte) :
    s.podAnswer id bs = (s.dropReq id).feed r.gid r.lane rid r.off (takeBytes r.n bs) 0 (r.va - r.off) := by
  have hsent : ¬(r.dev.isNone || s.devWaits r) = true := by
    rw [h, Option.isNone_eq_false_iff.mpr hdev]; decide
  unfold State.podAnswer
  rw [hr]
  dsimp only
  rw [if_neg hsent, he, hk, hrid]
  rfl
theorem podStoreAck_of_store (hk : r.kind.isWrite = true ∨ r.kind.isOwn = true) :
    execPodStoreAck id s = .next ((s.mergeCopies r.src r.ctx r.pa r.data).dropReq id) := by
  unfold execPodStoreAck
  rw [hr]
  exact congrArg Outcome.next (if_pos (by simp [hdev, h, hk]))
end
end
end

/-- Settles O48: an access from outside is a request to its home, and what the host, a window's sender or a peer answers is taken
where its line, its window or its request is found waiting. -/
theorem outsideAccesses : Obligations.OutsideAccesses := by
  unfold Obligations.OutsideAccesses
  intro s pa id win n bs job line takes sends hbm
  refine ⟨fun h => ?_, fun h => ?_, fun h => ⟨?_, ?_⟩, fun h => ⟨?_, ?_⟩, fun core acq rel => ?_, ⟨rfl, snoop_proxy s line, ?_, ?_⟩,
    fun h => ?_, fun r hr hl hk => ?_, fun w hw => ⟨?_, ?_, ?_, ?_⟩, fun op h => ?_, fun c hc h0 h8 hend a ha => ?_, fun h => ?_,
    fun r hr hdev => ⟨fun h => ⟨?_, ?_⟩, fun h => ⟨?_, ?_⟩, fun he => ?_, fun op he => ?_⟩⟩
  · exact congrArg Outcome.next (sendOutside_of_hbm h)
  · exact congrArg Outcome.next (sendOutside_of_not_hbm h)
  · exact congrArg Outcome.next (sendOutside_of_hbm h)
  · exact congrArg Outcome.next (sendOutside_of_hbm h)
  · exact congrArg Outcome.next (sendOutside_of_not_hbm h)
  · exact congrArg Outcome.next (sendOutside_of_not_hbm h)
  · intro die
    refine ⟨⟨fun h => ?_, fun h => ?_⟩, ⟨fun h => ?_, fun h => ?_⟩, fun op b c => ⟨fun h => ?_, fun h => ?_⟩, ?_⟩
    · exact congrArg Outcome.next (sendOutside_of_hbm h)
    · exact congrArg Outcome.next (sendOutside_of_not_hbm h)
    · exact congrArg Outcome.next (sendOutside_of_hbm h)
    · exact congrArg Outcome.next (sendOutside_of_not_hbm h)
    · exact congrArg Outcome.next (sendOutside_of_hbm h)
    · exact congrArg Outcome.next (sendOutside_of_not_hbm h)
    · refine ⟨_, congrArg Outcome.next (dieOp_fence s pa core acq rel), rfl, List.length_map _, fun i x y hx hy => ?_⟩
      have hxy : y = x.fenced core acq rel := by
        rw [List.getElem?_map, hx] at hy
        exact (Option.some.inj hy).symm
      subst hxy
      exact ⟨fenced_same x core acq rel, fun h => fenced_of_not_mine h acq rel, fun h => fenced_of_mine h acq rel⟩
  · rintro ⟨x, hx, hline⟩
    exact if_pos (List.any_eq_true.mpr ⟨x, hx, decide_eq_true hline⟩)
  · intro h
    exact if_neg (by simpa using h)
  · exact congrArg Outcome.next (hostResponse_of_no_req h bs)
  · exact congrArg Outcome.next (hostResponse_of_own hr hl hk bs)
  · exact fun u rest hst hup => congrArg Outcome.next (mirrorUpdate_active hw hst hup)
  · exact fun h => congrArg Outcome.next (mirrorUpdate_idle hw h)
  · exact fun h => congrArg Outcome.next (snapshotApplied_of_not_loading hw h)
  · intro f m hf hst hm
    have hsnap := snapshotApplied_of_loading hw hf hst hm
    refine ⟨fun hret => ?_, fun gid lane rid hret => ?_⟩
    · exact congrArg Outcome.next (hsnap.trans (by rw [hret]; rfl))
    · exact congrArg Outcome.next (hsnap.trans (by rw [hret]; rfl))
  · exact congrArg Outcome.next (podIncoming_of_no_job h pa op)
  · have hread := podIncoming_read hc h0 h8 hend ha
    refine ⟨congrArg Outcome.next hread, fun hmesh => congrArg Outcome.next ((if_neg ?_).trans hread)⟩
    rw [hmesh, Bool.false_or, decide_eq_true_eq]
    exact Nat.not_lt.mpr (h8.trans (by decide))
  · exact congrArg Outcome.next (if_pos (by rwa [Bool.or_eq_true, decide_eq_true_eq]))
  · exact congrArg Outcome.next (podAnswer_of_waits hr h bs)
  · exact podStoreAck_of_waits hr h
  · exact fun rid he hk hrid => congrArg Outcome.next (podAnswer_of_read hr hdev h he hk hrid bs)
  · exact fun hk => podStoreAck_of_store hr hdev h hk
  · change execRemoteErrorResponse id s = _
    unfold execRemoteErrorResponse
    rw [hr]
    dsimp only
    rw [he, if_pos hdev]
    rfl
  · change execRemoteErrorResponse id s = _
    unfold execRemoteErrorResponse
    rw [hr]
    dsimp only
    rw [he]

end Sys2Proof.Machine
end

section
/-! Frames of HBM and the PAGE words of a lone privileged thread (R245, R247 to R249). -/
namespace Sys2Proof.Machine
open Host (Outcome)

/-! ## A frame that is changed -/

section
variable (s : State) (n : Nat)

@[simp] theorem State.frame_frame : (s.frame n).frame = n := by
  unfold State.frame
  cases h : s.frames.find? fun f => f.frame = n with
  | none => rfl
  | some f => simpa using List.find?_some h

variable {s n} {f g : Frame → Frame}

/-- A change acts on the frame as it stands, and on nothing else. -/
theorem State.updFrame_congr (h : f (s.frame n) = g (s.frame n)) : s.updFrame n f = s.updFrame n g := by
  unfold State.updFrame
  rw [h]
theorem State.frame_updFrame (h : (f (s.frame n)).frame = n) : (s.updFrame n f).frame n = f (s.frame n) := by
  have hrest : (s.frames.filter fun y => y.frame ≠ n).find? (fun y : Frame => y.frame = n) = none := by
    rw [List.find?_eq_none]
    intro y hy
    simpa using (List.mem_filter.mp hy).2
  change (List.find? (fun y : Frame => y.frame = n) (if f (s.frame n) = Frame.reset n then _ else _)).getD _ = _
  split
  · next hr => rw [hrest, hr]; rfl
  · rw [List.find?_cons_of_pos (by simpa using h)]; rfl
/-- Two changes of one frame are one. -/
theorem State.updFrame_updFrame (h : (f (s.frame n)).frame = n) :
    (s.updFrame n f).updFrame n g = s.updFrame n fun x => g (f x) := by
  have hrest : (s.updFrame n f).frames.filter (fun y => y.frame ≠ n) = s.frames.filter fun y => y.frame ≠ n := by
    change List.filter _ (if f (s.frame n) = Frame.reset n then _ else _) = _
    split
    · rw [List.filter_filter]; simp
    · rw [List.filter_cons_of_neg (by simpa using h), List.filter_filter]; simp
  unfold State.updFrame at hrest ⊢
  have hframe := State.frame_updFrame h
  unfold State.updFrame at hframe
  dsimp only at hrest hframe ⊢
  rw [hframe, hrest]
end

/-! ## The address and the context of a PAGE word (R248) -/

section
variable {s : State} {t : Thread} {a b : Fld}

theorem pageWord_of_high (h : 2 ^ 57 ≤ (rd2 t a).toNat) (f : State → Nat → Nat → StepRes) :
    s.pageWord t a b f = .trap s 0x13 (rd2 t a) 0 0 := if_pos h
theorem pageWord_of_not_alive (h : (rd2 t a).toNat < 2 ^ 57) (hc : ∀ c, s.ctx? (rd t b).toNat = some c → c.alive = false)
    (f : State → Nat → Nat → StepRes) : s.pageWord t a b f = .ok s := by
  refine (if_neg (Nat.not_le.mpr h)).trans ?_
  cases hx : s.ctx? (rd t b).toNat with
  | none => rfl
  | some c => exact if_neg (by simp [hc c hx])
theorem pageWord_of_alive {c : Context} (h : (rd2 t a).toNat < 2 ^ 57) (hc : s.ctx? (rd t b).toNat = some c) (ha : c.alive = true)
    (f : State → Nat → Nat → StepRes) : s.pageWord t a b f = f s (rd2 t a).toNat c.id := by
  refine (if_neg (Nat.not_le.mpr h)).trans ?_
  simp only [hc, ha, if_true]
end

/-- What an instruction does in a state is what `f` does to the address and the context of a PAGE word, for one lane. -/
def IsPageWord (s : State) (t : Thread) (a b : Fld) (i : Instr) (f : State → Nat → Nat → StepRes) : Prop :=
  exec i s = .next ((s.pageWord t a b f).after t.lane)

namespace IsPageWord
variable {s : State} {t : Thread} {a b : Fld} {i : Instr} {f : State → Nat → Nat → StepRes} (h : IsPageWord s t a b i f)
include h

theorem traps_of_high (hva : 2 ^ 57 ≤ (rd2 t a).toNat) : exec i s = .next (s.trapLane ⟨t.lane, 0x13, rd2 t a, 0, 0⟩) :=
  Eq.trans h (by rw [pageWord_of_high hva]; rfl)
theorem idle_of_not_alive (hva : (rd2 t a).toNat < 2 ^ 57) (hc : ∀ c, s.ctx? (rd t b).toNat = some c → c.alive = false) :
    exec i s = .next s := Eq.trans h (by rw [pageWord_of_not_alive hva hc]; rfl)

section
variable {c : Context} (hva : (rd2 t a).toNat < 2 ^ 57) (hc : s.ctx? (rd t b).toNat = some c) (ha : c.alive = true)
include hva hc ha

theorem acts {u : State} (hf : f s (rd2 t a).toNat c.id = .ok u) : exec i s = .next u :=
  Eq.trans h (by rw [pageWord_of_alive hva hc ha, hf]; rfl)
theorem traps {cause : Byte} (hf : f s (rd2 t a).toNat c.id = .trap s cause (BitVec.ofNat 64 (rd2 t a).toNat) 0 0) :
    exec i s = .next (s.trapLane ⟨t.lane, cause, rd2 t a, 0, 0⟩) :=
  Eq.trans h (by rw [pageWord_of_alive hva hc ha, hf, BitVec.ofNat_toNat, BitVec.setWidth_eq]; rfl)
end
end IsPageWord

section
variable {s : State} {iss : Issue} {t : Thread} (hs : s.Solo iss t) (hp : (s.group iss.gid).priv = true)
include hs hp

/-- A privileged word of one lane. -/
theorem priv_laneFold_of_solo (f : Issue → State → Thread → StepRes) :
    (priv s fun s => .next (s.laneFold f)) = .next ((f iss s t).after t.lane) :=
  (priv_allowed s iss _ hs.isOpen hp).trans (congrArg Outcome.next (laneFold_after hs f))

variable (cs : CS) (a b r : Fld)

theorem tlbinv_isPageWord : IsPageWord s t a b (.tlbinv cs a b r) fun s va x =>
    .ok (s.dropLeaves (some (s.group iss.gid).pcore) (s.rangeOf t va x r)) := priv_laneFold_of_solo hs hp _
theorem sdn_isPageWord : IsPageWord s t a b (.sdn cs a b r) fun s va x =>
    if 2 ^ 57 < va + 4096 * (rd t r).toNat then .trap s 0x13 (BitVec.ofNat 64 va) 0 0 else s.laneSdn iss t va x r :=
  priv_laneFold_of_solo hs hp _
theorem pin_isPageWord : IsPageWord s t a b (.pin cs a b r) fun s va x =>
    s.pageFrame va x fun s n => s.pinFrame va x r.toNat n := priv_laneFold_of_solo hs hp _
theorem unpin_isPageWord : IsPageWord s t a b (.unpin cs a b r) fun s va x =>
    s.pageFrame va x fun s n => s.unpinFrame va x r.toNat n := priv_laneFold_of_solo hs hp _
theorem migr_isPageWord : IsPageWord s t a b (.migr cs a b r) fun s va x =>
    s.pageFrame va x fun s n => s.migrFrame r.toNat n := priv_laneFold_of_solo hs hp _
theorem fqdone_isPageWord : IsPageWord s t a b (.fqdone cs a b r) fun s va x =>
    .ok (s.fqDone x va (pageBytes r.toNat)) := priv_laneFold_of_solo hs hp _
end

/-! ## The frame of a page (R248) -/

section
variable {s : State} {va ctx : Nat}

theorem pageFrame_of_unaligned (h : va % 65536 ≠ 0) (f : State → Nat → StepRes) :
    s.pageFrame va ctx f = .trap s 0x15 (BitVec.ofNat 64 va) 0 0 := if_pos h

variable (h : va % 65536 = 0)
include h

theorem pageFrame_of_no_leaf (hw : ∀ lvl q e, s.walk ctx va ≠ .leaf lvl q e) (f : State → Nat → StepRes) :
    s.pageFrame va ctx f = .trap s 0x11 (BitVec.ofNat 64 va) 0 0 := by
  refine (if_neg (not_not.mpr h)).trans ?_
  cases hx : s.walk ctx va with
  | leaf lvl q e => exact absurd hx (hw lvl q e)
  | zero | absent | malformed => rfl

variable {lvl q : Nat} {e : W64} (hw : s.walk ctx va = .leaf lvl q e)
include hw

theorem pageFrame_of_not_present (hb : s.bounced ctx va (leafPages lvl e) = true ∨ pteHost e = true) (f : State → Nat → StepRes) :
    s.pageFrame va ctx f = .trap s 0x11 (BitVec.ofNat 64 va) 0 0 := by
  refine (if_neg (not_not.mpr h)).trans ?_
  rw [hw]
  exact if_pos (Bool.or_eq_true_iff.mpr hb)
theorem pageFrame_of_present (hb : s.bounced ctx va (leafPages lvl e) = false) (hh : pteHost e = false) (f : State → Nat → StepRes) :
    s.pageFrame va ctx f = f s (leafPa (leafPages lvl e) e va / 65536) := by
  refine (if_neg (not_not.mpr h)).trans ?_
  rw [hw]
  exact if_neg (by simp [hb, hh])
end

/-! ## Pins (R245, R248) -/

/-- A frame with one more pin of a kind: an L2 pin is its context's, and a near pin on a frame in HBM is a promote. -/
def Frame.pinned (f : Frame) (k ctx : Nat) : Frame :=
  { f.setPins k (f.pins k + 1) with
    l2Ctx := if k = 2 then f.l2Ctx ++ [ctx] else f.l2Ctx,
    heldPromote := f.heldPromote || (decide (k = 1) && decide (f.st = .hbm)) }
theorem Frame.pinned_tier (f : Frame) (ctx : Nat) : f.pinned 0 ctx = { f with tierPins := f.tierPins + 1 } := by
  simp [Frame.pinned, Frame.setPins, Frame.pins]
theorem Frame.pinned_near (f : Frame) (ctx : Nat) :
    f.pinned 1 ctx = { f with nearPins := f.nearPins + 1, heldPromote := f.heldPromote || decide (f.st = .hbm) } := by
  simp [Frame.pinned, Frame.setPins, Frame.pins]
theorem Frame.pinned_l2 (f : Frame) (ctx : Nat) :
    f.pinned 2 ctx = { f with l2Pins := f.l2Pins + 1, l2Ctx := f.l2Ctx ++ [ctx] } := by
  simp [Frame.pinned, Frame.setPins, Frame.pins]

section
variable {s : State} {n : Nat} (va ctx : Nat)

theorem pinFrame_of_full {k : Nat} (h : 255 ≤ (s.frame n).pins k) :
    s.pinFrame va ctx k n = .trap s 0x13 (BitVec.ofNat 64 va) 0 0 := if_pos h
theorem pinFrame_of_room {k : Nat} (h : (s.frame n).pins k < 255) {g : Frame → Frame} (hg : ∀ f : Frame, f.pinned k ctx = g f) :
    s.pinFrame va ctx k n = .ok (s.updFrame n g) := by
  refine (if_neg (Nat.not_le.mpr h)).trans (congrArg StepRes.ok (State.updFrame_congr ?_))
  rw [← hg]
  unfold Frame.pinned Frame.setPins
  split_ifs <;> rfl

theorem unpinFrame_of_zero {k : Nat} (h : (s.frame n).pins k = 0) :
    s.unpinFrame va ctx k n = .trap s 0x13 (BitVec.ofNat 64 va) 0 0 := if_pos h
/-- With no move that waits for its pins and no eviction held, an unpin only counts. -/
theorem unpinFrame_of_unawaited {k : Nat} (h : 0 < (s.frame n).pins k) (hk : k ≠ 2) (he : (s.frame n).heldEvict = false)
    (hw : (s.frame n).waiting = false) :
    s.unpinFrame va ctx k n = .ok (s.updFrame n fun f => f.setPins k (f.pins k - 1)) := by
  have hset : (s.updFrame n fun f => { f.setPins k (f.pins k - 1) with l2Ctx := if k = 2 then f.l2Ctx.erase ctx else f.l2Ctx }) =
      s.updFrame n fun f => f.setPins k (f.pins k - 1) := by
    refine State.updFrame_congr ?_
    unfold Frame.setPins
    rw [if_neg hk]
    split_ifs <;> rfl
  have hkept (v : Nat) : ((s.frame n).setPins k v).frame = n ∧ ((s.frame n).setPins k v).heldEvict = false ∧
      ((s.frame n).setPins k v).waiting = false := by
    unfold Frame.setPins
    split_ifs <;> exact ⟨s.frame_frame n, he, hw⟩
  obtain ⟨hframe, hevict, hwait⟩ := hkept ((s.frame n).pins k - 1)
  unfold State.unpinFrame
  dsimp only
  rw [if_neg (Nat.pos_iff_ne_zero.mp h), hset, State.frame_updFrame hframe, hevict, hwait]
  simp
end

/-! ## Fault queues (R249) -/

/-- The state in which a thread owes itself an entry of a fault queue, by an acquire (R248). -/
def State.owesEntry (u : State) (t : Thread) (core : Nat) (a : Fld) (ws : List W32) (c : Option Nat) : State :=
  (u.updT t.gid t.lane fun y => { y.await (Result.known y.nextRes (wrs32 a ws) 0 false) with popCore := c }).acquireCore core

section
variable {s : State} (iss : Issue) (t : Thread) (a : Fld) {q : FaultQueue}

section
variable {p : Nat} (hq : s.fq[p]? = some q)
include hq
theorem popFault_of_entry {e : FaultEnt} {rest : List FaultEnt} (he : q.entries = e :: rest) :
    s.popFault p = some (e, { s with fq := s.fq.setIfInBounds p { q with entries := rest } }) := by
  simp only [State.popFault, hq, he]
theorem popFault_of_empty (he : q.entries = []) : s.popFault p = none := by
  simp only [State.popFault, hq, he]
end

variable (hq : s.fq[pastureOf (s.group iss.gid).pcore]? = some q)
include hq

section
variable {e : FaultEnt} {rest : List FaultEnt} (he : q.entries = e :: rest)
include he

theorem laneFqpop_of_entry :
    let core := (s.group iss.gid).pcore
    s.laneFqpop iss t a false =
      .ok (State.owesEntry { s with fq := s.fq.setIfInBounds (pastureOf core) { q with entries := rest } } t core a e.words
        (some e.pcore)) := by
  simp only [State.laneFqpop, popFault_of_entry hq he]
  rfl
theorem laneFqpop_try_of_entry :
    let core := (s.group iss.gid).pcore
    let u := { s with fq := s.fq.setIfInBounds (pastureOf core) { q with entries := rest } }
    let l := u.logged t.gid t.lane 4 (BitVec.ofNat 64 (pastureOf core)) (entryTag e.words) []
    s.laneFqpop iss t a true =
      .ok (if l.1 = entryTag emptyEntry then State.owesEntry { l.2.2 with fq := s.fq } t core a emptyEntry t.popCore
        else l.2.2.owesEntry t core a (withTag e.words l.1) (some e.pcore)) := by
  simp only [State.laneFqpop, popFault_of_entry hq he, if_true]
  rfl
end

section
variable (he : q.entries = [])
include he

theorem laneFqpop_of_empty :
    let fq := s.fq.setIfInBounds (pastureOf (s.group iss.gid).pcore) { q with waiters := q.waiters ++ [(t.gid, t.lane)] }
    s.laneFqpop iss t a false =
      .ok ({ s with fq := fq }.updT t.gid t.lane fun y => y.block (.fqpop a) iss (destsOf (wrs32 a emptyEntry))) := by
  simp only [State.laneFqpop, popFault_of_empty hq he, hq]
  rfl
theorem laneFqpop_try_of_empty :
    let core := (s.group iss.gid).pcore
    let l := s.logged t.gid t.lane 4 (BitVec.ofNat 64 (pastureOf core)) (entryTag emptyEntry) []
    s.laneFqpop iss t a true = .ok (l.2.2.owesEntry t core a (withTag emptyEntry l.1) t.popCore) := by
  simp only [State.laneFqpop, popFault_of_empty hq he, if_true]
  rfl
end
end

/-- An entry with its own second doubleword is the entry. -/
theorem withTag_entryTag {l : List W32} (h : 4 ≤ l.length) : withTag l (entryTag l) = l := by
  match l, h with
  | x :: y :: z :: w :: l, _ =>
    have hlo : (w ++ z : W64).extractLsb' 0 32 = z := BitVec.extractLsb'_append_eq_right
    have hhi : (w ++ z : W64).extractLsb' 32 32 = w := BitVec.extractLsb'_append_eq_left
    change [x, y] ++ [(w ++ z : W64).extractLsb' 0 32, (w ++ z : W64).extractLsb' 32 32] ++ l = _
    rw [hlo, hhi]
    rfl

/-- Settles O51: address and context are checked in the same way for every word, and the frame for `pin`, `unpin` and `migr`; what
is left is what each does to a frame, a range or a queue. -/
theorem pageWords : Obligations.PageWords := by
  intro s iss t hs hp cs a b r k g va trap range p pops
  have hinv := tlbinv_isPageWord hs hp cs a b r
  have hsdn := sdn_isPageWord hs hp cs a b r
  have hpin := pin_isPageWord hs hp cs a b k
  have hunpin := unpin_isPageWord hs hp cs a b k
  have hmigr := migr_isPageWord hs hp cs a b k
  have hdone := fqdone_isPageWord hs hp cs a b k
  have hpop : exec (.fqpop cs a) s = .next ((s.laneFqpop iss t a false).after t.lane) := priv_laneFold_of_solo hs hp _
  have htry : exec (.fqpopTry cs a) s = .next ((s.laneFqpop iss t a true).after t.lane) := priv_laneFold_of_solo hs hp _
  refine ⟨fun hva => ?high, fun hva hc => ?idle, fun c hva hc ha => ?alive, fun q e rest hq he => ?entry,
    fun l hl => withTag_entryTag hl, fun q hq he => ?empty⟩
  case high =>
    exact ⟨hinv.traps_of_high hva, hsdn.traps_of_high hva, hpin.traps_of_high hva, hunpin.traps_of_high hva,
      hmigr.traps_of_high hva, hdone.traps_of_high hva⟩
  case idle =>
    exact ⟨hinv.idle_of_not_alive hva hc, hsdn.idle_of_not_alive hva hc, hpin.idle_of_not_alive hva hc,
      hunpin.idle_of_not_alive hva hc, hmigr.idle_of_not_alive hva hc, hdone.idle_of_not_alive hva hc⟩
  case alive =>
    have frameTraps {cause : Byte} (hf : ∀ f, s.pageFrame va c.id f = .trap s cause (BitVec.ofNat 64 va) 0 0) :
        trap (.pin cs a b k) cause ∧ trap (.unpin cs a b k) cause ∧ trap (.migr cs a b k) cause :=
      ⟨hpin.traps hva hc ha (hf _), hunpin.traps hva hc ha (hf _), hmigr.traps hva hc ha (hf _)⟩
    refine ⟨hinv.acts hva hc ha rfl, fun hend => hsdn.traps hva hc ha (if_pos hend),
      fun hend => hsdn.acts hva hc ha (if_neg (Nat.not_lt.mpr hend)), hdone.acts hva hc ha rfl,
      fun hal => frameTraps (pageFrame_of_unaligned hal), fun hal => ⟨fun hw => frameTraps (pageFrame_of_no_leaf hal hw),
        fun lvl q e hw => ⟨fun hb => frameTraps (pageFrame_of_not_present hal hw hb), fun hb hh => ?present⟩⟩⟩
    intro n f
    have hframe := pageFrame_of_present hal hw hb hh
    refine ⟨fun hfull => ?_, ?_, ?_, ?_, fun hzero => ?_, ?_, ?_, ?_, ?_, ?_, ?_⟩
    · exact hpin.traps hva hc ha ((hframe _).trans (pinFrame_of_full va c.id hfull))
    · rintro hroom rfl
      exact hpin.acts hva hc ha ((hframe _).trans (pinFrame_of_room va c.id (show f.pins 0 < 255 from hroom) (·.pinned_tier c.id)))
    · rintro hroom rfl
      exact hpin.acts hva hc ha ((hframe _).trans (pinFrame_of_room va c.id (show f.pins 1 < 255 from hroom) (·.pinned_near c.id)))
    · rintro hroom rfl
      exact hpin.acts hva hc ha ((hframe _).trans (pinFrame_of_room va c.id (show f.pins 2 < 255 from hroom) (·.pinned_l2 c.id)))
    · exact hunpin.traps hva hc ha ((hframe _).trans (unpinFrame_of_zero va c.id hzero))
    · rintro hpos rfl he hwait
      exact hunpin.acts hva hc ha ((hframe _).trans (unpinFrame_of_unawaited va c.id (show 0 < f.pins 0 from hpos) (by decide) he hwait))
    · rintro hpos rfl he hwait
      exact hunpin.acts hva hc ha ((hframe _).trans (unpinFrame_of_unawaited va c.id (show 0 < f.pins 1 from hpos) (by decide) he hwait))
    all_goals
      rintro rfl
      exact hmigr.acts hva hc ha (hframe _)
  case entry =>
    intro u l
    have hentry := laneFqpop_try_of_entry iss t a hq he
    refine ⟨hpop.trans ?_, fun hl => htry.trans ?_, fun hl => htry.trans ?_⟩
    · rw [laneFqpop_of_entry iss t a hq he]; rfl
    · rw [hentry]
      exact congrArg Outcome.next (if_neg hl)
    · rw [hentry]
      exact congrArg Outcome.next (if_pos hl)
  case empty =>
    refine ⟨htry.trans ?_, hpop.trans ?_⟩
    · rw [laneFqpop_try_of_empty iss t a hq he]; rfl
    · rw [laneFqpop_of_empty iss t a hq he]; rfl

end Sys2Proof.Machine
end

section
/-! The events of pages (R237, R238, R245 to R247): the first-touch unit, the moves of a frame and shoot-downs. -/
namespace Sys2Proof.Machine
open Host (Outcome)

/-! ## First touch (R238) -/

/-- How a held access reaches its page: loads read it, and every other kind writes it. -/
def Req.reach (r : Req) : Acc := match r.kind with | .read _ | .wi | .ownLoad | .mwait _ => .read | _ => .write
/-- The reads and writes of ordinary loads and stores, by their kinds. -/
def Req.Reaches (r : Req) (acc : Acc) : Prop :=
  (acc = .read ∧ (r.kind = .read false ∨ r.kind = .ownLoad)) ∨ (acc = .write ∧ (r.kind.isWrite = true ∨ r.kind = .ownStore))
theorem Req.Reaches.reach_eq {r : Req} {acc : Acc} (h : r.Reaches acc) : r.reach = acc := by
  unfold Req.reach
  rcases h with ⟨rfl, hk | hk⟩ | ⟨rfl, hk | hk⟩
  · rw [hk]
  · rw [hk]
  · revert hk
    cases r.kind <;> simp [ReqKind.isWrite]
  · rw [hk]
/-- The state after the unit has served, where it can, the ZERO leaf that a held access meets. -/
def State.ftServed (s : State) (r : Req) (acc : Acc) : State :=
  match s.xlWalk r.ctx r.va acc with
  | .zero 0 _ e => if s.ringReady r.src e then s.serveFirstTouch r.src r.ctx r.va (acc = Acc.write) else s
  | _ => s
/-- A held access goes on to a page that is there, and fails at any other. -/
def State.meetPage (s : State) (r : Req) (acc : Acc) : State :=
  match s.xlWalk r.ctx r.va acc with
  | .ok pa => s.touched r pa acc
  | .zero _ _ _ => s.reqFault r 0x10 acc.bit 1
  | .fault c k => s.reqFault r c acc.bit k

section
variable {s : State} {id : Nat}

theorem firstTouch_of_no_req (h : s.req? id = none) : s.firstTouch id = s := by
  simp only [State.firstTouch, h]

variable {r : Req} (h : s.req? id = some r)
include h

theorem firstTouch_of_not_held (hf : r.ft = false) : s.firstTouch id = s := by
  simp only [State.firstTouch, h, hf, Bool.not_false, if_true]

variable (hf : r.ft = true)
include hf

theorem firstTouch_of_held : s.firstTouch id = (s.ftServed r r.reach).meetPage r r.reach := by
  unfold State.firstTouch
  rw [h]
  exact if_neg (by simp [hf])

variable {acc : Acc} (ha : r.Reaches acc)
include ha

theorem firstTouch_of_mapped {pa : Nat} (hx : s.xlWalk r.ctx r.va acc = .ok pa) : s.firstTouch id = s.touched r pa acc := by
  rw [firstTouch_of_held h hf, ha.reach_eq]
  simp only [State.ftServed, State.meetPage, hx]
theorem firstTouch_of_fault {c : Byte} {k : Nat} (hx : s.xlWalk r.ctx r.va acc = .fault c k) :
    s.firstTouch id = s.reqFault r c acc.bit k := by
  rw [firstTouch_of_held h hf, ha.reach_eq]
  simp only [State.ftServed, State.meetPage, hx]
theorem firstTouch_of_unserved {lvl k : Nat} {e : W64} (hx : s.xlWalk r.ctx r.va acc = .zero lvl k e)
    (hn : lvl ≠ 0 ∨ s.ringReady r.src e = false) : s.firstTouch id = s.reqFault r 0x10 acc.bit 1 := by
  rw [firstTouch_of_held h hf, ha.reach_eq]
  cases lvl with
  | zero => simp only [State.ftServed, State.meetPage, hx, hn.resolve_left (absurd rfl), Bool.false_eq_true, if_false]
  | succ l => simp only [State.ftServed, State.meetPage, hx]
theorem firstTouch_of_served {k pa : Nat} {e : W64} (hx : s.xlWalk r.ctx r.va acc = .zero 0 k e) (hr : s.ringReady r.src e = true)
    (hu : (s.serveFirstTouch r.src r.ctx r.va (acc = .write)).xlWalk r.ctx r.va acc = .ok pa) :
    s.firstTouch id = (s.serveFirstTouch r.src r.ctx r.va (acc = .write)).touched r pa acc := by
  rw [firstTouch_of_held h hf, ha.reach_eq]
  simp only [State.ftServed, State.meetPage, hx, hr, if_true, hu]
end

/-- A change that changes no thread of the place changes nothing. -/
theorem State.updT_of_id {s : State} {gid lane : Nat} {f : Thread → Thread} (h : ∀ x, f x = x) : s.updT gid lane f = s := by
  have hmap : (s.threads.map fun x => if x.is gid lane then f x else x) = s.threads := by simp [h]
  simp only [State.updT, hmap]

/-- An access to a page of this device whose thread is not held just goes on to its home. -/
theorem touched_of_not_held (s : State) (r : Req) {pa : Nat} (acc : Acc) (hpa : pa < hostBase) :
    let u := (s.markUsed r.ctx r.va acc).updReq r.id fun x => { x with pa := pa, ft := false }
    (∀ t, u.thread? r.gid r.lane = some t → t.hold = false) → s.touched r pa acc = u := by
  intro u hold
  unfold State.touched
  extract_lets far w
  have hfar : far = id := by
    funext x
    exact if_neg (by simp [Nat.not_le.mpr hpa])
  have hw : w = u := State.updT_of_id fun x => by simp [hfar]
  rw [hw]
  cases ht : u.thread? r.gid r.lane with
  | none => rfl
  | some t => exact if_pos (by simp [hold t ht])

/-! ## The moves of a frame (R245, R246) -/

section
variable {s : State} {n : Nat}

section
variable (h : (s.frame n).st = .near)
include h
theorem takeEvict_of_unpinned (ht : (s.frame n).tierPins = 0) (hn : (s.frame n).nearPins = 0) :
    s.takeEvict n = s.updFrame n fun f => { f with st := .demoting, heldEvict := false } := by
  simp only [State.takeEvict, h]
  exact State.updFrame_congr (by simp [Frame.unpinned, ht, hn])
theorem takeEvict_of_pinned (hp : (s.frame n).tierPins ≠ 0 ∨ (s.frame n).nearPins ≠ 0) :
    s.takeEvict n = s.updFrame n fun f => { f with st := .near, heldEvict := false } := by
  simp only [State.takeEvict, h]
  exact State.updFrame_congr (by rcases hp with hp | hp <;> simp [Frame.unpinned, hp])
end
theorem takeEvict_of_promoting (h : (s.frame n).st = .promoting) :
    s.takeEvict n = s.updFrame n fun f => { f with heldEvict := true } := by
  simp only [State.takeEvict, h]
theorem takeEvict_of_leaving (h : (s.frame n).st = .hbm ∨ (s.frame n).st = .demoting) :
    s.takeEvict n = s.updFrame n fun f => { f with heldEvict := false } := by
  rcases h with h | h <;> simp only [State.takeEvict, h]

/-- The near tier holds every frame that is not in HBM. -/
theorem filter_near? (l : List Frame) : l.filter (fun f => f.st.near?) = l.filter fun f => f.st ≠ .hbm := by
  refine List.filter_congr fun f _ => ?_
  cases f.st <;> rfl

section
variable (h : (s.frame n).st = .hbm)
include h
theorem takePromote_of_room (hr : (s.frames.filter fun f => f.st ≠ .hbm).length < 32768) :
    s.takePromote n = s.takeFree.2.updFrame n fun f =>
      { f with st := .promoting, bank := (s.roomyBanks[s.takeFree.1.toNat % s.roomyBanks.length]?).getD 0, heldPromote := false,
               waiting := false } := by
  simp only [State.takePromote, h, filter_near?]
  exact if_pos hr
/-- With the near tier full a promotion waits for one frame to leave. -/
theorem takePromote_of_full (hr : 32768 ≤ (s.frames.filter fun f => f.st ≠ .hbm).length) :
    let u := s.updFrame n fun f => { f with heldPromote := true }
    s.takePromote n =
      if (u.frames.filter fun f => f.st = .hbm ∧ f.heldPromote).length ≤ (u.frames.filter fun f => f.st = .demoting).length then u
      else u.coldest.elim u fun c => u.takeEvict c.frame := by
  intro u
  simp only [State.takePromote, h, filter_near?, Bool.decide_and, Bool.decide_eq_true]
  refine (if_neg (Nat.not_lt.mpr hr)).trans (if_congr Iff.rfl rfl ?_)
  cases u.coldest <;> rfl
end
theorem takePromote_of_demoting (h : (s.frame n).st = .demoting) :
    s.takePromote n = s.updFrame n fun f => { f with heldPromote := true } := by
  simp only [State.takePromote, h]
theorem takePromote_of_near (h : (s.frame n).st = .promoting ∨ (s.frame n).st = .near) :
    s.takePromote n = s.updFrame n fun f => { f with heldPromote := false } := by
  rcases h with h | h <;> simp only [State.takePromote, h]

/-- A promotion with no eviction held only ends. -/
theorem endPromotion_of_no_evict (h : (s.frame n).heldEvict = false) :
    s.endPromotion n = s.updFrame n fun f => { f with st := .near, waiting := false } := by
  have hframe : (s.updFrame n fun f => { f with st := .near, waiting := false }).frame n = _ :=
    State.frame_updFrame (s.frame_frame n)
  exact if_neg (by rw [hframe]; simp [h])

theorem copyDone_of_still (h : (s.frame n).st = .hbm ∨ (s.frame n).st = .near) : s.copyDone n = s := by
  rcases h with h | h <;> simp only [State.copyDone, h]
theorem copyDone_of_pins (h : (s.frame n).st = .promoting) (h0 : (s.frame n).moved + (s.frame n).mid = 0)
    (hp : (s.frame n).l2Pins ≠ 0) : s.copyDone n = s.updFrame n fun f => { f with waiting := true } := by
  simp only [State.copyDone, h]
  exact if_pos (by simp [h0, hp])

section
variable (h : (s.frame n).st = .promoting ∨ (s.frame n).st = .demoting)
  (hw : ¬((s.frame n).st = .promoting ∧ (s.frame n).moved + (s.frame n).mid = 0 ∧ (s.frame n).l2Pins ≠ 0))
include h hw

/-- A move that waits for no pin switches its next word, and after the last it ends. -/
theorem copyDone_of_moving :
    let k := (s.frame n).moved + (s.frame n).mid
    let u := s.updFrame n fun f => { f with moved := 0, mid := 0 }
    s.copyDone n =
      if k < 16384 then s.updFrame n fun f => { f with waiting := false, moved := k, mid := if s.wordStable n k then 1 else 0 }
      else if (s.frame n).st = .promoting then u.endPromotion n
      else u.updFrame n fun f => { f with st := .hbm, bank := 0, heldEvict := false } := by
  intro k u
  have hpins : ¬(decide ((s.frame n).st = .promoting) && decide (k = 0) && decide ((s.frame n).l2Pins ≠ 0)) = true := by
    simpa [k, and_assoc] using hw
  unfold State.copyDone
  dsimp only
  rcases h with h | h
  · rw [h] at hpins ⊢
    exact if_neg hpins
  · rw [h] at hpins ⊢
    exact if_neg hpins

theorem copyDone_of_word (hk : (s.frame n).moved + (s.frame n).mid < 16384) :
    s.copyDone n = s.updFrame n fun f =>
      { f with waiting := false, moved := (s.frame n).moved + (s.frame n).mid,
               mid := if s.wordStable n ((s.frame n).moved + (s.frame n).mid) then 1 else 0 } :=
  (copyDone_of_moving h hw).trans (if_pos hk)

variable (hk : 16384 ≤ (s.frame n).moved + (s.frame n).mid)
include hk

theorem copyDone_of_demoted (hd : (s.frame n).st = .demoting) :
    s.copyDone n = s.updFrame n fun f => { f with moved := 0, mid := 0, st := .hbm, bank := 0, heldEvict := false } := by
  refine (copyDone_of_moving h hw).trans ((if_neg (Nat.not_lt.mpr hk)).trans ((if_neg (by simp [hd])).trans ?_))
  exact State.updFrame_updFrame (s.frame_frame n)
theorem copyDone_of_promoted (hp : (s.frame n).st = .promoting) (he : (s.frame n).heldEvict = false) :
    s.copyDone n = s.updFrame n fun f => { f with moved := 0, mid := 0, st := .near, waiting := false } := by
  refine (copyDone_of_moving h hw).trans ((if_neg (Nat.not_lt.mpr hk)).trans ((if_pos hp).trans ?_))
  have hframe : (s.updFrame n fun f => { f with moved := 0, mid := 0 }).frame n = _ := State.frame_updFrame (s.frame_frame n)
  rw [endPromotion_of_no_evict (by rw [hframe]; exact he), State.updFrame_updFrame (s.frame_frame n)]
end
end

/-! ## Shoot-downs (R247) -/

section
variable (s : State) (x : Sdn)

/-- A shoot-down may complete: it is one of the sixteen oldest, and no access of its range is on its way. -/
def State.SdnDue : Prop :=
  (∃ y ∈ s.sdns.take 16, y.id = x.id) ∧ ∀ r ∈ s.reqs, r.ctx = x.ctx → r.ft = false → r.dev = none → x.hits r.va r.n = false
theorem sdnReady_iff : s.sdnReady x = true ↔ s.SdnDue x := by
  simp only [State.sdnReady, State.SdnDue, Bool.and_eq_true, List.any_eq_true, decide_eq_true_eq, List.all_eq_true, Bool.not_eq_true',
    Bool.and_eq_false_iff, decide_eq_false_iff_not, Option.isNone_eq_false_iff]
  refine and_congr_right fun _ => forall₂_congr fun r _ => ?_
  cases r.dev <;> cases r.ft <;> simp [imp_iff_not_or]

/-- A shoot-down's range is gone from every translation unit, and so is the shoot-down. -/
def State.sdnDropped : State :=
  { s with
    tlb := s.tlb.filter fun t => !(decide (t.ctx = x.ctx) && x.hits (4096 * t.vpn) (4096 * t.pages)),
    sdns := s.sdns.filter fun y => y.id ≠ x.id }
/-- The windows of every flock over pages that a shoot-down has unmapped are detached. -/
def State.detachAll : State := s.flocks.foldl (fun s f => (List.range 8).foldl (fun s i => s.detachWindow x f i) s) s

theorem detachWindow_of_other {f : Flock} (h : f.ctx ≠ x.ctx) (i : Nat) : s.detachWindow x f i = s := by
  unfold State.detachWindow
  split
  · rfl
  · exact if_pos (by simp [h])
theorem detachAll_of_no_flock (h : ∀ f ∈ s.flocks, f.ctx ≠ x.ctx) : s.detachAll x = s := by
  refine List.foldlRecOn (motive := fun u : State => u = s) _ _ rfl fun u hu f hf => ?_
  refine List.foldlRecOn (motive := fun u : State => u = s) _ _ hu fun u hu i _ => ?_
  exact (detachWindow_of_other u x (h f hf) i).trans hu

/-- A shoot-down's end wakes its waiter, where that still waits for it. -/
theorem endSdn_eq : s.endSdn x =
    let u := (s.sdnDropped x).detachAll x
    if (u.thread? x.gid x.lane).bind Thread.wait = some (.sdn x.id) then u.wake x.gid [(x.lane, [])] else u := by
  have hdrop : { s.dropLeaves none x with sdns := s.sdns.filter fun y => y.id ≠ x.id } = s.sdnDropped x := by
    simp only [State.dropLeaves, State.sdnDropped, Bool.and_true]
  unfold State.endSdn
  rw [hdrop]
  dsimp only
  split
  · next id hw =>
    have hwait : (((s.sdnDropped x).detachAll x).thread? x.gid x.lane).bind Thread.wait = some (.sdn id) := hw
    rw [hwait]
    simp only [Option.some.injEq, Wait.sdn.injEq]
    rfl
  · next hw => exact (if_neg (hw x.id)).symm
end

section
variable (s : State) (id : Nat)

theorem execSdnComplete_of_absent (h : ∀ x ∈ s.sdns, x.id ≠ id) : execSdnComplete id s = .next s := by
  have hnone : (s.sdns.find? fun x => x.id = id) = none := List.find?_eq_none.mpr fun x hx => by simpa using h x hx
  simp only [execSdnComplete, hnone]

variable {s id} {x : Sdn} (h : (s.sdns.find? fun x => x.id = id) = some x)
include h

theorem execSdnComplete_of_not_due (hd : ¬s.SdnDue x) : execSdnComplete id s = .next s := by
  simp only [execSdnComplete, h]
  exact congrArg Outcome.next (if_neg (mt (sdnReady_iff s x).mp hd))
theorem execSdnComplete_of_due (hd : s.SdnDue x) : execSdnComplete id s = .next (s.endSdn x) := by
  simp only [execSdnComplete, h]
  exact congrArg Outcome.next (if_pos ((sdnReady_iff s x).mpr hd))
end

/-- Settles O52: one lemma for each row of the tables, by the state of the access, of the frame and of the shoot-down. -/
theorem pageEvents : Obligations.PageEvents := by
  intro s n id v f sets
  refine ⟨fun h => ?none, fun r h => ⟨fun hf => ?free, fun hf acc ha => ?touch⟩, fun r pa acc hpa => touched_of_not_held s r acc hpa,
    fun p g hp hg => ?ring, fun p g hi ho => ?noRing, fun hh => ?noPromote, fun hh => ⟨fun hst hr => ?room, fun hst hr => ?full,
      fun hst => ?merged, fun hst => ?heldPromote⟩, fun hh => ?noEvict, fun hh => ⟨fun hst ht hn => ?leaves, fun hst hp => ?dropped,
      fun hst => ?heldEvict, fun hst => ?gone⟩, fun hst => ?still, ⟨?pins, fun hst hw => ⟨fun hk => ?word, fun hk hd => ?demoted,
      fun hk hp he => ?promoted⟩⟩, fun hn => ?noTimeout, fun hst hw => ?timeout, fun ha => ?noSdn, fun x hx => ?sdn⟩
  case none => exact congrArg Outcome.next (firstTouch_of_no_req h)
  case free => exact congrArg Outcome.next (firstTouch_of_not_held h hf)
  case touch =>
    exact ⟨fun pa hw => congrArg Outcome.next (firstTouch_of_mapped h hf ha hw),
      fun lvl k e hw hn => congrArg Outcome.next (firstTouch_of_unserved h hf ha hw hn),
      fun k e pa hw hr hu => congrArg Outcome.next (firstTouch_of_served h hf ha hw hr hu),
      fun c k hw => congrArg Outcome.next (firstTouch_of_fault h hf ha hw)⟩
  case ring => exact ⟨if_pos ⟨hp, hg⟩, if_pos ⟨hp, hg⟩⟩
  case noRing => exact if_neg (by omega)
  case noPromote => exact congrArg Outcome.next (if_neg (Bool.eq_false_iff.mp hh))
  case room => exact congrArg Outcome.next ((if_pos hh).trans (takePromote_of_room hst hr))
  case full =>
    intro u waits leaves
    have hfull : exec (.promote n) s = _ := congrArg Outcome.next ((if_pos hh).trans (takePromote_of_full hst hr))
    refine ⟨fun hstay => hfull.trans (congrArg Outcome.next ?_), fun c hlt hc => hfull.trans (congrArg Outcome.next ?_)⟩
    · rcases hstay with hle | hc
      · exact if_pos hle
      · exact ite_eq_left_iff.mpr fun _ => congrArg (Option.elim · u _) hc
    · exact (if_neg (Nat.not_le.mpr hlt)).trans (congrArg (Option.elim · u _) hc)
  case merged => exact congrArg Outcome.next ((if_pos hh).trans (takePromote_of_near hst))
  case heldPromote => exact congrArg Outcome.next ((if_pos hh).trans (takePromote_of_demoting hst))
  case noEvict => exact congrArg Outcome.next (if_neg (Bool.eq_false_iff.mp hh))
  case leaves => exact congrArg Outcome.next ((if_pos hh).trans (takeEvict_of_unpinned hst ht hn))
  case dropped => exact congrArg Outcome.next ((if_pos hh).trans (takeEvict_of_pinned hst hp))
  case heldEvict => exact congrArg Outcome.next ((if_pos hh).trans (takeEvict_of_promoting hst))
  case gone => exact congrArg Outcome.next ((if_pos hh).trans (takeEvict_of_leaving hst))
  case still => exact congrArg Outcome.next (copyDone_of_still hst)
  case pins =>
    rintro ⟨hst, h0, hp⟩
    exact congrArg Outcome.next (copyDone_of_pins hst h0 hp)
  case word => exact congrArg Outcome.next (copyDone_of_word hst hw hk)
  case demoted => exact congrArg Outcome.next (copyDone_of_demoted hst hw hk hd)
  case promoted => exact congrArg Outcome.next (copyDone_of_promoted hst hw hk hp he)
  case noTimeout => exact congrArg Outcome.next (if_neg (by rwa [Bool.and_eq_true, decide_eq_true_eq, not_and_or, Bool.not_eq_true]))
  case timeout => exact congrArg Outcome.next (if_pos (Bool.and_eq_true_iff.mpr ⟨decide_eq_true hst, hw⟩))
  case noSdn => exact execSdnComplete_of_absent s id ha
  case sdn =>
    intro ready u
    obtain rfl : x.id = id := by simpa using List.find?_some hx
    have hend (hd : ready) : exec (.sdnComplete x.id) s = _ :=
      (execSdnComplete_of_due hx hd).trans (congrArg Outcome.next (endSdn_eq s x))
    refine ⟨execSdnComplete_of_not_due hx, fun hd hno => ?_, ?_⟩
    · have hsame : (s.sdnDropped x).detachAll x = u := detachAll_of_no_flock _ x hno
      have hdone := hend hd
      dsimp only at hdone
      rw [hsame] at hdone
      exact ⟨fun hwait => hdone.trans (congrArg Outcome.next (if_pos hwait)),
        fun hwait => hdone.trans (congrArg Outcome.next (if_neg hwait))⟩
    · rintro hd w rfl hwait
      exact (hend hd).trans (congrArg Outcome.next (if_pos hwait))

end Sys2Proof.Machine
end

section
/-! Credit barriers, spools, seams and timed gates (R254 to R268): what each word does for a lone thread whose object operand is good. -/
namespace Sys2Proof.Machine
open Host (Outcome)

/-! ## Words that cover no operation (R277) -/

theorem State.restartOps_nil (s : State) : s.restartOps [] = s := by simp [State.restartOps]

/-- A covering word that covers nothing acts by its own rules. -/
theorem coverWord_of_uncovered {s : State} {iss : Issue} {t : Thread} (hs : s.Solo iss t) {cov : State → Thread → List Op}
    (hc : cov s t = []) (f : Issue → State → Thread → StepRes) : coverWord s cov f = .next ((f iss s t).after t.lane) := by
  simp [coverWord, hs.isOpen, hs.sole, hc, oldest, State.restartOps_nil, laneFold_after hs]

/-! ## Credit barriers (R255 to R259) -/

section Barrier
variable {s v : State} {iss : Issue} {g : Group} {t : Thread} {b c d : Fld} {fid p : Nat}

/-- A barrier whose expected arrivals and sectors are all there ends its phase first (R254). -/
theorem State.reexamine_eq (s : State) (fid p : Nat) : s.reexamine fid p =
    if (s.bar fid p).expect ≠ 0 ∧ (s.bar fid p).pend = 0 ∧ (s.bar fid p).sect ≤ 0 then s.phaseEnd fid p (s.bar fid p) else s := by
  simp only [State.reexamine, Bool.and_eq_true, decide_eq_true_eq, and_assoc]

variable {x : Bar} (hx : v.bar fid p = x)
include hx

section Arrive
variable (h0 : x.expect ≠ 0) (hp : x.pend ≠ 0) {n : Nat}
include h0 hp

theorem arriveBar_of_last (hend : x.pend - 1 = 0) (hsect : x.sect + n ≤ 0) :
    v.arriveBar g t d fid p n = .ok ((v.phaseEnd fid p { x with pend := x.pend - 1, sect := x.sect + n }).updT g.gid t.lane fun y =>
      y.await (Result.known y.nextRes [.g d (v.token fid p x.phase)] 0 false)) := by
  simp [State.arriveBar, hx, h0, hp, hend, hsect]
theorem arriveBar_of_open (hopen : x.pend - 1 ≠ 0 ∨ 0 < x.sect + n) :
    v.arriveBar g t d fid p n = .ok ((v.setBar fid p { x with pend := x.pend - 1, sect := x.sect + n }).updT g.gid t.lane fun y =>
      y.await (Result.known y.nextRes [.g d (v.token fid p x.phase)] 0 false)) := by
  have hno : ¬ (x.pend - 1 = 0 ∧ x.sect + n ≤ 0) := by omega
  simp [State.arriveBar, hx, h0, hp, hno]
end Arrive

variable (ho : s.objPlace g (s.fatPtr g t b) (rd t b).toNat 16 = .ok (fid, p)) (hv : s.reexamine fid p = v)
include ho hv

theorem barInit_of_good (h0 : rd t c ≠ 0) (hn : (rd t c).toNat ≤ 0xFFFFF)
    (hfree : x.expect = 0 ∨ (v.waitersAt fid p = [] ∧ x.link = 0)) :
    s.barInit g t b c = .ok (v.setBar fid p ⟨x.link, 0, 0, (rd t c).toNat, (rd t c).toNat, 0⟩) := by
  have hrange : ¬ (rd t c = 0 ∨ 0xFFFFF < (rd t c).toNat) := not_or.mpr ⟨h0, Nat.not_lt.mpr hn⟩
  have huse : ¬ x.expect = 0 → ¬ (v.waitersAt fid p = [] → ¬ x.link = 0) := by tauto
  simp only [State.barInit, ho, hv, hx, if_neg hrange]
  rw [if_neg (by simpa using huse)]
omit hx in
theorem barArrive_chk : s.barArrive g t d b none = v.arriveBar g t d fid p 0 := by
  simp only [State.barArrive, ho, hv]
theorem barArrive_owe {n : W32} (h32 : n.toNat % 32 = 0) (hmax : x.sect + n.toNat / 32 ≤ 2 ^ 23 - 1) :
    s.barArrive g t d b (some n) = v.arriveBar g t d fid p (n.toNat / 32) := by
  simp only [State.barArrive, ho, hv, hx, h32, ne_eq, not_true_eq_false, if_false, if_neg (Int.not_lt.mpr hmax)]

/-- Whether a `bar.try` of a token so many phases back succeeds: in a re-execution the next record says it (R397). -/
def State.tryEnded (v : State) (g : Group) (lane dist : Nat) : Bool :=
  match v.nextRec g lane with
  | some y => decide (y.kind = 3)
  | none => decide (dist ≠ 0)

variable {dist : Nat} (hdist : (x.phase + 256 - (rd t c).toNat / 2 ^ 24) % 256 = dist) (h0 : x.expect ≠ 0)
  (hfresh : v.staleToken fid p (rd t c) dist = false)
include hdist h0 hfresh

theorem barWait_of_present (hd : dist = 0) : s.barWait iss g t b c none =
    .ok ((v.addWaiter fid ⟨p, p, g.gid, t.lane⟩).updT g.gid t.lane fun y => y.block (.bar fid p (rd t c)) iss []) := by
  simp only [State.barWait, ho, hv, hx, hdist, if_neg h0, hfresh, Bool.false_eq_true, if_false, if_pos hd]
theorem barWait_of_past (hd : dist ≠ 0) : s.barWait iss g t b c none =
    .ok ((v.logged g.gid t.lane 3 ((rd t c).setWidth 64) ((rd t c).setWidth 64) []).2.2.acquireCore g.pcore) := by
  simp only [State.barWait, ho, hv, hx, hdist, if_neg h0, hfresh, Bool.false_eq_true, if_false, if_neg hd]
theorem barWait_try :
    let ended := v.tryEnded g t.lane dist
    let l := v.logged g.gid t.lane (if ended then 3 else 4) ((rd t c).setWidth 64) (if ended then (rd t c).setWidth 64 else 0) []
    let u := l.2.2.updT g.gid t.lane fun y => y.await (Result.known y.nextRes [.g d (if ended then 1 else 0)] 0 false)
    s.barWait iss g t b c (some d) = .ok (if ended then u.acquireCore g.pcore else u) := by
  simp only [State.barWait, ho, hv, hx, hdist, if_neg h0, hfresh, Bool.false_eq_true, if_false]
  rfl

end Barrier

/-! ## Spools (R263 to R266) -/

/-- The status of a push: no allowance of its producer, a full ring, or 0 (R264). -/
def Spool.status (x : Spool) (i : Nat) : W64 := if x.allowOf i = 0 then 1 else if x.cap ≤ x.count then 2 else 0

section Spool
variable {s v : State} {iss : Issue} {g : Group} {t : Thread} {b c d : Fld} {fid p : Nat}
  (ho : s.objPlace g (s.fatPtr g t b) (rd t b).toNat 64 = .ok (fid, p)) (hv : s.reexamineSpool fid p = v)
include ho hv

theorem spoolInit_of_good {f : Flock} (hf : v.flock? fid = some f) (hcap : 0 < (rd t c).toNat ∧ (rd t c).toNat ≤ 4096)
    (hnp : 0 < (rd t (c + 1)).toNat ∧ (rd t (c + 1)).toNat ≤ 32) (hal : (rd t (c + 3)).toNat ≤ 255)
    (hring : (rd t (c + 2)).toNat % 8 = 0) (hlo : heBase (s.fatPtr g t b).ent ≤ (rd t (c + 2)).toNat)
    (hhi : (rd t (c + 2)).toNat + 8 * (rd t c).toNat ≤ heBase (s.fatPtr g t b).ent + heLen (s.fatPtr g t b).ent)
    (hlen : (rd t (c + 2)).toNat + 8 * (rd t c).toNat ≤ f.scrLen) (hpop : v.waitersAt fid (p + 10) = [])
    (hpush : v.waitersAt fid (p + 16) = []) :
    s.spoolInit g t b c = .ok (v.setSpool fid p
      ⟨(rd t c).toNat, 0, 0, 0, (rd t (c + 1)).toNat, 0, (rd t (c + 2)).toNat, List.replicate 32 (rd t (c + 3)).toNat⟩) := by
  simp only [State.spoolInit, ho, hv, hf, hpop, hpush]
  exact if_neg (by simp only [ne_eq, not_true_eq_false, or_false]; omega)

variable {x : Spool} (hx : v.spool fid p = x)
include hx

section Push
variable (h0 : x.cap ≠ 0) (hi : (rd t c).toNat < x.nprod) (he : rd2 t d ≠ noEntry)
include h0 hi he

theorem spoolPush_of_room (hst : x.status (rd t c).toNat = 0) :
    s.spoolPush iss g t d b c none = .ok ((v.pushEntry fid p (rd t c).toNat (rd2 t d)).settleSpool fid p) := by
  simp only [State.spoolPush, ho, hv, hx, if_neg h0, if_neg (Nat.not_le.mpr hi), if_neg he]
  exact if_pos hst
theorem spoolPush_of_no_room (hst : x.status (rd t c).toNat ≠ 0) :
    s.spoolPush iss g t d b c none = .ok (((v.addWaiter fid ⟨p, p + 16, g.gid, t.lane⟩).updT g.gid t.lane fun y =>
      y.block (.spush fid p (rd2 t d) (rd t c).toNat) iss []).settleSpool fid p) := by
  simp only [State.spoolPush, ho, hv, hx, if_neg h0, if_neg (Nat.not_le.mpr hi), if_neg he]
  exact if_neg hst
theorem spoolPush_try (r : Fld) :
    let l := v.logged g.gid t.lane 4 (BitVec.ofNat 64 (rd t b).toNat) (x.status (rd t c).toNat) []
    let u := l.2.2.updT g.gid t.lane fun y => y.await (Result.known y.nextRes [.g r (l.1.setWidth 32)] 0 false)
    s.spoolPush iss g t d b c (some r) =
      .ok ((if l.1 = 0 then u.pushEntry fid p (rd t c).toNat (rd2 t d) else u).settleSpool fid p) := by
  simp only [State.spoolPush, ho, hv, hx, if_neg h0, if_neg (Nat.not_le.mpr hi), if_neg he]
  rfl
end Push

section Pop
variable (h0 : x.cap ≠ 0)
include h0

theorem spoolPop_of_empty (hc : x.count = 0) :
    s.spoolPop iss g t d b false = .ok (((v.addWaiter fid ⟨p, p + 10, g.gid, t.lane⟩).updT g.gid t.lane fun y =>
      y.block (.spop fid p d) iss [.g d, .g (d + 1)]).settleSpool fid p) := by
  simp only [State.spoolPop, ho, hv, hx, if_neg h0, if_pos hc]
  rfl
theorem spoolPop_try_of_empty (hc : x.count = 0) :
    let l := v.logged g.gid t.lane 4 (BitVec.ofNat 64 (rd t b).toNat) noEntry []
    s.spoolPop iss g t d b true = .ok ((l.2.2.updT g.gid t.lane fun y =>
      y.await (Result.known y.nextRes (wr2 d l.1) 0 false)).settleSpool fid p) := by
  simp only [State.spoolPop, ho, hv, hx, if_neg h0, if_pos hc, if_true]
/-- Both forms take the head entry of a spool that has one, as an acquire. -/
theorem spoolPop_of_entry (hc : x.count ≠ 0) (try_ : Bool) :
    let l := (v.popEntry fid p).2.logged g.gid t.lane 4 (BitVec.ofNat 64 (rd t b).toNat) (v.popEntry fid p).1 []
    s.spoolPop iss g t d b try_ = .ok (((l.2.2.updT g.gid t.lane fun y =>
      y.await (Result.known y.nextRes (wr2 d l.1) 0 false)).settleSpool fid p).acquireCore g.pcore) := by
  simp only [State.spoolPop, ho, hv, hx, if_neg h0, if_neg hc]

theorem spoolAllow_of_good (hi : (rd t c).toNat < x.nprod)
    (hmax : x.allowOf (rd t c).toNat + (rd t (c + 1)).toNat ≤ 255) :
    s.spoolAllow g t b c = .ok ((v.setSpool fid p { x with
      allow := x.allow.set (rd t c).toNat (x.allowOf (rd t c).toNat + (rd t (c + 1)).toNat) }).settleSpool fid p) := by
  simp only [State.spoolAllow, ho, hv, hx, if_neg h0, if_neg (Nat.not_le.mpr hi), if_neg (Nat.not_lt.mpr hmax)]
end Pop

end Spool

/-! ## Seams (R260 to R262) -/

theorem seamInit_of_good {s : State} {g : Group} {t : Thread} {k c : Fld} {x : Seam} (hx : s.seam? g.fid k.toNat = some x)
    (h0 : 0 < (rd t c).toNat) (hmax : (rd t c).toNat ≤ 1024) (hlive : (rd t c).toNat ≤ (s.liveOf g.fid).length)
    (hsig : x.signers = []) : s.seamInit g t k c = .ok (s.setSeam g.fid k.toNat { x with need := (rd t c).toNat, cancel := false }) := by
  have hn : ¬ ((rd t c).toNat = 0 ∨ 1024 < (rd t c).toNat) := by omega
  simp only [State.seamInit, hx, if_neg hn, if_neg (Nat.not_lt.mpr hlive), hsig, ne_eq, not_true_eq_false, if_false]

/-! ## Timed gates (R268) -/

section Gate
variable {s u : State}

theorem fireDue_of_due {fid k : Nat} {w : W64} (hg : s.gate fid k = .armed w) (hw : w ≤ s.ptime) :
    s.fireDue fid k = (s.setGate fid k (.fired w)).releaseGate fid k 0 := by simp only [State.fireDue, hg, if_pos hw]
theorem fireDue_of_early {fid k : Nat} {w : W64} (hg : s.gate fid k = .armed w) (hw : s.ptime < w) : s.fireDue fid k = s := by
  simp only [State.fireDue, hg, if_neg (BitVec.not_le.mpr hw)]

theorem setTime_of_zero {fid k : Nat} {v : W64} (hu : s.fireDue fid k = u) (h0 : v = 0) :
    s.setTime fid k v = (u.setGate fid k .idle).releaseGate fid k 2 := by simp only [State.setTime, hu, if_pos h0]
theorem setTime_of_future {fid k : Nat} {v : W64} (hu : s.fireDue fid k = u) (hv : u.ptime < v) :
    s.setTime fid k v = u.setGate fid k (.armed v) := by
  have h0 : v ≠ 0 := by rintro rfl; exact BitVec.not_lt_zero hv
  simp only [State.setTime, hu, if_neg h0, if_pos hv]
theorem setTime_of_past {fid k : Nat} {v : W64} (hu : s.fireDue fid k = u) (h0 : v ≠ 0) (hv : v ≤ u.ptime) :
    s.setTime fid k v = (u.setGate fid k (.fired v)).releaseGate fid k 0 := by
  simp only [State.setTime, hu, if_neg h0, if_neg (BitVec.not_lt.mpr hv)]

variable {iss : Issue} {g : Group} {t : Thread} {d k : Fld} (hu : s.fireDue g.fid k.toNat = u)
include hu

theorem gateWait_of_armed {w : W64} (hg : u.gate g.fid k.toNat = .armed w) :
    s.gateWait iss g t d k = u.updT g.gid t.lane fun y => y.block (.gate k.toNat d) iss [.g d] := by
  simp only [State.gateWait, hu, hg]
/-- A gate that is not armed answers at once: 2 when it is idle, 1 when it has fired. -/
theorem gateWait_of_not_armed {v : W64}
    (hg : (u.gate g.fid k.toNat = .idle ∧ v = 2) ∨ ((∃ w, u.gate g.fid k.toNat = .fired w) ∧ v = 1)) :
    let l := u.logged g.gid t.lane 5 (BitVec.ofNat 64 k.toNat) v []
    s.gateWait iss g t d k = l.2.2.updT g.gid t.lane fun y => y.await (Result.known y.nextRes [.g d (l.1.setWidth 32)] 0 false) := by
  rcases hg with ⟨hg, rfl⟩ | ⟨⟨w, hg⟩, rfl⟩ <;> simp only [State.gateWait, hu, hg]

end Gate

/-! ## The words -/

/-- Settles O38: each word is one lane's work on its object, which the object's lemma gives once what stores have left there is
examined. -/
theorem barrierSpoolWords : Obligations.BarrierSpoolWords := by
  refine ⟨fun s iss t hs cs a b r k => ?_, fun s fid n v hg =>
    ⟨fun hv => congrArg Outcome.next (fireDue_of_due hg hv), fun hv => congrArg Outcome.next (fireDue_of_early hg hv)⟩⟩
  have ok {i : Instr} {f : Issue → State → Thread → StepRes} {u : State} (hi : exec i s = .next (s.laneFold f))
      (hf : f iss s t = .ok u) : exec i s = .next u := hi.trans (congrArg Outcome.next (laneFold_ok s iss t f u hs hf))
  intro g off owes h
  refine ⟨fun fid p ho => ?barrier, fun fid p ho => ?spool, fun x hx => ⟨?seamRead, fun h0 hmax hlive hsig =>
    ok rfl (seamInit_of_good hx h0 hmax hlive hsig)⟩, fun u hu => ?gate⟩
  case barrier =>
    intro x0 v x tok n arrives
    have hv : s.reexamine fid p = v := s.reexamine_eq fid p
    have hx : v.bar fid p = x := rfl
    have arrive {i : Instr} {f : Issue → State → Thread → StepRes} {m : Nat} (hi : exec i s = .next (s.laneFold f))
        (hf : f iss s t = v.arriveBar g t a fid p m) : arrives i m := fun h0 hp =>
      ⟨fun hend hsect => ok hi (hf.trans (arriveBar_of_last hx h0 hp hend hsect)),
        fun hopen => ok hi (hf.trans (arriveBar_of_open hx h0 hp hopen))⟩
    refine ⟨fun h0 hn hfree => ok rfl (barInit_of_good hx ho hv h0 hn hfree), arrive rfl (barArrive_chk ho hv),
      fun h32 hmax => arrive rfl (barArrive_owe hx ho hv h32 hmax), ?_⟩
    intro dist h0 hfresh hcov
    have covers {d : Option Fld} {u : State} (hw : s.barWait iss g t b r d = .ok u) :
        coverWord s (fun s t => s.coverBarLane t b r) (fun iss s t => s.barWait iss (s.group iss.gid) t b r d) = .next u :=
      (coverWord_of_uncovered hs hcov _).trans (congrArg (fun w => Outcome.next (StepRes.after t.lane w)) hw)
    exact ⟨fun hd => covers (barWait_of_present hx ho hv rfl h0 hfresh hd), fun hd => covers (barWait_of_past hx ho hv rfl h0 hfresh hd),
      covers (barWait_try hx ho hv rfl h0 hfresh)⟩
  case spool =>
    intro v x cap np ring al i e status
    have hv : s.reexamineSpool fid p = v := rfl
    have hx : v.spool fid p = x := rfl
    refine ⟨fun f hf hcap hcap' hnp hnp' hal hring hlo hhi hlen hpop hpush =>
        ok rfl (spoolInit_of_good ho hv hf ⟨hcap, hcap'⟩ ⟨hnp, hnp'⟩ hal hring hlo hhi hlen hpop hpush),
      fun h0 hi he => ⟨fun hst => ok rfl (spoolPush_of_room ho hv hx h0 hi he hst),
        fun hst => ok rfl (spoolPush_of_no_room ho hv hx h0 hi he hst),
        ok rfl (spoolPush_try ho hv hx h0 hi he (r + 1))⟩,
      fun h0 hc => ⟨ok rfl (spoolPop_of_empty ho hv hx h0 hc), ok rfl (spoolPop_try_of_empty ho hv hx h0 hc)⟩,
      fun h0 hc => ⟨ok rfl (spoolPop_of_entry ho hv hx h0 hc false), ok rfl (spoolPop_of_entry ho hv hx h0 hc true)⟩,
      fun h0 hi hmax => ok rfl (spoolAllow_of_good ho hv hx h0 hi hmax)⟩
  case seamRead =>
    refine ok rfl ?_
    have hx' : s.seam? (s.group iss.gid).fid k.toNat = some x := hx
    simp only [hx']
  case gate =>
    intro v
    have hfire : s.fireDue g.fid k.toNat = u := hu.symm
    exact ⟨fun h0 => ok rfl (congrArg StepRes.ok (setTime_of_zero hfire h0)),
      fun hv => ok rfl (congrArg StepRes.ok (setTime_of_future hfire hv)),
      fun h0 hv => ok rfl (congrArg StepRes.ok (setTime_of_past hfire h0 hv)),
      fun w hw => ok rfl (congrArg StepRes.ok (gateWait_of_armed hfire hw)),
      fun w hw => ok rfl (congrArg StepRes.ok (gateWait_of_not_armed hfire hw))⟩

end Sys2Proof.Machine
end

section
/-! The life of an engine operation (R257, R271, R276, R280, R281, R286, R287, R244): what each of the engine's events does to the
operation that it finds. -/
namespace Sys2Proof.Machine
open Host (Outcome)

section
variable {s : State} {o : Op} (ho : s.op? o.id = some o)
include ho

/-! ## A queued operation is taken (R276, R280) -/

section Take
variable {d : CD} (hk : o.kind = .copy d) (hq : o.st = .queued) (hr : s.released o.after = true)
include hk hq hr

theorem takeOp_of_untimed_copy (hat : o.at_ = none) :
    s.takeOp o.id = (s.updOp o.id fun x => { x with st := .running }).registerAhead o := by
  simp [State.takeOp, ho, hk, hq, hr, hat]
theorem takeOp_of_due_copy {v : W64} (hat : o.at_ = some v) (hv : v ≤ s.ptime) :
    s.takeOp o.id = (s.updOp o.id fun x => { x with st := .running }).registerAhead o := by
  simp [State.takeOp, ho, hk, hq, hr, hat, BitVec.not_lt.mpr hv]
theorem takeOp_of_early_copy {v : W64} (hat : o.at_ = some v) (hv : s.ptime < v) : s.takeOp o.id = s := by
  simp [State.takeOp, ho, hk, hq, hr, hat, hv]
end Take

theorem execCpyAtStart_of_timed {v : W64} (hat : o.at_ = some v) : execCpyAtStart o.id s = .next (s.takeOp o.id) := by
  simp [execCpyAtStart, ho, hat]

/-! ## A running operation (R244, R257, R271, R276) -/

theorem opBurst_of_bursts (hb : o.bursts = true) (n : Nat) : s.opBurst o.id n = State.burst o.id (n + 1) n true s := by
  simp only [State.opBurst, ho]
  split
  case h_1 hk | h_2 hk | h_3 hk => simp [Op.bursts, hk] at hb
  case h_4 => exact if_pos hb

/-- The engine credits the sectors that it has written and not yet credited. -/
theorem execBarrierSectorCredit_of_owed {f p : Nat} {ph : Byte} (hbar : o.bar = some (f, p, ph)) (hst : o.st ≠ .done) {n : Nat}
    (hn : 0 < min n (s.owed o)) : execBarrierSectorCredit o.id n s =
      .next ((s.updOp o.id fun x => { x with secs := x.secs - min n (s.owed o) }).creditBar f p (min n (s.owed o)) false) := by
  simp only [execBarrierSectorCredit, ho, hbar]
  exact if_neg (by simp [hst, Nat.pos_iff_ne_zero.mp hn])

theorem execBounceStallEnd_of_room (hroom : (s.bounce.filter fun b => b.ctx = o.ctx).length < s.bounceRoom o.ctx) :
    execBounceStallEnd o.id s = .next (s.updOp o.id fun x => { x with stalled := false }) := by
  simp only [execBounceStallEnd, ho, if_pos hroom]

theorem execEngineFault_of_bad (hst : o.st = .running) (hstall : o.stalled = false) (hb : o.bursts = true) (hoff : o.off < s.opTotal o)
    (hr : s.released o.after = true) {u : State} {c : Byte} {q va : Nat} (hbad : s.nextChunk o 512 = .bad u c q va) :
    execEngineFault o.id c s = .next (u.opFault o.id c q va) := by
  simp [execEngineFault, ho, hst, hstall, hb, Nat.not_le.mpr hoff, hr, hbad]

/-! ## An operation whose bytes are all written (R276, R281, R287) -/

section Full
variable (hst : o.st = .running) (hfull : s.opTotal o ≤ o.off)
include hst hfull

theorem execEngineDone_of_full {d : CD} (hk : o.kind = .copy d ∨ o.kind = .bld d) (hbusy : s.engBusy o = false) :
    execEngineDone o.id s = .next (s.finishOp o.id true).endOperandWaits := by
  rcases hk with hk | hk <;> simp [execEngineDone, ho, hk, hst, hfull, hbusy]
theorem execCollDeliveryDone_of_full {a : CollArg} (hk : o.kind = .coll a) (hbusy : s.engBusy o = false) :
    execCollDeliveryDone o.id s = .next (s.finishOp o.id true) := by
  simp [execCollDeliveryDone, ho, hk, hst, hfull, hbusy]
/-- The slot that the operation fills becomes HELD; one that nobody is left to drain is dropped. -/
theorem execCpmFillDone_of_full {d : CD} {m : Byte} {k : BitVec 16} (hk : o.kind = .cpm d m k) :
    let fill := fun (h : HoldSlot) => if h.op = o.id ∧ h.st = .filling then { h with st := .held } else h
    let keep := fun (h : HoldSlot) => !(decide (h.st = .held) && decide (h.mask = 0))
    execCpmFillDone o.id s = .next ({ s with holds := (s.holds.map fill).filter keep }.finishOp o.id true) := by
  simp [execCpmFillDone, ho, hk, hst, hfull]
end Full

end

/-- Settles O41: each event finds its operation, whose kind and state choose what it does. -/
theorem engineEvents : Obligations.EngineEvents := by
  intro s o n fid ch ho runs fill keep full
  refine ⟨fun d hk hq hr => ⟨fun hat => ?untimed, fun v hat hv => ?due, fun v hat hv => ?early⟩,
    fun hb => congrArg Outcome.next (opBurst_of_bursts ho hb n),
    fun d hk hf hb => execEngineDone_of_full ho hf.1 hf.2 hk hb,
    fun f p ph hbar hst hn => execBarrierSectorCredit_of_owed ho hbar hst hn, execBounceStallEnd_of_room ho,
    fun hst hstall hb hoff hr u c q va hbad => execEngineFault_of_bad ho hst hstall hb hoff hr hbad,
    fun d m k hk hf => execCpmFillDone_of_full ho hf.1 hf.2 hk,
    fun a hk hf hb => execCollDeliveryDone_of_full ho hf.1 hf.2 hk hb, rfl, rfl⟩
  case untimed => exact congrArg Outcome.next (takeOp_of_untimed_copy ho hk hq hr hat)
  case due =>
    have htake : exec (.engineTake o.id) s = .next runs := congrArg Outcome.next (takeOp_of_due_copy ho hk hq hr hat hv)
    exact ⟨htake, (execCpyAtStart_of_timed ho hat).trans htake⟩
  case early => exact (execCpyAtStart_of_timed ho hat).trans (congrArg Outcome.next (takeOp_of_early_copy ho hk hq hr hat hv))

end Sys2Proof.Machine
end

section
/-! A matrix operation reaches the array (R297, R299): which tile it computes, and a state in which two operations share an identifier. -/
namespace Sys2Proof.Machine
open Host (Outcome)

section
variable {s : State} {o : Op} {a : MmaArg} (ho : s.op? o.id = some o) (hk : o.kind = .mma a)
  (hst : o.st = .queued ∨ o.st = .waiting) (hturn : s.tileTurn o = true) (hr : s.released o.after = true) (hbad : s.badSlot o a = none)
include ho hk hst hturn hr hbad

/-- An operation whose turn has come and whose slots are filled computes, and every operation of its identifier does so from its own
flock's operands. -/
theorem reachArray_of_filled (hw : s.operandWait o = false) : s.reachArray o.id = s.updOp o.id fun x =>
    { x with st := .computing, out := s.mmaTile x.fid a, t1 := if x.st = .waiting then s.ptime else x.t1, t2 := s.ptime } := by
  have hgo : ¬ (o.st ≠ .queued ∧ o.st ≠ .waiting) := by tauto
  simp [State.reachArray, ho, hk, hbad, hgo, hturn, hr, hw]

/-- Where no other operation has its identifier, the tile is that of its own flock. -/
theorem reachArray_of_filled_of_unique (hw : s.operandWait o = false) (hu : ∀ x ∈ s.ops, x.id = o.id → x = o) :
    s.reachArray o.id = s.updOp o.id fun x =>
      { x with st := .computing, out := s.mmaTile o.fid a, t1 := if x.st = .waiting then s.ptime else x.t1, t2 := s.ptime } := by
  rw [reachArray_of_filled ho hk hst hturn hr hbad hw]
  simp only [State.updOp]
  congr 1
  refine List.map_congr_left fun x hx => ite_congr rfl (fun hid => ?_) fun _ => rfl
  rw [hu x hx hid]
end

/-! ## Two operations of one identifier -/

/-- An or-and operation on single bits whose A and B read zeros: its C tile is C's bit as it stands. -/
def bitMma : MmaArg := ⟨.orAnd, 1, 1, false, false, 0xFDD, 64, 0, 0, [], [], none⟩
/-- Operation 1, queued by a group of a flock. -/
def bitOp (fid : Nat) : Op := Op.fresh 1 (some .tile) (.mma bitMma) { Group.absent 0 with fid } 0 Chan.reset.issue
/-- A flock whose C bit is set. -/
def bitFlock : Flock :=
  { fid := 1, ctx := 0, kid := 0, herd := 0, flk := 0, pcore := 0, pen := 0, both := false, scr := [(0, 1)], scrLen := 128, bst := [],
    bstLen := 1024, slots := [], seams := Vector.replicate 16 Seam.reset, gates := Vector.replicate 8 .idle, tags := [],
    chans := Vector.replicate 4 Chan.reset, wins := Vector.replicate 8 Window.reset, waiters := [] }
/-- Two operations of one identifier and of two flocks, of which flock 1 alone has its C bit set. -/
def twinOps : State := { State.reset with flocks := [bitFlock], ops := [bitOp 1, bitOp 2] }

theorem twinOps_tiles : twinOps.mmaTile 1 bitMma = [1] ∧ twinOps.mmaTile 2 bitMma = [0] := by decide +kernel

theorem twinOps_updOp_out (f : Op → Op) :
    (twinOps.updOp (bitOp 1).id f).ops.map Op.out = [(f (bitOp 1)).out, (f (bitOp 2)).out] := rfl

/-- Refutes O42: of two operations of one identifier the event gives each the tile of its own flock, where the statement gives both
the tile of the first one's. Where identifiers are unique, `reachArray_of_filled_of_unique` is that clause. -/
theorem not_tileWords : ¬ Obligations.TileWords := by
  intro h
  obtain ⟨-, hops⟩ := h
  obtain ⟨hmma, -⟩ := hops twinOps (bitOp 1) rfl
  obtain ⟨hreach, -⟩ := hmma bitMma rfl
  obtain ⟨-, hclaim⟩ := hreach (.inl rfl) rfl rfl rfl
  have hexec : exec (.mmaReachArray 1) twinOps = _ :=
    congrArg Outcome.next (reachArray_of_filled (s := twinOps) (o := bitOp 1) rfl rfl (.inl rfl) rfl rfl rfl rfl)
  have hnext := Outcome.next.inj (hexec.symm.trans (hclaim rfl))
  have hout := congrArg (fun u : State => u.ops.map Op.out) hnext
  simp only [twinOps_updOp_out] at hout
  obtain ⟨-, htile, -⟩ := List.cons_eq_cons.mp hout |>.imp_right List.cons_eq_cons.mp
  have hsame : twinOps.mmaTile 2 bitMma = twinOps.mmaTile 1 bitMma := htile
  rw [twinOps_tiles.1, twinOps_tiles.2] at hsame
  exact absurd hsame (by decide)

end Sys2Proof.Machine
end

section
/-! The words of the copy engines (R272 to R287): a command is checked and then queued, and a covering word takes the oldest fault
that it covers or acts by its own rules. -/
namespace Sys2Proof.Machine
open Host (Outcome)

/-! ## Commands that are checked and then queued (R272, R273) -/

section Command
variable {s : State} {iss : Issue} {t : Thread}

/-- What a lane does whose checks give their first failure, or none: it traps with the failure, or leaves `u`. -/
def State.checked (s : State) (bad : Option (Byte × W64)) (u : State) : StepRes :=
  match bad with
  | some (c, x) => .trap s c x 0 0
  | none => .ok u

theorem State.checked_fails {bad : Option (Byte × W64)} {c : Byte} {x : W64} (h : bad = some (c, x)) (u : State) :
    s.checked bad u = .trap s c x 0 0 := by rw [h]; rfl
theorem State.checked_passes {bad : Option (Byte × W64)} (h : bad = none) (u : State) : s.checked bad u = .ok u := by rw [h]; rfl

/-- The descriptor of a `cpy`: the plane strides in `b` count only where it has three dimensions (R278). -/
def cpyDesc (t : Thread) (a b : Fld) : CD :=
  let big := bitsOf (octNat t a) 89 88 = 2
  CD.ofNat (octNat t a) (if big then (rd t b).toInt else 0) (if big then (rd t (b + 1)).toInt else 0)

theorem laneCpy_untimed (a b c : Fld) :
    s.laneCpy iss t a b c false =
      s.checked (s.copyChecks (s.group iss.gid) (cpyDesc t a b) (octNat t a) 2 true false (s.barRegs (s.group iss.gid) t c))
        (s.issueOp (s.group iss.gid) { s.copyOp iss (s.group iss.gid) t.lane (cpyDesc t a b) (some .copy) (.copy (cpyDesc t a b))
          (s.barRegs (s.group iss.gid) t c) with at_ := none }) := by
  simp only [State.laneCpy, Bool.not_false, Bool.and_true, decide_eq_true_eq, Bool.false_eq_true, if_false]
  rfl

/-- A `cpy.at` takes no plane strides: the pair that would hold them is its start time (R280). -/
theorem laneCpy_timed (a b c : Fld) :
    let d := CD.ofNat (octNat t a) 0 0
    s.laneCpy iss t a b c true =
      s.checked (s.copyChecks (s.group iss.gid) d (octNat t a) 1 false false (s.barRegs (s.group iss.gid) t c))
        (s.issueOp (s.group iss.gid) { s.copyOp iss (s.group iss.gid) t.lane d (some .copy) (.copy d)
          (s.barRegs (s.group iss.gid) t c) with at_ := some (rd2 t b) }) := by
  simp only [State.laneCpy, Bool.not_true, Bool.and_false, Bool.false_eq_true, if_false, if_true]
  rfl

end Command

/-- Settles O39: each command's lane is its list of checks before the one operation that it queues. -/
theorem engineCommands : Obligations.EngineCommands := by
  intro s iss t hs cs a b r m g raw bar d big d3 sh dh bo w off fp tot first ix ih run put cpm pow gath coll
  have word {i : Instr} {f : Issue → State → Thread → StepRes} {bad : Option (Byte × W64)} {u : State}
      (hi : exec i s = .next (s.laneFold f)) (hf : f iss s t = s.checked bad u) : run i bad u :=
    ⟨fun c x hb => hi.trans (congrArg Outcome.next (laneFold_trap s iss t f s c x 0 0 hs (hf.trans (State.checked_fails hb u)))),
      fun hb => hi.trans (congrArg Outcome.next (laneFold_ok s iss t f u hs (hf.trans (State.checked_passes hb u))))⟩
  have joins {i : Instr} {op : CollOp} (hi : exec i s = collWord op a b r m s) : coll i op := word hi rfl
  exact ⟨word rfl (laneCpy_untimed a b r), word rfl (laneCpy_timed a b r), word rfl rfl, word rfl rfl, word rfl rfl, word rfl rfl,
    joins rfl, joins rfl, joins rfl, joins rfl, joins rfl, joins rfl, joins rfl, joins rfl, joins rfl, joins rfl, joins rfl, joins rfl,
    joins rfl⟩

/-! ## A covering word that meets a fault (R275, R277) -/

section Covering
variable {s : State} {iss : Issue} {t : Thread} (hs : s.Solo iss t)

/-- Restarting operations touches neither the open chain nor a thread. -/
theorem State.restartOps_issue_threads (s : State) (l : List Op) :
    (s.restartOps l).issue = s.issue ∧ (s.restartOps l).threads = s.threads :=
  List.foldlRecOn (motive := fun u : State => u.issue = s.issue ∧ u.threads = s.threads) _ _ ⟨rfl, rfl⟩ fun _ hu _ _ => hu

/-- The lane of the open chain takes an operation's fault, which is then delivered (R276). -/
def State.takeFault (s : State) (lane : Nat) (o : Op) : State :=
  let v := s.trapOp lane o
  match v.op? o.id with
  | some x => (v.markDelivered x).settleOp x
  | none => v

include hs

theorem State.Solo.restartOps (l : List Op) : (s.restartOps l).Solo iss t := by
  obtain ⟨hi, ht⟩ := s.restartOps_issue_threads l
  exact ⟨hi.trans hs.isOpen, hs.only, by simpa only [State.thread?, ht] using hs.here,
    by simpa only [State.issuing, ht] using hs.sole⟩

/-- A covering word whose lane covers an undelivered fault does nothing of its own: the delivered operations that it covers run
again, and the lane takes the oldest fault. -/
theorem coverWord_of_fault {cov : State → Thread → List Op} {o : Op} (ho : oldest ((cov s t).filter Op.pending) = some o)
    (f : Issue → State → Thread → StepRes) :
    coverWord s cov f = .next ((s.restartOps (cov s t)).takeFault t.lane o) := by
  simp only [coverWord, hs.isOpen, hs.sole, ho, laneFold_after (hs.restartOps _), List.filterMap_cons, List.filterMap_nil, Option.map_some,
    List.flatMap_cons, List.flatMap_nil, List.append_nil, List.lookup_cons_self, List.map_cons, List.map_nil,
    List.dedup_cons_of_notMem List.not_mem_nil, List.dedup_nil, List.foldl_cons, List.foldl_nil]
  rfl

/-- A covering word that covers nothing and succeeds by its own rules. -/
theorem coverWord_ok {cov : State → Thread → List Op} (hc : cov s t = []) {f : Issue → State → Thread → StepRes} {u : State}
    (hf : f iss s t = .ok u) : coverWord s cov f = .next u :=
  (coverWord_of_uncovered hs hc f).trans (congrArg (fun q => Outcome.next (StepRes.after t.lane q)) hf)

end Covering

/-! ## `waitc` and `chain` of a lane that covers no fault (R275, R286) -/

section Uncovered
variable {s : State} {iss : Issue} {t : Thread}

section Waitc
variable {c : Cls} {n : Nat} (htile : c = Cls.tile → t.tileErr = [])
include htile

theorem laneWaitc_of_reached (hn : (s.group iss.gid).counter c ≤ n) :
    s.laneWaitc iss t c n = .ok (s.acquireCore (s.group iss.gid).pcore) := by
  simp only [State.laneWaitc, ite_eq_right_iff.mpr htile, if_pos hn]
theorem laneWaitc_of_above (hn : n < (s.group iss.gid).counter c) :
    s.laneWaitc iss t c n = .ok (s.updT t.gid t.lane fun y => y.block (.waitc c n) iss []) := by
  simp only [State.laneWaitc, ite_eq_right_iff.mpr htile, if_neg (Nat.not_le.mpr hn)]
end Waitc

variable {a b : Fld} {k : Chan}

theorem coverChain_of_no_channel (h : 3 < (rd t b).toNat) : s.coverChain t b = [] := by
  simp only [State.coverChain, decide_eq_false (Nat.not_le.mpr h), Bool.false_and, Bool.false_eq_true, if_false]
theorem coverChain_of_not_stopped (h : (s.chan (s.group t.gid).fid (rd t b).toNat).st ≠ .stopped) : s.coverChain t b = [] := by
  simp only [State.coverChain, decide_eq_false h, Bool.and_false, Bool.false_eq_true, if_false]

theorem laneChain_of_no_channel (h : 3 < (rd t b).toNat) : s.laneChain iss t a b = .trap s 0x28 6 0 0 := if_pos h

variable (hch : ¬ 3 < (rd t b).toNat) (hk : s.chan (s.group iss.gid).fid (rd t b).toNat = k)
include hch hk

theorem laneChain_of_idle (hst : k.st = .idle)
    (hrec : s.chkRecord (s.group iss.gid) (s.fatPtr (s.group iss.gid) t a) (rd t a).toNat = none) :
    s.laneChain iss t a b = .ok (s.setChan (s.group iss.gid).fid (rd t b).toNat
      ⟨.walking, s.fatPtr (s.group iss.gid) t a, (rd t a).toNat, none, (s.group iss.gid).gid, t.lane, false, iss.word, iss.pkt, iss.slot,
        s.underWay (s.group iss.gid).gid (laneBit t.lane)⟩) := by
  simp only [State.laneChain, if_neg hch, hk, hst, hrec]
theorem laneChain_of_waiting (hst : k.st = .waiting) :
    s.laneChain iss t a b = .ok (s.setChan (s.group iss.gid).fid (rd t b).toNat
      { k with st := .walking, after := s.underWay (s.group iss.gid).gid (laneBit t.lane) }) := by
  simp only [State.laneChain, if_neg hch, hk, hst]
/-- A walking channel goes on, it and its operations behind the thread's accesses too (R221). -/
theorem laneChain_of_walking (hst : k.st = .walking) :
    let more := s.underWay (s.group iss.gid).gid (laneBit t.lane)
    s.laneChain iss t a b = .ok ({ s with ops := s.ops.map fun (o : Op) =>
        if o.fid = (s.group iss.gid).fid ∧ o.chan? = some (rd t b).toNat then { o with after := o.after ++ more } else o }.setChan
      (s.group iss.gid).fid (rd t b).toNat { k with after := k.after ++ more }) := by
  simp only [State.laneChain, if_neg hch, hk, hst, Bool.and_eq_true, decide_eq_true_eq]

end Uncovered

/-- Settles O40: a fault that the word covers decides it, and without one the lane's own rule for its counter or its channel does. -/
theorem coveringWords : Obligations.CoveringWords := by
  intro s iss t hs cs a b r n l g c covW takes ch k h off
  have fid_eq : (s.group t.gid).fid = g.fid := by rw [hs.gid_eq]
  have faulted {i : Instr} {cov : State → Thread → List Op} {f : Issue → State → Thread → StepRes}
      (hi : exec i s = coverWord s cov f) : takes i (cov s t) := fun o ho => hi.trans (coverWord_of_fault hs ho f)
  have chained : exec (.chain cs a b) s = coverWord s (fun s t => s.coverChain t b) fun iss s t => s.laneChain iss t a b := rfl
  have waited : exec (.waitc cs n l) s = coverWord s
    (fun s t => if c = Cls.tile && t.tileErr ≠ [] then [] else s.coveredBy (s.group t.gid) c n.toNat)
    fun iss s t => s.laneWaitc iss t c n.toNat := rfl
  refine ⟨faulted (cov := fun s t => s.coverBarLane t b r) rfl, faulted (cov := fun s t => s.coverBarLane t b r) rfl, faulted waited,
    faulted chained, fun hcov htile => ⟨fun hn => ?_, fun hn => ?_⟩, fun hhigh => ?_, fun hlow => ?_⟩
  · exact waited.trans (coverWord_ok hs hcov (laneWaitc_of_reached htile hn))
  · exact waited.trans (coverWord_ok hs hcov (hs.gid_eq ▸ laneWaitc_of_above htile hn))
  · refine chained.trans ((coverWord_of_uncovered hs (coverChain_of_no_channel hhigh) _).trans ?_)
    rw [laneChain_of_no_channel hhigh]
    rfl
  · have hch : ¬ 3 < (rd t b).toNat := Nat.not_lt.mpr hlow
    have acts {u : State} (hst : k.st ≠ .stopped) (hf : s.laneChain iss t a b = .ok u) : exec (.chain cs a b) s = .next u :=
      chained.trans (coverWord_ok hs (coverChain_of_not_stopped (fid_eq ▸ hst)) hf)
    exact ⟨fun hst => acts (by simp [hst]) (laneChain_of_waiting hch rfl hst),
      fun hst => acts (by simp [hst]) (laneChain_of_walking hch rfl hst),
      fun hst hrec => acts (by simp [hst]) (laneChain_of_idle hch rfl hst hrec)⟩

end Sys2Proof.Machine
end

section
/-! The WORK words (R319, R321, R322, R324): what one lane's `lnch`, `qput` and `cont` do in each case of their checks. -/
namespace Sys2Proof.Machine
open Host (Outcome)

section
variable {s : State} {iss : Issue} {t : Thread} {a b r : Fld} {va : Nat}

/-! ## `lnch` (R322) -/

theorem laneLnch_of_bad {e : Byte × W64} (hrec : s.recordAt (s.actGroup iss t) t b = .error e) :
    s.laneLnch iss t a b = .trap s e.1 e.2 0 0 := by
  simp only [State.laneLnch, hrec]
theorem laneLnch_of_full (hrec : s.recordAt (s.actGroup iss t) t b = .ok va) (hn : 256 ≤ s.kernelCount (s.actGroup iss t).ctx) :
    s.laneLnch iss t a b =
      .ok { (s.updT t.gid t.lane fun y => y.block (.lnch a va) iss [.g a]) with lnchq := s.lnchq ++ [(t.gid, t.lane)] } := by
  simp only [State.laneLnch, hrec, if_pos hn]
theorem laneLnch_of_room (hrec : s.recordAt (s.actGroup iss t) t b = .ok va) (hn : s.kernelCount (s.actGroup iss t).ctx < 256) :
    s.laneLnch iss t a b =
      .ok ((s.launch (s.actGroup iss t).ctx va).2.give t a (s.launch (s.actGroup iss t).ctx va).1) := by
  simp only [State.laneLnch, hrec, if_neg (Nat.not_le.mpr hn)]

/-! ## `qput` (R322, R324) -/

theorem laneQput_of_bad {e : Byte × W64} (hrec : s.recordAt (s.actGroup iss t) t r = .error e) :
    s.laneQput iss t a b r = .trap s e.1 e.2 0 0 := by
  simp only [State.laneQput, hrec]
theorem laneQput_of_no_queue (hrec : s.recordAt (s.actGroup iss t) t r = .ok va) (hq : 63 < (rd t b).toNat) :
    s.laneQput iss t a b r = .ok (s.give t a 2) := by
  simp only [State.laneQput, hrec, if_pos hq]
theorem laneQput_of_queue {c : Context} (hrec : s.recordAt (s.actGroup iss t) t r = .ok va)
    (hc : s.ctx? (s.actGroup iss t).ctx = some c) (hq : (rd t b).toNat ≤ 63) :
    s.laneQput iss t a b r =
      .ok ((s.append c (rd t b).toNat va).2.give t a (BitVec.ofNat 32 (s.append c (rd t b).toNat va).1)) := by
  simp only [State.laneQput, hrec, if_neg (Nat.not_lt.mpr hq), hc]

/-! ## `cont` (R319) -/

/-- The payload of a continuation record: the 14 registers from `b` on. -/
def contPayload (t : Thread) (b : Fld) : List W32 := (List.range 14).map fun i => rd t (b + BitVec.ofNat 6 i)

variable {k : Kernel} (hk : s.kernel? (s.group iss.gid).ctx (s.group iss.gid).kid = some k)
include hk

theorem laneCont_of_no_entry (he : k.r.ncont ≤ (rd t a).toNat) :
    s.laneCont iss t a b = .trap s 0x13 ((rd t a).setWidth 64) 0 0 := by
  simp only [State.laneCont, hk, if_pos he]
/-- A ring place that is free is not taken past a thread that already waits for one. -/
theorem laneCont_of_waits (he : (rd t a).toNat < k.r.ncont) (hfull : k.ringSize ≤ k.ring.length ∨ k.waiters ≠ []) :
    s.laneCont iss t a b =
      .ok ((s.updT t.gid t.lane fun y => y.block (.cont (rd t a) (contPayload t b)) iss []).updKernel
        (s.group iss.gid).ctx (s.group iss.gid).kid fun y => { y with waiters := y.waiters ++ [(t.gid, t.lane)] }) := by
  simp only [State.laneCont, hk, if_neg (Nat.not_le.mpr he), if_pos hfull, contPayload]
theorem laneCont_of_room (he : (rd t a).toNat < k.r.ncont) (hroom : k.ring.length < k.ringSize) (hw : k.waiters = []) :
    s.laneCont iss t a b = .ok (s.contPush k t.gid t.lane (rd t a) (contPayload t b)) := by
  have hgo : ¬ (k.ringSize ≤ k.ring.length ∨ k.waiters ≠ []) := by simp [hroom, hw]
  simp only [State.laneCont, hk, if_neg (Nat.not_le.mpr he), if_neg hgo, contPayload]

end

/-- Settles O44: each word is one lane's work, which has a lemma for each case of its checks. -/
theorem workWords : Obligations.WorkWords := by
  intro s iss t hs cs a b r g x
  have made {i : Instr} {f : Issue → State → Thread → StepRes} {q : StepRes} (hi : exec i s = .next (s.laneFold f))
      (hf : f iss s t = q) : exec i s = .next (q.after t.lane) :=
    hi.trans (congrArg Outcome.next ((laneFold_after hs f).trans (by rw [hf])))
  have lnch {q : StepRes} (hq : s.laneLnch iss t a b = q) : exec (.lnch cs a b) s = .next (q.after t.lane) := made rfl hq
  have qput {q : StepRes} (hq : s.laneQput iss t a b r = q) : exec (.qput cs a b r) s = .next (q.after t.lane) := made rfl hq
  have cont {q : StepRes} (hq : s.laneCont iss t a b = q) : exec (.cont cs a b) s = .next (q.after t.lane) := made rfl hq
  exact ⟨fun e hrec => lnch (laneLnch_of_bad hrec),
    fun va hrec => ⟨fun hn => lnch (laneLnch_of_full hrec hn), fun hn => lnch (laneLnch_of_room hrec hn)⟩,
    fun e hrec => qput (laneQput_of_bad hrec),
    fun va c hrec hc => ⟨fun hq => qput (laneQput_of_no_queue hrec hq), fun hq => qput (laneQput_of_queue hrec hc hq)⟩,
    fun k hk => ⟨fun he => cont (laneCont_of_no_entry hk he), fun he hroom hw => cont (laneCont_of_room hk he hroom hw),
      fun he hfull => cont (laneCont_of_waits hk he hfull)⟩⟩

end Sys2Proof.Machine
end

section
/-! What a cold reset leaves (R143, R329, R365, R375, R400, R405, R407): the values that the registers' tables give. -/
namespace Sys2Proof.Machine

theorem State.reset_canonical : State.reset.Canonical := ⟨rfl, rfl⟩

theorem State.reset_port {n : Nat} (h : n < 24) : State.reset.port n = Port.reset := by
  simp [State.port, Fabric.port, State.reset, h]

/-- A register file after reset holds zeros, and its predicates are false apart from p7 (R43, R143). -/
theorem Regs.reset_get : (∀ r, Regs.reset.g.get r = 0) ∧ ∀ r, Regs.reset.p.get r = decide (r = 7) := by
  refine ⟨fun r => ?_, by decide⟩
  simp [Regs.reset, Vector.get]

/-- Settles O57: each value stands in the reset state, in the reset port or in the fresh thread. -/
theorem resetValues : Obligations.ResetValues := by
  refine ⟨rfl, State.reset_canonical, rfl, rfl, rfl, rfl, rfl, rfl, rfl, fun n hn => ?_, ⟨rfl, rfl, rfl, rfl⟩, ⟨rfl, rfl, rfl⟩,
    ⟨rfl, rfl, rfl, rfl, rfl⟩, fun gid lane pkt => ⟨rfl, rfl, rfl, Regs.reset_get⟩⟩
  rw [State.reset_port hn]
  exact ⟨rfl, rfl, rfl, rfl⟩

end Sys2Proof.Machine
end

section
/-! `sigret` of a lone thread (R352, R355): where the frame cannot be used, where its signal number is bad, and the return to the
frame's restart point. -/
namespace Sys2Proof.Machine
open Host (Outcome)

section
variable {s : State} {iss : Issue} {t : Thread} {c : Context} (hc : s.ctx? (s.group iss.gid).ctx = some c)
include hc

theorem laneSigret_of_no_frame (hd : t.depth = 0) :
    s.laneSigret iss t = .trap s 0x01 ((rd t c.sigsp).setWidth 64) 0 0 := by
  simp only [State.laneSigret, hc, if_pos hd, BitVec.ofNat_toNat]

variable (hd : t.depth ≠ 0)
  (hspace : s.usable (s.group iss.gid) (rdH t c.sigh) = true → frameSpace (rdH t c.sigh) = true)
  {ps : List Place} {u : State}
  (hps : s.framePlaces (s.group iss.gid) (rdH t c.sigh) (rd t c.sigsp).toNat 0 .read = (.ok ps, u))
include hd hspace hps

/-- The signal number of a frame stands at 0x22C (R352). -/
theorem laneSigret_of_bad_signal (hsig : natOf (((u.frameRead ps).drop 0x22C).take 4) = 0 ∨ 63 < natOf (((u.frameRead ps).drop 0x22C).take 4)) :
    s.laneSigret iss t = .trap u 0x01 ((rd t c.sigsp).setWidth 64) 0 0 := by
  have hgo : ¬ (s.usable (s.group iss.gid) (rdH t c.sigh) && !frameSpace (rdH t c.sigh)) = true := by simpa using hspace
  simp only [State.laneSigret, hc, if_neg hd, if_neg hgo, hps, if_pos hsig, BitVec.ofNat_toNat]

theorem laneSigret_of_good_signal (hlo : 1 ≤ natOf (((u.frameRead ps).drop 0x22C).take 4))
    (hhi : natOf (((u.frameRead ps).drop 0x22C).take 4) ≤ 63) :
    let bs := u.frameRead ps
    let w := fun (o k : Nat) => natOf ((bs.drop o).take k)
    let r := TrapRec.ofImage (w 0x200 32)
    s.laneSigret iss t = .ok ((u.updT t.gid t.lane fun x =>
      { x with regs := u.frameRegs (s.group iss.gid).ctx (s.group iss.gid).regsN x.regs bs, trr := r, depth := x.depth - 1, pend := [],
               outst := [], fpctl := BitVec.ofNat 32 (w 0x224 4) &&& 0x1F07,
               fpstat := BitVec.ofNat 32 (w 0x228 4) &&& 0x1F }).addXfer t.lane r.pkt r.slot) := by
  have hgo : ¬ (s.usable (s.group iss.gid) (rdH t c.sigh) && !frameSpace (rdH t c.sigh)) = true := by simpa using hspace
  have hsig : ¬ (natOf (((u.frameRead ps).drop 0x22C).take 4) = 0 ∨ 63 < natOf (((u.frameRead ps).drop 0x22C).take 4)) := by omega
  simp only [State.laneSigret, hc, if_neg hd, if_neg hgo, hps, if_neg hsig]
end

/-- Settles O20: the three lemmas about the lane, for the one lane that issues. -/
theorem signalReturn : Obligations.SignalReturn := by
  intro s iss t hs cs c hc g sp h
  have sigret {q : StepRes} (hq : s.laneSigret iss t = q) : exec (.sigret cs) s = .next (q.after t.lane) :=
    congrArg Outcome.next ((laneFold_after hs _).trans (congrArg (StepRes.after t.lane) hq))
  exact ⟨fun hd => sigret (laneSigret_of_no_frame hc hd), fun hd hspace ps u hps =>
    ⟨fun hsig => sigret (laneSigret_of_bad_signal hc hd hspace hps hsig),
      fun hlo hhi => sigret (laneSigret_of_good_signal hc hd hspace hps hlo hhi)⟩⟩

end Sys2Proof.Machine
end

section
/-! The debug words of a lone privileged thread (R395, R397, R402, R403): `step`, `snap` and `ckpt`, case by case of their status. -/
namespace Sys2Proof.Machine
open Host (Outcome)

/-! ## Entries of the replay queue (R150, R362, R402) -/

section
variable {s : State} {core i : Nat}

/-- The index of an entry is at most 63. -/
theorem replayEntry_of_absent (h : 63 < i ∨ s.entryAt core i = none) : (if 63 < i then none else s.entryAt core i) = none := by
  simpa only [ite_eq_left_iff, Nat.not_lt, ← Nat.not_lt, ← or_iff_not_imp_left] using h
theorem replayEntry_of_present {e : SubGroup} (hi : i ≤ 63) (he : s.entryAt core i = some e) :
    (if 63 < i then none else s.entryAt core i) = some e := (if_neg (Nat.not_lt.mpr hi)).trans he
end

/-! ## `step` and `snap` (R402, R403) -/

section
variable {s : State} {core : Nat} {t : Thread} {a b : Fld}

theorem laneStep_of_absent (h : 63 < (rd t b).toNat ∨ s.entryAt core (rd t b).toNat = none) :
    s.laneStep core t a b = .ok (s.give t a 1) := by
  simp only [State.laneStep, replayEntry_of_absent h]

section
variable {e : SubGroup} (hi : (rd t b).toNat ≤ 63) (he : s.entryAt core (rd t b).toNat = some e)
include hi he

theorem laneStep_of_other_cause (h3 : e.cause ≠ 3) (h4 : e.cause ≠ 4) : s.laneStep core t a b = .ok (s.give t a 2) := by
  simp only [State.laneStep, replayEntry_of_present hi he, h3, h4, or_self, if_false]
theorem laneStep_of_debug_cause (h : e.cause = 3 ∨ e.cause = 4) :
    s.laneStep core t a b = .ok (((s.updGroup e.gid fun g => { g with step := true }).releaseSub e.id).give t a 0) := by
  simp only [State.laneStep, replayEntry_of_present hi he, if_pos h]
end

theorem laneSnap_of_full (h : s.trig.full = true) : s.laneSnap t a b = .ok ((s.trigger 69).give t a 1) := if_pos h
theorem laneSnap_of_now (h : s.trig.full = false) (hb : rd2 t b = 0) : s.laneSnap t a b = .ok ((s.trigger 69).give t a 0) := by
  simp [State.laneSnap, h, hb]
theorem laneSnap_of_time (h : s.trig.full = false) (hb : rd2 t b ≠ 0) :
    s.laneSnap t a b = .ok ({ s with trig := { s.trig with time := rd2 t b, arm := true, fired := false } }.give t a 0) := by
  simp only [State.laneSnap, h, Bool.false_eq_true, if_false, if_neg hb]
end

/-! ## `ckpt` (R395, R397, R403) -/

/-- The words of the block that a `ckpt` names: the context, then a checkpoint's sequence and a group's count. -/
abbrev ckptWord (t : Thread) (r : Fld) (i : Nat) : W32 := rd t (r + BitVec.ofNat 6 i)
/-- The re-execution that the block of a `ckpt` asks for. -/
def ckptReplay (t : Thread) (a r : Fld) : Replay :=
  ⟨(ckptWord t r 0).toNat, ckptWord t r 1, (ckptWord t r 2).toNat, (ckptWord t r 3).toNat, ((ckptWord t r 4).extractLsb' 8 3).toNat,
    ((ckptWord t r 4).extractLsb' 0 5).toNat, ckptWord t r 6 ++ ckptWord t r 5, [], t.gid, t.lane, a, false, false⟩
/-- Whether a live thread of the group that a re-execution names was past its point when a checkpoint was taken. -/
def Replay.passedBy (y : Replay) (k : Ckpt) : Bool :=
  k.groups.any fun p => y.names p && k.threads.any fun x => x.gid = p.gid && x.st ≠ .exited && decide (y.count.toNat < x.rwc.toNat)

theorem Replay.passedBy_iff (y : Replay) (k : Ckpt) : y.passedBy k = true ↔
    ∃ p ∈ k.groups, y.names p = true ∧ ∃ x ∈ k.threads, x.gid = p.gid ∧ x.st ≠ .exited ∧ y.count.toNat < x.rwc.toNat := by
  simp only [Replay.passedBy, List.any_eq_true, Bool.and_eq_true, decide_eq_true_eq, and_assoc]

/-- A context whose herds do not run: STOPPED, or on its way there from a re-execution that was given up (R397). -/
theorem not_running_of_halted {u : State} {n : Nat} {c : Context} (h : c.st = .stopped ∨ (c.st = .stopping ∧ (u.recCtl n).redo = true)) :
    (c.st ≠ .stopped && !(c.st = .stopping && (u.recCtl n).redo)) = false := by
  rcases h with h | ⟨h, hredo⟩
  · simp [h]
  · simp [h, hredo]

section
variable {s : State} {iss : Issue} {t : Thread} {a b r : Fld} {u : State} {n : Nat} (hn : n = (ckptWord t r 0).toNat) (hu : u = s.refreshCtx n)
include hn hu

theorem laneCkpt_of_not_alive (h : ∀ c, u.ctx? n = some c → c.alive = false) : s.laneCkpt iss t a b r = .ok (u.give t a 1) := by
  subst hn hu
  cases hc : (s.refreshCtx (ckptWord t r 0).toNat).ctx? (ckptWord t r 0).toNat with
  | none => simp only [State.laneCkpt, hc]
  | some c => simp only [State.laneCkpt, hc, h c hc, Bool.not_false, if_true]

variable {c : Context} (hc : u.ctx? n = some c) (ha : c.alive = true)
include hc ha

theorem laneCkpt_of_not_recording (h : c.rec_ = false ∨ u.recording n = false) : s.laneCkpt iss t a b r = .ok (u.give t a 2) := by
  subst hn hu
  have hoff : (!c.rec_ || !(s.refreshCtx (ckptWord t r 0).toNat).recording (ckptWord t r 0).toNat) = true := by simpa using h
  simp only [State.laneCkpt, hc, ha, hoff, Bool.not_true, Bool.false_eq_true, if_false, if_true]

variable (hrec : c.rec_ = true) (hon : u.recording n = true)
include hrec hon

theorem laneCkpt_of_no_operation (h : 1 < (rd t b).toNat) : s.laneCkpt iss t a b r = .ok (u.give t a 4) := by
  subst hn hu
  simp only [State.laneCkpt, hc, ha, hrec, hon, Bool.not_true, Bool.or_self, Bool.false_eq_true, if_false, if_pos h]
/-- Operation 0 takes a checkpoint, for which the thread waits. -/
theorem laneCkpt_of_take (h : (rd t b).toNat = 0) : s.laneCkpt iss t a b r =
    .ok ((u.updCtx n fun c => { c with ck := true }).updT t.gid t.lane fun y => y.block (.ckpt a n) iss [.g a]) := by
  subst hn hu
  have hzero : rd t b = 0 := BitVec.eq_of_toNat_eq h
  simp only [State.laneCkpt, hc, ha, hrec, hon, Bool.not_true, Bool.or_self, Bool.false_eq_true, if_false, hzero, if_true]
  rfl

variable (hop : (rd t b).toNat = 1)
include hop

theorem laneCkpt_of_running (h : ¬(c.st = .stopped ∨ (c.st = .stopping ∧ (u.recCtl n).redo = true))) :
    s.laneCkpt iss t a b r = .ok (u.give t a 5) := by
  subst hn hu
  have hone : rd t b = 1 := BitVec.eq_of_toNat_eq hop
  have hgo : (c.st ≠ .stopped && !(c.st = .stopping && ((s.refreshCtx (ckptWord t r 0).toNat).recCtl (ckptWord t r 0).toNat).redo)) = true := by
    simpa [Decidable.imp_iff_not_or] using h
  simp only [State.laneCkpt, hc, ha, hrec, hon, Bool.not_true, Bool.or_self, Bool.false_eq_true, if_false, hone, if_pos hgo]
  rfl

variable (hhalt : c.st = .stopped ∨ (c.st = .stopping ∧ (u.recCtl n).redo = true))
include hhalt

theorem laneCkpt_of_no_checkpoint (h : (u.ckpts.find? fun k => k.ctx = n && k.seq = ckptWord t r 1) = none) :
    s.laneCkpt iss t a b r = .ok (u.give t a 3) := by
  subst hn hu
  have hgo := not_running_of_halted hhalt
  have hone : ¬ 1 < (rd t b).toNat ∧ rd t b ≠ 0 := ⟨by omega, fun h => by simp [h] at hop⟩
  simp only [State.laneCkpt, hc, ha, hrec, hon, hgo, h, Bool.not_true, Bool.or_self, Bool.false_eq_true, if_false, hone]

variable {k : Ckpt} (hk : (u.ckpts.find? fun k => k.ctx = n && k.seq = ckptWord t r 1) = some k)
include hk

theorem laneCkpt_of_passed (h : (ckptReplay t a r).passedBy k = true) : s.laneCkpt iss t a b r = .ok (u.give t a 5) := by
  subst hn hu
  have hgo := not_running_of_halted hhalt
  have hone : ¬ 1 < (rd t b).toNat ∧ rd t b ≠ 0 := ⟨by omega, fun h => by simp [h] at hop⟩
  simp only [State.laneCkpt, hc, ha, hrec, hon, hgo, hk, Bool.not_true, Bool.or_self, Bool.false_eq_true, if_false, hone]
  exact if_pos h
theorem laneCkpt_of_replay (h : (ckptReplay t a r).passedBy k = false) : s.laneCkpt iss t a b r =
    .ok ({ u with replays := (u.replays.filter fun (y : Replay) => y.ctx ≠ n) ++ [ckptReplay t a r] }.updT t.gid t.lane
      fun y => y.block (.ckpt a n) iss [.g a]) := by
  subst hn hu
  have hgo := not_running_of_halted hhalt
  have hone : ¬ 1 < (rd t b).toNat ∧ rd t b ≠ 0 := ⟨by omega, fun h => by simp [h] at hop⟩
  simp only [State.laneCkpt, hc, ha, hrec, hon, hgo, hk, Bool.not_true, Bool.or_self, Bool.false_eq_true, if_false, hone]
  exact if_neg (Bool.eq_false_iff.mp h)
end

/-- Settles O53: each word is one lane's work in a privileged group, which has a lemma for each status. -/
theorem debugWords : Obligations.DebugWords := by
  refine ⟨fun s w => rfl, ?_⟩
  intro s iss t hs hp cs a b r g tells x w n u answers
  have made {i : Instr} {f : Issue → State → Thread → StepRes} {q : StepRes}
      (hi : exec i s = priv s fun s => .next (s.laneFold f)) (hf : f iss s t = q) : exec i s = .next (q.after t.lane) :=
    hi.trans ((priv_laneFold_of_solo hs hp f).trans (by rw [hf]))
  have step {q : StepRes} (hq : s.laneStep g.pcore t a b = q) : exec (.step cs a b) s = .next (q.after t.lane) := made rfl hq
  have snap {q : StepRes} (hq : s.laneSnap t a b = q) : exec (.snap cs a b) s = .next (q.after t.lane) := made rfl hq
  have ckpt {q : StepRes} (hq : s.laneCkpt iss t a b r = q) : exec (.ckpt cs a b r) s = .next (q.after t.lane) := made rfl hq
  refine ⟨fun h => step (laneStep_of_absent h),
    fun e hi he => ⟨fun h3 h4 => step (laneStep_of_other_cause hi he h3 h4), fun h => step (laneStep_of_debug_cause hi he h)⟩,
    fun hfull => ⟨snap (laneSnap_of_full hfull), ?missed⟩,
    fun hfull hb => ⟨snap (laneSnap_of_now hfull hb), trigger_of_not_full 69 hfull⟩,
    fun hfull hb => snap (laneSnap_of_time hfull hb),
    fun h => ckpt (laneCkpt_of_not_alive rfl rfl h),
    fun c hc ha => ⟨fun h => ckpt (laneCkpt_of_not_recording rfl rfl hc ha h), fun hrec hon =>
      ⟨fun h => ckpt (laneCkpt_of_no_operation rfl rfl hc ha hrec hon h), fun h => ckpt (laneCkpt_of_take rfl rfl hc ha hrec hon h),
        fun hop h => ckpt (laneCkpt_of_running rfl rfl hc ha hrec hon hop h), fun hop hhalt =>
          ⟨fun hnone => ckpt (laneCkpt_of_no_checkpoint rfl rfl hc ha hrec hon hop hhalt ?absent),
            fun k hk => ⟨fun h => ckpt (laneCkpt_of_passed rfl rfl hc ha hrec hon hop hhalt hk ?passed),
              fun h => ckpt (laneCkpt_of_replay rfl rfl hc ha hrec hon hop hhalt hk ?open_)⟩⟩⟩⟩⟩
  case missed => rw [trigger_of_full 69 hfull]; exact ⟨rfl, rfl⟩
  case absent => exact List.find?_eq_none.mpr fun k hk => by simpa using hnone k hk
  case passed => exact (Replay.passedBy_iff _ k).mpr h
  case open_ => exact Bool.eq_false_iff.mpr fun hp => h ((Replay.passedBy_iff _ k).mp hp)

end Sys2Proof.Machine
end

section
/-! The words of system software of a lone privileged thread (R354, R360, R362): `repl`, `sigdl`, `penx`, `swp`, `kill` and `kterm`, case by
case of their status. -/
namespace Sys2Proof.Machine
open Host (Outcome)

/-! ## `repl` and `penx` (R362) -/

section
variable {s : State} {core : Nat}

theorem repl_of_absent {i : Nat} (h : 63 < i ∨ s.entryAt core i = none) : s.repl core i = (1, s) := by
  simp only [State.repl, replayEntry_of_absent h]

section
variable {i : Nat} {e : SubGroup} (hi : i ≤ 63) (he : s.entryAt core i = some e)
include hi he

theorem repl_of_page_fault (h : e.cause = 0x10) : s.repl core i = (2, s) := by
  simp only [State.repl, replayEntry_of_present hi he, if_pos h]
theorem repl_of_other_cause (h10 : e.cause ≠ 0x10) (h5 : e.cause ≠ 5) : s.repl core i = (0, s.releaseSub e.id) := by
  simp only [State.repl, replayEntry_of_present hi he, if_neg h10, if_neg h5]
theorem repl_of_call (h5 : e.cause = 5) : s.repl core i = (0, (s.releaseSub e.id).acquireCore core) := by
  have h10 : ¬ e.cause = 0x10 := by rw [h5]; decide
  simp only [State.repl, replayEntry_of_present hi he, if_neg h10, if_pos h5]
end

variable {p : Nat}

theorem penx_of_no_pen (h : 1 < p) : s.penx core p = (3, s) := if_pos h
theorem penx_of_active (hp : p ≤ 1) (h : (s.pen core p).st = .active) : s.penx core p = (0, s) := by
  simp only [State.penx, if_neg (Nat.not_lt.mpr hp), if_pos h]
theorem penx_of_other (hp : p ≤ 1) (ha : (s.pen core p).st ≠ .active) (hs : (s.pen core p).st ≠ .shadow) : s.penx core p = (1, s) := by
  simp only [State.penx, if_neg (Nat.not_lt.mpr hp), if_neg ha, if_pos hs]

/-- A SHADOW pen is switched in unless the ACTIVE one keeps its place. -/
theorem penx_of_shadow (hp : p ≤ 1) (h : (s.pen core p).st = .shadow) : s.penx core p =
    if (s.pen core (1 - p)).st = .active ∧ s.penHeld core (1 - p) = true then (2, s) else (0, s.switchPen core p) := by
  simp [State.penx, Nat.not_lt.mpr hp, h]
end

/-! ## `sigdl` (R354) -/

section
variable {s : State} {iss : Issue} {t : Thread} {a b r : Fld}

theorem laneSigdl_of_bad_number (h : rd t b = 0 ∨ 63 < (rd t b).toNat) : s.laneSigdl iss t a b r = .ok (s.give t a 4) := by
  have hbad : (rd t b).toNat = 0 ∨ 63 < (rd t b).toNat := h.imp_left fun h => by simp [h]
  simp only [State.laneSigdl, if_pos hbad]

section
variable (hlo : 1 ≤ (rd t b).toNat) (hhi : (rd t b).toNat ≤ 63)
include hlo hhi

theorem laneSigdl_of_no_target (h : s.target (s.group iss.gid) t = none ∨ ∃ y, s.target (s.group iss.gid) t = some y ∧ y.st = .exited) :
    s.laneSigdl iss t a b r = .ok (s.give t a 1) := by
  have hgood : ¬ ((rd t b).toNat = 0 ∨ 63 < (rd t b).toNat) := by omega
  rcases h with h | ⟨y, h, hy⟩
  · simp only [State.laneSigdl, if_neg hgood, h]
  · simp only [State.laneSigdl, if_neg hgood, h, if_pos hy]
theorem laneSigdl_of_live_target {y : Thread} (h : s.target (s.group iss.gid) t = some y) (hy : y.st ≠ .exited) :
    let u := (s.fireWait y).takeOwn y.gid y.lane
    let z := (u.thread? y.gid y.lane).getD y
    let d := (u.leaveChain z.gid (if z.st = .parked then 0 else laneBit z.lane)).deliverSignal z (rd t b).toNat (rd2 t r)
    s.laneSigdl iss t a b r = .ok (d.2.give t a d.1) := by
  have hgood : ¬ ((rd t b).toNat = 0 ∨ 63 < (rd t b).toNat) := by omega
  simp only [State.laneSigdl, if_neg hgood, h, if_neg hy]
end
end

/-! ## `swp` (R362) -/

/-- The herds that a swap takes out: of a context those in pens, or the one that operation 0 names. -/
def State.swapHerds (s : State) (op x k h : Nat) : List Herd :=
  s.herds.filter fun y => y.ctx = x && y.st.inPens && (op ≠ 0 || (y.kid = k && y.herd = h))
/-- Whether a swap would take out a herd that stays: one of a live D0 kernel, or of a system pen. -/
def State.swapsFixed (s : State) (op x k h : Nat) : Bool :=
  (s.kernels.any fun y => y.ctx = x && y.r.dclass = 0 && y.st ≠ .done && y.st ≠ .faulted && (op ≠ 0 || y.kid = k)) ||
    (s.swapHerds op x k h).any s.fixedHerd

theorem State.swapsFixed_iff (s : State) (op x k h : Nat) : s.swapsFixed op x k h = true ↔
    (∃ y ∈ s.kernels, y.ctx = x ∧ y.r.dclass = 0 ∧ y.st ≠ .done ∧ y.st ≠ .faulted ∧ (op = 0 → y.kid = k)) ∨
      ∃ y ∈ s.swapHerds op x k h, s.fixedHerd y = true := by
  simp only [State.swapsFixed, Bool.or_eq_true, List.any_eq_true, Bool.and_eq_true, decide_eq_true_eq, and_assoc, ne_eq,
    Decidable.imp_iff_not_or]

/-- What `swp` does to a context that lives, and to a herd of it that is there. -/
def State.swapAlive (s : State) (iss : Issue) (t : Thread) (a : Fld) (op x k h : Nat) (c : Context) : StepRes :=
  if op = 3 then .ok ((if c.st = .stopped then s.updCtx x fun c => { c with st := .live } else s).give t a 0)
  else if op = 2 && c.st = .stopped then .ok (s.give t a 0)
  else if s.swapsFixed op x k h then .ok (s.give t a 2)
  else if !s.slotsFor (s.swapHerds op x k h) then .ok (s.give t a 4)
  else if op = 2 then .ok (((s.updCtx x fun c => { c with st := .stopping }).swapFor iss t a (s.swapHerds op x k h)).settleStop x)
  else .ok (s.swapFor iss t a (s.swapHerds op x k h))

section
variable {s : State} {iss : Issue} {t : Thread} {a b r : Fld} {op x k h : Nat}

theorem laneSwp_of_no_operation (hop : 3 < (rd t b).toNat) : s.laneSwp iss t a b r = .ok (s.give t a 3) := by
  simp only [State.laneSwp, if_pos hop]

variable (hop3 : op ≤ 3) (hop : op = (rd t b).toNat) (hx : x = (rd t r).toNat) (hk : k = (rd t (r + 1)).toNat) (hh : h = (rd t (r + 2)).toNat)
include hop3 hop hx

theorem laneSwp_of_no_context (hc : s.ctx? x = none) : s.laneSwp iss t a b r = .ok (s.give t a 1) := by
  subst hop hx
  simp only [State.laneSwp, if_neg (Nat.not_lt.mpr hop3), hc]

variable {c : Context} (hc : s.ctx? x = some c)
include hc

theorem laneSwp_of_dying (hst : c.st = .dying) : s.laneSwp iss t a b r = .ok (s.give t a 5) := by
  subst hop hx
  simp only [State.laneSwp, if_neg (Nat.not_lt.mpr hop3), hc, if_pos hst]

include hk hh

theorem laneSwp_of_absent (h : c.st = .dead ∨ (c.st ≠ .dying ∧ op = 0 ∧ s.hasHerd x k h = false)) :
    s.laneSwp iss t a b r = .ok (s.give t a 1) := by
  subst hop hx hk hh
  have hdying : c.st ≠ .dying := by
    rcases h with h | h
    · simp [h]
    · exact h.1
  simp only [State.laneSwp, if_neg (Nat.not_lt.mpr hop3), hc, if_neg hdying]
  exact if_pos (h.imp_right fun h => by simpa using h.2)

theorem laneSwp_of_alive (ha : c.alive = true) (hherd : op = 0 → s.hasHerd x k h = true) :
    s.laneSwp iss t a b r = s.swapAlive iss t a op x k h c := by
  subst hop hx hk hh
  have hdying : c.st ≠ .dying := fun h => by simp [Context.alive, h] at ha
  have hdead : c.st ≠ .dead := fun h => by simp [Context.alive, h] at ha
  have hthere : ¬ (c.st = .dead ∨ ((rd t b).toNat = 0 ∧
      (!s.hasHerd (rd t r).toNat (rd t (r + 1)).toNat (rd t (r + 2)).toNat) = true)) := by
    simpa [hdead] using hherd
  simp only [State.laneSwp, if_neg (Nat.not_lt.mpr hop3), hc, if_neg hdying, if_neg hthere]
  rfl
end

section
variable {s : State} {op x k h : Nat} {c : Context} (iss : Issue) (t : Thread) (a : Fld)

theorem swapAlive_of_continue_stopped (hop : op = 3) (hst : c.st = .stopped) :
    s.swapAlive iss t a op x k h c = .ok ((s.updCtx x fun c => { c with st := .live }).give t a 0) := by
  simp only [State.swapAlive, if_pos hop, if_pos hst]
theorem swapAlive_of_continue_running (hop : op = 3) (hst : c.st ≠ .stopped) : s.swapAlive iss t a op x k h c = .ok (s.give t a 0) := by
  simp only [State.swapAlive, if_pos hop, if_neg hst]
theorem swapAlive_of_stop_stopped (hop : op = 2) (hst : c.st = .stopped) : s.swapAlive iss t a op x k h c = .ok (s.give t a 0) := by
  simp [State.swapAlive, hop, hst]

variable (h3 : op ≠ 3) (h2 : ¬(op = 2 ∧ c.st = .stopped))
include h3 h2

theorem swapAlive_of_fixed (hfix : s.swapsFixed op x k h = true) : s.swapAlive iss t a op x k h c = .ok (s.give t a 2) := by
  simp [State.swapAlive, h3, h2, hfix]

variable (hfree : ¬ s.swapsFixed op x k h = true)
include hfree

theorem swapAlive_of_no_slots (hslots : s.slotsFor (s.swapHerds op x k h) = false) :
    s.swapAlive iss t a op x k h c = .ok (s.give t a 4) := by
  simp [State.swapAlive, h3, h2, hfree, hslots]
theorem swapAlive_of_stop (hslots : s.slotsFor (s.swapHerds op x k h) = true) (hop : op = 2) : s.swapAlive iss t a op x k h c =
    .ok (((s.updCtx x fun c => { c with st := .stopping }).swapFor iss t a (s.swapHerds op x k h)).settleStop x) := by
  simp only [State.swapAlive, if_neg h3, Bool.and_eq_true, decide_eq_true_eq, if_neg h2, if_neg hfree, hslots, Bool.not_true,
    Bool.false_eq_true, if_false, if_pos hop]
theorem swapAlive_of_swap_out (hslots : s.slotsFor (s.swapHerds op x k h) = true) (hop : op ≠ 2) :
    s.swapAlive iss t a op x k h c = .ok (s.swapFor iss t a (s.swapHerds op x k h)) := by
  simp only [State.swapAlive, if_neg h3, Bool.and_eq_true, decide_eq_true_eq, if_neg h2, if_neg hfree, hslots, Bool.not_true,
    Bool.false_eq_true, if_false, if_neg hop]
end

/-! ## `kill` and `kterm` (R360, R362) -/

/-- The group belongs to the context: a shepherd's belongs to none. -/
theorem Group.ownCtx_eq_some {g : Group} {x : Nat} : g.ownCtx = some x ↔ g.shep = false ∧ g.ctx = x := by
  unfold Group.ownCtx
  split <;> simp [*]

section
variable {s : State} {iss : Issue} {t : Thread} {a b r : Fld} {x : Nat} (hx : x = (rd t b).toNat)
include hx

theorem laneKill_of_own (h : (s.group iss.gid).ownCtx = some x) : s.laneKill iss t a b r = .ok (s.give t a 3) := by
  subst hx
  simp only [State.laneKill, if_pos h]

section
variable (hown : ¬ (s.group iss.gid).ownCtx = some x)
include hown

theorem laneKill_of_no_context (hc : s.ctx? x = none) : s.laneKill iss t a b r = .ok (s.give t a 2) := by
  subst hx
  simp only [State.laneKill, if_neg hown, hc]

variable {c : Context} (hc : s.ctx? x = some c)
include hc

theorem laneKill_of_dead (h : c.st = .dead) : s.laneKill iss t a b r = .ok (s.give t a 2) := by
  subst hx
  simp only [State.laneKill, if_neg hown, hc, if_pos h]
theorem laneKill_of_dying (h : c.st = .dying) : s.laneKill iss t a b r = .ok (s.give t a 1) := by
  subst hx
  have hdead : ¬ c.st = .dead := by simp [h]
  simp only [State.laneKill, if_neg hown, hc, if_neg hdead, if_pos h]
theorem laneKill_of_live (hdead : c.st ≠ .dead) (hdying : c.st ≠ .dying) :
    s.laneKill iss t a b r = .ok ((s.killCtx c ((rd t r).setWidth 8)).give t a 0) := by
  subst hx
  simp only [State.laneKill, if_neg hown, hc, if_neg hdead, if_neg hdying]
end

theorem laneKterm_of_no_context (hc : s.ctx? x = none) : s.laneKterm iss t a b r = .ok (s.give t a 2) := by
  subst hx
  simp only [State.laneKterm, hc]

variable {c : Context} (hc : s.ctx? x = some c)
include hc

theorem laneKterm_of_not_alive (ha : c.alive = false) : s.laneKterm iss t a b r = .ok (s.give t a 2) := by
  subst hx
  simp only [State.laneKterm, hc, ha, Bool.not_false, if_true]

variable (ha : c.alive = true) {y : Nat} (hy : y = (rd t r).toNat)
include ha hy

theorem laneKterm_of_no_kernel (hk : s.kernel? x y = none) : s.laneKterm iss t a b r = .ok (s.give t a 1) := by
  subst hx hy
  simp only [State.laneKterm, hc, ha, Bool.not_true, Bool.false_eq_true, if_false, hk]

variable {k : Kernel} (hk : s.kernel? x y = some k)
include hk

theorem laneKterm_of_over (h : k.st = .done ∨ k.st = .faulted) : s.laneKterm iss t a b r = .ok (s.give t a 1) := by
  subst hx hy
  simp only [State.laneKterm, hc, ha, Bool.not_true, Bool.false_eq_true, if_false, hk, if_pos h]

/-- A kernel that is not over is ended, unless it is the thread's own or was ended before. -/
theorem laneKterm_of_running (hdone : k.st ≠ .done) (hfaulted : k.st ≠ .faulted) : s.laneKterm iss t a b r =
    if (s.group iss.gid).ownCtx = some x ∧ (s.group iss.gid).kid = y then .ok (s.give t a 3)
    else if k.killed = true then .ok (s.give t a 0)
    else .ok (((s.endKernelHerds x y).updKernel x y fun k =>
      { k with killed := true, ring := [], flush := [], waiters := [], cores := [] }).give t a 0) := by
  subst hx hy
  simp only [State.laneKterm, hc, ha, Bool.not_true, Bool.false_eq_true, if_false, hk, hdone, hfaulted, or_self]
end

/-- Settles O49: each word is one lane's work in a privileged group, which has a lemma for each status. -/
theorem contextWords : Obligations.ContextWords := by
  intro s iss t hs hp cs a b r g tells x own op cx kid herd hit l d0
  have made {i : Instr} {f : Issue → State → Thread → StepRes} {q : StepRes}
      (hi : exec i s = priv s fun s => .next (s.laneFold f)) (hf : f iss s t = q) : exec i s = .next (q.after t.lane) :=
    hi.trans ((priv_laneFold_of_solo hs hp f).trans (by rw [hf]))
  have repl {q : W32 × State} (hq : s.repl g.pcore x = q) : exec (.repl cs a b) s = .next (q.2.give t a q.1) :=
    made (q := .ok (q.2.give t a q.1)) rfl (congrArg (fun q : W32 × State => StepRes.ok (q.2.give t a q.1)) hq)
  have penx {q : W32 × State} (hq : s.penx g.pcore x = q) : exec (.penx cs a b) s = .next (q.2.give t a q.1) :=
    made (q := .ok (q.2.give t a q.1)) rfl (congrArg (fun q : W32 × State => StepRes.ok (q.2.give t a q.1)) hq)
  have sigdl {q : StepRes} (hq : s.laneSigdl iss t a b r = q) : exec (.sigdl cs a b r) s = .next (q.after t.lane) := made rfl hq
  have swp {q : StepRes} (hq : s.laneSwp iss t a b r = q) : exec (.swp cs a b r) s = .next (q.after t.lane) := made rfl hq
  have kill {q : StepRes} (hq : s.laneKill iss t a b r = q) : exec (.kill cs a b r) s = .next (q.after t.lane) := made rfl hq
  have kterm {q : StepRes} (hq : s.laneKterm iss t a b r = q) : exec (.kterm cs a b r) s = .next (q.after t.lane) := made rfl hq
  have hown : g.ownCtx = some x ↔ own := Group.ownCtx_eq_some
  refine ⟨fun h => repl (repl_of_absent h),
    fun e hi he => ⟨fun h => repl (repl_of_page_fault hi he h), fun h10 h5 => repl (repl_of_other_cause hi he h10 h5),
      fun h => repl (repl_of_call hi he h)⟩,
    fun h => sigdl (laneSigdl_of_bad_number h), fun hlo hhi h => sigdl (laneSigdl_of_no_target hlo hhi h),
    fun y hlo hhi h hy => sigdl (laneSigdl_of_live_target hlo hhi h hy),
    fun h => penx (penx_of_no_pen h),
    fun hle => ⟨fun h => penx (penx_of_active hle h), fun ha hsh => penx (penx_of_other hle ha hsh),
      fun h => ⟨fun hheld => penx ((penx_of_shadow hle h).trans (if_pos hheld)),
        fun hfree => penx ((penx_of_shadow hle h).trans (if_neg hfree))⟩⟩,
    fun h => swp (laneSwp_of_no_operation h), fun h3 hc => swp (laneSwp_of_no_context h3 rfl rfl hc),
    fun c h3 hc => ⟨fun h => swp (laneSwp_of_dying h3 rfl rfl hc h), fun h => swp (laneSwp_of_absent h3 rfl rfl rfl rfl hc h),
      fun ha hherd => ?alive⟩,
    fun h => kill (laneKill_of_own rfl (hown.mpr h)),
    fun h hc => ⟨kill (laneKill_of_no_context rfl (mt hown.mp h) hc), kterm (laneKterm_of_no_context rfl hc)⟩,
    fun c hc => ⟨fun ho h => kill (laneKill_of_dead rfl (mt hown.mp ho) hc h), fun ho h => kill (laneKill_of_dying rfl (mt hown.mp ho) hc h),
      fun ho h h' => kill (q := .ok _) (laneKill_of_live rfl (mt hown.mp ho) hc h h'), fun ha => kterm (laneKterm_of_not_alive rfl hc ha),
      fun ha hk => kterm (laneKterm_of_no_kernel rfl hc ha rfl hk),
      fun k ha hk => ⟨fun h => kterm (laneKterm_of_over rfl hc ha rfl hk h), fun h h' => ?running⟩⟩⟩
  case alive =>
    have swap {q : StepRes} (hq : s.swapAlive iss t a op cx kid herd c = q) : exec (.swp cs a b r) s = .next (q.after t.lane) :=
      swp ((laneSwp_of_alive h3 rfl rfl rfl rfl hc ha hherd).trans hq)
    have hfixed : s.swapsFixed op cx kid herd = true ↔ d0 ∨ ∃ h ∈ l, s.fixedHerd h = true := s.swapsFixed_iff op cx kid herd
    refine ⟨fun h hst => swap (swapAlive_of_continue_stopped iss t a h hst),
      fun h hst => swap (swapAlive_of_continue_running iss t a h hst), fun h hst => swap (swapAlive_of_stop_stopped iss t a h hst),
      fun h3 h2 => ⟨fun h => swap (swapAlive_of_fixed iss t a h3 h2 (hfixed.mpr h)), fun hno hnone => ?swapped⟩⟩
    have hfree : ¬ s.swapsFixed op cx kid herd = true := by
      rw [hfixed]
      rintro (h | ⟨y, hy, h⟩)
      · exact hno h
      · exact Bool.noConfusion ((hnone y hy).symm.trans h)
    exact ⟨fun h => swap (swapAlive_of_no_slots iss t a h3 h2 hfree h), fun h =>
      ⟨fun hop => swap (q := .ok _) (swapAlive_of_stop iss t a h3 h2 hfree h hop),
        fun hop => swap (q := .ok _) (swapAlive_of_swap_out iss t a h3 h2 hfree h hop)⟩⟩
  case running =>
    have ends {q : StepRes} (hq : _ = q) : exec (.kterm cs a b r) s = .next (q.after t.lane) :=
      kterm ((laneKterm_of_running rfl hc ha rfl hk h h').trans hq)
    rw [← hown]
    exact ⟨fun ho hkid => ends (if_pos ⟨ho, hkid⟩), fun ho hkilled => ends ((if_neg ho).trans (if_pos hkilled)),
      fun ho hkilled => ends ((if_neg ho).trans (if_neg (Bool.eq_false_iff.mp hkilled)))⟩

end Sys2Proof.Machine
end

section
/-! The events of contexts (R337 to R362, R367): creation and release, pen switches, forwarded system calls, and the ends of a kill and of
a `kterm`. -/
namespace Sys2Proof.Machine
open Host (Outcome)

/-! ## Creation and release (R337, R367) -/

/-- `ctx.stat` holds a command's status. -/
def State.withStat (s : State) (v : W64) : State := { s with plat := { s.plat with ctxStat := v } }

/-- The descriptor at `ctx.arg`. -/
def State.argDesc (s : State) : Nat := natOf (s.cohRead s.plat.ctxArg.toNat 128)
/-- The context that it describes. -/
def State.argCtx (s : State) : Context := Context.ofNat s.argDesc s.plat.ctxArg.toNat

theorem createCtx_eq (s : State) : s.createCtx =
    if (s.ctx? s.argCtx.id).isSome then s.withStat 1
    else if hbmBytes < s.plat.ctxArg.toNat + 128 || !descOk s.argDesc then s.withStat 2
    else { s with
      ctxs := s.ctxs ++ [s.argCtx]
      plat := { s.plat with everDbg := s.plat.everDbg || s.argCtx.dbg, everRec := s.plat.everRec || s.argCtx.rec_ } }.withStat 0 := rfl

section
variable {s : State}

theorem createCtx_of_used (h : (s.ctx? s.argCtx.id).isSome = true) : s.createCtx = s.withStat 1 := by
  rw [createCtx_eq, if_pos h]

variable (hnew : s.ctx? s.argCtx.id = none)
include hnew

theorem createCtx_of_bad (h : hbmBytes < s.plat.ctxArg.toNat + 128 ∨ descOk s.argDesc = false) : s.createCtx = s.withStat 2 := by
  rw [createCtx_eq, if_neg (by simp [hnew]), if_pos (by simpa using h)]
theorem createCtx_of_good (hfits : s.plat.ctxArg.toNat + 128 ≤ hbmBytes) (hok : descOk s.argDesc = true) : s.createCtx =
    { s with
      ctxs := s.ctxs ++ [s.argCtx]
      plat := { s.plat with everDbg := s.plat.everDbg || s.argCtx.dbg, everRec := s.plat.everRec || s.argCtx.rec_ } }.withStat 0 := by
  rw [createCtx_eq, if_neg (by simp [hnew]), if_neg (by simpa [hok] using hfits)]
end

/-- The state without a context: its kernels, its calls, its recording, its queue errors and its ordered class are gone too. -/
def State.withoutCtx (s : State) (id : Nat) : State :=
  { s with
    ctxs := s.ctxs.filter fun x => x.id ≠ id, kernels := s.kernels.filter fun k => k.ctx ≠ id, calls := s.calls.filter fun k => k.ctx ≠ id,
    recs := s.recs.filter fun r => r.ctx ≠ id, qerr := s.qerr.filter fun x => x.1 ≠ id,
    fab := { s.fab with oc := s.fab.oc.filter fun e => e.ctx ≠ id, oq := s.fab.oq.filter fun e => e.ctx ≠ id } }

theorem withoutCtx_ctx? (s : State) (id : Nat) : (s.withoutCtx id).ctx? id = none :=
  List.find?_eq_none.mpr fun y hy => by simpa using (List.mem_filter.mp hy).2
theorem withoutCtx_kernels (s : State) (id : Nat) : ∀ k ∈ (s.withoutCtx id).kernels, k.ctx ≠ id :=
  fun k hk => by simpa using (List.mem_filter.mp hk).2

section
variable {s : State} {id : Nat} (hid : id = s.plat.ctxSel.toNat)
include hid

theorem releaseCtx_of_absent (hc : s.ctx? id = none) : s.releaseCtx = s.withStat 0 := by
  subst hid
  simp only [State.releaseCtx, hc]
  rfl

variable {c : Context} (hc : s.ctx? id = some c)
include hc

theorem releaseCtx_of_not_dead (hst : c.st ≠ .dead) : s.releaseCtx = s.withStat 1 := by
  subst hid
  simp only [State.releaseCtx, hc, if_pos hst]
  rfl
theorem releaseCtx_of_dead (hst : c.st = .dead) : s.releaseCtx = (s.withoutCtx id).withStat 0 := by
  subst hid
  have hgo : ¬ c.st ≠ .dead := not_not_intro hst
  simp only [State.releaseCtx, hc, if_neg hgo]
  rfl
end

/-! ## Pen switches (R342) -/

section
variable {s : State} {core p out : Nat}

theorem penSwitches_of_no_shadow (h : s.shadowOf core = none) :
    execPenSwitch core s = .next s ∧ execPenIdleSwitch core s = .next s := by
  simp only [execPenSwitch, execPenIdleSwitch, h, and_self]

variable (h : s.shadowOf core = some (p, out))
include h

theorem execPenSwitch_of_due (hdue : s.penDue core p out = true) (hfree : s.penHeld core out = false) :
    execPenSwitch core s = .next (s.switchPen core p) := by
  simp [execPenSwitch, h, hdue, hfree]
theorem execPenSwitch_of_not_due (hno : s.penDue core p out = false ∨ s.penHeld core out = true) : execPenSwitch core s = .next s := by
  rcases hno with hno | hno
  · simp [execPenSwitch, h, hno]
  · simp [execPenSwitch, h, hno]
theorem execPenIdleSwitch_of_idle (hout : s.bestClass core out = none) (hin : s.bestClass core p ≠ none)
    (hfree : s.holdsD0 core out = false) : execPenIdleSwitch core s = .next (s.switchPen core p) := by
  simp [execPenIdleSwitch, h, hout, hfree, Option.isSome_iff_ne_none.mpr hin]
theorem execPenIdleSwitch_of_not_idle
    (hno : s.bestClass core out ≠ none ∨ s.bestClass core p = none ∨ s.holdsD0 core out = true) : execPenIdleSwitch core s = .next s := by
  rcases hno with hno | hno | hno
  · simp [execPenIdleSwitch, h, hno]
  · simp [execPenIdleSwitch, h, hno]
  · simp [execPenIdleSwitch, h, hno]
end

theorem takeEntry_of_no_entry {s : State} {core : Nat} (h : (s.core core).entries = []) : s.takeEntry core = s := by
  simp only [State.takeEntry, h]

/-! ## Forwarded system calls (R357, R359) -/

/-- Calls that were journalled while the host link was down are sent once it is up. -/
def State.sendLogged (s : State) (ctx : Nat) : State :=
  let send := fun (k : Call) => if k.ctx = ctx ∧ k.st = .logged then { k with st := .sent } else k
  if s.plat.hostUp then { s with calls := s.calls.map send } else s
/-- The next entry of a context's system-call queue is taken, and its call forwarded. -/
def State.takeCall (s : State) (ctx : Nat) : State :=
  match s.ctx? ctx with
  | none => s
  | some c =>
    match s.nextCall c with
    | none => s
    | some (va, who) =>
      let s := (s.touchRead ctx c.scqPlace 16).updCtx ctx fun c => { c with scqN := c.scqN + 1 }
      let s := (s.vaWrite ctx c.scqPlace (List.replicate 16 0)).getD s
      match s.callerOf ctx who with
      | some t => s.forwardCall t va
      | none => s

theorem forwardCalls_eq (s : State) (ctx : Nat) : s.forwardCalls ctx = ((s.refreshCtx ctx).sendLogged ctx).takeCall ctx := by
  simp only [State.forwardCalls, State.sendLogged, Bool.and_eq_true, decide_eq_true_eq]
  rfl

section
variable {s : State} {x : Nat}

theorem takeCall_of_no_context (hc : s.ctx? x = none) : s.takeCall x = s := by simp only [State.takeCall, hc]

variable {c : Context} (hc : s.ctx? x = some c)
include hc

theorem takeCall_of_no_entry (hn : s.nextCall c = none) : s.takeCall x = s := by simp only [State.takeCall, hc, hn]

variable {va : Nat} {who : W64} {z : State} (hn : s.nextCall c = some (va, who))
  (hz : ((s.touchRead x c.scqPlace 16).updCtx x fun k => { k with scqN := k.scqN + 1 }).vaWrite x c.scqPlace (List.replicate 16 0) = some z)
include hn hz

theorem takeCall_of_no_caller (hw : z.callerOf x who = none) : s.takeCall x = z := by
  simp only [State.takeCall, hc, hn, hz, Option.getD_some, hw]
theorem takeCall_of_caller {t : Thread} (hw : z.callerOf x who = some t) : s.takeCall x = z.forwardCall t va := by
  simp only [State.takeCall, hc, hn, hz, Option.getD_some, hw]
end

section
variable {s : State} {seq : Nat} {ret : W64} {err : W32}

theorem callEvents_of_no_call (h : ∀ k ∈ s.calls, k.seq ≠ seq) :
    execSyscallReply seq ret err s = .next s ∧ execSyscallTimeout seq s = .next s := by
  have hnone : (s.calls.find? fun k => k.seq = seq) = none := List.find?_eq_none.mpr fun k hk => by simpa using h k hk
  simp only [execSyscallReply, execSyscallTimeout, hnone, and_self]

variable {k : Call} (hk : (s.calls.find? fun k => k.seq = seq) = some k)
include hk

theorem execSyscallReply_of_sent (h : k.st = .sent ∨ k.st = .acked) : execSyscallReply seq ret err s =
    .next ((s.endCall k (some ret) err).2.callDone k (!(s.endCall k (some ret) err).1)) := by
  simp only [execSyscallReply, hk, if_pos h]
theorem execSyscallReply_of_not_sent (h : k.st = .logged ∨ k.st = .done) : execSyscallReply seq ret err s = .next s := by
  rcases h with h | h
  · simp [execSyscallReply, hk, h]
  · simp [execSyscallReply, hk, h]
theorem execSyscallTimeout_of_done (h : k.st = .done) : execSyscallTimeout seq s = .next s := by
  simp [execSyscallTimeout, hk, h]

/-- A call is timed out only where its context sets a time (R357). -/
theorem execSyscallTimeout_of_open (h : k.st ≠ .done) {y : Context} (hy : s.ctx? k.ctx = some y) : execSyscallTimeout seq s =
    .next (if y.sctmo = 0 then s else (s.endCall k none 0xFFFF0002).2.watchdogTrap k.gid k.lane) := by
  simp [execSyscallTimeout, hk, h, hy]
end

/-! ## The ends of a kill and of a `kterm` (R360, R362) -/

theorem quiet_of_no_request {s : State} {ctx : Nat} (h : ∀ r ∈ s.reqs, r.ctx ≠ ctx) (all : Bool) : s.quiet ctx all = true :=
  List.all_eq_true.mpr fun r hr => by simp [h r hr]
theorem not_quiet_of_request {s : State} {ctx : Nat} (h : ∃ r ∈ s.reqs, r.ctx = ctx) : s.quiet ctx true = false := by
  obtain ⟨r, hr, hctx⟩ := h
  exact List.all_eq_false.mpr ⟨r, hr, by simp [hctx]⟩

section
variable {s : State} {x : Nat} {k : Context} (hk : s.ctx? x = some k)
include hk

/-- What cores own for a dying context goes home, and the context is DEAD. -/
theorem execKillComplete_of_quiet (hst : k.st = .dying) (hq : ∀ r ∈ s.reqs, r.ctx ≠ x) :
    let owned := (s.l1.filter fun l => decide (l.ctx = x) && decide (l.st = .own)).map L1Word.addr
    let home := owned.foldl State.pullWord s
    let u := { home with tlb := home.tlb.filter fun t => t.ctx ≠ x, l1 := home.l1.filter fun l => l.ctx ≠ x }
    execKillComplete x s = .next (((u.updCtx x fun c => { c with st := .dead }).followCtx { k with st := .dead }).post 11 0xFFFF x
      [BitVec.ofNat 64 k.root, k.reason.setWidth 64]) := by
  simp only [execKillComplete, hk, hst, quiet_of_no_request hq, decide_true, Bool.and_self, if_true]
theorem execKillComplete_of_not_quiet (h : k.st ≠ .dying ∨ ∃ r ∈ s.reqs, r.ctx = x) : execKillComplete x s = .next s := by
  rcases h with h | h
  · simp [execKillComplete, hk, h]
  · simp [execKillComplete, hk, not_quiet_of_request h]
end

section
variable {s : State} {x kid : Nat} {k : Kernel} (hk : s.kernel? x kid = some k)
include hk

theorem execKtermComplete_of_not_ended (h : k.killed = false ∨ k.st = .done ∨ k.st = .faulted) : execKtermComplete x kid s = .next s := by
  rcases h with h | h | h
  · simp [execKtermComplete, hk, h]
  · simp [execKtermComplete, hk, h]
  · simp [execKtermComplete, hk, h]
theorem execKtermComplete_of_quiet (hkill : k.killed = true) (hdone : k.st ≠ .done) (hfault : k.st ≠ .faulted)
    (hq : ∀ r ∈ s.reqs, r.ctx ≠ x) :
    execKtermComplete x kid s = .next ((s.kernelOver x kid .faulted (some 3)).serveLnch x) := by
  simp [execKtermComplete, hk, hkill, hdone, hfault, quiet_of_no_request hq]
end

/-- Settles O50: each event has a lemma for each condition on what it finds. -/
theorem contextEvents : Obligations.ContextEvents := by
  intro s core x kid herd seq ret err stat pa d c sel
  refine ⟨fun h => congrArg Outcome.next (createCtx_of_used h), fun hn h => congrArg Outcome.next (createCtx_of_bad hn h),
    fun hn hf hok => congrArg Outcome.next (createCtx_of_good hn hf hok),
    fun h => congrArg Outcome.next (releaseCtx_of_absent rfl h),
    fun k hk => ⟨fun h => congrArg Outcome.next (releaseCtx_of_not_dead rfl hk h), fun h => ?released⟩,
    penSwitches_of_no_shadow,
    fun p out h => ⟨execPenSwitch_of_due h, execPenSwitch_of_not_due h, execPenIdleSwitch_of_idle h, execPenIdleSwitch_of_not_idle h⟩,
    rfl, rfl, rfl, fun h => congrArg Outcome.next (takeEntry_of_no_entry h), ?forward, callEvents_of_no_call,
    fun k hk => ⟨execSyscallReply_of_sent hk, execSyscallReply_of_not_sent hk, execSyscallTimeout_of_done hk, fun y h hy => ?timeout⟩,
    ?receipt, rfl, fun k hk => ⟨execKillComplete_of_quiet hk, execKillComplete_of_not_quiet hk⟩,
    fun k hk => ⟨execKtermComplete_of_not_ended hk, execKtermComplete_of_quiet hk⟩⟩
  case released =>
    exact ⟨s.withoutCtx sel, congrArg Outcome.next (releaseCtx_of_dead rfl hk h), withoutCtx_ctx? s sel, withoutCtx_kernels s sel, rfl⟩
  case forward =>
    intro r send u
    have forward {v : State} (h : u.takeCall x = v) : exec (.syscallForward x) s = .next v :=
      congrArg Outcome.next ((forwardCalls_eq s x).trans h)
    exact ⟨fun h => forward (takeCall_of_no_context h), fun k hk => ⟨fun hn => forward (takeCall_of_no_entry hk hn),
      fun va who z hn hz => ⟨fun hw => forward (takeCall_of_no_caller hk hn hz hw), fun t hw => forward (takeCall_of_caller hk hn hz hw)⟩⟩⟩
  case timeout =>
    have ends := execSyscallTimeout_of_open hk h hy
    exact ⟨fun hset => ends.trans (by rw [if_neg hset]), fun hset => ends.trans (by rw [if_pos hset])⟩
  case receipt =>
    change execSyscallReceiptAck seq s = _
    simp only [execSyscallReceiptAck, Bool.and_eq_true, decide_eq_true_eq]

end Sys2Proof.Machine
end

section
/-! The words of the fabric of a lone thread (R376, R386 to R391): `osend`, `orecv`, `wmrd` and the remote forms. -/
namespace Sys2Proof.Machine
open Host (Outcome)

/-- A thread has one more result outstanding, whose registers are written when it returns. -/
def State.owe (s : State) (t : Thread) (ws : List Wr) : State :=
  s.updT t.gid t.lane fun y => y.await (Result.known y.nextRes ws 0 false)

/-! ## `osend` (R389) -/

/-- The class is off for a context: outside mesh mode, without `oc.en`, or past the end of the pod time that can be sent (R375). -/
def State.sendOff (s : State) (ctx : Nat) : Prop := s.fab.mesh = false ∨ (s.ocEnt ctx).en = false ∨ sendEnd ≤ s.ptime
/-- The destination that the third operand of `osend` names. -/
def sendDst (w : W32) : BitVec 12 := w.extractLsb' 0 12
/-- The third operand of `osend` names a device of the pod, or all of them, and its upper half is zero. -/
def State.sendGood (s : State) (w : W32) : Prop := w.extractLsb' 16 16 = 0 ∧ (sendDst w = 0xFFF ∨ s.fab.inPod (sendDst w).toNat = true)
/-- The packet that `osend` stamps (R376). -/
def State.stamped (s : State) (t : Thread) (ctx : Nat) (b : Fld) (w : W32) : OrdPkt :=
  { t := s.ptime, src := BitVec.ofNat 12 s.fab.dev, seq := s.fab.seq, dst := sendDst w, q := w.extractLsb' 12 4,
    job := (match s.ctx? ctx with | some c => c.job | none => 0), stage := 1,
    payload := (List.range 8).map fun i => rd t (b + BitVec.ofNat 6 i) }
/-- The packet as retention keeps it until each of its destinations has released it (R387). -/
def State.keptCopy (s : State) (p : OrdPkt) : Retained :=
  ⟨p, if p.dst = 0xFFF then s.fab.pod else [p.dst.toNat], if p.dst = 0xFFF then 24 else (s.fab.route s.fab.dev p.dst.toNat).getD 24⟩
/-- The state in which a token, the sequence number and a place of retention are taken for a packet. -/
def State.sentBy (s : State) (ctx : Nat) (p : OrdPkt) : State :=
  let u := s.setOc { s.ocEnt ctx with tokens := (s.ocEnt ctx).tokens - 1 }
  { u with ptime := if s.fab.seq = BitVec.allOnes 20 then s.ptime + 1 else s.ptime,
           fab := { u.fab with seq := s.fab.seq + 1, retained := u.fab.retained ++ [s.keptCopy p] } }

section
variable {s : State} {t : Thread} {g : Group} (hg : s.group t.gid = g) {a b r : Fld}
include hg

theorem laneOsend_of_off (h : s.sendOff g.ctx) : s.laneOsend t a b r = .ok (s.owe t [.g a 3]) := by
  subst hg
  exact if_pos (by simpa [State.sendOff, or_assoc] using h)

variable (hon : ¬ s.sendOff g.ctx)
include hon

theorem laneOsend_of_bad_operand (h : ¬ s.sendGood (rd t r)) : s.laneOsend t a b r = .ok (s.owe t [.g a 4]) := by
  subst hg
  refine (if_neg (by simpa [State.sendOff, or_assoc] using hon)).trans (if_pos ?_)
  simpa [State.sendGood, sendDst, Decidable.imp_iff_not_or] using h

variable (hgood : s.sendGood (rd t r))
include hgood

/-- An `osend` that may be sent waits for no recovery: it traps in one (R389). -/
theorem laneOsend_of_recovery {p : Nat} (hp : s.fab.recovering = some p) : s.laneOsend t a b r = .trap s 0x30 (ordAux 1 p) 0 0 := by
  subst hg
  refine (if_neg (by simpa [State.sendOff, or_assoc] using hon)).trans ((if_neg ?_).trans ?_)
  · simpa [State.sendGood, sendDst, Decidable.imp_iff_not_or] using hgood
  · rw [hp]

variable (hrec : s.fab.recovering = none)
include hrec

theorem laneOsend_of_idle : s.laneOsend t a b r =
    if (s.ocEnt g.ctx).tokens = 0 then .ok (s.owe t [.g a 1])
    else if 16384 ≤ s.fab.retained.length then .ok (s.owe t [.g a 2])
    else .ok (((s.sentBy g.ctx (s.stamped t g.ctx b (rd t r))).inject (s.stamped t g.ctx b (rd t r))).owe t
      [.g a (s.fab.seq.setWidth 32 <<< 12)]) := by
  subst hg
  refine (if_neg (by simpa [State.sendOff, or_assoc] using hon)).trans ((if_neg ?_).trans ?_)
  · simpa [State.sendGood, sendDst, Decidable.imp_iff_not_or] using hgood
  · rw [hrec]
    rfl
end

/-! ## `orecv` and `orecv.try` (R386, R389) -/

/-- A record that is popped: logged, and owed to the thread; the pop is an acquire. -/
def State.receive (s : State) (t : Thread) (core : Nat) (a b : Fld) (k : Nat) (bs : List Byte) : State :=
  let l := s.logged t.gid t.lane 6 (BitVec.ofNat 64 k) 0 bs
  (l.2.2.owe t (recordWrites a b l.2.1)).acquireCore core
/-- A thread waits in `orecv` behind those who wait already. -/
def State.queueReceiver (s : State) (iss : Issue) (t : Thread) (ctx : Nat) (a b : Fld) (k : Nat) : State :=
  (s.updOq ctx k fun x => { x with waiters := x.waiters ++ [(t.gid, t.lane)] }).updT t.gid t.lane
    fun y => y.block (.orecv k a b) iss (destsOf (recordWrites a b []))
/-- What `orecv.try` answers on an empty queue: zeros and the empty flag. -/
def State.receiveNone (s : State) (t : Thread) (a b : Fld) (k : Nat) : State :=
  (s.logged t.gid t.lane 4 (BitVec.ofNat 64 k) (BitVec.ofNat 64 (2 ^ 31)) []).2.2.owe t
    (wrs32 a (List.replicate 8 0) ++ wrs32 b [0, 0, 0x80000000, 0])

section
variable {s : State} {iss : Issue} {t : Thread} {g : Group} (hg : s.group t.gid = g) {a b : Fld} {k : Nat}
include hg

theorem laneOrecv_of_off
    (h : s.fab.mesh = false ∨ (s.ocEnt g.ctx).en = false ∨ ∀ q, s.oqEnt? g.ctx k = some q → q.on = false) (try_ : Bool) :
    s.laneOrecv iss t a b k try_ = .trap s 0x30 (ordAux 2 k) 0 0 := by
  subst hg
  cases hq : s.oqEnt? (s.group t.gid).ctx k with
  | none => simp only [State.laneOrecv, hq]
  | some q =>
    have hoff : (!s.fab.mesh || !(s.ocEnt (s.group t.gid).ctx).en || !q.on) = true := by
      simpa [or_assoc, hq] using h
    simp only [State.laneOrecv, hq, if_pos hoff]

variable {q : OqEnt} (hq : s.oqEnt? g.ctx k = some q) (hmesh : s.fab.mesh = true) (hen : (s.ocEnt g.ctx).en = true) (hon : q.on = true)
  (hlog : s.nextRec g t.lane = none)
include hq hmesh hen hon hlog

theorem laneOrecv_of_recovery (hempty : q.count = 0) {p : Nat} (hp : s.fab.recovering = some p) (try_ : Bool) :
    s.laneOrecv iss t a b k try_ = .trap s 0x30 (ordAux 1 p) 0 0 := by
  subst hg
  simp [State.laneOrecv, hq, hmesh, hen, hon, hlog, hempty, hp]
theorem laneOrecv_of_empty (hempty : q.count = 0) (hrec : s.fab.recovering = none) :
    s.laneOrecv iss t a b k false = .ok (s.queueReceiver iss t g.ctx a b k) := by
  subst hg
  simp [State.laneOrecv, hq, hmesh, hen, hon, hlog, hempty, hrec, State.queueReceiver]
theorem laneOrecv_try_of_empty (hempty : q.count = 0) (hrec : s.fab.recovering = none) :
    s.laneOrecv iss t a b k true = .ok (s.receiveNone t a b k) := by
  subst hg
  simp [State.laneOrecv, hq, hmesh, hen, hon, hlog, hempty, hrec, State.receiveNone, State.owe]
theorem laneOrecv_of_waiters (hfull : q.count ≠ 0) (hw : q.waiters ≠ []) :
    s.laneOrecv iss t a b k false = .ok (s.queueReceiver iss t g.ctx a b k) := by
  subst hg
  simp [State.laneOrecv, hq, hmesh, hen, hon, hlog, hfull, hw, State.queueReceiver]
theorem laneOrecv_of_record (hfull : q.count ≠ 0) {try_ : Bool} (hw : try_ = true ∨ q.waiters = []) :
    s.laneOrecv iss t a b k try_ = .ok ((s.popRecord q).2.receive t g.pcore a b k (s.popRecord q).1) := by
  subst hg
  rcases hw with hw | hw
  · simp [State.laneOrecv, hq, hmesh, hen, hon, hlog, hfull, hw, State.receive, State.owe]
  · simp [State.laneOrecv, hq, hmesh, hen, hon, hlog, hfull, hw, State.receive, State.owe]
end

/-- Settles O43: `osend` and `orecv` have a lemma for each status; a remote form's lane is its list of checks before the one operation
that it queues. -/
theorem fabricWords : Obligations.FabricWords := by
  intro s iss t hs cs a b r k g owes e w dst off good answers
  have hg : s.group t.gid = g := congrArg s.group hs.gid_eq
  have made {i : Instr} {f : Issue → State → Thread → StepRes} {q : StepRes} (hi : exec i s = .next (s.laneFold f))
      (hf : f iss s t = q) : exec i s = .next (q.after t.lane) :=
    hi.trans (congrArg Outcome.next ((laneFold_after hs f).trans (by rw [hf])))
  have osend {q : StepRes} (hq : s.laneOsend t a b r = q) : exec (.osend cs a b r) s = .next (q.after t.lane) := made rfl hq
  have orecv {q : StepRes} (hq : s.laneOrecv iss t a b k.toNat false = q) : exec (.orecv cs a b k) s = .next (q.after t.lane) :=
    made rfl hq
  have orecvTry {q : StepRes} (hq : s.laneOrecv iss t a b k.toNat true = q) : exec (.orecvTry cs a b k) s = .next (q.after t.lane) :=
    made rfl hq
  refine ⟨fun h => osend (laneOsend_of_off hg h), fun hon h => osend (laneOsend_of_bad_operand hg hon h),
    fun hon hgood p hp => osend (laneOsend_of_recovery hg hon hgood hp), fun hon hgood hrec => ?sends, fun q hq hmesh hen hqon hlog => ?receives,
    fun h => ⟨orecv (laneOrecv_of_off hg h false), orecvTry (laneOrecv_of_off hg h true)⟩,
    fun _ => made (f := fun _ s t => .ok (s.owe t (wr2 a (s.wmValue k.toNat)))) rfl rfl, ?remote⟩
  case sends =>
    have idle {q : StepRes} (hq : _ = q) : exec (.osend cs a b r) s = .next (q.after t.lane) :=
      osend ((laneOsend_of_idle hg hon hgood hrec).trans hq)
    exact ⟨fun htok => idle (if_pos htok), fun htok hfull => idle ((if_neg htok).trans (if_pos hfull)),
      fun htok hroom => idle ((if_neg htok).trans (if_neg (Nat.not_le.mpr hroom)))⟩
  case receives =>
    intro waits
    exact ⟨fun h p hp => ⟨orecv (laneOrecv_of_recovery hg hq hmesh hen hqon hlog h hp false),
        orecvTry (laneOrecv_of_recovery hg hq hmesh hen hqon hlog h hp true)⟩,
      fun h hrec => ⟨orecv (q := .ok _) (laneOrecv_of_empty hg hq hmesh hen hqon hlog h hrec),
        orecvTry (q := .ok _) (laneOrecv_try_of_empty hg hq hmesh hen hqon hlog h hrec)⟩,
      fun h => ⟨fun hw => orecv (q := .ok _) (laneOrecv_of_record hg hq hmesh hen hqon hlog h (.inr hw)),
        fun hw => orecv (q := .ok _) (laneOrecv_of_waiters hg hq hmesh hen hqon hlog h hw),
        orecvTry (q := .ok _) (laneOrecv_of_record hg hq hmesh hen hqon hlog h (.inl rfl))⟩⟩
  case remote =>
    intro run lo ro hs' n lh ph bar checks op
    have word {i : Instr} {f : Issue → State → Thread → StepRes} {bad : Option (Byte × W64)} {u : State}
        (hi : exec i s = .next (s.laneFold f)) (hf : f iss s t = s.checked bad u) : run i bad u :=
      ⟨fun c x hb => made hi (hf.trans (State.checked_fails hb u)), fun hb => made hi (hf.trans (State.checked_passes hb u))⟩
    exact ⟨word rfl rfl, word rfl rfl, word rfl rfl⟩

end Sys2Proof.Machine
end

section
/-! Work queues as windows and the dispatcher find them (R323 to R326): an append, a window's write, and the dispatcher's turn. -/
namespace Sys2Proof.Machine
open Host (Outcome)

theorem State.ctx?_id {s : State} {id : Nat} {c : Context} (h : s.ctx? id = some c) : c.id = id := by
  simpa using List.find?_some h

/-! ## An append (R324) -/

section
variable {s y w : State} {c : Context} {q va raw : Nat} {d : QDesc} (hy : y = s.touchRead c.id (c.queue q) 64)
  (hraw : y.queueBits c q = some raw) (hd : d = y.queueNow c.id q raw) (hw : w = y.takeQueue c.id q d) (hon : d.on = true)
include hy hraw hd hw hon

/-- A full queue counts the append that it refuses. -/
theorem append_of_full (hfull : d.count = 2 ^ d.lg) {u : State} (hu : w.queueDrop c q raw = some u) : s.append c q va = (1, u) := by
  subst hy hw hd
  simp only [State.append, hraw, hon, Bool.not_true, Bool.false_eq_true, if_false, if_pos hfull, hu]
/-- An append writes the entry at the tail, then the tail. -/
theorem append_of_room (hroom : d.count ≠ 2 ^ d.lg) {u x : State} (hu : w.vaWrite c.id (d.slot d.tail) (bytesOf 8 va) = some u)
    (hx : u.setEnds c q raw d.head (d.tail + 1) = some x) : s.append c q va = (0, x) := by
  subst hy hw hd
  simp only [State.append, hraw, hon, Bool.not_true, Bool.false_eq_true, if_false, if_neg hroom, hu, Option.bind_some, hx]
end

/-! ## A window's write (R325) -/

section
variable {s z : State} {c : Context} {ctx q raw : Nat} (hc : s.ctx? ctx = some c) (ha : c.alive = true) (hup : s.plat.hostUp = true)
  (hq : q ≤ 63) (hz : z = s.touchRead ctx (c.queue q) 64) (hraw : z.queueBits c q = some raw) {off size : Nat} {v : W64}
include hc ha hup hq hz hraw

theorem windowWrite_of_off (hon : (z.queueNow ctx q raw).on = false) : s.windowWrite ctx q off size v = z := by
  subst hz
  simp [State.windowWrite, hc, ha, hup, Nat.not_lt.mpr hq, hraw, hon]
/-- The count of free places is read only. -/
theorem windowWrite_of_free : s.windowWrite ctx q 8 8 v = z := by
  subst hz
  simp [State.windowWrite, hc, ha, hup, Nat.not_lt.mpr hq, hraw]

variable (hon : (z.queueNow ctx q raw).on = true)
include hon

/-- A write of another size or offset, or of no address, is discarded and counted. -/
theorem windowWrite_of_bad (hfree : ¬(size = 8 ∧ off = 8)) (hbad : (size ≠ 8 ∨ off ≠ 0) ∨ 2 ^ 57 ≤ v.toNat) {u : State}
    (hu : z.queueDrop c q raw = some u) : s.windowWrite ctx q off size v = u := by
  subst hz
  have hgone : (!c.alive || !s.plat.hostUp || 63 < q) = false := by simpa [ha, hup] using hq
  have hact : (!((s.touchRead ctx (c.queue q) 64).queueNow ctx q raw).on || (size = 8 && off = 8)) = false := by simpa [hon] using hfree
  simp only [State.windowWrite, hc, hgone, hraw, hact, Bool.false_eq_true, if_false, Bool.or_eq_true, decide_eq_true_eq, if_pos hbad, hu]
theorem windowWrite_of_record (hv : v.toNat < 2 ^ 57) : s.windowWrite ctx q 0 8 v = (z.append c q v.toNat).2 := by
  subst hz
  have hgone : (!c.alive || !s.plat.hostUp || 63 < q) = false := by simpa [ha, hup] using hq
  have hgood : ¬(((8 : Nat) ≠ 8 ∨ (0 : Nat) ≠ 0) ∨ 2 ^ 57 ≤ v.toNat) := by simpa using hv
  simp only [State.windowWrite, hc, hgone, hraw, hon, Bool.not_true, Nat.reduceEqDiff, decide_true, decide_false, Bool.and_false, Bool.or_self,
    Bool.false_eq_true, if_false, Bool.or_eq_true, decide_eq_true_eq, if_neg hgood]
end

/-! ## The dispatcher's turn (R326) -/

theorem intake_of_other_turn {s : State} {ctx q : Nat} (h : s.queueTurn ≠ some (ctx, q)) : s.intake ctx q = s := by
  cases hc : s.ctx? ctx with
  | none => simp only [State.intake, hc]
  | some c => simp only [State.intake, hc, if_pos h]

/-- A queue whose record the dispatcher cannot take reports why (R326, R408). -/
def State.refuseRecord (s : State) (ctx q head va why : Nat) : State :=
  s.post 10 q ctx [BitVec.ofNat 64 head, BitVec.ofNat 64 va, BitVec.ofNat 64 why]

section
variable {s z u y : State} {c : Context} {ctx q raw : Nat} {d : QDesc} (hturn : s.queueTurn = some (ctx, q)) (hc : s.ctx? ctx = some c)
  (hz : z = { s with qlast := (ctx, q) }.touchRead ctx (c.queue q) 64)
include hturn hc hz

theorem intake_of_unreachable (hraw : z.queueBits c q = none) : s.intake ctx q = z.queueError3 ctx q := by
  subst hz
  simp only [State.intake, hc, hturn, ne_eq, not_true_eq_false, if_false, hraw]

variable (hraw : z.queueBits c q = some raw) (hd : d = QDesc.ofNat raw) (hu : u = z.takeQueue ctx q d)
include hraw hd hu

theorem intake_of_no_entry (h : d.on = false ∨ d.count = 0) : s.intake ctx q = u := by
  subst hz hd hu
  have hidle : (!(QDesc.ofNat raw).on || (QDesc.ofNat raw).count = 0) = true := by simpa using h
  simp only [State.intake, hc, hturn, ne_eq, not_true_eq_false, if_false, hraw, if_pos hidle]

variable {bs : List Byte} {w : State} (hon : d.on = true) (hsome : d.count ≠ 0) (hy : y = u.touchRead ctx (d.slot d.head) 8)
  (hbs : y.vaRead ctx (d.slot d.head) 8 = some bs) (hw : y.setEnds c q raw (d.head + 1) d.tail = some w)
include hon hsome hy hbs hw

theorem intake_of_no_address (hva : 2 ^ 57 ≤ natOf bs) : s.intake ctx q = w.refuseRecord ctx q d.head (natOf bs) 1 := by
  subst hz hd hu hy
  have hgo : (!(QDesc.ofNat raw).on || (QDesc.ofNat raw).count = 0) = false := by simpa [hon] using hsome
  simp only [State.intake, hc, hturn, ne_eq, not_true_eq_false, if_false, hraw, hgo, Bool.false_eq_true, hbs, hw, if_pos hva,
    State.refuseRecord]

variable (hva : natOf bs < 2 ^ 57)
include hva

theorem intake_of_no_record (hrec : (w.touchRecord c (natOf bs)).vaRead ctx (natOf bs) 256 = none) :
    s.intake ctx q = (w.touchRecord c (natOf bs)).refuseRecord ctx q d.head (natOf bs) 2 := by
  subst hz hd hu hy
  have hgo : (!(QDesc.ofNat raw).on || (QDesc.ofNat raw).count = 0) = false := by simpa [hon] using hsome
  simp only [State.intake, hc, hturn, ne_eq, not_true_eq_false, if_false, hraw, hgo, Bool.false_eq_true, hbs, hw,
    if_neg (Nat.not_le.mpr hva), hrec, State.refuseRecord]

/-- A valid record becomes a kernel; of another the completion word tells the reason (R317). -/
theorem intake_of_record {rec : List Byte} (hrec : (w.touchRecord c (natOf bs)).vaRead ctx (natOf bs) 256 = some rec) :
    let x := w.touchRecord c (natOf bs)
    s.intake ctx q = if x.launchReason c (natOf rec) = 0 then (x.newKernel c (natOf rec)).2
      else x.complete ctx 0 (bitsOf (natOf rec) 767 704) (BitVec.ofNat 64 (4 + x.launchReason c (natOf rec) * 256)) := by
  subst hz hd hu hy
  have hgo : (!(QDesc.ofNat raw).on || (QDesc.ofNat raw).count = 0) = false := by simpa [hon] using hsome
  simp only [State.intake, hc, hturn, ne_eq, not_true_eq_false, if_false, hraw, hgo, Bool.false_eq_true, hbs, hw,
    if_neg (Nat.not_le.mpr hva), hrec]
end

end Sys2Proof.Machine
end

section
/-! Kernels and herds as the scheduler finds them (R315, R318, R320, R330, R331, R336): dispatch, placement of a D0 kernel, the overrun events,
the gatherer, the end of a quantum and a herd's retirement. -/
namespace Sys2Proof.Machine
open Host (Outcome)

theorem State.kernel?_key {s : State} {ctx kid : Nat} {k : Kernel} (h : s.kernel? ctx kid = some k) : k.ctx = ctx ∧ k.kid = kid := by
  simpa using List.find?_some h

/-- The flocks of a kernel that a further test admits. -/
theorem flocks_filter_and (s : State) (ctx kid : Nat) (p : Flock → Bool) :
    s.flocks.filter (fun f => decide (f.ctx = ctx) && decide (f.kid = kid) && p f) =
      (s.flocks.filter fun f => decide (f.ctx = ctx) && decide (f.kid = kid)).filter p := by
  rw [List.filter_filter]
  exact List.filter_congr fun f _ => Bool.and_comm _ _

/-- Whether a batch of the kernel is to be launched. -/
def Kernel.launches (k : Kernel) (n : Nat) : Prop := (k.st = .running ∨ k.st = .draining) ∧ k.killed = false ∧ k.batchDue n = true

theorem Kernel.launches.goes_on {k : Kernel} {n : Nat} (h : k.launches n) :
    ((k.st ≠ .running && k.st ≠ .draining) || k.killed || !k.batchDue n) = false := by
  obtain ⟨hst, hkill, hdue⟩ := h
  rcases hst with hst | hst <;> simp [hst, hkill, hdue]

/-! ## A kernel's events (R318, R330, R336) -/

section
variable {s : State} {ctx kid : Nat} {k : Kernel} (hk : s.kernel? ctx kid = some k)
include hk

/-- An admitted kernel is placed from its start on. -/
theorem execKernelDispatch_eq : execKernelDispatch ctx kid s = .next (
    if k.st = .admitted ∧ k.killed = false ∧ k.r.start.toNat ≤ s.ptime.toNat then s.updKernel ctx kid fun k => { k with st := .placing }
    else s) := by
  simp only [execKernelDispatch, hk, Bool.and_eq_true, decide_eq_true_eq, Bool.not_eq_true', and_assoc]
  split_ifs <;> rfl

/-- Whether the herds of a kernel are to be placed together: of a D0 kernel whose cores are EMPTY (R330). -/
def State.placesD0 (s : State) (k : Kernel) : Prop :=
  k.r.dclass = 0 ∧ k.st = .placing ∧ s.placeable k = true ∧ ∀ c ∈ k.cores, (s.pen c 0).st = .empty ∧ (s.pen c 1).st = .empty

theorem placeD0_of_not_ready (h : ¬ s.placesD0 k) : s.placeD0 ctx kid = s := by
  simp only [State.placeD0, hk]
  refine if_pos ?_
  simpa [State.placesD0, Decidable.imp_iff_not_or, or_assoc] using h

/-- The herds of a D0 kernel are placed on its cores one after the other, and nothing more of it is to be placed. -/
theorem placeD0_of_ready (h : s.placesD0 k) :
    let blocks := (List.range k.h).map fun i => (k.cores.drop (k.r.herd * i)).take k.r.herd
    s.placeD0 ctx kid = ((blocks.zipIdx.foldl (fun s b => s.placeHerd k b.2 false b.1 (List.replicate k.r.herd 0)) s).updKernel ctx kid
      fun k => { k with st := .draining }).serveLnch ctx := by
  obtain ⟨hclass, hst, hplace, hempty⟩ := h
  simp only [State.placeD0, hk]
  refine if_neg ?_
  simpa [hclass, hst, hplace] using hempty

/-- Whether the overrun of a kernel's deadline is to be told (R336). -/
def State.isLate (s : State) (k : Kernel) : Prop :=
  k.r.dclass ≤ 1 ∧ k.r.dl ≠ 0 ∧ k.st ≠ .submitted ∧ k.st ≠ .done ∧ k.st ≠ .faulted ∧ k.overrun = false ∧ k.r.dl.toNat ≤ s.ptime.toNat

theorem execD0Overrun_of_not_late (h : ¬ s.isLate k) : execD0Overrun ctx kid s = .next s := by
  simp only [execD0Overrun, hk, State.overrun]
  refine congrArg Outcome.next (if_neg ?_)
  simpa [State.isLate, and_assoc] using h
/-- An overrun is told once: of a D0 kernel it may fire the snapshot trigger, of a D1 kernel it is only recorded (R400). -/
theorem execD0Overrun_of_late (h : s.isLate k) :
    let told := s.updKernel ctx kid fun k => { k with overrun := true }
    let data := [BitVec.ofNat 64 kid, k.r.dl, k.opWait]
    execD0Overrun ctx kid s = .next (if k.r.dclass = 0 then told.post 8 0xFFFF ctx data
      else told.queueEvent ⟨8, 0xFFFF, ctx, s.ptime, data⟩) := by
  obtain ⟨hctx, hkid⟩ := State.kernel?_key hk
  simp only [execD0Overrun, hk, State.overrun, hctx, hkid]
  refine congrArg Outcome.next (if_pos ?_)
  simpa [State.isLate, and_assoc] using h

theorem execBudgetExceeded_eq {n : Nat} {h : Herd} (hh : s.herd? ctx kid n = some h) : execBudgetExceeded ctx kid n s = .next (
    if k.r.dclass = 0 ∧ h.budgetEv = false ∧ k.r.budget < h.issues then
      (s.updHerd ctx kid n fun h => { h with budgetEv := true }).post 9 0xFFFF ctx
        [BitVec.ofNat 64 kid, BitVec.ofNat 64 n, BitVec.ofNat 64 h.issues]
    else s) := by
  simp only [execBudgetExceeded, State.budgetOver, hh, hk, Bool.and_eq_true, decide_eq_true_eq, Bool.not_eq_true', and_assoc]

/-! ## The gatherer (R320) -/

theorem execGathererFlushTimeout_of_no_record {n : Nat} (h : k.recordsOf n = []) : execGathererFlushTimeout ctx kid n s = .next s := by
  simp only [execGathererFlushTimeout, hk, h, List.head?_nil]
theorem execGathererFlushTimeout_of_record {n : Nat} {x : Nat × List W32 × W64 × Nat} (h : (k.recordsOf n).head? = some x) :
    execGathererFlushTimeout ctx kid n s = .next (if x.2.2.1.toNat + 256000 * k.r.cwait ≤ s.ptime.toNat ∧ n ∉ k.flush then
      s.updKernel ctx kid fun k => { k with flush := k.flush ++ [n] } else s) := by
  simp [execGathererFlushTimeout, hk, h]

variable {n : Nat}

theorem gather_of_no_batch (h : ¬ k.launches n) : s.gather ctx kid n = s := by
  simp only [State.gather, hk]
  refine if_pos ?_
  simpa [Kernel.launches, Decidable.imp_iff_not_or, or_assoc] using h

variable (hbatch : k.launches n)
include hbatch

/-- With no flock of the kernel, and none to come, a herd of its own is to be placed for the batch. -/
theorem gather_of_no_flock (hno : ∀ f ∈ s.flocks, f.ctx = ctx → f.kid ≠ kid)
    (hcont : ∀ h ∈ s.herds, h.ctx = ctx → h.kid = kid → h.cont = true → h.st ≠ .waiting ∧ h.st ≠ .resident) :
    let h : Herd :=
      { ctx, kid, herd := k.h + k.contN, st := .waiting, cores := [], cont := true, runnable := false, gens := [], since := s.ptime,
        expired := false, issues := 0, budgetEv := false, after := none, due := false, faults := [], owed := [] }
    s.gather ctx kid n = { s with herds := s.herds ++ [h] }.updKernel ctx kid fun k => { k with contN := k.contN + 1 } := by
  have hflocks : (s.flocks.filter fun f => decide (f.ctx = ctx) && decide (f.kid = kid)) = [] :=
    List.filter_eq_nil_iff.mpr fun f hf => by simpa using hno f hf
  have hherds : ¬ (s.herds.any fun h => h.ctx = ctx && h.kid = kid && h.cont &&
      (h.st = .waiting || (h.st = .resident && s.herdGroups ctx kid h.herd = []))) = true := by
    simp only [List.any_eq_true, Bool.and_eq_true, Bool.or_eq_true, decide_eq_true_eq, not_exists, not_and, not_or, and_imp]
    exact fun h hh hctx hkid hc => ⟨(hcont h hh hctx hkid hc).1, fun hst => absurd hst (hcont h hh hctx hkid hc).2⟩
  simp only [State.gather, hk, hbatch.goes_on, Bool.false_eq_true, if_false, flocks_filter_and, hflocks, List.filter_nil, List.flatMap_nil,
    List.getElem?_nil, if_neg hherds]

/-- The registers of a batch's lane: its record, and the preloaded handles. -/
def State.batchRegs (s : State) (k : Kernel) (taken : List (Nat × List W32 × W64 × Nat)) (j : Nat) : List Wr :=
  match taken[j]? with | some x => wrs32 0 x.2.1 ++ s.preloads k | none => []

/-- The one free group slot of the one flock of a kernel takes the batch: a group with a thread for each record of it. -/
theorem gather_of_one_place {f : Flock} {i : Nat} (hf : s.flocks.filter (fun f => decide (f.ctx = ctx) && decide (f.kid = kid)) = [f])
    (hst : (s.herdOfFlock f).map Herd.st = some .resident) (hi : s.freeGrps k f = [i]) :
    let taken := (k.recordsOf n).take 32
    let u := s.takeFree.2.clearGrp f i
    s.gather ctx kid n = (((u.newGroup k f i ((u.freeGroupSlots f.pcore f.pen).headD 0)
      (0 :: List.replicate 7 (BitVec.allOnes 32)) ((k.ctab[n]?).getD 0) (BitVec.ofNat 32 (2 ^ taken.length - 1))
      (u.batchRegs k taken)).updKernel ctx kid fun k =>
        { k with ring := dropRecords n taken.length k.ring, flush := k.flush.erase n }).acquireCore f.pcore).serveCont ctx kid := by
  obtain ⟨h, hh, hres⟩ := Option.map_eq_some_iff.mp hst
  simp only [State.gather, hk, hbatch.goes_on, Bool.false_eq_true, if_false, flocks_filter_and, hf, List.filter_cons, hh, hres, decide_true,
    if_true, List.filter_nil, List.flatMap_cons, List.flatMap_nil, hi, List.map_cons, List.map_nil, List.append_nil, List.length_singleton,
    max_self, Nat.mod_one, List.getElem?_cons_zero]
  rfl
end

/-! ## A herd's quantum and its retirement (R315, R331) -/

/-- The groups of a herd, by their identifiers. -/
def State.herdGids (s : State) (ctx kid n : Nat) : List Nat := (s.herdGroups ctx kid n).map Group.gid
/-- The state without a herd: its flocks are freed and its threads are gone. -/
def State.withoutHerd (s : State) (ctx kid n : Nat) : State :=
  { s.freeHerd ctx kid n with threads := (s.freeHerd ctx kid n).threads.filter fun t => !(s.herdGids ctx kid n).contains t.gid }
/-- Whether something of a herd still runs: a thread, an engine operation or an access. -/
def State.herdBusy (s : State) (ctx kid n : Nat) : Prop :=
  (∃ t ∈ s.threads, (s.herdGids ctx kid n).contains t.gid = true ∧ t.st ≠ .exited) ∨
    (∃ o ∈ s.ops, o.ofHerd ctx kid n = true ∧ o.st ≠ .done) ∨ ∃ r ∈ s.reqs, (s.herdGids ctx kid n).contains r.gid = true

/-- Whether a herd may retire: it is in its pens or saved, and nothing of it runs, walks or is open. -/
structure State.MayRetire (s : State) (ctx kid n : Nat) (h : Herd) : Prop where
  st : h.st = .resident ∨ h.st = .saved
  closed : s.issue = none
  exited : ∀ t ∈ s.threads, (s.herdGids ctx kid n).contains t.gid = true → t.st = .exited
  done : ∀ o ∈ s.ops, o.ofHerd ctx kid n = true → o.st = .done
  answered : ∀ r ∈ s.reqs, (s.herdGids ctx kid n).contains r.gid = false
  halted : ∀ f ∈ s.herdFlocksOf ctx kid n, ∀ c ∈ f.chans, c.st ≠ .walking
  entered : h.cont = false ∨ s.herdGids ctx kid n ≠ []

theorem State.MayRetire.goes_on {s : State} {ctx kid n : Nat} {h : Herd} (hr : s.MayRetire ctx kid n h) (p : Bool) :
    ¬ ((h.st ≠ .resident && h.st ≠ .saved) || false || (s.threads.any fun t => (s.herdGids ctx kid n).contains t.gid && t.st ≠ .exited) ||
      (s.ops.any fun o => o.ofHerd ctx kid n && o.st ≠ .done) || (s.reqs.any fun r => (s.herdGids ctx kid n).contains r.gid) ||
      ((s.herdFlocksOf ctx kid n).any fun f => f.chans.any fun c => c.st = .walking) ||
      (h.cont && s.herdGids ctx kid n = [] && p)) = true := by
  have hst : (h.st ≠ .resident && h.st ≠ .saved) = false := by rcases hr.st with h | h <;> simp [h]
  have hthreads : (s.threads.any fun t => (s.herdGids ctx kid n).contains t.gid && t.st ≠ .exited) = false :=
    List.any_eq_false.mpr fun t ht => by simpa using hr.exited t ht
  have hops : (s.ops.any fun o => o.ofHerd ctx kid n && o.st ≠ .done) = false := List.any_eq_false.mpr fun o ho => by simpa using hr.done o ho
  have hreqs : (s.reqs.any fun r => (s.herdGids ctx kid n).contains r.gid) = false :=
    List.any_eq_false.mpr fun r hr' => by simpa using hr.answered r hr'
  have hwalk : ((s.herdFlocksOf ctx kid n).any fun f => f.chans.any fun c => c.st = .walking) = false :=
    List.any_eq_false.mpr fun f hf => by simpa [Vector.any_eq_false'] using hr.halted f hf
  have hempty : (h.cont && s.herdGids ctx kid n = [] && p) = false := by rcases hr.entered with h | h <;> simp [h]
  rw [hst, hthreads, hops, hreqs, hwalk, hempty]
  decide

section
variable {s : State} {ctx kid n : Nat} {h : Herd} (hh : s.herd? ctx kid n = some h)
include hh

theorem execQuantumExpiry_eq : execQuantumExpiry ctx kid n s = .next (if h.st = .resident ∧ s.quantumOver h = true then
    s.updHerd ctx kid n fun h => { h with expired := true } else s) := by
  simp only [execQuantumExpiry, hh, Bool.and_eq_true, decide_eq_true_eq]

theorem retire_of_busy (hb : s.herdBusy ctx kid n) : s.retire ctx kid n = s := by
  simp only [State.retire, hh]
  refine if_pos ?_
  simp only [Bool.or_eq_true, List.any_eq_true, Bool.and_eq_true, decide_eq_true_eq]
  rcases hb with ht | ho | hr
  · exact .inl (.inl (.inl (.inl (.inr ht))))
  · exact .inl (.inl (.inl (.inr ho)))
  · exact .inl (.inl (.inr hr))

variable (hr : s.MayRetire ctx kid n h)
include hr

theorem retire_of_no_kernel (hk : (s.withoutHerd ctx kid n).kernel? ctx kid = none) : s.retire ctx kid n = s.withoutHerd ctx kid n := by
  simp only [State.retire, hh, hr.closed]
  refine (if_neg (hr.goes_on _)).trans ?_
  split
  · next k hk' => exact absurd (hk'.symm.trans hk) nofun
  · rfl

/-- With its last herd a DRAINING kernel is DONE, unless continuations of it wait (R318). -/
theorem retire_of_kernel {k : Kernel} (hk : (s.withoutHerd ctx kid n).kernel? ctx kid = some k) : s.retire ctx kid n =
    if k.st = .draining ∧ (∀ x ∈ (s.withoutHerd ctx kid n).herds, x.ctx = ctx → x.kid = kid → x.st = .retired) ∧ k.ring = [] ∧ k.waiters = []
    then (s.withoutHerd ctx kid n).kernelOver ctx kid .done (some 1) else s.withoutHerd ctx kid n := by
  simp only [State.retire, hh, hr.closed]
  refine (if_neg (hr.goes_on _)).trans ?_
  split
  · next k' hk' =>
    obtain rfl : k' = k := Option.some.inj (hk'.symm.trans hk)
    refine ite_congr (propext ?_) (fun _ => rfl) fun _ => rfl
    simp only [Bool.and_eq_true, decide_eq_true_eq, Bool.not_eq_true', List.any_eq_false, not_and, Decidable.not_not, and_assoc, ne_eq]
    rfl
  · next hk' => exact absurd (hk.symm.trans hk') nofun
end

end Sys2Proof.Machine
end

section
/-! The placer and the issue events (R150, R330, R331, R335), and the statement on the events of work. -/
namespace Sys2Proof.Machine
open Host (Outcome)

/-! ## The placer of a pasture (R330) -/

section
variable {s : State} {n : Nat}

/-- The herds that wait for placement, as the placer of a pasture ranks them: those that fit there. -/
def State.fitting (s : State) (n : Nat) : Option Cand :=
  leastBy (rankIn (s.waiting fun k i => (s.fitIn k i false n).isSome))
    ((s.waiting fun k i => (s.fitIn k i false n).isSome).filter fun c => (s.fitIn c.k c.idx c.saved n).isSome)

theorem placeOne_of_none (h : s.fitting n = none) : s.placeOne n = s := by
  unfold State.fitting at h
  simp only [State.placeOne, h]
theorem placeOne_of_some {c : Cand} {block pens : List Nat} (h : s.fitting n = some c)
    (hfit : s.fitIn c.k c.idx c.saved n = some (block, pens)) :
    let u := { s with rot := s.rot.setIfInBounds n ((block.headD 0 / 8 % 64 + 1) % 64) }
    s.placeOne n = if c.saved = true then u.startLoad c.k c.idx block pens
      else (u.placeHerd c.k c.idx c.cont block pens).placed c.k.ctx c.k.kid := by
  unfold State.fitting at h
  simp only [State.placeOne, h, hfit]
end

/-! ## Pre-emption (R331) -/

section
variable {s : State} {n : Nat}

/-- Whether a herd is on its way out for a waiting one. -/
def State.leavesFor (s : State) (c : Cand) : Bool :=
  s.herds.any fun h => (h.st = .saving || h.due) && (match h.after with | some x => c.is x | none => false)
/-- Whether a waiting herd fits nowhere, none leaves for it, and some could. -/
def State.stuck (s : State) (n : Nat) (c : Cand) : Prop :=
  (∀ p < 4, s.fitIn c.k c.idx c.saved p = none) ∧ s.leavesFor c = false ∧ (s.victims c n).isSome = true
/-- The waiting herds for which the placer would pre-empt. -/
def State.stuckHerds (s : State) (n : Nat) : List Cand :=
  (((s.waiting fun _ _ => true).filter fun c => (List.range 4).all fun p => (s.fitIn c.k c.idx c.saved p).isNone).filter fun c =>
    !s.leavesFor c).filter fun c => (s.victims c n).isSome

theorem preemptOne_eq (s : State) (n : Nat) : s.preemptOne n =
    (leastBy (rankIn (s.waiting fun _ _ => true)) (s.stuckHerds n)).elim s fun c =>
      (s.victims c n).elim s fun l => l.foldl (fun s h => s.commitSwap h (some (c.k.ctx, c.k.kid, c.idx))) s := by
  simp only [State.preemptOne]
  split
  · next h => exact (congrArg (fun o : Option Cand => o.elim s _) h).symm
  · next c h =>
    refine Eq.trans ?_ (congrArg (fun o : Option Cand => o.elim s _) h).symm
    split
    · next hv => simp only [Option.elim_some, hv, Option.elim_none]
    · next l hv => simp only [Option.elim_some, hv]

theorem mem_stuckHerds {c : Cand} : c ∈ s.stuckHerds n ↔ c ∈ (s.waiting fun _ _ => true) ∧ s.stuck n c := by
  simp only [State.stuckHerds, State.stuck, List.mem_filter, List.all_eq_true, List.mem_range, Option.isNone_iff_eq_none, Bool.not_eq_true',
    and_assoc]

theorem preemptOne_of_none (h : ∀ c ∈ (s.waiting fun _ _ => true), ¬ s.stuck n c) : s.preemptOne n = s := by
  have hnone : s.stuckHerds n = [] := List.eq_nil_iff_forall_not_mem.mpr fun c hc => h c (mem_stuckHerds.mp hc).1 (mem_stuckHerds.mp hc).2
  rw [preemptOne_eq, hnone]
  rfl
theorem preemptOne_of_one {c : Cand} {l : List Herd} (hall : (s.waiting fun _ _ => true) = [c]) (h : s.stuck n c)
    (hv : s.victims c n = some l) : s.preemptOne n = l.foldl (fun s h => s.commitSwap h (some (c.k.ctx, c.k.kid, c.idx))) s := by
  have hone : s.stuckHerds n = [c] := by
    obtain ⟨hfit, hleave, hvict⟩ := h
    simpa [State.stuckHerds, hall, hleave, hvict] using hfit
  rw [preemptOne_eq, hone]
  simp only [leastBy, Option.elim_some, hv]
end

/-! ## The replay queue (R150) -/

section
variable {s : State} {core : Nat}

theorem execReplayEntryFreed_of_none (h : ∀ b ∈ s.waitingSubs core, s.freeEntry (s.group b.gid) = none) :
    execReplayEntryFreed core s = .next s := by
  have hnone : ((s.waitingSubs core).find? fun b => (s.freeEntry (s.group b.gid)).isSome) = none :=
    List.find?_eq_none.mpr fun b hb => by simp [h b hb]
  simp only [execReplayEntryFreed, hnone]

/-- The oldest waiting sub-group that finds an entry takes it, and is posted there if it was not. -/
theorem execReplayEntryFreed_of_some {b : SubGroup} {i : Nat}
    (h : (s.waitingSubs core).find? (fun b => (s.freeEntry (s.group b.gid)).isSome) = some b)
    (hb : (s.subs.find? fun x => x.id = b.id) = some b) (hi : s.freeEntry (s.group b.gid) = some i) :
    let b' := { b with idx := some i, taken := false, collecting := false }
    let u := { s with subs := s.subs.map fun x => if x.id = b.id then b' else x }
    execReplayEntryFreed core s = .next (if b.taken then u else u.postSub b') := by
  have hwaits : (s.group b.gid).shep = false ∧ s.onCore (s.group b.gid) = true := by
    have hmem := (List.mem_filter.mp (List.mem_of_find?_eq_some h)).2
    simp only [Bool.and_eq_true, Bool.not_eq_true'] at hmem
    exact ⟨hmem.2.1.2, hmem.2.2⟩
  simp only [execReplayEntryFreed, h, State.admitSub, hb, hwaits, Bool.false_eq_true, if_false, if_true, hi]
end

/-- A fetch set that can issue is promoted. -/
theorem execIssuePromotion_eq (s : State) (g : Nat) (lanes : Mask) :
    let go := fun (f : FSet) => if f.lanes = lanes ∧ s.eligible (s.group g) f = true then { f with promoted := true } else f
    execIssuePromotion g lanes s = .next (s.updGroup g fun x => { x with fsets := x.fsets.map go }) := by
  simp only [execIssuePromotion, Bool.and_eq_true, decide_eq_true_eq]

/-- Settles O46: each event is the state's operation on a queue, a kernel or a herd, whose cases stand above. -/
theorem workEvents : Obligations.WorkEvents := by
  intro s ctx kid n v
  refine ⟨?_, ?_, ?_, ?_, ?_, ?_, ?_, execIssuePromotion_eq s, fun _ => execReplayEntryFreed_of_none, fun _ _ _ => execReplayEntryFreed_of_some,
    rfl, rfl⟩
  · intro c hc ha hup hn z raw hraw d
    obtain rfl := State.ctx?_id hc
    refine ⟨fun hon off size => congrArg Outcome.next (windowWrite_of_off hc ha hup hn rfl hraw hon),
      congrArg Outcome.next (windowWrite_of_free hc ha hup hn rfl hraw), fun hon u hu => ⟨fun hv => ?_, fun off size hbad => ?_⟩, ?_⟩
    · exact congrArg Outcome.next (windowWrite_of_bad hc ha hup hn rfl hraw hon (by decide) (.inr hv) hu)
    · have hfree : ¬(size = 8 ∧ off = 8) := by omega
      have hplace : size ≠ 8 ∨ off ≠ 0 := by omega
      exact congrArg Outcome.next (windowWrite_of_bad hc ha hup hn rfl hraw hon hfree (.inl hplace) hu)
    · intro hon hv y r hr e w
      have hwrite := windowWrite_of_record hc ha hup hn rfl hraw hon hv
      exact ⟨fun he hfull u hu => congrArg Outcome.next (hwrite.trans (congrArg Prod.snd (append_of_full rfl hr rfl rfl he hfull hu))),
        fun he hroom u x hu hx => congrArg Outcome.next (hwrite.trans (congrArg Prod.snd (append_of_room rfl hr rfl rfl he hroom hu hx)))⟩
  · exact fun h => congrArg Outcome.next (intake_of_other_turn h)
  · intro c hturn hc z
    refine ⟨fun hraw => congrArg Outcome.next (intake_of_unreachable hturn hc rfl hraw), ?_⟩
    intro raw hraw d u y
    refine ⟨fun h => congrArg Outcome.next (intake_of_no_entry hturn hc rfl hraw rfl rfl h), ?_⟩
    intro bs w hon hsome hbs hw va x refuses
    refine ⟨fun hva => congrArg Outcome.next (intake_of_no_address hturn hc rfl hraw rfl rfl hon hsome rfl hbs hw hva),
      fun hva hrec => congrArg Outcome.next (intake_of_no_record hturn hc rfl hraw rfl rfl hon hsome rfl hbs hw hva hrec),
      fun rec hva hrec => ?_⟩
    have htaken := intake_of_record hturn hc rfl hraw rfl rfl hon hsome rfl hbs hw hva hrec
    exact ⟨fun h => congrArg Outcome.next (htaken.trans (if_pos h)), fun h => congrArg Outcome.next (htaken.trans (if_neg h))⟩
  · intro k hk due
    refine ⟨fun h => (execKernelDispatch_eq hk).trans (congrArg Outcome.next (if_pos h)),
      fun h => (execKernelDispatch_eq hk).trans (congrArg Outcome.next (if_neg h)), ?_⟩
    intro goes blocks
    refine ⟨fun h => congrArg Outcome.next (placeD0_of_ready hk h), fun h => congrArg Outcome.next (placeD0_of_not_ready hk h), ?_⟩
    intro late told data
    refine ⟨fun h => ⟨fun hd => (execD0Overrun_of_late hk h).trans (congrArg Outcome.next (if_pos hd)),
        fun hd => (execD0Overrun_of_late hk h).trans (congrArg Outcome.next (if_neg (by simp [hd])))⟩,
      execD0Overrun_of_not_late hk, ?_, execGathererFlushTimeout_of_no_record hk, ?_, ?_⟩
    · intro x hx waited
      exact ⟨fun h => (execGathererFlushTimeout_of_record hk hx).trans (congrArg Outcome.next (if_pos h)),
        fun h => (execGathererFlushTimeout_of_record hk hx).trans (congrArg Outcome.next (if_neg h))⟩
    · intro h hh spent
      exact ⟨fun hs => (execBudgetExceeded_eq hk hh).trans (congrArg Outcome.next (if_pos hs)),
        fun hs => (execBudgetExceeded_eq hk hh).trans (congrArg Outcome.next (if_neg hs))⟩
    · intro batch
      exact ⟨fun h => congrArg Outcome.next (gather_of_no_batch hk h),
        fun h hno hcont => congrArg Outcome.next (gather_of_no_flock hk h hno hcont),
        fun h _ _ hf hst hi => congrArg Outcome.next (gather_of_one_place hk h hf hst hi)⟩
  · intro h hh
    refine ⟨fun hst hq => (execQuantumExpiry_eq hh).trans (congrArg Outcome.next (if_pos ⟨hst, hq⟩)),
      fun hno => (execQuantumExpiry_eq hh).trans (congrArg Outcome.next (if_neg ?_)), ?_⟩
    · rintro ⟨hst, hq⟩
      exact hno.elim (absurd hst) fun hq' => by simp [hq] at hq'
    intro gids freed u
    refine ⟨fun hb => congrArg Outcome.next (retire_of_busy hh hb), fun hst hissue hex hdone hans hwalk hgids => ?_⟩
    have hr : s.MayRetire ctx kid n h := ⟨hst, hissue, hex, hdone, hans, hwalk, hgids⟩
    exact ⟨fun hk => congrArg Outcome.next (retire_of_no_kernel hh hr hk), fun k hk =>
      ⟨fun hl => congrArg Outcome.next ((retire_of_kernel hh hr hk).trans (if_pos hl)),
        fun hl => congrArg Outcome.next ((retire_of_kernel hh hr hk).trans (if_neg hl))⟩⟩
  · intro all best
    refine ⟨fun h => congrArg Outcome.next (placeOne_of_none h), fun c block pens hc hfit => ?_⟩
    exact ⟨fun hs => congrArg Outcome.next ((placeOne_of_some hc hfit).trans (if_pos hs)),
      fun hs => congrArg Outcome.next ((placeOne_of_some hc hfit).trans (if_neg (by simp [hs])))⟩
  · intro all leaving stuck
    exact ⟨fun h => congrArg Outcome.next (preemptOne_of_none h),
      fun c l hall h hv => congrArg Outcome.next (preemptOne_of_one hall h hv)⟩

end Sys2Proof.Machine
end

section
/-! The events of the links and of the ordered class (R366, R368, R372 to R375, R380 to R389): each event's next state, case by case, and
the statement on them. -/
namespace Sys2Proof.Machine
open Host (Outcome)

/-! ## Posting an event leaves the fabric and the pod time alone -/

@[simp] theorem State.queueEvent_fab (s : State) (e : EvRec) : (s.queueEvent e).fab = s.fab := by
  unfold State.queueEvent; split <;> rfl
@[simp] theorem State.queueEvent_ptime (s : State) (e : EvRec) : (s.queueEvent e).ptime = s.ptime := by
  unfold State.queueEvent; split <;> rfl
@[simp] theorem State.trigger_fab (s : State) (bit : Nat) : (s.trigger bit).fab = s.fab := by
  unfold State.trigger; split <;> simp
@[simp] theorem State.trigger_ptime (s : State) (bit : Nat) : (s.trigger bit).ptime = s.ptime := by
  unfold State.trigger; split <;> simp
@[simp] theorem State.post_fab (s : State) (kind inst ctx : Nat) (d : List W64) : (s.post kind inst ctx d).fab = s.fab := by
  unfold State.post
  dsimp only
  split
  · split <;> simp
  · simp
@[simp] theorem State.post_ptime (s : State) (kind inst ctx : Nat) (d : List W64) : (s.post kind inst ctx d).ptime = s.ptime := by
  unfold State.post
  dsimp only
  split
  · split <;> simp
  · simp

/-! ## The state of a port (R372, R373) -/

/-- Whether a port accepts flits (R372). -/
def Port.accepts (p : Port) : Prop := p.st = .up ∨ p.st = .stalled
/-- Whether a port takes what the far end sends again (R373). -/
def Port.linked (p : Port) : Prop := p.st = .up ∨ p.st = .stalled ∨ p.st = .retry

theorem Port.accepts.not_closed {p : Port} (h : p.accepts) : (p.st ≠ .up && p.st ≠ .stalled) = false := by
  rcases h with h | h <;> simp [h]
theorem Port.linked.not_closed {p : Port} (h : p.linked) : (p.st ≠ .up && p.st ≠ .stalled && p.st ≠ .retry) = false := by
  rcases h with h | h | h <;> simp [h]
theorem Port.accepts.linked {p : Port} (h : p.accepts) : p.linked := h.elim .inl fun h => .inr (.inl h)

theorem ordFull_of_room {s : State} (h : s.fab.reorder.length < reorderSize) : s.ordFull = false := decide_eq_false (Nat.not_le.mpr h)

section
variable {s : State} {n : Nat}

/-- Only a device's accesses to host memory end with the host link. -/
theorem execHostLinkDown_of_local (h : ∀ r ∈ s.reqs, r.pa < hostBase) :
    execHostLinkDown s = .next { s with plat := { s.plat with hostUp := false } } := by
  have hnone : (s.reqs.filter fun r => decide (hostBase ≤ r.pa) && r.dev.isNone && !r.ft && !r.outside) = [] :=
    List.filter_eq_nil_iff.mpr fun r hr => by simp [Nat.not_le.mpr (h r hr)]
  simp only [execHostLinkDown, hnone, List.foldl_nil]

/-- A port that goes DOWN discards its flits and packets and leaves the routes. -/
theorem portLost_discards (s : State) (n : Nat) (st : PortSt) (en : Bool) : (s.portLost n st en).fab.routePending = true ∧
    (∀ o ∈ (s.portLost n st en).fab.out, o.port ≠ n) ∧
    (n < 24 → ((s.portLost n st en).port n).unacked = [] ∧ ((s.portLost n st en).port n).routed = false) := by
  refine ⟨rfl, fun o ho => by simpa using (List.mem_filter.mp ho).2, fun hn => ?_⟩
  simp [State.portLost, State.updPort, State.port, Fabric.port, Fabric.setPort, hn]

theorem setEnable_of_down (h : (s.port n).st = .down) :
    s.setEnable n true = s.updPort n fun q => { q with st := .training, en := true, fails := 0 } :=
  congrArg (fun q => { s with fab := s.fab.setPort n q }) (if_pos h)

theorem flitError_of_accepts (h : (s.port n).accepts) : s.flitError n = s.updPort n fun q =>
    { q with st := .retry, asked := true, fromStall := decide (q.st = .stalled), fails := 0,
             retry := if q.retry = BitVec.allOnes 16 then q.retry else q.retry + 1 } := by
  refine if_pos ?_
  simpa [Port.accepts] using h

/-! ## Flits and beacons (R372, R380) -/

/-- A replay request has no place in the sequence: the port sends again what is not acknowledged. -/
theorem takeFlit_of_replay {x : Flit} (h : (s.port n).linked) (hx : x.body = .replay) :
    s.takeFlit n x = (s.replayFlits n x.ack).flush n := by
  have hopen : ((s.port n).st = .up || (s.port n).st = .stalled || (s.port n).st = .retry) = true := by
    simpa [Port.linked, or_assoc] using h
  simp only [State.takeFlit, if_pos hx, if_pos hopen]
/-- A flit out of sequence is an error. -/
theorem takeFlit_of_gap {x : Flit} (h : (s.port n).accepts) (hx : x.body ≠ .replay) (hseq : x.seq ≠ (s.port n).inSeq)
    (hroom : s.fab.reorder.length < reorderSize) : s.takeFlit n x = s.flitError n := by
  simp only [State.takeFlit, if_neg hx, h.not_closed, ordFull_of_room hroom, Bool.false_and, Bool.or_self, Bool.false_eq_true, if_false,
    if_pos hseq]

/-- What a port is after a flit in sequence: the place is taken, and what the flit acknowledges needs no replay. -/
def Port.takes (p : Port) (ack : BitVec 10) : Port :=
  { p with inSeq := p.inSeq + 1, recv := p.recv + 1, unacked := ackFlits ack p.unacked }
/-- The state in which a port has accepted a flit and sent on what the acknowledgement lets go. -/
def State.acceptFlit (s : State) (n : Nat) (ack : BitVec 10) : State := (s.updPort n fun p => p.takes ack).flush n

section
variable {x : Flit} (h : (s.port n).accepts) (hseq : x.seq = (s.port n).inSeq)
include h hseq

theorem takeFlit_of_other {c : LinkClass} {dst : BitVec 12} {bs : List Byte} (hx : x.body = .other c dst bs) :
    s.takeFlit n x = (s.acceptFlit n x.ack).forward c dst bs := by
  simp only [State.takeFlit, hx, h.not_closed, hseq, Bool.and_false, Bool.or_self, Bool.false_eq_true, reduceCtorEq, ne_eq, not_true_eq_false,
    if_false]
  rfl
theorem takeFlit_of_beacon {w : List W64} {held : Bool} (hx : x.body = .beacon w held) :
    s.takeFlit n x = (s.acceptFlit n x.ack).takeBeacon n w held := by
  simp only [State.takeFlit, hx, h.not_closed, hseq, Bool.and_false, Bool.or_self, Bool.false_eq_true, reduceCtorEq, ne_eq, not_true_eq_false,
    if_false]
  rfl
theorem takeFlit_of_ord {q : OrdPkt} (hx : x.body = .ord q) (hroom : s.fab.reorder.length < reorderSize) :
    s.takeFlit n x = (s.acceptFlit n x.ack).takeOrd n q := by
  simp only [State.takeFlit, hx, h.not_closed, hseq, ordFull_of_room hroom, Bool.false_and, Bool.or_self, Bool.false_eq_true, reduceCtorEq,
    ne_eq, not_true_eq_false, if_false]
  rfl
/-- The far end holds a class back (R371). -/
theorem takeFlit_of_pause {c : LinkClass} (hx : x.body = .pause c true) : s.takeFlit n x =
    ((s.acceptFlit n x.ack).updPort n fun p => { p with paused := c :: p.paused.filter fun y => y ≠ c }).flush n := by
  simp only [State.takeFlit, hx, h.not_closed, hseq, Bool.and_false, Bool.or_self, Bool.false_eq_true, reduceCtorEq, ne_eq, not_true_eq_false,
    if_false, if_true]
  rfl
/-- The far end lets a class go on (R371). -/
theorem takeFlit_of_unpause {c : LinkClass} (hx : x.body = .pause c false) : s.takeFlit n x =
    ((s.acceptFlit n x.ack).updPort n fun p => { p with paused := p.paused.filter fun y => y ≠ c }).flush n := by
  simp only [State.takeFlit, hx, h.not_closed, hseq, Bool.and_false, Bool.or_self, Bool.false_eq_true, reduceCtorEq, ne_eq, not_true_eq_false,
    if_false]
  rfl
end

theorem takeBeacon_of_fallen {w : List W64} {held : Bool} (h : (s.port n).accepts) (hb : (s.port n).beacon = true)
    (hw : fallen (s.port n).w w = true) : s.takeBeacon n w held = s.flitError n := by
  simp only [State.takeBeacon, h.not_closed, hb, hw, Bool.and_self, Bool.false_eq_true, if_false, if_true]

/-- The port after a beacon: its watermarks, the held flag, and since when they have not advanced (R380, R382). -/
def State.afterBeacon (s : State) (n : Nat) (w : List W64) (held : Bool) : Port :=
  let p := s.port n
  let q := { p with w := (w ++ List.replicate 7 0).take 7, beacon := true, held := held }
  { q with since := if !p.beacon || held || p.wm < q.wm || p.st ≠ .up || s.ordFull then s.ptime else p.since }

theorem takeBeacon_of_risen {w : List W64} {held : Bool} (h : (s.port n).accepts)
    (hw : (s.port n).beacon = false ∨ fallen (s.port n).w w = false) :
    s.takeBeacon n w held = s.updPort n fun _ => s.afterBeacon n w held := by
  have hgood : ((s.port n).beacon && fallen (s.port n).w w) = false := by simpa only [Bool.and_eq_false_iff] using hw
  simp only [State.takeBeacon, h.not_closed, hgood, Bool.false_eq_true, if_false]
  rfl
/-- A second beacon of an UP port counts as time without advance where its least watermark has not risen. -/
theorem afterBeacon_since {w : List W64} (hb : (s.port n).beacon = true) (hup : (s.port n).st = .up)
    (hroom : s.fab.reorder.length < reorderSize) : (s.afterBeacon n w false).since =
      if (s.port n).wm < (s.afterBeacon n w false).wm then s.ptime else (s.port n).since := by
  simp only [State.afterBeacon, hb, hup, ordFull_of_room hroom, Bool.not_true, Bool.false_or, Bool.or_false, ne_eq, not_true_eq_false,
    decide_false, decide_eq_true_eq]
  rfl

/-- An UP port sends a beacon with the marks that it announces. -/
theorem sendBeacon_of_up (hup : (s.port n).st = .up) (hroom : (s.port n).unacked.length < 512) :
    s.sendBeacon n = (s.updPort n fun p =>
      { p.send (.beacon (s.outMarks n) (s.heldDown n)) with wOut := s.outMarks n, greeted := p.routed }).flush n := by
  have hgo : ((s.port n).st ≠ .up || decide (512 ≤ (s.port n).unacked.length)) = false := by simpa [hup] using hroom
  simp only [State.sendBeacon, hgo, Bool.false_eq_true, if_false]

theorem execReplayAccepted_of_retry (h : (s.port n).st = .retry) : execReplayAccepted n s = .next ((s.updPort n fun q =>
    { q with st := if q.fromStall then .stalled else .up, fails := 0, asked := false, fromStall := false, since := s.ptime }).flush n) :=
  congrArg (fun q => Outcome.next (State.flush { s with fab := s.fab.setPort n q } n)) (if_pos h)
end

/-! ## Ordered packets (R381, R387) -/

section
variable {s : State}

theorem takeOrd_of_linked {n : Nat} {q : OrdPkt} (h : (s.port n).linked) (hroom : s.fab.reorder.length < reorderSize) :
    s.takeOrd n q = s.arrived ((n / 4) ^^^ 1) q := by
  simp only [State.takeOrd, h.not_closed, ordFull_of_room hroom, Bool.or_self, Bool.false_eq_true, if_false]

theorem releaseOrd_of_none (h : ∀ q ∈ s.fab.reorder, s.watermark ≤ q.t ∨ s.roomFor q = false) : s.releaseOrd = s := by
  have hnone : (s.fab.reorder.find? fun q => decide (q.t < s.watermark) && s.roomFor q) = none :=
    List.find?_eq_none.mpr fun q hq => by
      simpa only [Bool.and_eq_true, decide_eq_true_eq, not_and_or, BitVec.not_lt, Bool.not_eq_true] using h q hq
  simp only [State.releaseOrd, hnone]

/-- The state in which a packet has left the reorder buffer and stands as the last released of its source. -/
def State.releasing (s : State) (q : OrdPkt) : State :=
  { s with fab := { s.fab with
    reorder := s.fab.reorder.erase q
    released := (q.src.toNat, s.fab.lastReleased q) :: s.fab.released.filter fun x => x.1 ≠ q.src.toNat } }

section
variable {q : OrdPkt} (hroom : s.fab.reorder.length < reorderSize)
  (hq : (s.fab.reorder.find? fun q => decide (q.t < s.watermark) && s.roomFor q) = some q)
include hroom hq

/-- A packet for a queue that is not there is counted as discarded. -/
theorem releaseOrd_of_no_queue (hqueue : (s.releasing q).queueFor q = none) : s.releaseOrd = (s.releasing q).countDrop 0 := by
  unfold State.releasing at *
  simp only [State.releaseOrd, hq, ordFull_of_room hroom, Bool.false_eq_true, if_false, hqueue]

variable {e : OqEnt} (hqueue : (s.releasing q).queueFor q = some e)
include hqueue

theorem releaseOrd_of_no_page
    (hput : (s.releasing q).vaWrite e.ctx (e.base + 64 * (e.tail.toNat % e.size)) (recordBytes q) = none) :
    s.releaseOrd = (s.releasing q).countDrop e.ctx := by
  unfold State.releasing at *
  simp only [State.releaseOrd, hq, ordFull_of_room hroom, Bool.false_eq_true, if_false, hqueue, hput]
/-- A packet's record goes to the tail of its queue, and those who wait there are served. -/
theorem releaseOrd_of_page {w : State}
    (hput : (s.releasing q).vaWrite e.ctx (e.base + 64 * (e.tail.toNat % e.size)) (recordBytes q) = some w) :
    s.releaseOrd = State.serveOrecv e.ctx e.q (e.waiters.length + 1) (w.updOq e.ctx e.q fun e => { e with tail := e.tail + 1 }) := by
  unfold State.releasing at *
  simp only [State.releaseOrd, hq, ordFull_of_room hroom, Bool.false_eq_true, if_false, hqueue, hput]
end

/-- The acknowledgement of a source of which no packet is held: everything up to the last released. -/
theorem ackSeq_of_released {n : Nat} {q : BitVec 20} (hq : s.fab.released.lookup n = some q)
    (hno : ∀ x ∈ s.fab.reorder, x.src.toNat ≠ n) : s.fab.ackSeq n = some q := by
  have hnone : (s.fab.reorder.filter fun p => p.src.toNat = n && decide ((q - p.seq).toNat < 2 ^ 19)) = [] :=
    List.filter_eq_nil_iff.mpr fun x hx => by simp [hno x hx]
  simp only [Fabric.ackSeq, hq, Option.map_some, hnone, List.foldl_nil]
theorem execOrdAckSend_of_released {n : Nat} {q : BitVec 20} (hq : s.fab.released.lookup n = some q)
    (hno : ∀ x ∈ s.fab.reorder, x.src.toNat ≠ n) : execOrdAckSend n s = .next (if n = s.fab.dev then s.takeAck n q else s) := by
  simp only [execOrdAckSend, ackSeq_of_released hq hno]
  split
  · next hdev => rw [hdev]
  · rfl
theorem execOrdAckSend_of_none {n : Nat} (h : s.fab.released.lookup n = none) : execOrdAckSend n s = .next s := by
  simp only [execOrdAckSend, Fabric.ackSeq, h, Option.map_none]
end

/-! ## Stalls and routes (R382, R383, R385) -/

section
variable {s : State} {n : Nat}

/-- A port that has not advanced for eight beacon intervals is declared stalled. -/
theorem declareStall_of_due (hup : (s.port n).st = .up) (hrouted : (s.port n).routed = true) (hheld : (s.port n).held = false)
    (hpast : (s.port n).since ≤ s.ptime) (hdue : 512 * 256 ≤ (s.ptime - (s.port n).since).toNat)
    (hroom : s.fab.reorder.length < reorderSize) :
    let f := minTime (s.port n).announced
    let u := s.updPort n fun p => { p with st := .stalled, frozen := some f, routed := false }
    s.declareStall n = State.beginRecovery { u with fab := { u.fab with markers := [], told := u.fab.told ++ [(u.fab.dev, n)] } } n f
      (u.fab.neighbour u.fab.dev (n / 4)) := by
  have hgo : ¬ (((s.port n).st ≠ .up || !(s.port n).routed || (s.port n).held || (s.ptime - (s.port n).since).toNat < 512 * 256 ||
      s.ptime < (s.port n).since || s.ordFull) = true) := by
    simpa [hup, hrouted, hheld, ordFull_of_room hroom] using ⟨hdue, hpast⟩
  simp only [State.declareStall, if_neg hgo]

/-- The state in which a notice of a stalled or lost link leaves it out of the routes: what crossed it waits for new ones. -/
def State.cutLink (s : State) (d n : Nat) : State :=
  { s with fab := { s.fab with
    told := s.fab.told ++ [(d, n)], routePending := true
    retained := s.fab.retained.map fun r => if s.fab.mustResend r d n then { r with port := 24 } else r } }

theorem execStallNotice_of_other {d : Nat} {x : LinkNotice} (h : d ≠ s.fab.dev) : execStallNotice d x s = .next (s.takeNotice d x) :=
  congrArg Outcome.next (if_neg h)
theorem takeNotice_of_stalled (d : Nat) : s.takeNotice d ⟨n, .stalled⟩ = (s.cutLink d n).beginRecovery n 0 d := rfl
theorem takeNotice_of_lost (d : Nat) : s.takeNotice d ⟨n, .lost⟩ = s.cutLink d n := rfl

/-- The fabric after an end marker of a device. -/
def Fabric.marked (f : Fabric) (n : Nat) : Fabric := { f with markers := if n ∈ f.markers then f.markers else f.markers ++ [n] }

/-- The fabric once an end marker has come: with the last one the frozen values are withdrawn. -/
def Fabric.unfrozen (f : Fabric) : Fabric :=
  if f.allMarkers then { f with ports := f.ports.map fun (p : Port) => { p with frozen := none }, markers := [] } else f

theorem takeMarker_eq (s : State) (n : Nat) : s.takeMarker n = State.endRecovery { s with fab := (s.fab.marked n).unfrozen } := by
  simp only [State.takeMarker, List.contains_iff_mem]
  rfl
theorem takeMarker_of_some_missing (h : (s.fab.marked n).allMarkers = false) (hsent : s.fab.markersSent = false) :
    s.takeMarker n = { s with fab := s.fab.marked n } := by
  have hkeep : (s.fab.marked n).unfrozen = s.fab.marked n := if_neg (by simp [h])
  have hunsent : (s.fab.marked n).markersSent = false := hsent
  rw [takeMarker_eq, hkeep]
  exact if_neg (by simp [hunsent])
theorem takeMarker_of_all (h : (s.fab.marked n).allMarkers = true) : s.takeMarker n = State.endRecovery { s with fab :=
    { s.fab.marked n with ports := (s.fab.marked n).ports.map fun (p : Port) => { p with frozen := none }, markers := [] } } :=
  (takeMarker_eq s n).trans (congrArg (fun f => State.endRecovery { s with fab := f }) (if_pos h))

theorem installRoutes_of_none (h : s.fab.routePending = false) : s.installRoutes = s := by
  simp only [State.installRoutes, h, Bool.not_false, if_true]

/-- The fabric for which routes are computed: the links that are lost, and the pod as configured by then (R385). -/
def Fabric.replanned (f : Fabric) : Fabric :=
  { f with lost := f.relost, told := [], sx := f.cfg.sx, sy := f.cfg.sy, sz := f.cfg.sz, dev := f.cfg.dev }
/-- What a port is once routes are installed: it joins, or it stays out. -/
def Fabric.rejoined (f : Fabric) (now : W64) (i : Nat) (q : Port) : Port :=
  let on := decide (q.st = .up ∨ q.st = .retry) && decide (1 < f.size (i / 4 / 2)) && f.linkOpen f.dev i
  if on && !q.routed then { q with routed := true, beacon := false, greeted := false, since := now } else { q with routed := on }

/-- With nothing to send again the routes are installed, and each port joins them or stays out. -/
theorem installRoutes_of_idle (h : s.fab.routePending = true) (hrec : s.fab.recovering = none) (hret : s.fab.retained = [])
    (hfwd : ∀ o ∈ s.fab.fwd, o.port ≠ 24) : s.installRoutes = { s with fab := { s.fab.replanned with
      routePending := false, ports := Vector.ofFn fun i => s.fab.replanned.rejoined s.ptime i.val s.fab.ports[i] } } := by
  have hlone : (s.fab.fwd.filter fun o => o.port = 24) = [] := List.filter_eq_nil_iff.mpr fun o ho => by simpa using hfwd o ho
  have hkept : (s.fab.fwd.filter fun o => o.port ≠ 24) = s.fab.fwd := List.filter_eq_self.mpr fun o ho => by simpa using hfwd o ho
  simp only [State.installRoutes, h, Bool.not_true, Bool.false_eq_true, if_false, hlone, List.foldl_nil, hkept, hrec, hret,
    Fabric.replanned, Fabric.rejoined, Bool.decide_or]
end

/-! ## The pod time (R374, R375) -/

section
variable {s : State} {n : Nat}

/-- The pod time after a measurement: a device that was not locked takes a later time of its master. -/
def State.steered (s : State) (m : Master) : W64 :=
  if s.fab.locked = true ∨ s.fab.mesh = false then s.ptime else if m.dev ≠ s.fab.dev ∧ s.ptime < m.time then m.time else s.ptime

/-- A measurement sets the port's delay, the error and the lock, and steers the pod time; a large error is told. -/
theorem ptimeDelayMeasure_of_accepts (d : W32) (m : Master) (e : W64) (h : (s.port n).accepts) :
    let u := s.updPort n fun p => { p with delay := d }
    let w := { u with ptime := s.steered m, fab := { u.fab with locked := s.fab.locked || s.fab.mesh, err := e } }
    execPtimeDelayMeasure n d m e s = .next (if 5120 < e.toNat then w.post 14 0xFFFF 0 [e] else w) := by
  unfold execPtimeDelayMeasure
  dsimp only
  rw [if_neg (by simp only [h.not_closed, Bool.false_eq_true, not_false_eq_true])]
  cases hl : s.fab.locked <;> cases hm : s.fab.mesh <;>
    simp [State.steered, State.updPort, Fabric.setPort, hl, hm]

theorem execPtimeHorizon_of_due (hno : s.fab.horizon = false) (hdue : 2 ^ 64 - 2 ^ 56 ≤ s.ptime.toNat) :
    execPtimeHorizon s = .next ({ s with fab := { s.fab with horizon := true } }.post 18 0xFFFF 0 [s.ptime]) := by
  refine if_neg ?_
  simpa only [hno, Bool.false_or, decide_eq_true_eq, Nat.not_lt] using hdue
theorem execPrecisionTimeMeasurement_of_no_mesh (v : W64) (h : s.fab.mesh = false) : execPrecisionTimeMeasurement v s =
    .next { s with fab := { s.fab with err := if s.ptime < v then v - s.ptime else s.ptime - v } } := by
  simp only [execPrecisionTimeMeasurement, h, Bool.false_and, Bool.false_eq_true, if_false]
end

/-- Settles O45: each event is one of the operations above, in the case that its condition names. -/
theorem fabricEvents : Obligations.FabricEvents := by
  intro s n p setP counts
  refine ⟨rfl, execHostLinkDown_of_local, fun h => congrArg Outcome.next (setEnable_of_down h), ?disable, ?train, ?flits, ?replay, ?retried,
    fun hup hroom => congrArg Outcome.next (sendBeacon_of_up hup hroom),
    fun x h hroom => congrArg Outcome.next (takeOrd_of_linked h hroom), fun h => congrArg Outcome.next (releaseOrd_of_none h), ?release,
    fun hup hrouted hheld hpast hdue hroom => congrArg Outcome.next (declareStall_of_due hup hrouted hheld hpast hdue hroom),
    fun d => congrArg Outcome.next (if_pos rfl), ?notice, ?marker, rfl, fun h => congrArg Outcome.next (installRoutes_of_none h),
    fun h hrec hret hfwd => congrArg Outcome.next (installRoutes_of_idle h hrec hret hfwd), ?ack, execOrdAckSend_of_none, rfl, ?delay,
    execPtimeHorizon_of_due, execPrecisionTimeMeasurement_of_no_mesh⟩
  case disable =>
    obtain ⟨hpending, hout, hport⟩ := portLost_discards s n .down false
    refine ⟨s.setEnable n false, rfl, hpending, hout, fun hn => ?_⟩
    obtain ⟨hen, hst⟩ := setEnable_port_off (s := s) hn
    obtain ⟨hunacked, hrouted⟩ := hport hn
    exact ⟨hst, hen, hunacked, hrouted⟩
  case train =>
    intro h
    have htraining : ¬ (s.port n).st ≠ .training := fun hne => hne h
    refine ⟨if_pos h, fun hfew => (if_neg htraining).trans (if_pos hfew), fun hmany => ?_⟩
    exact (if_neg htraining).trans (if_neg (Nat.not_lt.mpr hmany))
  case flits =>
    intro h
    refine ⟨congrArg Outcome.next (flitError_of_accepts h),
      fun x hx hseq hroom => congrArg Outcome.next (takeFlit_of_gap h hx hseq hroom), ?_, ?_, ?_⟩
    · intro x _ hseq taken
      exact ⟨fun c dst bs hx => congrArg Outcome.next (takeFlit_of_other h hseq hx),
        fun w held hx => congrArg Outcome.next (takeFlit_of_beacon h hseq hx),
        fun q hx hroom => congrArg Outcome.next (takeFlit_of_ord h hseq hx hroom),
        fun c hx => congrArg Outcome.next (takeFlit_of_pause h hseq hx),
        fun c hx => congrArg Outcome.next (takeFlit_of_unpause h hseq hx)⟩
    · exact fun w held hb hw => congrArg Outcome.next (takeBeacon_of_fallen h hb hw)
    · intro w held hw hn
      refine ⟨_, congrArg Outcome.next (takeBeacon_of_risen h hw), ?_⟩
      rw [updPort_port _ hn]
      refine ⟨rfl, rfl, rfl, fun hb hheld hup hroom => ?_⟩
      subst hheld
      exact afterBeacon_since hb hup hroom
  case replay => exact fun h x hx => congrArg Outcome.next (takeFlit_of_replay h hx)
  case retried =>
    intro h
    have hretry : ¬ (s.port n).st ≠ .retry := fun hne => hne h
    refine ⟨execReplayAccepted_of_retry h, fun hfew => (if_neg hretry).trans (if_pos hfew), fun hmany => ?_⟩
    exact (if_neg hretry).trans (if_neg (Nat.not_lt.mpr hmany))
  case release =>
    intro q hroom hq u
    refine ⟨fun hqueue => congrArg Outcome.next (releaseOrd_of_no_queue hroom hq hqueue), ?_⟩
    intro e hqueue put
    exact ⟨fun hput => congrArg Outcome.next (releaseOrd_of_no_page hroom hq hqueue hput),
      fun w hput => congrArg Outcome.next (releaseOrd_of_page hroom hq hqueue hput)⟩
  case notice =>
    intro d hd u off
    refine ⟨(execStallNotice_of_other hd).trans rfl, (execStallNotice_of_other hd).trans rfl, (execStallNotice_of_other hd).trans ?_⟩
    simp only [State.takeNotice]
    rfl
  case marker =>
    exact ⟨fun h hsent => congrArg Outcome.next (takeMarker_of_some_missing h hsent), fun h => congrArg Outcome.next (takeMarker_of_all h)⟩
  case ack =>
    intro q acked
    exact ⟨rfl, fun hq hno => execOrdAckSend_of_released hq hno⟩
  case delay =>
    intro d m e h hn
    refine ⟨_, ptimeDelayMeasure_of_accepts d m e h, ?_⟩
    split <;> simp [State.port, Fabric.port, State.updPort, Fabric.setPort, State.steered, hn]

end Sys2Proof.Machine
end
